-- ==== Sys2Proof/Word.lean ====
section
/-! DEFINITION. The word types of the module and nothing more (00_scope.md R5, R8): a parcel is 16 bits,
a doubleword 64 bits, a byte 8 bits; all multi-byte values are little-endian. -/
namespace Sys2Proof

/-- One byte of memory. -/
abbrev Byte := BitVec 8

/-- One parcel of code (R60). -/
abbrev Parcel := BitVec 16

/-- One doubleword: a general register, a pointer, a line doubleword (R8, R14). -/
abbrev Word := BitVec 64

end Sys2Proof
end

