-- ==== Sys2Proof/Syntax.lean ====
section
/-! DEFINITION. Syntax: ONE inductive, one constructor per row of spec/opcode_table.json. The first 194 rows are the
encoded instructions of pages 0 to 6 (03_encoding.md); the other 108 are the engine commands, device steps and
outside events of the table, whose arguments name the piece of state they act on or carry the outside party's values. -/
namespace Sys2Proof

/-- A GUARD prefix (R65, R68): predicate index and sense. -/
structure Guard where
  idx : BitVec 5
  sense : BitVec 1
  deriving DecidableEq, Repr

/-- An ORDER prefix (R65, R69): scope code, order code and the three hints. -/
structure Order where
  scope : BitVec 3
  ord : BitVec 2
  stream : BitVec 1
  noAlloc : BitVec 1
  llcOnly : BitVec 1
  deriving DecidableEq, Repr

/-- The prefixes of an instruction but for PAGE, which the base form fixes (R66). `imms` are the IMM payloads, the
first one first; a page-3 instruction's two IMM carry its handle word and stand in its own fields (R77). -/
structure Pre where
  guard : Option Guard := none
  order : Option Order := none
  imms : List (BitVec 10) := []
  deriving DecidableEq, Repr

/-- The chain with no prefix at all. -/
def Pre.plain : Pre := Pre.mk none none []

/-- A word of a device memory. -/
inductive WordPlace where
  | scratch (core pos : Nat)
  | cluster (cl pos : Nat)
  | module (hpa : Nat)
  deriving DecidableEq, Repr

/-- What the receiver finds at a hand-off from one check domain to the next (R392, R393): a flit whose CRC fails on a link or the
mesh, an error of a partition's domain that its check corrects, or one that it cannot correct in the data of a word. -/
inductive HandOff where
  | flit (where_ : Nat)
  | corrected (node domain : Nat)
  | uncorrectable (node domain : Nat) (word : WordPlace)
  deriving DecidableEq, Repr

/-- What a patrol scrub finds in a word (R401). -/
inductive ScrubVerdict where
  | clean
  | corrected
  | uncorrectable
  deriving DecidableEq, Repr

/-- Where a patrol scrub reads (R401): a line of the LLC, or HBM, at a host-physical address. -/
inductive ScrubPlace where
  | llc (hpa : Nat)
  | hbm (hpa : Nat)
  deriving DecidableEq, Repr

/-- A sensor reading (R424): die junction in °C, module power in W, coolant flow in tenths of a litre per minute, and
for how many milliseconds it has held. -/
structure Reading where
  temp : Nat
  power : Nat
  flow : Nat
  heldMs : Nat
  deriving DecidableEq, Repr

/-- What a bring-up comes to (R418, R419, R421 to R423): the step from 2 on that fails, if one does; the Quern chips that fail
to train; the tick of the devices linked over the Neord ports and their numbers; the number that Sorrel assigns; the widths
and the rates in GT/s that the other end of each CXL port accepts, and whether each Neord port trains at the full rate. -/
structure BringUp where
  fails : Option Nat := none
  quern : List Nat := []
  joins : Option Nat := none
  linked : List Nat := []
  device : Nat := 0
  cxl : List (List Nat × List Nat) := List.replicate 4 ([16], [64])
  neord : List Bool := List.replicate 8 true
  deriving DecidableEq, Repr

/-- Who reaches the module from outside the Neord dies (R404, R409, R417, R420): a host through a CXL port; a hub core, in HS-mode
or in the hub die's secure mode; a linked device through a Neord port, with traffic of a secure VF or not; a peer through
its session on the management port; the provisioning of the module. -/
inductive Origin where
  | host (port : Nat)
  | hub (secure : Bool)
  | linked (port : Nat) (secure : Bool)
  | session (cert : Nat)
  | provisioning
  deriving DecidableEq, Repr

/-- A register that outside software writes and that has no row of its own in the table (REGISTER_WRITE, R6). -/
inductive CtlReg where
  /-- The VF driver's window (R195, R341, R369). -/
  | sstbase (vf : Nat)
  | sstlen (vf : Nat)
  | upcbase (vf : Nat)
  | s1root (vf : Nat)
  | s1en (vf : Nat)
  /-- A work queue's entry array (R325). -/
  | qbase (vf q : Nat)
  | lsize (vf q : Nat)
  /-- The VF's overflow status, W1C (R384). -/
  | ovf (vf : Nat)
  /-- The hypervisor's control space (R341, R334, R369, R380). -/
  | s2root (vf : Nat)
  | schedule (vf : Nat)
  | vfDw0 (vf : Nat)
  | vfDw1 (vf : Nat)
  | ibud (die vf : Nat)
  /-- The Sorrel mailbox (R409); `arg k` for k below 5. -/
  | mboxCmd
  | mboxGo
  | mboxSt
  | mboxArg (k : Nat)
  /-- The operator trust anchor in Sorrel's one-time-programmable store, an Ed25519 public key, which the row's value does not
  hold (R420). -/
  | anchor (key : BitVec 256)
  /-- A register whose fields are all RO or HW (coreinfo, gen, qhead, the worlds, …): a write is ignored. -/
  | readOnly
  deriving DecidableEq, Repr

/-- A register, and who writes it. -/
structure RegAccess where
  by_ : Origin
  reg : CtlReg
  deriving DecidableEq, Repr

/-- A write of the power cap (R425): who makes it, and the value. -/
structure CapWrite where
  by_ : Origin
  value : Word
  deriving DecidableEq, Repr

/-- Why a fetched chain is no instruction (R61, R71): a parcel that could not be fetched, with the cause code and the
parcels decoded before it, or a chain that breaks the rules at its last parcel. -/
inductive DecodeFail where
  | fetch (cause : BitVec 16) (tval : Word) (parcels : List Parcel)
  | chain (parcels : List Parcel)
  deriving DecidableEq, Repr

/-- The operations of the part: one constructor per row of the opcode table. -/
inductive Instr where
  /-- ADD (R88): Writes the 64-bit wrapping sum of gA and gB into gD. -/
  | add (p : Pre) (d a b : BitVec 3)
  /-- SUB (R88): Writes gA minus gB, modulo 2^64, into gD. -/
  | sub (p : Pre) (d a b : BitVec 3)
  /-- AND (R88): Writes the bitwise AND of gA and gB into gD. -/
  | and (p : Pre) (d a b : BitVec 3)
  /-- OR (R88): Writes the bitwise OR of gA and gB into gD. -/
  | or (p : Pre) (d a b : BitVec 3)
  /-- XOR (R88): Writes the bitwise XOR of gA and gB into gD. -/
  | xor (p : Pre) (d a b : BitVec 3)
  /-- SHL (R88): Shifts gA left by gB mod 64 and writes the result into gD. -/
  | shl (p : Pre) (d a b : BitVec 3)
  /-- SHR (R88): Shifts gA right, unsigned, by gB mod 64 and writes the result into gD. -/
  | shr (p : Pre) (d a b : BitVec 3)
  /-- SAR (R88): Shifts gA right, arithmetic, by gB mod 64 and writes the result into gD. -/
  | sar (p : Pre) (d a b : BitVec 3)
  /-- MUL (R88): Writes the low 64 bits of gA times gB into gD. -/
  | mul (p : Pre) (d a b : BitVec 3)
  /-- MULH (R88): Writes the high 64 bits of the signed product of gA and gB into gD. -/
  | mulh (p : Pre) (d a b : BitVec 3)
  /-- MULHN (R88): Writes the high 64 bits of the unsigned product of gA and gB into gD. -/
  | mulhn (p : Pre) (d a b : BitVec 3)
  /-- MIN (R88): Writes the signed minimum of gA and gB into gD. -/
  | min (p : Pre) (d a b : BitVec 3)
  /-- MAX (R88): Writes the signed maximum of gA and gB into gD. -/
  | max (p : Pre) (d a b : BitVec 3)
  /-- MINN (R88): Writes the unsigned minimum of gA and gB into gD. -/
  | minn (p : Pre) (d a b : BitVec 3)
  /-- MAXN (R88): Writes the unsigned maximum of gA and gB into gD. -/
  | maxn (p : Pre) (d a b : BitVec 3)
  /-- ANDN (R88): Writes gA AND NOT gB into gD. -/
  | andn (p : Pre) (d a b : BitVec 3)
  /-- ADDI (R89): Adds a sign-extended immediate to gA and writes the result into gD. -/
  | addi (p : Pre) (d a : BitVec 3) (imm : BitVec 6)
  /-- MOVI (R89): Writes a sign-extended immediate into gD. -/
  | movi (p : Pre) (d : BitVec 3) (imm : BitVec 9)
  /-- ANDI (R89): ANDs gA with a sign-extended immediate and writes the result into gD. -/
  | andi (p : Pre) (d a : BitVec 3) (imm : BitVec 6)
  /-- SHLI (R90): Shifts gA left by an immediate amount and writes the result into gD. -/
  | shli (p : Pre) (d a : BitVec 3) (sh : BitVec 4)
  /-- SHRI (R90): Shifts gA right, unsigned, by an immediate amount and writes the result into gD. -/
  | shri (p : Pre) (d a : BitVec 3) (sh : BitVec 4)
  /-- SARI (R90): Shifts gA right, arithmetic, by an immediate amount and writes the result into gD. -/
  | sari (p : Pre) (d a : BitVec 3) (sh : BitVec 4)
  /-- RORI (R90): Rotates gA right by an immediate amount and writes the result into gD. -/
  | rori (p : Pre) (d a : BitVec 3) (sh : BitVec 4)
  /-- CMP_EQ (R91): Sets predicate pD (p0–p7) to whether gA equals gB. -/
  | cmpEq (p : Pre) (d a b : BitVec 3)
  /-- CMP_NE (R91): Sets predicate pD (p0–p7) to whether gA differs from gB. -/
  | cmpNe (p : Pre) (d a b : BitVec 3)
  /-- CMP_LT (R91): Sets predicate pD (p0–p7) to whether gA is less than gB, signed. -/
  | cmpLt (p : Pre) (d a b : BitVec 3)
  /-- CMP_GE (R91): Sets predicate pD (p0–p7) to whether gA is at least gB, signed. -/
  | cmpGe (p : Pre) (d a b : BitVec 3)
  /-- CMP_LO (R91): Sets predicate pD (p0–p7) to whether gA is less than gB, unsigned. -/
  | cmpLo (p : Pre) (d a b : BitVec 3)
  /-- CMP_HS (R91): Sets predicate pD (p0–p7) to whether gA is at least gB, unsigned. -/
  | cmpHs (p : Pre) (d a b : BitVec 3)
  /-- CMP_TST (R91): Sets predicate pD (p0–p7) to whether gA AND gB is nonzero. -/
  | cmpTst (p : Pre) (d a b : BitVec 3)
  /-- CMP_NTST (R91): Sets predicate pD (p0–p7) to whether gA AND gB is zero. -/
  | cmpNtst (p : Pre) (d a b : BitVec 3)
  /-- LDZ_B (R139): Loads a byte and zero-extends it into gD, locally or as a fill. -/
  | ldzB (p : Pre) (d a b : BitVec 3)
  /-- LDS_B (R139): Loads a byte and sign-extends it into gD. -/
  | ldsB (p : Pre) (d a b : BitVec 3)
  /-- LDZ_H (R139): Loads a halfword and zero-extends it into gD. -/
  | ldzH (p : Pre) (d a b : BitVec 3)
  /-- LDS_H (R139): Loads a halfword and sign-extends it into gD. -/
  | ldsH (p : Pre) (d a b : BitVec 3)
  /-- LDZ_W (R139): Loads a word and zero-extends it into gD. -/
  | ldzW (p : Pre) (d a b : BitVec 3)
  /-- LDS_W (R139): Loads a word and sign-extends it into gD. -/
  | ldsW (p : Pre) (d a b : BitVec 3)
  /-- LD_D (R139): Loads a doubleword into gD. -/
  | ldD (p : Pre) (d a b : BitVec 3)
  /-- ST_B (R139): Posts a store of the low byte of gD. -/
  | stB (p : Pre) (d a b : BitVec 3)
  /-- ST_H (R139): Posts a store of the low halfword of gD. -/
  | stH (p : Pre) (d a b : BitVec 3)
  /-- ST_W (R139): Posts a store of the low word of gD. -/
  | stW (p : Pre) (d a b : BitVec 3)
  /-- ST_D (R139): Posts a store of the whole of gD. -/
  | stD (p : Pre) (d a b : BitVec 3)
  /-- BR (R97): Branches relative to the next instruction when P[p] equals 1 − s, after checking the target by R15. -/
  | br (p : Pre) (pr : BitVec 3) (sense : BitVec 1) (off : BitVec 8)
  /-- JMP (R98): Jumps unconditionally to a pc-relative target. -/
  | jmp (p : Pre) (off : BitVec 11)
  /-- CALL (R98): Jumps to a pc-relative target and writes the return offset into g7. -/
  | call (p : Pre) (off : BitVec 11)
  /-- LOOP (R100): Opens hardware loop i with a count from gC, and skips the body when the count is 0. -/
  | loop (p : Pre) (l : BitVec 1) (c : BitVec 3) (len : BitVec 8)
  /-- PADD_H (R112): Page-0 form of the halfword packed add. -/
  | paddH (p : Pre) (d a b : BitVec 3)
  /-- PSUB_H (R112): Page-0 form of the halfword packed subtract. -/
  | psubH (p : Pre) (d a b : BitVec 3)
  /-- PADDS_H (R112): Page-0 form of the halfword saturating packed add. -/
  | paddsH (p : Pre) (d a b : BitVec 3)
  /-- PSUBS_H (R112): Page-0 form of the halfword saturating packed subtract. -/
  | psubsH (p : Pre) (d a b : BitVec 3)
  /-- PMIN_H (R112): Page-0 form of the halfword signed packed minimum. -/
  | pminH (p : Pre) (d a b : BitVec 3)
  /-- PMAX_H (R112): Page-0 form of the halfword signed packed maximum. -/
  | pmaxH (p : Pre) (d a b : BitVec 3)
  /-- PMUL_H (R112): Page-0 form of the halfword packed multiply. -/
  | pmulH (p : Pre) (d a b : BitVec 3)
  /-- PAVG_H (R112): Page-0 form of the halfword packed average. -/
  | pavgH (p : Pre) (d a b : BitVec 3)
  /-- MOV (R93): Copies gA into gD. -/
  | mov (p : Pre) (d a : BitVec 3)
  /-- RDP (R92): Reads the predicate word into gD. -/
  | rdp (p : Pre) (d : BitVec 3)
  /-- WRP (R92): Writes gA[31:0] into the predicate word, keeping bit 0 at 1. -/
  | wrp (p : Pre) (a : BitVec 3)
  /-- RDSR (R95): Reads one of the page-0 special registers into gD. -/
  | rdsr (p : Pre) (d sr : BitVec 3)
  /-- WRSR (R95): Writes gA into one of the page-0 special registers: fcsr or a loop register. -/
  | wrsr (p : Pre) (a sr : BitVec 3)
  /-- SEL (R94): Writes gA or gB into gD according to the selector given by the GUARD prefix. -/
  | sel (p : Pre) (d a b : BitVec 3)
  /-- RET (R99): Jumps to g7 after the checks of R15. -/
  | ret (p : Pre)
  /-- JR (R99): Jumps to gA after the checks of R15. -/
  | jr (p : Pre) (a : BitVec 3)
  /-- NOP (R104): Does nothing and completes. -/
  | nop (p : Pre)
  /-- YIELD (R105): Gives up the context's slots for one rotation of the slot table. -/
  | yield (p : Pre)
  /-- FENCE (R106): Orders the context's accesses at its scope and holds the context until they are performed. -/
  | fence (p : Pre)
  /-- TRAP (R107): Completes and then traps TRAP with the code. -/
  | trap (p : Pre) (code : BitVec 6)
  /-- EXIT (R108): Retires the context and writes its line back. -/
  | exit (p : Pre)
  /-- BRK (R107): Completes and then traps BRK with the code. -/
  | brk (p : Pre) (code : BitVec 6)
  /-- SLEEP (R109): Waits SLEEP until the global tick reaches gA. -/
  | sleep (p : Pre) (a : BitVec 3)
  /-- FADD (R116): Floating-point add in f32, f16 or bf16. -/
  | fadd (p : Pre) (f : BitVec 2) (d a b : BitVec 3)
  /-- FSUB (R116): Floating-point subtract. -/
  | fsub (p : Pre) (f : BitVec 2) (d a b : BitVec 3)
  /-- FMUL (R116): Floating-point multiply. -/
  | fmul (p : Pre) (f : BitVec 2) (d a b : BitVec 3)
  /-- FDIV (R116): Correctly rounded floating-point divide. -/
  | fdiv (p : Pre) (f : BitVec 2) (d a b : BitVec 3)
  /-- FMIN (R117): Floating-point minimum. -/
  | fmin (p : Pre) (f : BitVec 2) (d a b : BitVec 3)
  /-- FMAX (R117): Floating-point maximum. -/
  | fmax (p : Pre) (f : BitVec 2) (d a b : BitVec 3)
  /-- FMA (R116): Fused multiply-add into gD, with one rounding. -/
  | fma (p : Pre) (f : BitVec 2) (d a b : BitVec 3)
  /-- FSQRT (R118): Correctly rounded square root. -/
  | fsqrt (p : Pre) (f : BitVec 2) (d a : BitVec 3)
  /-- FABS (R118): Clears the sign bit. -/
  | fabs (p : Pre) (f : BitVec 2) (d a : BitVec 3)
  /-- FNEG (R118): Inverts the sign bit. -/
  | fneg (p : Pre) (f : BitVec 2) (d a : BitVec 3)
  /-- EXP2 (R57): Base-2 exponential. -/
  | exp2 (p : Pre) (f : BitVec 2) (d a : BitVec 3)
  /-- LOG2 (R57): Base-2 logarithm. -/
  | log2 (p : Pre) (f : BitVec 2) (d a : BitVec 3)
  /-- RCP (R58): Reciprocal approximation within 1 ulp. -/
  | rcp (p : Pre) (f : BitVec 2) (d a : BitVec 3)
  /-- RSQRT (R58): Reciprocal square-root approximation within 1 ulp. -/
  | rsqrt (p : Pre) (f : BitVec 2) (d a : BitVec 3)
  /-- FCLASS (R119): Writes a one-hot class mask of gA into gD. -/
  | fclass (p : Pre) (f : BitVec 2) (d a : BitVec 3)
  /-- FCMP_EQ (R120): Sets a predicate to whether x equals y. -/
  | fcmpEq (p : Pre) (q f : BitVec 2) (d a b : BitVec 3)
  /-- FCMP_LT (R120): Sets a predicate to whether x is less than y. -/
  | fcmpLt (p : Pre) (q f : BitVec 2) (d a b : BitVec 3)
  /-- FCMP_LE (R120): Sets a predicate to whether x is at most y. -/
  | fcmpLe (p : Pre) (q f : BitVec 2) (d a b : BitVec 3)
  /-- FCMP_UN (R120): Sets a predicate to whether x or y is a NaN. -/
  | fcmpUn (p : Pre) (q f : BitVec 2) (d a b : BitVec 3)
  /-- FCVT (R121): Converts between integer, IEEE and L formats, with an optional scale. -/
  | fcvt (p : Pre) (src : BitVec 4) (d a : BitVec 3) (dst : BitVec 4)
  /-- PADD (R110): Packed wrapping add at the chosen lane size. -/
  | padd (p : Pre) (w : BitVec 2) (d a b : BitVec 3)
  /-- PSUB (R110): Packed wrapping subtract. -/
  | psub (p : Pre) (w : BitVec 2) (d a b : BitVec 3)
  /-- PADDS (R110): Packed signed saturating add. -/
  | padds (p : Pre) (w : BitVec 2) (d a b : BitVec 3)
  /-- PSUBS (R110): Packed signed saturating subtract. -/
  | psubs (p : Pre) (w : BitVec 2) (d a b : BitVec 3)
  /-- PADDN (R110): Packed unsigned saturating add. -/
  | paddn (p : Pre) (w : BitVec 2) (d a b : BitVec 3)
  /-- PSUBN (R110): Packed unsigned saturating subtract. -/
  | psubn (p : Pre) (w : BitVec 2) (d a b : BitVec 3)
  /-- PAVG (R110): Packed unsigned rounding average. -/
  | pavg (p : Pre) (w : BitVec 2) (d a b : BitVec 3)
  /-- PABS (R110): Packed saturating absolute value. -/
  | pabs (p : Pre) (w : BitVec 2) (d a : BitVec 3)
  /-- PMUL (R110): Packed wrapping multiply. -/
  | pmul (p : Pre) (w : BitVec 2) (d a b : BitVec 3)
  /-- PMULH (R110): Packed signed multiply, high half. -/
  | pmulh (p : Pre) (w : BitVec 2) (d a b : BitVec 3)
  /-- PMIN (R110): Packed signed minimum. -/
  | pmin (p : Pre) (w : BitVec 2) (d a b : BitVec 3)
  /-- PMAX (R110): Packed signed maximum. -/
  | pmax (p : Pre) (w : BitVec 2) (d a b : BitVec 3)
  /-- PMINN (R110): Packed unsigned minimum. -/
  | pminn (p : Pre) (w : BitVec 2) (d a b : BitVec 3)
  /-- PMAXN (R110): Packed unsigned maximum. -/
  | pmaxn (p : Pre) (w : BitVec 2) (d a b : BitVec 3)
  /-- PDOT (R110): Adds the signed dot product of the lanes into gD. -/
  | pdot (p : Pre) (w : BitVec 2) (d a b : BitVec 3)
  /-- PSLL (R110): Packed logical shift left. -/
  | psll (p : Pre) (w : BitVec 2) (d a b : BitVec 3)
  /-- PSRL (R110): Packed logical shift right. -/
  | psrl (p : Pre) (w : BitVec 2) (d a b : BitVec 3)
  /-- PSRA (R110): Packed arithmetic shift right. -/
  | psra (p : Pre) (w : BitVec 2) (d a b : BitVec 3)
  /-- PSHUF (R110): Packed lane shuffle under control of gB. -/
  | pshuf (p : Pre) (w : BitVec 2) (d a b : BitVec 3)
  /-- PPACK (R110): Packs lanes with signed saturation to half width. -/
  | ppack (p : Pre) (w : BitVec 2) (d a b : BitVec 3)
  /-- PUNPK (R110): Interleaves the low halves of gA and gB. -/
  | punpk (p : Pre) (w : BitVec 2) (d a b : BitVec 3)
  /-- PCMPEQ (R110): Packed compare for equality, giving lane masks. -/
  | pcmpeq (p : Pre) (w : BitVec 2) (d a b : BitVec 3)
  /-- PCMPGT (R110): Packed signed greater-than compare, giving lane masks. -/
  | pcmpgt (p : Pre) (w : BitVec 2) (d a b : BitVec 3)
  /-- CMPX_EQ (R91): Page-2 cmp.eq writing any of p0–p31. -/
  | cmpxEq (p : Pre) (q : BitVec 2) (d a b : BitVec 3)
  /-- CMPX_NE (R91): Page-2 cmp.ne writing any of p0–p31. -/
  | cmpxNe (p : Pre) (q : BitVec 2) (d a b : BitVec 3)
  /-- CMPX_LT (R91): Page-2 cmp.lt writing any of p0–p31. -/
  | cmpxLt (p : Pre) (q : BitVec 2) (d a b : BitVec 3)
  /-- CMPX_GE (R91): Page-2 cmp.ge writing any of p0–p31. -/
  | cmpxGe (p : Pre) (q : BitVec 2) (d a b : BitVec 3)
  /-- CMPX_LO (R91): Page-2 cmp.lo writing any of p0–p31. -/
  | cmpxLo (p : Pre) (q : BitVec 2) (d a b : BitVec 3)
  /-- CMPX_HS (R91): Page-2 cmp.hs writing any of p0–p31. -/
  | cmpxHs (p : Pre) (q : BitVec 2) (d a b : BitVec 3)
  /-- CMPX_TST (R91): Page-2 cmp.tst writing any of p0–p31. -/
  | cmpxTst (p : Pre) (q : BitVec 2) (d a b : BitVec 3)
  /-- CMPX_NTST (R91): Page-2 cmp.ntst writing any of p0–p31. -/
  | cmpxNtst (p : Pre) (q : BitVec 2) (d a b : BitVec 3)
  /-- TADD (R131): Adds two tiles element by element. -/
  | tadd (p : Pre) (hd ha hb : BitVec 8)
  /-- TSUB (R131): Subtracts two tiles element by element. -/
  | tsub (p : Pre) (hd ha hb : BitVec 8)
  /-- TMUL (R131): Multiplies two tiles element by element. -/
  | tmul (p : Pre) (hd ha hb : BitVec 8)
  /-- TFMA (R131): Adds a × b into hD element by element. -/
  | tfma (p : Pre) (hd ha hb : BitVec 8)
  /-- TMIN (R131): Takes the element-wise minimum of two tiles. -/
  | tmin (p : Pre) (hd ha hb : BitVec 8)
  /-- TMAX (R131): Takes the element-wise maximum of two tiles. -/
  | tmax (p : Pre) (hd ha hb : BitVec 8)
  /-- TSEL (R131): Selects a or b per element, using hD as the mask. -/
  | tsel (p : Pre) (hd ha hb : BitVec 8)
  /-- TCVT (R132): Converts a tile into hD's format. -/
  | tcvt (p : Pre) (hd ha : BitVec 8)
  /-- TEXP2 (R132): Element-wise exp2. -/
  | texp2 (p : Pre) (hd ha : BitVec 8)
  /-- TLOG2 (R132): Element-wise log2. -/
  | tlog2 (p : Pre) (hd ha : BitVec 8)
  /-- TRCP (R132): Element-wise reciprocal. -/
  | trcp (p : Pre) (hd ha : BitVec 8)
  /-- TCOPY (R132): Copies the bits of a tile in row-major order, possibly reshaping it. -/
  | tcopy (p : Pre) (hd ha : BitVec 8)
  /-- TRED_SUM (R132): Sums each row of hA into hD. -/
  | tredSum (p : Pre) (hd ha : BitVec 8)
  /-- TRED_MAX (R132): Takes the maximum of each row of hA into hD. -/
  | tredMax (p : Pre) (hd ha : BitVec 8)
  /-- TSCALE (R133): Multiplies a tile by the f32 scalar in gK. -/
  | tscale (p : Pre) (hd ha : BitVec 8) (k : BitVec 3)
  /-- TFILL (R133): Fills a tile with the bit pattern in gK. -/
  | tfill (p : Pre) (hd : BitVec 8) (k : BitVec 3)
  /-- TMASK (R133): Writes 1 or 0 per element by comparing it with the scalar in gK. -/
  | tmask (p : Pre) (hd ha : BitVec 8) (k : BitVec 3)
  /-- PUSH (R167): Appends two doublewords to the port's assembly buffer and sends the command when it is complete. -/
  | push (p : Pre) (port a b : BitVec 3)
  /-- POP (R171): Takes the oldest completion held for the context on a port, or waits POP for one. -/
  | pop (p : Pre) (port a b : BitVec 3)
  /-- PEEK (R171): Reads the oldest completion without removing it, or zeros when none is held. -/
  | peek (p : Pre) (port a b : BitVec 3)
  /-- RWAIT_F (R187): Waits until a ring holds at least n filled slots. -/
  | rwaitF (p : Pre) (n : BitVec 4) (h : BitVec 8)
  /-- RWAIT_E (R187): Waits until a ring has at least n free slots. -/
  | rwaitE (p : Pre) (n : BitVec 4) (h : BitVec 8)
  /-- RADV_P (R187): Advances a ring's producer count by n, as a release. -/
  | radvP (p : Pre) (n : BitVec 4) (h : BitVec 8)
  /-- RADV_C (R187): Advances a ring's consumer count by n, as a release. -/
  | radvC (p : Pre) (n : BitVec 4) (h : BitVec 8)
  /-- HDEF (R189): Checks a handle descriptor and writes it into the core's handle table. -/
  | hdef (p : Pre) (h : BitVec 8) (a b : BitVec 3)
  /-- HRD (R189): Reads a handle-table entry into two registers. -/
  | hrd (p : Pre) (h : BitVec 8) (a b : BitVec 3)
  /-- HMOV (R189): Copies one handle entry to another. -/
  | hmov (p : Pre) (hd ha : BitVec 8)
  /-- SEND (R190): Posts an active message with up to six payload registers to a target core. -/
  | send (p : Pre) (t h n : BitVec 3)
  /-- HRET (R192): Ends a handler context and frees its line. -/
  | hret (p : Pre)
  /-- LDFE (R144): Waits until the word is full, then reads it and sets it empty. -/
  | ldfe (p : Pre) (d a b : BitVec 3)
  /-- LDFF (R144): Waits until the word is full, then reads it and leaves it full. -/
  | ldff (p : Pre) (d a b : BitVec 3)
  /-- STFE (R144): Posts a write of the word and sets it full. -/
  | stfe (p : Pre) (d a b : BitVec 3)
  /-- STEF (R144): Waits until the word is empty, then writes it and sets it full. -/
  | stef (p : Pre) (d a b : BitVec 3)
  /-- FE_SET (R144): Posts a setting of the word's bit to full. -/
  | feSet (p : Pre) (a b : BitVec 3)
  /-- FE_CLR (R144): Posts a setting of the word's bit to empty. -/
  | feClr (p : Pre) (a b : BitVec 3)
  /-- FE_RD (R144): Reads the word's full/empty bit into gD. -/
  | feRd (p : Pre) (d a b : BitVec 3)
  /-- WADDR_EQ (R146): Waits until the word equals gB. -/
  | waddrEq (p : Pre) (a b : BitVec 3)
  /-- WADDR_NE (R146): Waits until the word differs from gB. -/
  | waddrNe (p : Pre) (a b : BitVec 3)
  /-- BAR_ARRIVE (R159): Posts an arrival on a barrier object, which ends the phase when it is the last. -/
  | barArrive (p : Pre) (a : BitVec 3)
  /-- BAR_WAIT (R159): Waits until the barrier's phase differs from gB. -/
  | barWait (p : Pre) (a b : BitVec 3)
  /-- JOIN_DEC (R157): Posts a decrement of a join word, which wakes its waiters when it reaches 0. -/
  | joinDec (p : Pre) (a : BitVec 3)
  /-- JOIN_WAIT (R157): Waits until a join word is 0. -/
  | joinWait (p : Pre) (a : BitVec 3)
  /-- CFLUSH (R160): Starts a tailrace walk that writes back a range. -/
  | cflush (p : Pre) (a b : BitVec 3)
  /-- CINVAL (R160): Starts a tailrace walk that discards a range. -/
  | cinval (p : Pre) (a b : BitVec 3)
  /-- AMO_ADD (R150): Atomic add that returns the old value. -/
  | amoAdd (p : Pre) (sz : BitVec 1) (d a b : BitVec 3)
  /-- AMO_AND (R150): Atomic AND that returns the old value. -/
  | amoAnd (p : Pre) (sz : BitVec 1) (d a b : BitVec 3)
  /-- AMO_OR (R150): Atomic OR that returns the old value. -/
  | amoOr (p : Pre) (sz : BitVec 1) (d a b : BitVec 3)
  /-- AMO_XOR (R150): Atomic XOR that returns the old value. -/
  | amoXor (p : Pre) (sz : BitVec 1) (d a b : BitVec 3)
  /-- AMO_MIN (R150): Atomic signed minimum. -/
  | amoMin (p : Pre) (sz : BitVec 1) (d a b : BitVec 3)
  /-- AMO_MAX (R150): Atomic signed maximum. -/
  | amoMax (p : Pre) (sz : BitVec 1) (d a b : BitVec 3)
  /-- AMO_MINN (R150): Atomic unsigned minimum. -/
  | amoMinn (p : Pre) (sz : BitVec 1) (d a b : BitVec 3)
  /-- AMO_MAXN (R150): Atomic unsigned maximum. -/
  | amoMaxn (p : Pre) (sz : BitVec 1) (d a b : BitVec 3)
  /-- AMO_SWAP (R150): Atomic swap. -/
  | amoSwap (p : Pre) (sz : BitVec 1) (d a b : BitVec 3)
  /-- AMO_CAS (R150): Atomic compare-and-swap against gD. -/
  | amoCas (p : Pre) (sz : BitVec 1) (d a b : BitVec 3)
  /-- RED_ADD (R151): Posts a contribution into the core's reduction slot of a word. -/
  | redAdd (p : Pre) (ty : BitVec 2) (a b : BitVec 3)
  /-- RED_RD (R56): Folds the open slots into a reduction word and returns the result. -/
  | redRd (p : Pre) (ty : BitVec 2) (d a : BitVec 3)
  /-- MIG (R154): Migrates the context to the home core of a pointer. -/
  | mig (p : Pre) (a : BitVec 3)
  /-- SPAWN (R156): Places a child RCB in the pending-launch pool when quota allows, and reports the outcome in a predicate. -/
  | spawn (p : Pre) (d a : BitVec 3)
  /-- RDSR_PRIV (R194): Reads a privileged special register. -/
  | rdsrPriv (p : Pre) (d : BitVec 3) (n : BitVec 6)
  /-- WRSR_PRIV (R195): Writes a privileged special register, such as cl1lim, sstbase, sstlen or upcbase. -/
  | wrsrPriv (p : Pre) (a : BitVec 3) (n : BitVec 6)
  /-- ERET (R197): Resumes the context parked for the fault domain and ends the handler. -/
  | eret (p : Pre)
  /-- UPRET (R198): Resumes a context parked after a page-fault upcall. -/
  | upret (p : Pre) (a : BitVec 3)
  /-- TLBINV (R200): Invalidates the VF's stage-1 translations of a range across the partition. -/
  | tlbinv (p : Pre) (a b : BitVec 3)
  /-- SEGINV (R201): Makes the named contexts reload their segment registers. -/
  | seginv (p : Pre) (a : BitVec 3)
  /-- SLT_WR (R202): Stages eight slot-table entries. -/
  | sltWr (p : Pre) (a b : BitVec 3)
  /-- CAPMINT (R176): Binds a remote Millstone slot and returns a capability token. -/
  | capmint (p : Pre) (d a b : BitVec 3)
  /-- RDTICK (R196): Reads the global tick. -/
  | rdtick (p : Pre) (d : BitVec 3)
  /-- CXLD (R199): Reads one doubleword of another context's line. -/
  | cxld (p : Pre) (d a b : BitVec 3)
  /-- CXST (R199): Writes one doubleword of a parked context's line. -/
  | cxst (p : Pre) (d a b : BitVec 3)
  /-- YMARK (R203): Posts a Yarrow marker event. -/
  | ymark (p : Pre) (a : BitVec 3)
  /-- YRD (R203): Reads one virtual counter. -/
  | yrd (p : Pre) (d a : BitVec 3)
  /-- YCTL (R203): Configures a virtual counter, its value or its masks, by function. -/
  | yctl (p : Pre) (a b : BitVec 3)
  /-- CFL_RD (R204): Reads the OR of the VF's cluster flag words over the partition. -/
  | cflRd (p : Pre) (d : BitVec 3)
  /-- CFL_CLR (R204): Clears selected bits of the VF's cluster flag words. -/
  | cflClr (p : Pre) (a : BitVec 3)
  /-- MM_FMT (R178): Millstone command that writes a format context. -/
  | mmFmt (cl src : Nat)
  /-- MM_MUL (R179): Millstone command that computes D ← A × B + C, with optional gather, bitmap and decomposition. -/
  | mmMul (cl src : Nat)
  /-- MM_ROW_ADVANCE (R244): A held row advance of a full receiving ring proceeds once a slot frees. -/
  | mmRowAdvance (cl k : Nat)
  /-- SL_GATHER (R254): Sluice command that copies indexed table rows into the packed tile. -/
  | slGather (cl : Nat)
  /-- SL_SCATTER (R254): Sluice command that copies packed rows into indexed table rows. -/
  | slScatter (cl : Nat)
  /-- SL_SCATADD (R255): Sluice command that adds packed rows into table rows, element by element, as atomics. -/
  | slScatadd (cl : Nat)
  /-- FL_COPY (R182): Flume command that copies bytes. -/
  | flCopy (cl : Nat)
  /-- FL_FILL (R182): Flume command that fills bytes with an 8-byte pattern. -/
  | flFill (cl : Nat)
  /-- BO_TOPK (R250): Bolter command that selects the top k keys of a tile. -/
  | boTopk (cl : Nat)
  /-- BO_MERGE (R253): Bolter command that merges pair lists into the top k, removing duplicates. -/
  | boMerge (cl : Nat)
  /-- QN_BAG (R258): Quern command that pools weighted table rows into one vector per bag. -/
  | qnBag (die : Nat)
  /-- YW_LOAD (R375): Yarrow command that installs a filter program in a slot. -/
  | ywLoad (die : Nat)
  /-- YW_ATTACH (R375): Yarrow command that attaches a slot to an event class and selector. -/
  | ywAttach (die : Nat)
  /-- YW_DETACH (R375): Yarrow command that stops a slot from taking events. -/
  | ywDetach (die : Nat)
  /-- YW_DUMP (R378): Yarrow command that copies a slot's output image. -/
  | ywDump (die : Nat)
  /-- COMPLETION_DELIVERY (R173): A completion enters the completion store of its context, or is forwarded, and wakes a POP waiter. -/
  | completionDelivery (k : Nat)
  /-- FILL_RESPONSE (R23): A fill response reaches the line; it writes the register and makes the line READY, or it is discarded, or it ends in a late trap. -/
  | fillResponse (k : Nat)
  /-- CONTEXT_EVENT (R313): A wake or resumption addressed to a context is routed to the line wherever it lies and applied there. -/
  | contextEvent (k : Nat)
  /-- SLEEP_WAKE (R109): The global tick reaches a sleeping context's wake tick and makes it ready. -/
  | sleepWake (cl k : Nat)
  /-- HOST_ADDR_POLL (R149): Every 1,024 ticks, a context waiting ADDR on a host word re-executes its waddr. -/
  | hostAddrPoll (vf index : Nat)
  /-- PROBE_ANSWER (R136): A probe's answer returns: performed, condition false with a wait, retry, or trap. -/
  | probeAnswer (core way : Nat)
  /-- FENCE_DRAIN (R106): The accesses that a fence orders are performed, and the fence completes. -/
  | fenceDrain (core way : Nat)
  /-- STORE_QUEUE_PERFORM (R265): A posted write leaves the store queue and is performed at its place, waking watchers. -/
  | storeQueuePerform (core k : Nat)
  /-- STAGE1_WALK (R342): A stage-1 walk completes: it writes a micro-TLB entry and wakes XLATE, or it faults. -/
  | stage1Walk (cl k : Nat)
  /-- LLC_MISS (R350): An LLC miss or write upgrade is translated by stage 2 and checked against the frame table and world at the memory controller. -/
  | llcMiss (vf line : Nat) (write : Bool) (victim : Option (Nat × Nat))
  /-- PAGE_RESPONSE (R352): The hypervisor writes a retry or fatal verdict, which is applied when tag and gen match. -/
  | pageResponse (tag gen : Nat) (fatal : Bool)
  /-- RECLASS (R361): Reclassification of a private granule to shared at its owner core. -/
  | reclass (k : Nat)
  /-- DIR_LOAD_MISS (R357): A slice serves a load miss on a shared line, recalling dirty words from their owners. -/
  | dirLoadMiss (vf line core : Nat) (m : BitVec 16)
  /-- DIR_STORE_OWNERSHIP (R357): A slice moves ownership of words to a storing core and invalidates other copies. -/
  | dirStoreOwnership (vf line core : Nat) (m : BitVec 16)
  /-- DIR_WRITE_BACK (R357): A slice takes written-back dirty words. -/
  | dirWriteBack (vf line core : Nat) (m : BitVec 16)
  /-- DIR_CORE_EVICT (R357): A slice takes a core's eviction of a line. -/
  | dirCoreEvict (vf line core : Nat)
  /-- HOST_READ (R269): A host reads module memory at the LLC over CXL.mem. -/
  | hostRead (by_ : Origin) (hpa : Nat)
  /-- HOST_WRITE (R269): A host write removes every device copy and is then performed. -/
  | hostWrite (by_ : Origin) (hpa : Nat) (n : Nat) (v : Word)
  /-- TAILRACE_WALK (R364): A walk visits every cache and fetch buffer, ending with its write-backs and an arrival on the region barrier. -/
  | tailraceWalk (k : Nat)
  /-- FRAME_ASSIGN (R351): Frame command that makes a FREE frame OWNED. -/
  | frameAssign (frame vf gfn : Nat) (ro : Bool)
  /-- FRAME_RELEASE (R354): Frame command that starts the scrub of an OWNED frame. -/
  | frameRelease (frame : Nat)
  /-- FRAME_SCRUB_DONE (R354): A frame scrub finishes; the frame becomes FREE and the command reports completion. -/
  | frameScrubDone (frame : Nat)
  /-- CONTEXT_EVICTION (R308): A line moves from a context-L1 way into the context L2. -/
  | contextEviction (core way : Nat)
  /-- CONTEXT_PULL (R311): A READY line at the head of the pull queue is placed in its core's L1. -/
  | contextPull (core : Nat)
  /-- CONTEXT_WRITE_BACK (R309): The context L2 writes a victim line back to memory and marks it HOME. -/
  | contextWriteBack (cl set : Nat)
  /-- CONTEXT_FETCH (R308): A READY line marked HOME is fetched from memory to the L1 or L2. -/
  | contextFetch (vf index : Nat)
  /-- MIGRATION_ARRIVAL (R315): A migration packet or launch delivery reaches its destination and is placed. -/
  | migrationArrival (k : Nat)
  /-- ARRIVAL_ACK (R396): The destination's acknowledgement frees the sending cluster's replay record. -/
  | arrivalAck (cl seq : Nat)
  /-- LAUNCH_DELIVERY (R329): Headrace writes a new context line and sends it to the chosen core. -/
  | launchDelivery (vf rcb : Nat)
  /-- FAULT_HANDLER_START (R282): A free handler line starts the fault-domain handler for the oldest entry of the trap-delivery list. -/
  | faultHandlerStart (core : Nat)
  /-- MESSAGE_ARRIVAL (R190): An active message takes an entry in the receiving core's message queue. -/
  | messageArrival (core k : Nat)
  /-- MESSAGE_HANDLER_START (R191): A queued message starts a handler context in a free handler line. -/
  | messageHandlerStart (core : Nat)
  /-- WATCH_DELIVERY (R293): A pending WATCH takes effect at the context's next instruction boundary. -/
  | watchDelivery (core way : Nat)
  /-- QTAIL_DOORBELL (R325): A host write of qtail rings a work queue's doorbell. -/
  | qtailDoorbell (vf q : Nat) (v : Word)
  /-- WQ_LAUNCH (R327): Headrace takes a LAUNCH entry and names its root RCB. -/
  | wqLaunch (vf q : Nat)
  /-- WQ_GANG (R337): Headrace takes a GANG entry and admits its RCB with delivery held. -/
  | wqGang (vf q : Nat)
  /-- WQ_ENTRY_POLL (R328): Every 64 ticks, an entry whose seq did not match is read again. -/
  | wqEntryPoll (vf q : Nat)
  /-- WQ_ENTRY_TIMEOUT (R328): After 4,096 ticks without a matching seq, the queue stops with err. -/
  | wqEntryTimeout (vf q : Nat)
  /-- ERR_CLEAR (R325): Writing 1 to err clears it and resumes the queue at qhead. -/
  | errClear (vf q : Nat)
  /-- RCB_ADMIT (R324): Headrace admits a PENDING RCB once its budgets, pool and limits allow. -/
  | rcbAdmit (vf rcb : Nat)
  /-- RCB_FINISH (R326): An RCB reaches DONE or ABORTED, returns its reservations, and decrements its parent's join. -/
  | rcbFinish (vf rcb : Nat)
  /-- CYCLE_BUDGET_ABORT (R330): A subtree's used reaches ybud, and the subtree is ABORTED with its contexts ended. -/
  | cycleBudgetAbort (vf rcb : Nat)
  /-- DEADLINE_PASS (R336): The tick passes an unfinished DEADLINE RCB's deadline, which sets late. -/
  | deadlinePass (vf rcb : Nat)
  /-- SLICE_END (R333): A slice ends: accounts are updated, the VFs ranked, a VF switch begins, and counters are exchanged. -/
  | sliceEnd (node : Nat)
  /-- VF_SWITCH_SWEEP (R339): 32 cycles into a VF switch, the outgoing lines still resident are evicted. -/
  | vfSwitchSweep (core : Nat)
  /-- SCRATCHPAD_SCRUB (R209): After the outgoing VF's last line has left, the core scrubs its scratchpad and handle table. -/
  | scratchpadScrub (core : Nat)
  /-- SCRATCHPAD_SCRUB_END (R209): The 128-cycle scrub ends, and waiting incoming contexts become issuable. -/
  | scratchpadScrubEnd (core : Nat)
  /-- CLUSTER_MEMORY_FILL (R213): The cluster zero-fills its banks that are not kept, once all its cores are clear. -/
  | clusterMemoryFill (cl : Nat)
  /-- CLUSTER_MEMORY_FILL_END (R213): The 1,024-cycle fill ends, and waiting contexts become issuable. -/
  | clusterMemoryFillEnd (cl : Nat)
  /-- GANG_READY (R337): A READY gang message arrives from a member. -/
  | gangReady (gang member : Nat)
  /-- GANG_ABORT (R337): An ABORT gang message arrives, which aborts or ends the launch. -/
  | gangAbort (gang member : Nat)
  /-- GANG_READY_DEADLINE (R337): At T − 1,024, a member lacking any READY sends ABORT. -/
  | gangReadyDeadline (gang : Nat)
  /-- GANG_START (R337): At T, delivery starts, or the RCB is aborted. -/
  | gangStart (gang : Nat)
  /-- FILTER_RUN (R374): An event taken by an attached slot runs its filter program. -/
  | filterRun (die k : Nat)
  /-- YARROW_TICK_EVENT (R374): Every sel ticks, a TICK-class event is raised for an attached slot. -/
  | yarrowTickEvent (die vf slot : Nat)
  /-- YARROW_BUDGET_WINDOW (R380): Each 1,024-tick window renews each VF's filter budget, carrying debt. -/
  | yarrowBudgetWindow (die : Nat)
  /-- TRIGGER_WRITE (R379): A queued trigger write of action 3 is performed to the output pointer. -/
  | triggerWrite (die : Nat)
  /-- COUNTER_INCREMENT (R382): An increment reaches the counter die and is applied, possibly wrapping and posting an overflow. -/
  | counterIncrement (k : Nat)
  /-- SPLIT (R368): Partition command that splits a partition node at its next slice end. -/
  | split (node : Nat)
  /-- MERGE (R368): Partition command that merges two idle sibling partitions. -/
  | merge (node : Nat)
  /-- VF_NODE_WRITE (R369): The hypervisor writes a VF's node, binding or unbinding it, or is refused. -/
  | vfNodeWrite (vf node : Nat)
  /-- CTX_SEGMENT_WRITE (R12): The hypervisor writes ctxbase or ctxlen, which is refused while the VF is active. -/
  | ctxSegmentWrite (vf : Nat) (len : Bool) (v : Word)
  /-- BANK_MASK_WRITE (R211): The hypervisor writes a cluster's bank mask for a VF; a cleared keep bit zero-fills the bank. -/
  | bankMaskWrite (vf lcluster : Nat) (keep : Word)
  /-- VF_RESET (R371): Resets a VF: ends contexts, aborts commands, zero-fills kept banks, discards lines, and increments gen. -/
  | vfReset (vf : Nat)
  /-- FM_BIND (R373): The fabric manager binds a logical device to a host port. -/
  | fmBind (node port : Nat)
  /-- FM_UNBIND (R373): The fabric manager unbinds a logical device. -/
  | fmUnbind (node : Nat)
  /-- PARITY_ERROR (R397): A parity error in an engine triggers replay of its commands in progress. -/
  | parityError (cl port : Nat)
  /-- LINK_RETRAIN (R397): A package link retrains, and outstanding records are replayed or the link is declared down. -/
  | linkRetrain (link : Nat) (ok : Bool)
  /-- REPLAY_TIMEOUT (R397): A record is not acknowledged within 65,536 cycles and is replayed, or the link is declared down. -/
  | replayTimeout (cl seq : Nat)
  /-- REPLAY_RECORD_ERROR (R396): An uncorrectable replay record triggers a reset of its VF. -/
  | replayRecordError (cl seq : Nat)
  /-- CONTEXT_LINE_LOST (R395): An uncorrectable error in a context line ends the context and records a fault in its RCB. -/
  | contextLineLost (vf index : Nat)
  /-- PATROL_SCRUB (R401): Patrol scrubbing reads each HBM and LLC line once in 24 hours, correcting or poisoning it. -/
  | patrolScrub (place : ScrubPlace) (v : ScrubVerdict)
  /-- FV_CLEAR (R400): Clearing fv re-arms the capture of the first error. -/
  | fvClear (vf : Nat)
  /-- WASSIGN (R409): Sorrel command that writes a world-assignment register. -/
  | wassign
  /-- SETW (R409): Sorrel command that sets the region-world bits of a run of granules. -/
  | setw
  /-- STAGE (R412): Sorrel command that copies and verifies an image in the staging buffer. The argument is the image that a
  recovery session sends (R411); with a valid image running, the command reads memory instead. -/
  | stage (image : List Byte)
  /-- COMMIT (R412): Sorrel command that writes the staged image to flash and raises the minimum version. -/
  | commit
  /-- ATTEST (R413): Sorrel command that writes a signed quote. -/
  | attest
  /-- SETSEC (R409): Sorrel command that writes sec of an unbound VF. -/
  | setsec
  /-- MODULE_RESET (R421): Power-on or module reset runs the bring-up sequence. -/
  | moduleReset
  /-- MGMT_SESSION (R420): A mutual-TLS session is opened on the management port. -/
  | mgmtSession (cert : Nat)
  /-- POWER_CAP_WRITE (R425): A write of the power cap is clamped to 800–2,400 W. -/
  | powerCapWrite (w : CapWrite)
  /-- THROTTLE_LEVEL_CHANGE (R424): Temperature, power or flow moves a die to another throttle level at a tick boundary. -/
  | throttleLevelChange (die : Nat) (r : Reading)
  /-- THERMAL_TRIP (R424): Temperature of 110 °C or more, or a flow below 1.0 L/min, stops the module and resets it. -/
  | thermalTrip (r : Reading)
  /-- GLOBAL_TICK (R423): The 1 GHz global tick advances, slewed toward the master. -/
  | globalTick
  /-- TICK_UNSYNCHRONISED (R423): No master has been heard for 1 ms, and the device reports itself unsynchronised. -/
  | tickUnsynchronised
  /-- CXL_PORT_DOWN (R418): A CXL port goes down, and its accesses in flight end with poison. -/
  | cxlPortDown (port : Nat)
  /-- REGISTER_WRITE (R6): A write to a register that has no row of its own, under its access codes. -/
  | registerWrite (r : RegAccess) (v : Word)
  /-- ILLEGAL_ENCODING (R71): A fetched parcel chain that fails a fetch check, breaks the prefix rules, or decodes to an unassigned op, minor or field traps at its first failing parcel. -/
  | illegalEncoding (f : DecodeFail)
  /-- PARTIAL_COMMAND_ABANDON (R168): A pre-emption that has waited on an unsent partial command abandons it once 1,024 cycles have passed since its header push. -/
  | partialCommandAbandon (core way port : Nat)
  /-- ARRIVAL_TO_CONTEXT_L2 (R315): An arrived migration packet that has found no free way or victim within 64 cycles is placed, ready, in its cluster's context L2. -/
  | arrivalToContextL2 (k : Nat)
  /-- POWER_LOSS (R412): Loss of power stops the module, leaving flash invalid if a COMMIT was in progress. -/
  | powerLoss
  /-- LINK_RETRY (R392): A flit whose CRC fails on the mesh or a link is not delivered, is retransmitted from the retry buffer, and is counted. What another check finds at a hand-off is counted too (R393). -/
  | linkRetry (found : HandOff)
  deriving DecidableEq, Repr

end Sys2Proof
end

