-- ==== Sys2Proof/WellFormed.lean ====
section
/-! DEFINITION. WellFormed: which terms of `Instr` an encoding stands for. The checks are those of 03_encoding.md that
R71 makes at the base parcel: the prefixes a form accepts (R66, R67, R69), reserved codes of its fields, and limits. -/
namespace Sys2Proof

/-- The rows of R69: which ORDER a form accepts. -/
inductive OrderUse where
  | none
  | load
  | store
  | fence
  | atomic
  | waddr
  | push
  | pop
  deriving DecidableEq, Repr

/-- The order codes of R65. -/
def ordRelaxed : BitVec 2 := 0
def ordAcquire : BitVec 2 := 1
def ordRelease : BitVec 2 := 2
def ordAcqRel : BitVec 2 := 3

/-- Whether no hint bit is set. -/
def Order.plain (o : Order) : Bool := o.stream == 0 && o.noAlloc == 0 && o.llcOnly == 0

/-- R69: whether a form of this row accepts an ORDER prefix; scope 7 is reserved (R65). -/
def OrderUse.ok (u : OrderUse) (o : Order) : Bool :=
  o.scope != 7 &&
  match u with
  | .none => false
  | .load => o.ord == ordRelaxed || o.ord == ordAcquire
  | .store => o.ord == ordRelaxed || o.ord == ordRelease
  | .fence => o.ord != ordRelaxed && o.plain
  | .atomic => o.plain
  | .waddr => (o.ord == ordRelaxed || o.ord == ordAcquire) && o.plain
  | .push => o.ord == ordRelease && o.plain
  | .pop => o.ord == ordAcquire && o.plain

/-- How an encoded form uses its prefixes: its page, the most IMM it accepts as an immediate (R67), its row of R69. -/
structure Use where
  page : BitVec 4
  imm : Nat
  order : OrderUse
  deriving DecidableEq, Repr

/-- The prefixes of an encoded instruction and how its form uses them; none for the rows of the table that have no
encoding (engine commands, device steps, outside events). -/
def Instr.use : Instr → Option (Pre × Use)
  | .add p _ _ _ | .sub p _ _ _ | .and p _ _ _ | .or p _ _ _ | .xor p _ _ _ | .shl p _ _ _ | .shr p _ _ _
  | .sar p _ _ _ | .mul p _ _ _ | .mulh p _ _ _ | .mulhn p _ _ _ | .min p _ _ _ | .max p _ _ _ | .minn p _ _ _
  | .maxn p _ _ _ | .andn p _ _ _ =>
    some (p, Use.mk 0 0 .none)
  | .addi p _ _ _ | .movi p _ _ =>
    some (p, Use.mk 0 4 .none)
  | .cmpEq p _ _ _ | .cmpNe p _ _ _ | .cmpLt p _ _ _ | .cmpGe p _ _ _ | .cmpLo p _ _ _ | .cmpHs p _ _ _
  | .cmpTst p _ _ _ | .cmpNtst p _ _ _ =>
    some (p, Use.mk 0 0 .none)
  | .ldzB p _ _ _ | .ldsB p _ _ _ | .ldzH p _ _ _ | .ldsH p _ _ _ | .ldzW p _ _ _ | .ldsW p _ _ _
  | .ldD p _ _ _ =>
    some (p, Use.mk 0 4 .load)
  | .stB p _ _ _ | .stH p _ _ _ | .stW p _ _ _ | .stD p _ _ _ =>
    some (p, Use.mk 0 4 .store)
  | .br p _ _ _ | .jmp p _ | .call p _ | .loop p _ _ _ =>
    some (p, Use.mk 0 4 .none)
  | .paddH p _ _ _ | .psubH p _ _ _ | .paddsH p _ _ _ | .psubsH p _ _ _ | .pminH p _ _ _ | .pmaxH p _ _ _
  | .pmulH p _ _ _ | .pavgH p _ _ _ | .mov p _ _ | .rdp p _ | .wrp p _ | .rdsr p _ _ | .wrsr p _ _
  | .sel p _ _ _ | .ret p | .jr p _ =>
    some (p, Use.mk 0 0 .none)
  | .shli p _ _ _ | .shri p _ _ _ | .sari p _ _ _ | .rori p _ _ _ | .andi p _ _ _ =>
    some (p, Use.mk 0 4 .none)
  | .nop p | .yield p =>
    some (p, Use.mk 0 0 .none)
  | .fence p =>
    some (p, Use.mk 0 0 .fence)
  | .trap p _ =>
    some (p, Use.mk 0 1 .none)
  | .exit p =>
    some (p, Use.mk 0 0 .none)
  | .brk p _ =>
    some (p, Use.mk 0 1 .none)
  | .sleep p _ =>
    some (p, Use.mk 0 0 .none)
  | .fadd p _ _ _ _ | .fsub p _ _ _ _ | .fmul p _ _ _ _ | .fdiv p _ _ _ _ | .fmin p _ _ _ _ | .fmax p _ _ _ _
  | .fma p _ _ _ _ | .fsqrt p _ _ _ | .fabs p _ _ _ | .fneg p _ _ _ | .exp2 p _ _ _ | .log2 p _ _ _
  | .rcp p _ _ _ | .rsqrt p _ _ _ | .fclass p _ _ _ | .fcmpEq p _ _ _ _ _ | .fcmpLt p _ _ _ _ _
  | .fcmpLe p _ _ _ _ _ | .fcmpUn p _ _ _ _ _ =>
    some (p, Use.mk 1 0 .none)
  | .fcvt p _ _ _ _ =>
    some (p, Use.mk 1 1 .none)
  | .padd p _ _ _ _ | .psub p _ _ _ _ | .padds p _ _ _ _ | .psubs p _ _ _ _ | .paddn p _ _ _ _
  | .psubn p _ _ _ _ | .pavg p _ _ _ _ | .pabs p _ _ _ | .pmul p _ _ _ _ | .pmulh p _ _ _ _ | .pmin p _ _ _ _
  | .pmax p _ _ _ _ | .pminn p _ _ _ _ | .pmaxn p _ _ _ _ | .pdot p _ _ _ _ | .psll p _ _ _ _ | .psrl p _ _ _ _
  | .psra p _ _ _ _ | .pshuf p _ _ _ _ | .ppack p _ _ _ _ | .punpk p _ _ _ _ | .pcmpeq p _ _ _ _
  | .pcmpgt p _ _ _ _ | .cmpxEq p _ _ _ _ | .cmpxNe p _ _ _ _ | .cmpxLt p _ _ _ _ | .cmpxGe p _ _ _ _
  | .cmpxLo p _ _ _ _ | .cmpxHs p _ _ _ _ | .cmpxTst p _ _ _ _ | .cmpxNtst p _ _ _ _ =>
    some (p, Use.mk 2 0 .none)
  | .tadd p _ _ _ | .tsub p _ _ _ | .tmul p _ _ _ | .tfma p _ _ _ | .tmin p _ _ _ | .tmax p _ _ _
  | .tsel p _ _ _ | .tcvt p _ _ | .texp2 p _ _ | .tlog2 p _ _ | .trcp p _ _ | .tcopy p _ _ | .tredSum p _ _
  | .tredMax p _ _ | .tscale p _ _ _ | .tfill p _ _ | .tmask p _ _ _ =>
    some (p, Use.mk 3 0 .none)
  | .push p _ _ _ =>
    some (p, Use.mk 4 0 .push)
  | .pop p _ _ _ =>
    some (p, Use.mk 4 0 .pop)
  | .peek p _ _ _ | .rwaitF p _ _ | .rwaitE p _ _ | .radvP p _ _ | .radvC p _ _ | .hdef p _ _ _ | .hrd p _ _ _
  | .hmov p _ _ | .send p _ _ _ | .hret p =>
    some (p, Use.mk 4 0 .none)
  | .ldfe p _ _ _ | .ldff p _ _ _ | .stfe p _ _ _ | .stef p _ _ _ | .feSet p _ _ | .feClr p _ _ | .feRd p _ _ _ =>
    some (p, Use.mk 5 4 .none)
  | .waddrEq p _ _ | .waddrNe p _ _ =>
    some (p, Use.mk 5 0 .waddr)
  | .barArrive p _ | .barWait p _ _ | .joinDec p _ | .joinWait p _ | .cflush p _ _ | .cinval p _ _ =>
    some (p, Use.mk 5 0 .none)
  | .amoAdd p _ _ _ _ | .amoAnd p _ _ _ _ | .amoOr p _ _ _ _ | .amoXor p _ _ _ _ | .amoMin p _ _ _ _
  | .amoMax p _ _ _ _ | .amoMinn p _ _ _ _ | .amoMaxn p _ _ _ _ | .amoSwap p _ _ _ _ | .amoCas p _ _ _ _
  | .redAdd p _ _ _ | .redRd p _ _ _ =>
    some (p, Use.mk 5 0 .atomic)
  | .mig p _ | .spawn p _ _ =>
    some (p, Use.mk 5 0 .none)
  | .rdsrPriv p _ _ | .wrsrPriv p _ _ =>
    some (p, Use.mk 6 1 .none)
  | .eret p | .upret p _ | .tlbinv p _ _ | .seginv p _ | .sltWr p _ _ | .capmint p _ _ _ | .rdtick p _
  | .cxld p _ _ _ | .cxst p _ _ _ | .ymark p _ | .yrd p _ _ | .yctl p _ _ | .cflRd p _ | .cflClr p _ =>
    some (p, Use.mk 6 0 .none)
  | .mmFmt _ _ | .mmMul _ _ | .mmRowAdvance _ _ | .slGather _ | .slScatter _ | .slScatadd _ | .flCopy _
  | .flFill _ | .boTopk _ | .boMerge _ | .clusterMemoryFill _ | .clusterMemoryFillEnd _ | .qnBag _ | .ywLoad _
  | .ywAttach _ | .ywDetach _ | .ywDump _ | .yarrowBudgetWindow _ | .triggerWrite _ | .completionDelivery _
  | .fillResponse _ | .contextEvent _ | .tailraceWalk _ | .reclass _ | .migrationArrival _
  | .arrivalToContextL2 _ | .counterIncrement _ | .sleepWake _ _ | .hostAddrPoll _ _ | .contextFetch _ _
  | .contextLineLost _ _ | .probeAnswer _ _ | .fenceDrain _ _ | .contextEviction _ _ | .watchDelivery _ _
  | .storeQueuePerform _ _ | .stage1Walk _ _ | .llcMiss _ _ _ _ | .pageResponse _ _ _ | .dirLoadMiss _ _ _ _
  | .dirStoreOwnership _ _ _ _ | .dirWriteBack _ _ _ _ | .dirCoreEvict _ _ _ | .hostRead _ _
  | .hostWrite _ _ _ _ | .frameAssign _ _ _ _ | .frameRelease _ | .frameScrubDone _ | .contextPull _
  | .faultHandlerStart _ | .messageHandlerStart _ | .vfSwitchSweep _ | .scratchpadScrub _
  | .scratchpadScrubEnd _ | .contextWriteBack _ _ | .arrivalAck _ _ | .replayTimeout _ _
  | .replayRecordError _ _ | .launchDelivery _ _ | .rcbAdmit _ _ | .rcbFinish _ _ | .cycleBudgetAbort _ _
  | .deadlinePass _ _ | .messageArrival _ _ | .qtailDoorbell _ _ _ | .wqLaunch _ _ | .wqGang _ _
  | .wqEntryPoll _ _ | .wqEntryTimeout _ _ | .errClear _ _ | .sliceEnd _ | .split _ | .merge _ | .fmUnbind _
  | .gangReady _ _ | .gangAbort _ _ | .gangReadyDeadline _ | .gangStart _ | .filterRun _ _
  | .yarrowTickEvent _ _ _ | .vfNodeWrite _ _ | .ctxSegmentWrite _ _ _ | .bankMaskWrite _ _ _ | .vfReset _
  | .fvClear _ | .fmBind _ _ | .parityError _ _ | .linkRetrain _ _ | .patrolScrub _ _ | .wassign | .setw
  | .stage _ | .commit | .attest | .setsec | .moduleReset | .powerLoss | .globalTick | .tickUnsynchronised
  | .mgmtSession _ | .powerCapWrite _ | .throttleLevelChange _ _ | .thermalTrip _ | .cxlPortDown _
  | .registerWrite _ _ | .illegalEncoding _ | .partialCommandAbandon _ _ _ | .linkRetry _ => none

/-- Prefix parcels of a form: GUARD, ORDER, PAGE (every page but 0, R70), IMM, and a page-3 handle word's two (R77). -/
def Pre.prefixes (p : Pre) (page : BitVec 4) : Nat :=
  (if p.guard.isSome then 1 else 0) + (if p.order.isSome then 1 else 0) + (if page == 0 then 0 else 1)
    + p.imms.length + (if page == 3 then 2 else 0)

/-- R66, R67, R69: the prefixes fit the form. -/
def Pre.ok (p : Pre) (u : Use) : Bool :=
  p.prefixes u.page ≤ 4 && p.imms.length ≤ u.imm && (match p.order with | none => true | some o => u.order.ok o)

/-- Whether the immediate that the IMM prefixes form is negative: the top bit of the first payload (R67). -/
def Pre.immNeg (p : Pre) : Bool :=
  match p.imms with
  | [] => false
  | x :: _ => x.msb

/-- The number of a page-6 rdsr or wrsr (R67, R194): one IMM payload above the base field. -/
def srNumber (p : Pre) (n : BitVec 6) : Nat :=
  match p.imms with
  | [] => n.toNat
  | x :: _ => x.toNat * 64 + n.toNat

/-- The numbers that R195 assigns. -/
def srAssigned (k : Nat) : Bool := k ≤ 6 || (8 ≤ k && k ≤ 15)

/-- The assigned numbers whose fields are all RO (R194): coreinfo, ctxbase, ctxlen, sltcur, sltnew. -/
def srReadOnly (k : Nat) : Bool := k == 1 || k == 4 || k == 5 || (8 ≤ k && k ≤ 15)

/-- An fcvt tag with an L format (R75). -/
def tagIsL (t : BitVec 4) : Bool := t == 7 || t == 8

/-- R67: the fcvt scale, an IMM payload read signed, lies within −128 to 127. -/
def scaleOk (x : BitVec 10) : Bool := -128 ≤ x.toInt && x.toInt ≤ 127

/-- The field checks of R71 step 3 that are not must-be-0 bits: reserved formats, lane sizes, tags, port codes, register
pairs, special-register numbers, and immediates outside their limits. -/
def Instr.fieldsOk : Instr → Bool
  | .loop p _ _ _ => !p.immNeg
  | .trap p _ | .brk p _ => !p.immNeg
  | .wrsr _ _ sr => sr != 7
  | .fadd _ f _ _ _ | .fsub _ f _ _ _ | .fmul _ f _ _ _ | .fdiv _ f _ _ _ | .fmin _ f _ _ _ | .fmax _ f _ _ _
  | .fma _ f _ _ _ | .fsqrt _ f _ _ | .fabs _ f _ _ | .fneg _ f _ _ | .exp2 _ f _ _ | .log2 _ f _ _
  | .rcp _ f _ _ | .rsqrt _ f _ _ | .fclass _ f _ _ | .fcmpEq _ _ f _ _ _ | .fcmpLt _ _ f _ _ _
  | .fcmpLe _ _ f _ _ _ | .fcmpUn _ _ f _ _ _ => f != 3
  | .padd _ w _ _ _ | .psub _ w _ _ _ | .padds _ w _ _ _ | .psubs _ w _ _ _ | .paddn _ w _ _ _
  | .psubn _ w _ _ _ | .pavg _ w _ _ _ | .pabs _ w _ _ | .pmul _ w _ _ _ | .pmulh _ w _ _ _ | .pmin _ w _ _ _
  | .pmax _ w _ _ _ | .pminn _ w _ _ _ | .pmaxn _ w _ _ _ | .pdot _ w _ _ _ | .psll _ w _ _ _ | .psrl _ w _ _ _
  | .psra _ w _ _ _ | .pshuf _ w _ _ _ | .punpk _ w _ _ _ | .pcmpeq _ w _ _ _ | .pcmpgt _ w _ _ _ => w != 3
  | .ppack _ w _ _ _ => w == 1 || w == 2
  | .fcvt p s _ _ t =>
      s.toNat ≤ 8 && t.toNat ≤ 8 &&
      (match p.imms with
       | [] => true
       | x :: _ => (tagIsL s || tagIsL t) && scaleOk x)
  | .push _ port _ _ => port.toNat < 6
  | .pop _ port a b | .peek _ port a b => port.toNat < 6 && a != b
  | .hrd _ _ a b => a != b
  | .send _ _ _ n => n != 7
  | .redAdd _ ty _ _ | .redRd _ ty _ _ => ty != 1
  | .rdsrPriv p _ n => !p.immNeg && srAssigned (srNumber p n)
  | .wrsrPriv p _ n => !p.immNeg && srAssigned (srNumber p n) && !srReadOnly (srNumber p n)
  | _ => true

/-- A term that some chain of parcels encodes (R71 steps 2 and 3); a row without an encoding is well formed as it is. -/
def Instr.wellFormed (i : Instr) : Bool :=
  match i.use with
  | none => true
  | some (p, u) => p.ok u && i.fieldsOk

end Sys2Proof
end

