-- ==== Sys2Proof/Decode.lean ====
section
/-! DEFINITION. Decode: the decoder of 03_encoding.md, one parcel at a time as R61 and R71 have it, and after it the
encoder, written from the same tables R63, R65, R72 to R81. -/
namespace Sys2Proof

/-- Why a chain is no instruction: the first check of R71 steps 2 and 3 that fails, or code that ends too early. -/
inductive Reject where
  /-- The chain has no base parcel yet. -/
  | tooShort
  /-- A fifth prefix parcel (R66). -/
  | fifthPrefix
  /-- A prefix after a later kind, or a second GUARD, ORDER or PAGE (R66). -/
  | prefixOrder
  /-- A reserved code or a must-be-0 bit of a prefix payload (R65). -/
  | prefixCode
  /-- The base parcel fails R71 step 3. -/
  | base
  deriving DecidableEq, Repr

/-- The chain decoded so far: its prefixes, PAGE with its xop, and how many parcels they are. -/
structure DecState where
  pre : Pre := Pre.plain
  page : Option (BitVec 4 × BitVec 6) := none
  count : Nat := 0
  deriving DecidableEq, Repr

/-- The outcome of one more parcel. -/
inductive DecStep where
  | more (d : DecState)
  | done (i : Instr)
  | reject (r : Reject)
  deriving DecidableEq, Repr

/-- The start of a chain. -/
def DecState.start : DecState := DecState.mk Pre.plain none 0

/-- A prefix parcel (bits [15:12] = 0xF): the chain rules of R66 and the codes of R65. -/
def decodePrefix (d : DecState) (w : Parcel) : DecStep :=
  let pay := w.extractLsb' 0 10
  let next (p : Pre) (pg : Option (BitVec 4 × BitVec 6)) : DecStep := .more (DecState.mk p pg (d.count + 1))
  if d.count ≥ 4 then .reject .fifthPrefix
  else
    match (w.extractLsb' 10 2).toNat with
    | 0 => next (Pre.mk d.pre.guard d.pre.order (d.pre.imms ++ [pay])) d.page
    | 1 =>
      if d.page.isSome || !d.pre.imms.isEmpty then .reject .prefixOrder
      else
        let pg := pay.extractLsb' 6 4
        if pg == 0 || pg.toNat ≥ 7 then .reject .prefixCode
        else next d.pre (some (pg, pay.extractLsb' 0 6))
    | 2 =>
      if d.pre.guard.isSome || d.pre.order.isSome || d.page.isSome || !d.pre.imms.isEmpty then .reject .prefixOrder
      else if pay.extractLsb' 0 4 != 0 then .reject .prefixCode
      else next (Pre.mk (some (Guard.mk (pay.extractLsb' 5 5) (pay.extractLsb' 4 1))) none []) none
    | _ =>
      if d.pre.order.isSome || d.page.isSome || !d.pre.imms.isEmpty then .reject .prefixOrder
      else if pay.extractLsb' 7 3 == 7 || pay.extractLsb' 0 2 != 0 then .reject .prefixCode
      else next (Pre.mk d.pre.guard (some (Order.mk (pay.extractLsb' 7 3) (pay.extractLsb' 5 2) (pay.extractLsb' 4 1)
        (pay.extractLsb' 3 1) (pay.extractLsb' 2 1))) []) none

/-- The minor or kind `k` of a group whose forms share their fields, in the order of the group's list. -/
def pick {α : Type} (forms : List α) (k : Nat) (f : α → Instr) : Option Instr := (forms[k]?).map f

/-- A form whose must-be-0 bits are 0. -/
def zeroed (c : Bool) (i : Option Instr) : Option Instr := if c then i else none

/-- Page 0 (R72, R73, R74). -/
def decodePage0 (p : Pre) (w : Parcel) : Option Instr :=
  let mn := (w.extractLsb' 9 3).toNat
  let d := w.extractLsb' 6 3
  let a := w.extractLsb' 3 3
  let b := w.extractLsb' 0 3
  let fd := w.extractLsb' 9 3
  let fa := w.extractLsb' 6 3
  let imm := w.extractLsb' 0 6
  match (w.extractLsb' 12 4).toNat with
  | 0 => pick [Instr.add, .sub, .and, .or, .xor, .shl, .shr, .sar] mn fun f => f p d a b
  | 1 => pick [Instr.mul, .mulh, .mulhn, .min, .max, .minn, .maxn, .andn] mn fun f => f p d a b
  | 2 => some (.addi p fd fa imm)
  | 3 => some (.movi p fd (w.extractLsb' 0 9))
  | 4 => pick [Instr.cmpEq, .cmpNe, .cmpLt, .cmpGe, .cmpLo, .cmpHs, .cmpTst, .cmpNtst] mn fun f => f p d a b
  | 5 => pick [Instr.ldzB, .ldsB, .ldzH, .ldsH, .ldzW, .ldsW, .ldD] mn fun f => f p d a b
  | 6 => pick [Instr.stB, .stH, .stW, .stD] mn fun f => f p d a b
  | 7 => some (.br p fd (w.extractLsb' 8 1) (w.extractLsb' 0 8))
  | 8 => if w.extractLsb' 11 1 == 0 then some (.jmp p (w.extractLsb' 0 11)) else some (.call p (w.extractLsb' 0 11))
  | 9 => some (.loop p (w.extractLsb' 11 1) (w.extractLsb' 8 3) (w.extractLsb' 0 8))
  | 10 =>
    pick [Instr.paddH, .psubH, .paddsH, .psubsH, .pminH, .pmaxH, .pmulH, .pavgH] mn fun f => f p d a b
  | 11 =>
    match mn with
    | 0 => zeroed (b == 0) (some (.mov p d a))
    | 1 => zeroed (a == 0 && b == 0) (some (.rdp p d))
    | 2 => zeroed (d == 0 && b == 0) (some (.wrp p a))
    | 3 => zeroed (a == 0) (some (.rdsr p d b))
    | 4 => zeroed (d == 0) (some (.wrsr p a b))
    | 5 => some (.sel p d a b)
    | 6 => zeroed (d == 0 && a == 0 && b == 0) (some (.ret p))
    | _ => zeroed (d == 0 && b == 0) (some (.jr p a))
  | 12 =>
    pick [Instr.shli, .shri, .sari, .rori] (w.extractLsb' 10 2).toNat
      fun f => f p (w.extractLsb' 7 3) (w.extractLsb' 4 3) (w.extractLsb' 0 4)
  | 13 => some (.andi p fd fa imm)
  | 14 =>
    match mn with
    | 0 => zeroed (fa == 0 && imm == 0) (some (.nop p))
    | 1 => zeroed (fa == 0 && imm == 0) (some (.yield p))
    | 2 => zeroed (fa == 0 && imm == 0) (some (.fence p))
    | 3 => zeroed (fa == 0) (some (.trap p imm))
    | 4 => zeroed (fa == 0 && imm == 0) (some (.exit p))
    | 5 => zeroed (fa == 0) (some (.brk p imm))
    | 6 => zeroed (imm == 0) (some (.sleep p fa))
    | _ => none
  | _ => none

/-- Page 1 (R75). -/
def decodePage1 (p : Pre) (x : BitVec 6) (w : Parcel) : Option Instr :=
  let mn := (w.extractLsb' 9 3).toNat
  let d := w.extractLsb' 6 3
  let a := w.extractLsb' 3 3
  let b := w.extractLsb' 0 3
  let f2 := x.extractLsb' 0 2
  match (w.extractLsb' 12 4).toNat with
  | 0 =>
    zeroed (x.extractLsb' 2 4 == 0)
      (pick [Instr.fadd, .fsub, .fmul, .fdiv, .fmin, .fmax, .fma] mn fun f => f p f2 d a b)
  | 1 =>
    zeroed (x.extractLsb' 2 4 == 0 && b == 0)
      (pick [Instr.fsqrt, .fabs, .fneg, .exp2, .log2, .rcp, .rsqrt, .fclass] mn fun f => f p f2 d a)
  | 2 =>
    zeroed (x.extractLsb' 4 2 == 0)
      (pick [Instr.fcmpEq, .fcmpLt, .fcmpLe, .fcmpUn] mn fun f => f p (x.extractLsb' 2 2) f2 d a b)
  | 3 =>
    zeroed (x.extractLsb' 4 2 == 0 && w.extractLsb' 0 2 == 0)
      (some (.fcvt p (x.extractLsb' 0 4) (w.extractLsb' 9 3) (w.extractLsb' 6 3) (w.extractLsb' 2 4)))
  | _ => none

/-- Page 2 (R76). -/
def decodePage2 (p : Pre) (x : BitVec 6) (w : Parcel) : Option Instr :=
  let mn := (w.extractLsb' 9 3).toNat
  let d := w.extractLsb' 6 3
  let a := w.extractLsb' 3 3
  let b := w.extractLsb' 0 3
  let l := x.extractLsb' 0 2
  zeroed (x.extractLsb' 2 4 == 0)
    (match (w.extractLsb' 12 4).toNat with
     | 0 =>
       if mn == 7 then zeroed (b == 0) (some (.pabs p l d a))
       else pick [Instr.padd, .psub, .padds, .psubs, .paddn, .psubn, .pavg] mn fun f => f p l d a b
     | 1 => pick [Instr.pmul, .pmulh, .pmin, .pmax, .pminn, .pmaxn, .pdot] mn fun f => f p l d a b
     | 2 => pick [Instr.psll, .psrl, .psra, .pshuf, .ppack, .punpk, .pcmpeq, .pcmpgt] mn fun f => f p l d a b
     | 4 =>
       pick [Instr.cmpxEq, .cmpxNe, .cmpxLt, .cmpxGe, .cmpxLo, .cmpxHs, .cmpxTst, .cmpxNtst] mn fun f => f p l d a b
     | _ => none)

/-- Page 3 (R77, R78): the two IMM payloads and hw form the handle word, whose fields are hd, ha, hb and a zero bit. -/
def decodePage3 (p : Pre) (x : BitVec 6) (w : Parcel) : Option Instr :=
  match p.imms with
  | [h1, h2] =>
    let q := Pre.mk p.guard p.order []
    let h : BitVec 25 := h1 ++ h2 ++ w.extractLsb' 0 5
    let hd := h.extractLsb' 17 8
    let ha := h.extractLsb' 9 8
    let hb := h.extractLsb' 1 8
    let mn := (w.extractLsb' 9 3).toNat
    let k := hb.extractLsb' 0 3
    zeroed (x == 0 && w.extractLsb' 5 4 == 0 && h.extractLsb' 0 1 == 0)
      (match (w.extractLsb' 12 4).toNat with
       | 0 => pick [Instr.tadd, .tsub, .tmul, .tfma, .tmin, .tmax, .tsel] mn fun f => f q hd ha hb
       | 1 =>
         zeroed (hb == 0)
           (pick [Instr.tcvt, .texp2, .tlog2, .trcp, .tcopy, .tredSum, .tredMax] mn fun f => f q hd ha)
       | 2 =>
         zeroed (hb.extractLsb' 3 5 == 0)
           (match mn with
            | 0 => some (.tscale q hd ha k)
            | 1 => zeroed (ha == 0) (some (.tfill q hd k))
            | 2 => some (.tmask q hd ha k)
            | _ => none)
       | _ => none)
  | _ => none

/-- Page 4 (R79). -/
def decodePage4 (p : Pre) (x : BitVec 6) (w : Parcel) : Option Instr :=
  let mn := (w.extractLsb' 9 3).toNat
  let d := w.extractLsb' 6 3
  let a := w.extractLsb' 3 3
  let b := w.extractLsb' 0 3
  let k := (w.extractLsb' 10 2).toNat
  let h := w.extractLsb' 2 8
  let lo := w.extractLsb' 0 2
  match (w.extractLsb' 12 4).toNat with
  | 0 => zeroed (x == 0) (pick [Instr.push, .pop, .peek] mn fun f => f p d a b)
  | 1 =>
    zeroed (x.extractLsb' 4 2 == 0 && lo == 0)
      (pick [Instr.rwaitF, .rwaitE, .radvP, .radvC] k fun f => f p (x.extractLsb' 0 4) h)
  | 2 =>
    match k with
    | 0 => zeroed (lo == 0) (some (.hdef p h (x.extractLsb' 0 3) (x.extractLsb' 3 3)))
    | 1 => zeroed (lo == 0) (some (.hrd p h (x.extractLsb' 0 3) (x.extractLsb' 3 3)))
    | 2 => some (.hmov p h (lo ++ x))
    | _ => none
  | 3 =>
    zeroed (x == 0)
      (match mn with
       | 0 => some (.send p d a b)
       | 1 => zeroed (d == 0 && a == 0 && b == 0) (some (.hret p))
       | _ => none)
  | _ => none

/-- The size bit of an amo form: xop 2 is .w, 3 is .d (R80). -/
def sizeXop (sz : BitVec 1) : BitVec 6 := (1 : BitVec 5) ++ sz

/-- Page 5 (R80). -/
def decodePage5 (p : Pre) (x : BitVec 6) (w : Parcel) : Option Instr :=
  let mn := (w.extractLsb' 9 3).toNat
  let d := w.extractLsb' 6 3
  let a := w.extractLsb' 3 3
  let b := w.extractLsb' 0 3
  let sz := x.extractLsb' 0 1
  let sized := x.extractLsb' 1 5 == 1
  let ty := x.extractLsb' 0 2
  match (w.extractLsb' 12 4).toNat with
  | 0 =>
    zeroed (x == 0)
      (match mn with
       | 0 => some (.ldfe p d a b)
       | 1 => some (.ldff p d a b)
       | 2 => some (.stfe p d a b)
       | 3 => some (.stef p d a b)
       | 4 => zeroed (d == 0) (some (.feSet p a b))
       | 5 => zeroed (d == 0) (some (.feClr p a b))
       | 6 => some (.feRd p d a b)
       | _ => none)
  | 1 =>
    zeroed (x == 0 && d == 0)
      (match mn with
       | 0 => some (.waddrEq p a b)
       | 1 => some (.waddrNe p a b)
       | 2 => zeroed (b == 0) (some (.barArrive p a))
       | 3 => some (.barWait p a b)
       | 4 => zeroed (b == 0) (some (.joinDec p a))
       | 5 => zeroed (b == 0) (some (.joinWait p a))
       | 6 => some (.cflush p a b)
       | _ => some (.cinval p a b))
  | 2 =>
    zeroed sized
      (pick [Instr.amoAdd, .amoAnd, .amoOr, .amoXor, .amoMin, .amoMax, .amoMinn, .amoMaxn] mn fun f => f p sz d a b)
  | 3 =>
    match mn with
    | 0 => zeroed sized (some (.amoSwap p sz d a b))
    | 1 => zeroed sized (some (.amoCas p sz d a b))
    | 2 => zeroed (x.extractLsb' 2 4 == 0 && d == 0) (some (.redAdd p ty a b))
    | 3 => zeroed (x.extractLsb' 2 4 == 0 && b == 0) (some (.redRd p ty d a))
    | 4 => zeroed (x == 0 && d == 0 && b == 0) (some (.mig p a))
    | 5 => zeroed (x == 0 && b == 0) (some (.spawn p d a))
    | _ => none
  | _ => none

/-- Page 6 (R81). -/
def decodePage6 (p : Pre) (x : BitVec 6) (w : Parcel) : Option Instr :=
  let mn := (w.extractLsb' 9 3).toNat
  let d := w.extractLsb' 6 3
  let a := w.extractLsb' 3 3
  let b := w.extractLsb' 0 3
  zeroed (x == 0)
    (match (w.extractLsb' 12 4).toNat with
     | 0 => zeroed (w.extractLsb' 6 3 == 0) (some (.rdsrPriv p (w.extractLsb' 9 3) (w.extractLsb' 0 6)))
     | 1 => zeroed (w.extractLsb' 9 3 == 0) (some (.wrsrPriv p (w.extractLsb' 6 3) (w.extractLsb' 0 6)))
     | 2 =>
       match mn with
       | 0 => zeroed (d == 0 && a == 0 && b == 0) (some (.eret p))
       | 1 => zeroed (d == 0 && b == 0) (some (.upret p a))
       | 2 => zeroed (d == 0) (some (.tlbinv p a b))
       | 3 => zeroed (d == 0 && b == 0) (some (.seginv p a))
       | 4 => zeroed (d == 0) (some (.sltWr p a b))
       | 5 => some (.capmint p d a b)
       | 6 => zeroed (a == 0 && b == 0) (some (.rdtick p d))
       | _ => none
     | 3 =>
       match mn with
       | 0 => some (.cxld p d a b)
       | 1 => some (.cxst p d a b)
       | 2 => zeroed (d == 0 && b == 0) (some (.ymark p a))
       | 3 => zeroed (b == 0) (some (.yrd p d a))
       | 4 => zeroed (d == 0) (some (.yctl p a b))
       | 5 => zeroed (a == 0 && b == 0) (some (.cflRd p d))
       | 6 => zeroed (d == 0 && b == 0) (some (.cflClr p a))
       | _ => none
     | _ => none)

/-- The form that a base parcel names on the page of its chain, must-be-0 bits checked; its other checks are those of
`Instr.wellFormed`. -/
def decodeForm (p : Pre) (page : Option (BitVec 4 × BitVec 6)) (w : Parcel) : Option Instr :=
  match page with
  | none => decodePage0 p w
  | some (pg, x) =>
    match pg.toNat with
    | 1 => decodePage1 p x w
    | 2 => decodePage2 p x w
    | 3 => decodePage3 p x w
    | 4 => decodePage4 p x w
    | 5 => decodePage5 p x w
    | 6 => decodePage6 p x w
    | _ => none

/-- One more parcel of a chain (R71 steps 2 and 3). -/
def decodeParcel (d : DecState) (w : Parcel) : DecStep :=
  if w.extractLsb' 12 4 == 15 then decodePrefix d w
  else
    match decodeForm d.pre d.page w with
    | none => .reject .base
    | some i => if i.wellFormed then .done i else .reject .base

/-- Decode from a list of parcels: the instruction and the parcels after it, or why there is none. -/
def decodeFrom (d : DecState) : List Parcel → Except Reject (Instr × List Parcel)
  | [] => .error .tooShort
  | w :: ws =>
    match decodeParcel d w with
    | .more d' => decodeFrom d' ws
    | .done i => .ok (i, ws)
    | .reject r => .error r

/-- Decode from the first parcel of a chain. -/
def decode (ws : List Parcel) : Except Reject (Instr × List Parcel) := decodeFrom DecState.start ws

/-- The parcels that little-endian bytes hold (R5, R60); an odd last byte is no parcel. -/
def parcelsOf : List Byte → List Parcel
  | lo :: hi :: bs => (hi ++ lo) :: parcelsOf bs
  | _ => []

/-- Total on any bytes: the instruction at their start, with the parcels after it. -/
def decodeBytes (bs : List Byte) : Except Reject (Instr × List Parcel) := decode (parcelsOf bs)

/-- The bytes of parcels, each low byte first. -/
def bytesOf : List Parcel → List Byte
  | [] => []
  | w :: ws => w.extractLsb' 0 8 :: w.extractLsb' 8 8 :: bytesOf ws

/-- `n` parcels of a number, the lowest 16 bits first. -/
def parcelsOfNat : Nat → Nat → List Parcel
  | 0, _ => []
  | n + 1, w => BitVec.ofNat 16 w :: parcelsOfNat n (w / 65536)

/-- The instruction whose bits are `w`, numbered as the opcode table numbers them; five parcels are the longest
instruction (R60), the ones above `nbits` being zero. -/
def decodeTableWord (nbits w : Nat) : Option Instr :=
  match decodeBytes (bytesOf (parcelsOfNat 5 (w % 2 ^ nbits))) with
  | .ok (i, _) => some i
  | .error _ => none

/-- The value that IMM payloads and a base field form (R67): unsigned with no IMM, else sign-extended from the top bit of
the first payload. -/
def immUnsigned (imms : List (BitVec 10)) (w field : Nat) : Nat :=
  imms.foldl (fun acc x => acc * 1024 + x.toNat) 0 * 2 ^ w + field

/-- R67 with IMM prefixes: signed from the top bit of the first payload. -/
def immSigned (imms : List (BitVec 10)) (w field : Nat) : Int :=
  let bits := 10 * imms.length + w
  let v := immUnsigned imms w field
  if v < 2 ^ (bits - 1) then (v : Int) else (v : Int) - 2 ^ bits

/-- A field read signed alone (addi, andi, movi, br, jmp, call). -/
def Pre.imm {w : Nat} (p : Pre) (field : BitVec w) : Int := immSigned p.imms w field.toNat

/-- A field read unsigned alone and signed with IMM (displacements, shift amounts, loop lengths, codes, numbers). -/
def Pre.immU {w : Nat} (p : Pre) (field : BitVec w) : Int :=
  match p.imms with
  | [] => (field.toNat : Int)
  | _ :: _ => immSigned p.imms w field.toNat

/-! ## The encoder -/

/-- The parcel formats of R63. -/
def f3 (op : BitVec 4) (mn d a b : BitVec 3) : Parcel := op ++ mn ++ d ++ a ++ b
def fi (op : BitVec 4) (d a : BitVec 3) (imm : BitVec 6) : Parcel := op ++ d ++ a ++ imm
def fw (op : BitVec 4) (d : BitVec 3) (imm : BitVec 9) : Parcel := op ++ d ++ imm
def fb (op : BitVec 4) (p : BitVec 3) (s : BitVec 1) (off : BitVec 8) : Parcel := op ++ p ++ s ++ off
def fj (op : BitVec 4) (l : BitVec 1) (off : BitVec 11) : Parcel := op ++ l ++ off
def fs (op : BitVec 4) (kind : BitVec 2) (d a : BitVec 3) (sh : BitVec 4) : Parcel := op ++ kind ++ d ++ a ++ sh
def fl (op : BitVec 4) (i : BitVec 1) (c : BitVec 3) (len : BitVec 8) : Parcel := op ++ i ++ c ++ len
def fy (op : BitVec 4) (mn a : BitVec 3) (imm : BitVec 6) : Parcel := op ++ mn ++ a ++ imm
def fc (op : BitVec 4) (d a : BitVec 3) (dtag : BitVec 4) : Parcel := op ++ d ++ a ++ dtag ++ (0 : BitVec 2)
def fr (op : BitVec 4) (k : BitVec 2) (h : BitVec 8) (x : BitVec 2) : Parcel := op ++ k ++ h ++ x
def ft (op : BitVec 4) (mn : BitVec 3) (h : BitVec 25) : Parcel := op ++ mn ++ (0 : BitVec 4) ++ h.extractLsb' 0 5

/-- The handle word of R77. -/
def handleWord (hd ha hb : BitVec 8) : BitVec 25 := hd ++ ha ++ hb ++ (0 : BitVec 1)

/-- A general register in the hb field: [3:1] of the handle word with [8:4] zero (R77). -/
def regByte (k : BitVec 3) : BitVec 8 := (0 : BitVec 5) ++ k

/-- The xop forms with a 2-bit, two 2-bit and a 4-bit field. -/
def xop2 (f : BitVec 2) : BitVec 6 := (0 : BitVec 4) ++ f
def xop22 (q f : BitVec 2) : BitVec 6 := (0 : BitVec 2) ++ q ++ f
def xop4 (n : BitVec 4) : BitVec 6 := (0 : BitVec 2) ++ n

/-- The prefix parcels of R65. -/
def immParcel (x : BitVec 10) : Parcel := (15 : BitVec 4) ++ (0 : BitVec 2) ++ x
def pageParcel (pg : BitVec 4) (x : BitVec 6) : Parcel := (15 : BitVec 4) ++ (1 : BitVec 2) ++ pg ++ x
def guardParcel (g : Guard) : Parcel := (15 : BitVec 4) ++ (2 : BitVec 2) ++ g.idx ++ g.sense ++ (0 : BitVec 4)
def orderParcel (o : Order) : Parcel :=
  (15 : BitVec 4) ++ (3 : BitVec 2) ++ o.scope ++ o.ord ++ o.stream ++ o.noAlloc ++ o.llcOnly ++ (0 : BitVec 2)

/-- The handle word of a page-3 form. -/
def Instr.handles : Instr → BitVec 25
  | .tadd _ d a b | .tsub _ d a b | .tmul _ d a b | .tfma _ d a b | .tmin _ d a b | .tmax _ d a b
  | .tsel _ d a b => handleWord d a b
  | .tcvt _ d a | .texp2 _ d a | .tlog2 _ d a | .trcp _ d a | .tcopy _ d a | .tredSum _ d a
  | .tredMax _ d a => handleWord d a 0
  | .tscale _ d a k | .tmask _ d a k => handleWord d a (regByte k)
  | .tfill _ d k => handleWord d 0 (regByte k)
  | _ => 0

/-- The xop and the base parcel of each encoded form, from the tables R72 to R81. -/
def Instr.code : Instr → BitVec 6 × Parcel

  | .add _ d a b => (0, f3 0 0 d a b)
  | .sub _ d a b => (0, f3 0 1 d a b)
  | .and _ d a b => (0, f3 0 2 d a b)
  | .or _ d a b => (0, f3 0 3 d a b)
  | .xor _ d a b => (0, f3 0 4 d a b)
  | .shl _ d a b => (0, f3 0 5 d a b)
  | .shr _ d a b => (0, f3 0 6 d a b)
  | .sar _ d a b => (0, f3 0 7 d a b)
  | .mul _ d a b => (0, f3 1 0 d a b)
  | .mulh _ d a b => (0, f3 1 1 d a b)
  | .mulhn _ d a b => (0, f3 1 2 d a b)
  | .min _ d a b => (0, f3 1 3 d a b)
  | .max _ d a b => (0, f3 1 4 d a b)
  | .minn _ d a b => (0, f3 1 5 d a b)
  | .maxn _ d a b => (0, f3 1 6 d a b)
  | .andn _ d a b => (0, f3 1 7 d a b)
  | .addi _ d a imm => (0, fi 2 d a imm)
  | .movi _ d imm => (0, fw 3 d imm)
  | .cmpEq _ d a b => (0, f3 4 0 d a b)
  | .cmpNe _ d a b => (0, f3 4 1 d a b)
  | .cmpLt _ d a b => (0, f3 4 2 d a b)
  | .cmpGe _ d a b => (0, f3 4 3 d a b)
  | .cmpLo _ d a b => (0, f3 4 4 d a b)
  | .cmpHs _ d a b => (0, f3 4 5 d a b)
  | .cmpTst _ d a b => (0, f3 4 6 d a b)
  | .cmpNtst _ d a b => (0, f3 4 7 d a b)
  | .ldzB _ d a b => (0, f3 5 0 d a b)
  | .ldsB _ d a b => (0, f3 5 1 d a b)
  | .ldzH _ d a b => (0, f3 5 2 d a b)
  | .ldsH _ d a b => (0, f3 5 3 d a b)
  | .ldzW _ d a b => (0, f3 5 4 d a b)
  | .ldsW _ d a b => (0, f3 5 5 d a b)
  | .ldD _ d a b => (0, f3 5 6 d a b)
  | .stB _ d a b => (0, f3 6 0 d a b)
  | .stH _ d a b => (0, f3 6 1 d a b)
  | .stW _ d a b => (0, f3 6 2 d a b)
  | .stD _ d a b => (0, f3 6 3 d a b)
  | .br _ pr sense off => (0, fb 7 pr sense off)
  | .jmp _ off => (0, fj 8 0 off)
  | .call _ off => (0, fj 8 1 off)
  | .loop _ l c len => (0, fl 9 l c len)
  | .paddH _ d a b => (0, f3 10 0 d a b)
  | .psubH _ d a b => (0, f3 10 1 d a b)
  | .paddsH _ d a b => (0, f3 10 2 d a b)
  | .psubsH _ d a b => (0, f3 10 3 d a b)
  | .pminH _ d a b => (0, f3 10 4 d a b)
  | .pmaxH _ d a b => (0, f3 10 5 d a b)
  | .pmulH _ d a b => (0, f3 10 6 d a b)
  | .pavgH _ d a b => (0, f3 10 7 d a b)
  | .mov _ d a => (0, f3 11 0 d a 0)
  | .rdp _ d => (0, f3 11 1 d 0 0)
  | .wrp _ a => (0, f3 11 2 0 a 0)
  | .rdsr _ d sr => (0, f3 11 3 d 0 sr)
  | .wrsr _ a sr => (0, f3 11 4 0 a sr)
  | .sel _ d a b => (0, f3 11 5 d a b)
  | .ret _ => (0, f3 11 6 0 0 0)
  | .jr _ a => (0, f3 11 7 0 a 0)
  | .shli _ d a sh => (0, fs 12 0 d a sh)
  | .shri _ d a sh => (0, fs 12 1 d a sh)
  | .sari _ d a sh => (0, fs 12 2 d a sh)
  | .rori _ d a sh => (0, fs 12 3 d a sh)
  | .andi _ d a imm => (0, fi 13 d a imm)
  | .nop _ => (0, fy 14 0 0 0)
  | .yield _ => (0, fy 14 1 0 0)
  | .fence _ => (0, fy 14 2 0 0)
  | .trap _ code => (0, fy 14 3 0 code)
  | .exit _ => (0, fy 14 4 0 0)
  | .brk _ code => (0, fy 14 5 0 code)
  | .sleep _ a => (0, fy 14 6 a 0)
  | .fadd _ f d a b => (xop2 f, f3 0 0 d a b)
  | .fsub _ f d a b => (xop2 f, f3 0 1 d a b)
  | .fmul _ f d a b => (xop2 f, f3 0 2 d a b)
  | .fdiv _ f d a b => (xop2 f, f3 0 3 d a b)
  | .fmin _ f d a b => (xop2 f, f3 0 4 d a b)
  | .fmax _ f d a b => (xop2 f, f3 0 5 d a b)
  | .fma _ f d a b => (xop2 f, f3 0 6 d a b)
  | .fsqrt _ f d a => (xop2 f, f3 1 0 d a 0)
  | .fabs _ f d a => (xop2 f, f3 1 1 d a 0)
  | .fneg _ f d a => (xop2 f, f3 1 2 d a 0)
  | .exp2 _ f d a => (xop2 f, f3 1 3 d a 0)
  | .log2 _ f d a => (xop2 f, f3 1 4 d a 0)
  | .rcp _ f d a => (xop2 f, f3 1 5 d a 0)
  | .rsqrt _ f d a => (xop2 f, f3 1 6 d a 0)
  | .fclass _ f d a => (xop2 f, f3 1 7 d a 0)
  | .fcmpEq _ q f d a b => (xop22 q f, f3 2 0 d a b)
  | .fcmpLt _ q f d a b => (xop22 q f, f3 2 1 d a b)
  | .fcmpLe _ q f d a b => (xop22 q f, f3 2 2 d a b)
  | .fcmpUn _ q f d a b => (xop22 q f, f3 2 3 d a b)
  | .fcvt _ src d a dst => (xop4 src, fc 3 d a dst)
  | .padd _ w d a b => (xop2 w, f3 0 0 d a b)
  | .psub _ w d a b => (xop2 w, f3 0 1 d a b)
  | .padds _ w d a b => (xop2 w, f3 0 2 d a b)
  | .psubs _ w d a b => (xop2 w, f3 0 3 d a b)
  | .paddn _ w d a b => (xop2 w, f3 0 4 d a b)
  | .psubn _ w d a b => (xop2 w, f3 0 5 d a b)
  | .pavg _ w d a b => (xop2 w, f3 0 6 d a b)
  | .pabs _ w d a => (xop2 w, f3 0 7 d a 0)
  | .pmul _ w d a b => (xop2 w, f3 1 0 d a b)
  | .pmulh _ w d a b => (xop2 w, f3 1 1 d a b)
  | .pmin _ w d a b => (xop2 w, f3 1 2 d a b)
  | .pmax _ w d a b => (xop2 w, f3 1 3 d a b)
  | .pminn _ w d a b => (xop2 w, f3 1 4 d a b)
  | .pmaxn _ w d a b => (xop2 w, f3 1 5 d a b)
  | .pdot _ w d a b => (xop2 w, f3 1 6 d a b)
  | .psll _ w d a b => (xop2 w, f3 2 0 d a b)
  | .psrl _ w d a b => (xop2 w, f3 2 1 d a b)
  | .psra _ w d a b => (xop2 w, f3 2 2 d a b)
  | .pshuf _ w d a b => (xop2 w, f3 2 3 d a b)
  | .ppack _ w d a b => (xop2 w, f3 2 4 d a b)
  | .punpk _ w d a b => (xop2 w, f3 2 5 d a b)
  | .pcmpeq _ w d a b => (xop2 w, f3 2 6 d a b)
  | .pcmpgt _ w d a b => (xop2 w, f3 2 7 d a b)
  | .cmpxEq _ q d a b => (xop2 q, f3 4 0 d a b)
  | .cmpxNe _ q d a b => (xop2 q, f3 4 1 d a b)
  | .cmpxLt _ q d a b => (xop2 q, f3 4 2 d a b)
  | .cmpxGe _ q d a b => (xop2 q, f3 4 3 d a b)
  | .cmpxLo _ q d a b => (xop2 q, f3 4 4 d a b)
  | .cmpxHs _ q d a b => (xop2 q, f3 4 5 d a b)
  | .cmpxTst _ q d a b => (xop2 q, f3 4 6 d a b)
  | .cmpxNtst _ q d a b => (xop2 q, f3 4 7 d a b)
  | .tadd _ hd ha hb => (0, ft 0 0 (handleWord hd ha hb))
  | .tsub _ hd ha hb => (0, ft 0 1 (handleWord hd ha hb))
  | .tmul _ hd ha hb => (0, ft 0 2 (handleWord hd ha hb))
  | .tfma _ hd ha hb => (0, ft 0 3 (handleWord hd ha hb))
  | .tmin _ hd ha hb => (0, ft 0 4 (handleWord hd ha hb))
  | .tmax _ hd ha hb => (0, ft 0 5 (handleWord hd ha hb))
  | .tsel _ hd ha hb => (0, ft 0 6 (handleWord hd ha hb))
  | .tcvt _ hd ha => (0, ft 1 0 (handleWord hd ha 0))
  | .texp2 _ hd ha => (0, ft 1 1 (handleWord hd ha 0))
  | .tlog2 _ hd ha => (0, ft 1 2 (handleWord hd ha 0))
  | .trcp _ hd ha => (0, ft 1 3 (handleWord hd ha 0))
  | .tcopy _ hd ha => (0, ft 1 4 (handleWord hd ha 0))
  | .tredSum _ hd ha => (0, ft 1 5 (handleWord hd ha 0))
  | .tredMax _ hd ha => (0, ft 1 6 (handleWord hd ha 0))
  | .tscale _ hd ha k => (0, ft 2 0 (handleWord hd ha (regByte k)))
  | .tfill _ hd k => (0, ft 2 1 (handleWord hd 0 (regByte k)))
  | .tmask _ hd ha k => (0, ft 2 2 (handleWord hd ha (regByte k)))
  | .push _ port a b => (0, f3 0 0 port a b)
  | .pop _ port a b => (0, f3 0 1 port a b)
  | .peek _ port a b => (0, f3 0 2 port a b)
  | .rwaitF _ n h => (xop4 n, fr 1 0 h 0)
  | .rwaitE _ n h => (xop4 n, fr 1 1 h 0)
  | .radvP _ n h => (xop4 n, fr 1 2 h 0)
  | .radvC _ n h => (xop4 n, fr 1 3 h 0)
  | .hdef _ h a b => (b ++ a, fr 2 0 h 0)
  | .hrd _ h a b => (b ++ a, fr 2 1 h 0)
  | .hmov _ hd ha => (ha.extractLsb' 0 6, fr 2 2 hd (ha.extractLsb' 6 2))
  | .send _ t h n => (0, f3 3 0 t h n)
  | .hret _ => (0, f3 3 1 0 0 0)
  | .ldfe _ d a b => (0, f3 0 0 d a b)
  | .ldff _ d a b => (0, f3 0 1 d a b)
  | .stfe _ d a b => (0, f3 0 2 d a b)
  | .stef _ d a b => (0, f3 0 3 d a b)
  | .feSet _ a b => (0, f3 0 4 0 a b)
  | .feClr _ a b => (0, f3 0 5 0 a b)
  | .feRd _ d a b => (0, f3 0 6 d a b)
  | .waddrEq _ a b => (0, f3 1 0 0 a b)
  | .waddrNe _ a b => (0, f3 1 1 0 a b)
  | .barArrive _ a => (0, f3 1 2 0 a 0)
  | .barWait _ a b => (0, f3 1 3 0 a b)
  | .joinDec _ a => (0, f3 1 4 0 a 0)
  | .joinWait _ a => (0, f3 1 5 0 a 0)
  | .cflush _ a b => (0, f3 1 6 0 a b)
  | .cinval _ a b => (0, f3 1 7 0 a b)
  | .amoAdd _ sz d a b => (sizeXop sz, f3 2 0 d a b)
  | .amoAnd _ sz d a b => (sizeXop sz, f3 2 1 d a b)
  | .amoOr _ sz d a b => (sizeXop sz, f3 2 2 d a b)
  | .amoXor _ sz d a b => (sizeXop sz, f3 2 3 d a b)
  | .amoMin _ sz d a b => (sizeXop sz, f3 2 4 d a b)
  | .amoMax _ sz d a b => (sizeXop sz, f3 2 5 d a b)
  | .amoMinn _ sz d a b => (sizeXop sz, f3 2 6 d a b)
  | .amoMaxn _ sz d a b => (sizeXop sz, f3 2 7 d a b)
  | .amoSwap _ sz d a b => (sizeXop sz, f3 3 0 d a b)
  | .amoCas _ sz d a b => (sizeXop sz, f3 3 1 d a b)
  | .redAdd _ ty a b => (xop2 ty, f3 3 2 0 a b)
  | .redRd _ ty d a => (xop2 ty, f3 3 3 d a 0)
  | .mig _ a => (0, f3 3 4 0 a 0)
  | .spawn _ d a => (0, f3 3 5 d a 0)
  | .rdsrPriv _ d n => (0, fi 0 d 0 n)
  | .wrsrPriv _ a n => (0, fi 1 0 a n)
  | .eret _ => (0, f3 2 0 0 0 0)
  | .upret _ a => (0, f3 2 1 0 a 0)
  | .tlbinv _ a b => (0, f3 2 2 0 a b)
  | .seginv _ a => (0, f3 2 3 0 a 0)
  | .sltWr _ a b => (0, f3 2 4 0 a b)
  | .capmint _ d a b => (0, f3 2 5 d a b)
  | .rdtick _ d => (0, f3 2 6 d 0 0)
  | .cxld _ d a b => (0, f3 3 0 d a b)
  | .cxst _ d a b => (0, f3 3 1 d a b)
  | .ymark _ a => (0, f3 3 2 0 a 0)
  | .yrd _ d a => (0, f3 3 3 d a 0)
  | .yctl _ a b => (0, f3 3 4 0 a b)
  | .cflRd _ d => (0, f3 3 5 d 0 0)
  | .cflClr _ a => (0, f3 3 6 0 a 0)
  | .mmFmt _ _ | .mmMul _ _ | .mmRowAdvance _ _ | .slGather _ | .slScatter _ | .slScatadd _ | .flCopy _
  | .flFill _ | .boTopk _ | .boMerge _ | .clusterMemoryFill _ | .clusterMemoryFillEnd _ | .qnBag _ | .ywLoad _
  | .ywAttach _ | .ywDetach _ | .ywDump _ | .yarrowBudgetWindow _ | .triggerWrite _ | .completionDelivery _
  | .fillResponse _ | .contextEvent _ | .tailraceWalk _ | .reclass _ | .migrationArrival _
  | .arrivalToContextL2 _ | .counterIncrement _ | .sleepWake _ _ | .hostAddrPoll _ _ | .contextFetch _ _
  | .contextLineLost _ _ | .probeAnswer _ _ | .fenceDrain _ _ | .contextEviction _ _ | .watchDelivery _ _
  | .storeQueuePerform _ _ | .stage1Walk _ _ | .llcMiss _ _ _ _ | .pageResponse _ _ _ | .dirLoadMiss _ _ _ _
  | .dirStoreOwnership _ _ _ _ | .dirWriteBack _ _ _ _ | .dirCoreEvict _ _ _ | .hostRead _ _
  | .hostWrite _ _ _ _ | .frameAssign _ _ _ _ | .frameRelease _ | .frameScrubDone _ | .contextPull _
  | .faultHandlerStart _ | .messageHandlerStart _ | .vfSwitchSweep _ | .scratchpadScrub _
  | .scratchpadScrubEnd _ | .contextWriteBack _ _ | .arrivalAck _ _ | .replayTimeout _ _
  | .replayRecordError _ _ | .launchDelivery _ _ | .rcbAdmit _ _ | .rcbFinish _ _ | .cycleBudgetAbort _ _
  | .deadlinePass _ _ | .messageArrival _ _ | .qtailDoorbell _ _ _ | .wqLaunch _ _ | .wqGang _ _
  | .wqEntryPoll _ _ | .wqEntryTimeout _ _ | .errClear _ _ | .sliceEnd _ | .split _ | .merge _ | .fmUnbind _
  | .gangReady _ _ | .gangAbort _ _ | .gangReadyDeadline _ | .gangStart _ | .filterRun _ _
  | .yarrowTickEvent _ _ _ | .vfNodeWrite _ _ | .ctxSegmentWrite _ _ _ | .bankMaskWrite _ _ _ | .vfReset _
  | .fvClear _ | .fmBind _ _ | .parityError _ _ | .linkRetrain _ _ | .patrolScrub _ _ | .wassign | .setw
  | .stage _ | .commit | .attest | .setsec | .moduleReset | .powerLoss | .globalTick | .tickUnsynchronised
  | .mgmtSession _ | .powerCapWrite _ | .throttleLevelChange _ _ | .thermalTrip _ | .cxlPortDown _
  | .registerWrite _ _ | .illegalEncoding _ | .partialCommandAbandon _ _ _ | .linkRetry _ => (0, 0)

/-- The prefix parcels in the order of R66. -/
def Instr.prefixParcels (i : Instr) (p : Pre) (u : Use) : List Parcel :=
  (match p.guard with | none => [] | some g => [guardParcel g])
    ++ (match p.order with | none => [] | some o => [orderParcel o])
    ++ (if u.page == 0 then [] else [pageParcel u.page i.code.1])
    ++ p.imms.map immParcel
    ++ (if u.page == 3 then [immParcel (i.handles.extractLsb' 15 10), immParcel (i.handles.extractLsb' 5 10)] else [])

/-- The parcels of an instruction, in address order; none for a row without an encoding. -/
def encode (i : Instr) : Option (List Parcel) :=
  match i.use with
  | none => none
  | some (p, u) => some (i.prefixParcels p u ++ [i.code.2])

/-- Up to five parcels as R71 lays them out in tval: parcel j in bits [16j+15:16j]; of five, the last four. -/
def packParcels (ws : List Parcel) : Word :=
  let four := if ws.length ≥ 5 then ws.drop (ws.length - 4) else ws
  BitVec.ofNat 64 (four.foldr (fun w acc => w.toNat + 65536 * acc) 0)

/-- The parcels of an instruction packed for tval. -/
def Instr.packed (i : Instr) : Word :=
  match encode i with
  | none => 0
  | some ws => packParcels ws

/-- The access size code of R19 for a base parcel: only loads, stores, the FE group, the waits on one word, the
atomics and the reductions access 1, 2, 4 or 8 bytes. Those of the last two that trap at decode for a nonzero must-be-0
bit of xop have the size that xop's low bits name (R279). -/
def sizeCode (page : Option (BitVec 4 × BitVec 6)) (w : Parcel) : BitVec 2 :=
  let op := (w.extractLsb' 12 4).toNat
  let mn := (w.extractLsb' 9 3).toNat
  match page with
  | none =>
    if op == 5 then BitVec.ofNat 2 (if mn == 7 then 0 else mn / 2)
    else if op == 6 then BitVec.ofNat 2 (if mn < 4 then mn else 0)
    else 0
  | some (pg, x) =>
    let y : BitVec 2 := x.extractLsb' 0 2
    if pg == 5 then
      match op with
      | 0 => if mn == 7 then 0 else 3
      | 1 => if mn == 0 || mn == 1 || mn == 4 || mn == 5 then 3 else 0
      | 2 => if y == 2 then 2 else if y == 3 then 3 else 0
      | 3 =>
        if mn == 0 || mn == 1 then (if y == 2 then 2 else if y == 3 then 3 else 0)
        else if mn == 2 || mn == 3 then (if y == 3 then 3 else if y == 0 || y == 2 then 2 else 0)
        else 0
      | _ => 0
    else 0

/-- tinfo (R19): the parcel count, which prefixes the chain has, and the access size code. -/
def tinfoOf (count : Nat) (guard order page : Bool) (imms : Nat) (size : BitVec 2) : BitVec 16 :=
  BitVec.ofNat 16 (count + (if guard then 8 else 0) + (if order then 16 else 0) + (if page then 32 else 0)
    + (if imms ≥ 1 then 64 else 0) + (if imms ≥ 2 then 128 else 0) + 256 * size.toNat)

/-- tinfo of a whole instruction. -/
def Instr.tinfo (i : Instr) : BitVec 16 :=
  match i.use with
  | none => 0
  | some (p, u) =>
    let imms := p.imms.length + (if u.page == 3 then 2 else 0)
    tinfoOf (p.prefixes u.page + 1) p.guard.isSome p.order.isSome (u.page != 0) imms
      (sizeCode (if u.page == 0 then none else some (u.page, i.code.1)) i.code.2)

/-- Parcels of an instruction. -/
def Instr.parcels (i : Instr) : Nat :=
  match i.use with
  | none => 0
  | some (p, u) => p.prefixes u.page + 1

/-- tinfo of a chain that ended at a rejected or unfetched parcel (R19, R71): only the parcels decoded count. -/
def tinfoChain (d : DecState) (base : Option Parcel) : BitVec 16 :=
  match base with
  | none =>
    tinfoOf d.count d.pre.guard.isSome d.pre.order.isSome d.page.isSome d.pre.imms.length 0
  | some w =>
    tinfoOf (d.count + 1) d.pre.guard.isSome d.pre.order.isSome d.page.isSome d.pre.imms.length (sizeCode d.page w)

/-- Replays the decoded part of a chain, to find its prefixes (R19). -/
def decodeRun (d : DecState) : List Parcel → DecState × Option Parcel
  | [] => (d, none)
  | w :: ws =>
    match decodeParcel d w with
    | .more d' => decodeRun d' ws
    | _ => (d, some w)

/-- The access kind of R289 of the instruction that a base parcel names, whatever R71 step 3 finds wrong with it; 0 where it names
none, or one without a memory access. -/
def accOfBase (page : Option (BitVec 4 × BitVec 6)) (w : Parcel) : Nat :=
  let op := (w.extractLsb' 12 4).toNat
  let mn := (w.extractLsb' 9 3).toNat
  match page with
  | none => if op == 6 && mn < 4 then 1 else 0
  | some (pg, _) =>
    if pg == 5 then
      match op with
      | 0 => if mn == 7 then 0 else 3
      | 1 => if mn < 2 || mn == 6 then 0 else if mn == 7 then 1 else 3
      | 2 => 3
      | 3 => if mn < 4 then 3 else 0
      | _ => 0
    else 0

/-- The access kind of a chain that is no instruction: of its base parcel, if it came so far. -/
def accOfChain (ws : List Parcel) : Nat :=
  match decodeRun DecState.start ws with
  | (d, some w) => if w.extractLsb' 12 4 == 15 then 0 else accOfBase d.page w
  | (_, none) => 0

/-- tinfo of a list of parcels that is not a whole instruction: a rejected prefix parcel counts with its own kind. -/
def tinfoOfChain (ws : List Parcel) : BitVec 16 :=
  match decodeRun DecState.start ws with
  | (d, none) => tinfoChain d none
  | (d, some w) =>
    if w.extractLsb' 12 4 == 15 then
      let k := (w.extractLsb' 10 2).toNat
      tinfoOf (d.count + 1) (d.pre.guard.isSome || k == 2) (d.pre.order.isSome || k == 3) (d.page.isSome || k == 1)
        (d.pre.imms.length + (if k == 0 then 1 else 0)) 0
    else tinfoChain d (some w)

end Sys2Proof
end

