-- ==== Sys2Proof/Config.lean ====
section
/-! DEFINITION. What an implementation fixes and what the manual leaves open. Every `opaque` constant here is a
FREE VALUE: it has no body, so no proof can learn what it is and a claim holds whatever it is. The fixed figures
are the ones of 00_scope.md R2. -/
namespace Sys2Proof.Config

/-- Physical cores of the package (R2). -/
def cores : Nat := 4096
/-- Clusters of the package (R2). -/
def clusters : Nat := 256
/-- Neord dies (R2). -/
def dies : Nat := 4
/-- Cores of the hub die, RV64GCH, and KiB of its cache (R2, R417). They are another processor's: the model holds what
reaches the module from them (log 97). -/
def hubCores : Nat := 32
def hubCacheKiB : Nat := 32768
/-- Virtual functions (R2, R369). -/
def vfs : Nat := 512
/-- Entries of a core's store queue (R137). -/
def storeQueue : Nat := 32
/-- Entries of a core's completion store (R169). -/
def completionStore : Nat := 1024
/-- Commands one context may hold on a port, outstanding or unpopped (R167). -/
def commandsPerPort : Nat := 16
/-- Outbound message credits of a core (R190). -/
def messageCredits : Nat := 8
/-- Entries of a core's message queue, the last 8 of them for replies (R190). -/
def messageQueue : Nat := 32
def replyReserve : Nat := 8
/-- Tailrace walks one core keeps outstanding (R160). -/
def walksPerCore : Nat := 8
/-- Records of a cluster's replay store (R396). -/
def replayRecords : Nat := 512
/-- Pending-launch pool entries per leaf (R332). -/
def poolPerLeaf : Nat := 16384
/-- ADMITTED RCBs per leaf (R324). -/
def admittedPerLeaf : Nat := 1024
/-- Entries of a die's Yarrow event queue (R380) and of its trigger-write queue (R379). -/
def yarrowQueue : Nat := 64
def triggerQueue : Nat := 16
/-- Entries of the hypervisor's reset report ring (R399). -/
def resetReports : Nat := 4096

/-- FREE VALUE (log 7): from which operand on an inexact exp2 result is at least a given f32 value (R57): any rising
function within the bound of 2 ulp has such thresholds. Operands are counted from the most negative f32 on. -/
opaque exp2Reach : BitVec 32 → Nat

/-- FREE VALUE (log 7): as `exp2Reach`, for log2; its operands are positive f32 bits (R57). -/
opaque log2Reach : BitVec 32 → Nat

/-- FREE VALUE (log 7): whether an inexact rcp result is the f32 value above the exact one or below it (R58). -/
opaque rcpUp : BitVec 32 → Bool

/-- FREE VALUE (log 7): as `rcpUp`, for rsqrt (R58). -/
opaque rsqrtUp : BitVec 32 → Bool

/-- FREE VALUE (log 8): whether a fetch of a parcel whose buffered copy is stale sees the new value (R62). -/
opaque fetchNew : Nat → Bool

/-- FREE VALUE (log 9): whether a write that may wake a waiter, and need not, wakes it (R427). -/
opaque mayWake : Nat → Bool

/-- FREE VALUE (log 15): the latency in cycles of an LLC miss, which each implementation decides (R429, R374). -/
opaque missLatency : Nat → BitVec 64

/-- FREE VALUE (log 51): whether a walk starts at the table that its walker cache still holds (R341). -/
opaque walkerHit : Nat → Bool

/-- The sets of a leaf's 16 MiB of 16-way LLC (R2, R3, R366). -/
def llcSets : Nat := 16384

/-- FREE VALUE (log 12): the set of its leaf in which an LLC line lies, and for a capacity-tier line the leaf of its partition,
by host-physical bits [47:6]; and the way that a miss takes among those it may (R370). -/
opaque llcSet : Nat → Nat
opaque llcLeaf : Nat → Nat
opaque llcWay : Nat → Nat

/-- FREE VALUES (log 95): which pass of BO.TOPK an element's key is taken from, and whether the element is chosen, when its keys
were written while it ran (R252). -/
opaque topkPass : Nat → Nat → Nat
opaque topkTakes : Nat → Nat → Bool

/-- FREE VALUE (log 10): the check code drawn at a minting (R175); `newCheck` keeps it from being 0 or the code it replaces. -/
opaque capCheck : Nat → BitVec 20

/-- Uninterpreted (log 11): SHA-512 of a byte string (R410, R413), as 64 bytes. -/
opaque sha512 : List (BitVec 8) → BitVec 512

/-- Uninterpreted (log 11): Ed25519 verification of a signature over a digest under the key fused in a slot (R410). -/
opaque sigOk : (slot : Nat) → (digest : BitVec 512) → (sig : BitVec 512) → Bool

/-- Uninterpreted (log 11): the Ed25519 signature of the device key over a digest (R413). -/
opaque deviceSign : BitVec 512 → BitVec 512

/-- Uninterpreted (log 11): the public half of the device key with its certificate, as a quote of 512 bytes that an
ATTEST with a zero nonce address writes (R413). -/
opaque devicePublic : BitVec 4096

/-- Uninterpreted (log 11): whether a peer's certificate chains to a trust anchor (R411, R420). -/
opaque chains : (anchor : Option (BitVec 256)) → (cert : Nat) → Bool

/-- Uninterpreted (log 4): D (R410) of the firmware image that manufacture left in flash. -/
opaque bootDigest : BitVec 512

/-- FREE VALUE (log 20): how far the tick master's count gains on this device's in a tick, less 1: the two references run apart
(R423). -/
opaque masterDrift : Nat → Fin 3

/-- FREE VALUE (log 20): whether a device hears the tick master in a tick (R423). -/
opaque masterHeard : Nat → Bool

/-- FREE VALUE (log 98): the Neord port, modulo 8, that leads to a linked device (R337, R419). -/
opaque neordPort : Nat → Nat

/-- FREE VALUE (log 86): flits of a partition's fabric traffic by a cycle, of mesh, Neord links or CXL fabric, beyond those that
the model sees (R381). -/
opaque fabricFlits : (node kind cycle : Nat) → Nat

/-- Uninterpreted (log 11): SHA-512 of the hub die's first boot stage, measured before its release (R413). -/
opaque hubMeasure : BitVec 512

end Sys2Proof.Config
end

