-- ==== Sys2Proof/Machine/State.lean ====
section
/-! DEFINITION. State: every piece of state the manual gives the machine, as plain data, its values at reset, and the
reasons a step can stop. A table of units (cores, clusters, VFs, ...) lists the units that have left their reset value;
`Machine.Ops` reads an unlisted unit as that value. -/
namespace Sys2Proof.Machine

/-- Why the machine stops with a fault. -/
inductive Fault where
  /-- Raised by `step` alone, when the module has no power (R412, R424) and no outside input is waiting. Safe: nothing
  moves in a module without power. -/
  | noPower
  deriving DecidableEq, Repr

/-- Why an operation has no meaning. -/
inductive Refusal where
  /-- Raised by an arm of `exec` whose meaning is not written yet. Safe: it stops the run by name. -/
  | notModelled (mnemonic : String)
  deriving DecidableEq, Repr

/-- A table of units by number, in ascending order of the numbers. -/
abbrev Tab (α : Type) := List (Nat × α)

/-! ## The context line (01) -/

/-- The wait kinds of R22; codes 13 to 15 are reserved and the device never writes them. -/
inductive WaitKind where
  | ready
  | fill
  | full
  | empty
  | addr
  | ring
  | pop
  | barrier
  | xlate
  | migrate
  | join
  | sleep
  | upcall
  | reserved13
  | reserved14
  | reserved15
  deriving DecidableEq, Repr

/-- The context line of R14. Bit 0 of pc, of the loop offsets and of pw, and the reserved bits of fcsr, are kept by every
writer. -/
structure Line where
  pc : BitVec 48
  world : Bool
  supervisor : Bool
  handler : Bool
  step : Bool
  pw : BitVec 32
  wt : WaitKind
  wtArg : BitVec 28
  fcsr : BitVec 16
  vfid : BitVec 9
  sset : BitVec 16
  prio : BitVec 8
  cls : BitVec 8
  lb0 : BitVec 32
  le0 : BitVec 32
  lb1 : BitVec 32
  le1 : BitVec 32
  lc0 : BitVec 32
  lc1 : BitVec 32
  tcause : BitVec 16
  tinfo : BitVec 16
  ccore : BitVec 12
  tval : Word
  g : Vector Word 8
  deriving DecidableEq, Repr

/-- A line of zeros but for p0: the fields that a launch or a handler start does not list (R14, R191, R329). -/
def Line.blank : Line where
  pc := 0
  world := false
  supervisor := false
  handler := false
  step := false
  pw := 1
  wt := .ready
  wtArg := 0
  fcsr := 0
  vfid := 0
  sset := 0
  prio := 0
  cls := 0
  lb0 := 0
  le0 := 0
  lb1 := 0
  le1 := 0
  lc0 := 0
  lc1 := 0
  tcause := 0
  tinfo := 0
  ccore := 0
  tval := 0
  g := Vector.replicate 8 0

/-- Who an event, a fill, a command or a completion belongs to: a context id (R13) or a handler id (R304: physical core,
handler way less 60, start count, VF). -/
inductive Who where
  | ctx (vf index : Nat)
  | handler (core way start vf : Nat)
  deriving DecidableEq, Repr

/-- The segment types of R25; 7 is reserved and never held by a valid register (R26). -/
inductive SegType where
  | plain
  | homed
  | scratch
  | cluster
  | peer
  | capacity
  | code
  deriving DecidableEq, Repr

/-- A loaded segment register (R25, R26); base and limit after the adjustments of R27. -/
structure Seg where
  valid : Bool
  base : Nat
  limit : Nat
  r : Bool
  w : Bool
  x : Bool
  a : Bool
  f : Bool
  type : SegType
  deriving DecidableEq, Repr

/-- A register loaded as invalid. -/
def Seg.invalid : Seg := Seg.mk false 0 0 false false false false false .plain

/-- A line in a context-L1 way with what the core holds beside it (R303, R310, R338). -/
structure Slot where
  line : Line
  who : Who
  /-- sg0 to sg7; stale until R26 loads them -/
  segs : List Seg
  segsLoaded : Bool
  /-- the first cycle of its core at which its latency has elapsed (R86) -/
  readyAt : Nat
  /-- the cycle of its last issue, or of its arrival before the first (R310) -/
  lastIssue : Nat
  /-- it has issued since it entered the L1 -/
  issued : Bool
  /-- the cycle of its core until which a yield passes it over (R105) -/
  yieldUntil : Nat
  /-- a probe, a fence or a load in the pipeline: its line is pinned (R106, R136, R137) -/
  held : Option Instr
  /-- the handler was started by a reply-class message (R190) -/
  reply : Bool
  /-- the RCB that owns it, as a linear address; 0 for none -/
  rcb : Nat
  deriving DecidableEq, Repr

/-! ## Memory (06, 11, 17, 18) -/

/-- Where an access reaches: a scratchpad position of a physical core, a cluster-memory position of a physical cluster, or a
guest-physical address of a VF (its host half is host memory, R428). -/
inductive Loc where
  | scratch (core pos : Nat)
  | cluster (cl pos : Nat)
  | paged (vf gpa : Nat)
  deriving DecidableEq, Repr

/-- All bytes of module and host memory. Keys: a host-physical address below 2^48 as it is; byte p of core c's scratchpad
2^48 + c * 2^17 + p; byte p of cluster k's memory 2^49 + k * 2^21 + p. An unlisted byte reads 0, an unlisted word is full and
not poisoned. `cells` has rising addresses and lists no 0; `empty` and `poison` list 8-byte word numbers, rising. -/
structure Memory where
  cells : List Host.Cell
  empty : List Nat
  poison : List Nat
  deriving DecidableEq, Repr

/-- A directory entry (R356). -/
structure Dir where
  kind : BitVec 2
  holder : Nat
  bcast : Bool
  /-- up to four sharers, logical cores -/
  sharers : List Nat
  /-- up to four owner slots, oldest first: logical core and mask of owned words -/
  owners : List (Nat × BitVec 16)
  deriving DecidableEq, Repr

/-- An LLC line of module memory (R350, R356). -/
structure LlcLine where
  vf : Nat
  /-- guest-physical bits [47:6] -/
  line : Nat
  data : BitVec 512
  /-- full/empty bit of each 8-byte word (1 full) and its poison -/
  fe : BitVec 8
  poison : BitVec 8
  /-- the host frame, host-physical bits [47:12] -/
  frame : Nat
  write : Bool
  dirty : Bool
  dir : Dir
  /-- leaf, set and way (R3, R370); none: the miss has not chosen its way yet -/
  place : Option (Nat × Nat × Nat)
  deriving DecidableEq, Repr

/-- A core data cache line (R355) with its data. A line of host memory also records its host-physical bits [47:6], by which
CXL.cache keeps the copies of one line together (R372). -/
structure CacheLine where
  vf : Nat
  line : Nat
  val : BitVec 16
  dirty : BitVec 16
  priv : Bool
  host : Bool
  hline : Nat
  data : BitVec 512
  deriving DecidableEq, Repr

/-- A micro-TLB entry (R346); `line` numbers are linear and guest-physical bits [47:12]. -/
structure TlbEntry where
  way : Nat
  vf : Nat
  lpage : Nat
  size : Nat
  gpage : Nat
  r : Bool
  w : Bool
  x : Bool
  u : Bool
  d : Bool
  priv : Bool
  deriving DecidableEq, Repr

/-- What instruction fetch has buffered of a parcel (R62): `n` of its bytes from a place, both or, of a parcel that straddles a word,
one; and the frame that paged ones came from. -/
structure FetchEntry where
  loc : Loc
  n : Nat
  data : BitVec 16
  frame : Option Nat
  deriving DecidableEq, Repr

/-- The kinds of access that R289 and R345 tell apart; a full/empty operation may need one right alone. -/
inductive Access where
  | read
  | write
  | fetch
  | atomic
  | feRead
  | feWrite
  deriving DecidableEq, Repr

/-- What a posted instruction does at its place of execution (R136). -/
inductive Post where
  | store
  | stfe
  | feSet
  | feClr
  | redAdd (ty : BitVec 2) (rm : BitVec 3) (fz : Bool)
  | joinDec
  | barArrive
  /-- a tailrace walk over `len` bytes from a linear address, or over runs of on-chip memory, cinval or cflush, that arrives
  on the barrier object at linear address `rbar` (0: none) -/
  | walk (inval : Bool) (linear : Option Nat) (chip : List (Loc × Nat)) (len rbar : Nat)
  deriving DecidableEq, Repr

/-- An entry of a core's store queue (R137). -/
structure Posted where
  who : Who
  vf : Nat
  loc : Loc
  n : Nat
  data : Word
  post : Post
  /-- the scope it releases at, if it is a release (R266) -/
  release : Option (BitVec 3)
  /-- it takes an adaptive route (R264) -/
  adaptive : Bool
  /-- named through a CAPACITY or CODE segment (R143, R265) -/
  seg : SegType
  /-- hints of its ORDER prefix: stream, no-allocate, LLC-only (R140) -/
  stream : Bool
  noAlloc : Bool
  llcOnly : Bool
  /-- its granule is private to this core by the translation (R359, R362) -/
  priv : Bool
  secure : Bool
  /-- the page request it waits for (R350, R352) -/
  request : Option Nat
  /-- its number among all posted entries -/
  age : Nat
  deriving DecidableEq, Repr

/-- A fill load in flight (R23, R136, R138). -/
structure Fill where
  who : Who
  core : Nat
  reg : BitVec 3
  tag : BitVec 8
  loc : Loc
  n : Nat
  signed : Bool
  /-- pointer and tinfo for a late trap -/
  q : Word
  tinfo : BitVec 16
  stream : Bool
  noAlloc : Bool
  llcOnly : Bool
  priv : Bool
  secure : Bool
  /-- cycle of issue and linear address, for a FILL event (R374) -/
  since : Nat
  linear : Nat
  /-- the page request it waits for (R292) -/
  request : Option Nat
  deriving DecidableEq, Repr

/-- A waiter registered on a word or object (R145, R427): which wait it is, on which bytes. -/
structure Waiter where
  who : Who
  kind : WaitKind
  loc : Loc
  /-- bytes whose write wakes it: 8, or 16 for a ring header or barrier object -/
  n : Nat
  /-- for a poll of host memory (R149): the tick of the next poll -/
  poll : Option Nat
  deriving DecidableEq, Repr

/-- An event addressed to a context (R313). -/
inductive Event where
  | wake (kind : WaitKind)
  /-- the answer to a page request or a walk that failed: the trap to take -/
  | trap (cause : BitVec 16) (tval : Word) (tinfo : BitVec 16) (acc : Nat)
  | watch (tval : Word)
  deriving DecidableEq, Repr

/-- A stage-1 walk waiting at a cluster's walker (R342, R347). -/
structure Walk where
  who : Who
  core : Nat
  vf : Nat
  linear : Nat
  access : Access
  supervisor : Bool
  /-- the pointer or fetch offset, and tinfo, of the access -/
  tval : Word
  tinfo : BitVec 16
  /-- a tlbinv covered it, or a VF switch took its core while it was under way (R349) -/
  stale : Bool
  switched : Bool
  /-- the page request it waits for -/
  request : Option Nat
  /-- a reclassification holds it, its table reads counted (R361) -/
  held : Bool
  deriving DecidableEq, Repr

/-- Who waits for a page request (R352). -/
inductive Requester where
  | fill (who : Who)
  | wait (who : Who)
  | walk (who : Who)
  | posted (who : Who)
  /-- the memory copy of the context, on its way to or from it (R306, R308) -/
  | copy (who : Who)
  | engine (who : Who) (port : Nat)
  deriving DecidableEq, Repr

/-- An outstanding page request (R352). -/
structure PageReq where
  tag : Nat
  vf : Nat
  gen : BitVec 16
  gpage : Nat
  access : Access
  requester : Requester
  /-- pointer, for a fatal answer -/
  tval : Word
  tinfo : BitVec 16
  deriving DecidableEq, Repr

/-- A reclassification mark (R361). -/
structure Reclass where
  vf : Nat
  gpage : Nat
  /-- guest-physical address of the leaf entry -/
  entry : Nat
  owner : Nat
  deriving DecidableEq, Repr

/-- A tailrace walk in progress (R161, R364) from a linear address, or over runs of on-chip memory. It has passed every line
of its range below `cursor`, a linear line number. -/
structure RangeWalk where
  core : Nat
  vf : Nat
  inval : Bool
  linear : Option Nat
  chip : List (Loc × Nat)
  len : Nat
  rbar : Nat
  cursor : Nat
  deriving DecidableEq, Repr

/-- A frame-table entry (R351). -/
structure Frame where
  vf : Nat
  state : BitVec 2
  ro : Bool
  gfn : Nat
  deriving DecidableEq, Repr

/-! ## Engines (07, 09, 10, 19) -/

/-- A command's completion (R165) in a completion store or on its way there. -/
structure Completion where
  who : Who
  core : Nat
  port : Nat
  dw0 : Word
  dw1 : Word
  /-- the flags that a pop ORs into fcsr (R234) -/
  flags : BitVec 16
  /-- the replay record that its delivery frees (R396): cluster and sequence -/
  record : Option (Nat × Nat)
  /-- the posted entries that come before it (R272): those numbered below, and the scope of that release -/
  after : Option (Nat × BitVec 3)
  /-- its pusher has ended by R330, whatever context its index names now -/
  orphan : Bool
  deriving DecidableEq, Repr

/-- A core's assembly buffer of one port (R167, R168). -/
structure Assembly where
  owner : Who
  need : Nat
  dws : List Word
  /-- widest ORDER scope named so far (R170), and the cycle of the header push -/
  scope : BitVec 3
  since : Nat
  deriving DecidableEq, Repr

/-- The entry of SL.SCATADD under way: the pointer of its table row, its source row read whole (R255), and the guest pages to which
the pages of the table row were translated (R256). -/
structure ScatterRow where
  ptr : Word
  bits : Nat
  pages : List Nat
  deriving DecidableEq, Repr

/-- A command at or on its way to an engine, its handles and pointers resolved (R174): the pusher's handle entries and
segment registers as they stood when it was sent. -/
structure Cmd where
  who : Who
  vf : Nat
  core : Nat
  port : Nat
  dws : List Word
  handles : List (Nat × (Word × Word))
  segs : List Seg
  supervisor : Bool
  secure : Bool
  /-- Millstone's source (R230); 0 for the other engines -/
  src : Nat
  /-- the posted entries that its push's release orders before it (R170): those numbered below -/
  after : Nat
  /-- the scope of that release -/
  scope : BitVec 3
  /-- its replay record's sequence, once accepted (R396) -/
  seq : Option Nat
  /-- rows, bytes, entries or bags done before it stopped for a page request -/
  done : Nat
  /-- the completion that waits for the arrival write: status, word, flags -/
  ending : Option (Nat × Word × BitVec 16)
  /-- the page request it waits for, and the pointer that a fatal answer refused (R352) -/
  request : Option Nat
  fatal : Option Word
  /-- BO.TOPK: the keys as each pass so far has read them (R252) -/
  passes : List (List Nat)
  /-- SL.SCATADD: the entry under way, and the elements of it that are added (R255) -/
  row : Option ScatterRow
  elem : Nat
  /-- its pusher has ended by R330, whatever context its index names now -/
  orphan : Bool
  deriving DecidableEq, Repr

/-- A Millstone format context (R227): the packed dw1 of MM.FMT, and for a remote slot its binding (R176). -/
structure FmtCtx where
  fmt : Word
  bound : Bool
  vf : Nat
  check : BitVec 20
  expiry : Word
  deriving DecidableEq, Repr

/-- A Millstone command whose row is written and whose ring advance waits for a free slot (R244), or whose rows are computed
and wait for the deliver stage (R242). -/
structure RowHold where
  cmd : Cmd
  /-- the ring that the delivery looked up (R244) -/
  ring : Word × Word
  /-- the row whose advance waits, or with `waits` false the row that waits for the deliver stage (R242) -/
  row : Nat
  waits : Bool
  /-- the bits of every row, and the completion's word and flags -/
  rows : List (List Nat)
  word : Word
  flags : BitVec 16
  deriving DecidableEq, Repr

/-- A Yarrow filter slot (R374, R375, R378). -/
structure Filter where
  loaded : Bool
  program : List (BitVec 32)
  attached : Bool
  cls : Nat
  sel : Nat
  /-- the YW.ATTACH that attached it, with which the output object is written; none when its pointer was 0 -/
  out : Option Cmd
  /-- the words of its store that are not 0 -/
  store : Tab Word
  runs : Nat
  drops : Nat
  /-- fills or misses of its class seen since it was attached, and the next tick of a TICK slot -/
  seen : Nat
  nextTick : Nat
  deriving DecidableEq, Repr

/-- An event at a die's Yarrow, taken by a slot (R374): y0 to y3. -/
structure YEvent where
  vf : Nat
  slot : Nat
  fields : List Word
  deriving DecidableEq, Repr

/-! ## Cores, clusters, VFs -/

/-- A message (R190, R191). -/
structure Msg where
  src : Nat
  vf : Nat
  reply : Bool
  pc : BitVec 48
  line : Line
  n : Nat
  payload : List Word
  rcb : Nat
  /-- the sender, and its posted entries that come first: those numbered below (R190) -/
  who : Who
  after : Nat
  deriving DecidableEq, Repr

/-- An entry of a core's trap-delivery list (R281), or a report that a child RCB is malformed (R323): the handler's line, and
the RCB that owns it. -/
inductive Delivery where
  | parked (vf index : Nat)
  | report (vf rcb : Nat) (line : Line)
  deriving DecidableEq, Repr

/-- A core. -/
structure Core where
  cl1lim : BitVec 7
  /-- slot tables, 32 entries of 8 bits, in force and staged (R202) -/
  sltcur : List (BitVec 8)
  sltnew : List (BitVec 8)
  /-- staged since the table was last replaced: the VFs and region barriers of the RCBs, each of which replaces it -/
  staged : List (Nat × Nat)
  ways : Tab Slot
  /-- handler starts of ways 60 to 63 (R304) -/
  starts : Tab Nat
  handles : Tab (Word × Word)
  buffers : Tab Assembly
  /-- completion store: held completions, oldest first, and reservations -/
  held : List Completion
  reserved : List (Who × Nat)
  stores : List Posted
  cache : List CacheLine
  tlb : List TlbEntry
  fetch : List FetchEntry
  deliveries : List Delivery
  msgs : List Msg
  /-- messages in the outbound buffer or on their way: their credits are not free (R190) -/
  outbound : List (Nat × Msg)
  /-- lines queued for a pull with the cycle each became ready (R311) -/
  pulls : List (Nat × Nat × Nat)
  /-- outstanding tailrace walks (R160) -/
  walks : Nat
  /-- by way, the cycle of the core in which its page-3 instruction completes (R130), and the one in which the vector unit
  is free (R128) -/
  vector : Tab Nat
  vectorFree : Nat
  /-- resident VF (R333), a switch begun at a cycle (R339), the scrub's end (R209) -/
  resident : Option Nat
  switchAt : Option Nat
  scrubUntil : Option Nat
  scrubDue : Bool
  /-- the first cycles in which it has not yet had its issue slot, and not yet evicted a line for cl1lim (R312) -/
  slotCycle : Nat
  limitCycle : Nat
  deriving DecidableEq, Repr

/-- The slot table at reset: HND at entries 0, 8, 16 and 24, ANY elsewhere (R202). -/
def resetSlots : List (BitVec 8) := (List.range 32).map fun k => if k % 8 = 0 then 0x40 else 0

/-- A core after reset: nothing resident, nothing queued, cl1lim 64 (R195). -/
def Core.reset : Core where
  cl1lim := 64
  sltcur := resetSlots
  sltnew := resetSlots
  staged := []
  ways := []
  starts := []
  handles := []
  buffers := []
  held := []
  reserved := []
  stores := []
  cache := []
  tlb := []
  fetch := []
  deliveries := []
  msgs := []
  outbound := []
  pulls := []
  walks := 0
  vector := []
  vectorFree := 0
  resident := none
  switchAt := none
  scrubUntil := none
  scrubDue := false
  slotCycle := 0
  limitCycle := 0

/-- A migration packet or a launch delivery (R315); `completions` and `reserved` travel after it (R173). -/
structure Packet where
  launch : Bool
  src : Nat
  dst : Nat
  vf : Nat
  index : Nat
  line : Line
  cluster : Nat
  seq : Nat
  arrived : Option Nat
  completions : List Completion
  reserved : List (Who × Nat)
  deriving DecidableEq, Repr

/-- What a cluster's replay store records (R396): a packet or launch delivery, an accepted command. -/
inductive Sent where
  | packet (p : Packet)
  | command (c : Cmd)
  deriving DecidableEq, Repr

/-- The progress marks of a command's record (R398): ring advances made, 64-byte blocks of an FL.COPY done, elements of an
SL.SCATADD acknowledged, whether its arrival word is written, whether its completion is sent. -/
structure Marks where
  advances : Nat
  blocks : Nat
  acked : Nat
  arrived : Bool
  completed : Bool
  deriving DecidableEq, Repr

/-- The keys that a place of execution has applied for a source cluster (R398): replay sequence and element number, the last 64,
oldest first. -/
structure KeyWindow where
  place : Nat
  src : Nat
  keys : List (Nat × Nat)
  deriving DecidableEq, Repr

/-- A record of the replay store: sequence, what was sent, its VF and that VF's generation, its progress marks, its timeouts
so far, and the cycle by which it must be acknowledged (R396 to R398). -/
structure Replay where
  seq : Nat
  sent : Sent
  vf : Nat
  gen : BitVec 16
  marks : Marks
  timeouts : Nat
  deadline : Nat
  deriving DecidableEq, Repr

/-- A line of a context L2 (R305); the list of a cluster's lines holds the one that has stayed longest first. -/
structure L2Line where
  vf : Nat
  index : Nat
  line : Line
  deriving DecidableEq, Repr

/-- An entry of a walker cache: the table that a VF's walk reads at a level for the linear addresses of one range (R341,
R349). -/
structure TableEntry where
  vf : Nat
  level : Nat
  /-- linear bits from 12 + 9 * level up -/
  range : Nat
  table : Nat
  deriving DecidableEq, Repr

/-- A cluster. -/
structure Cluster where
  l2 : List L2Line
  /-- lines of the write-back buffers, on their way to memory (R309) -/
  outgoing : List L2Line
  /-- bank mask and cluster flag word of each VF (R204, R211) -/
  banks : Tab (BitVec 32)
  flags : Tab (BitVec 32)
  fmts : Tab FmtCtx
  /-- commands of the engines, by port, in the order in which they were sent, each with its source (R230) -/
  queues : List Cmd
  /-- the next source in turn (R230) -/
  turn : Nat
  held : List RowHold
  walks : List Walk
  tables : List TableEntry
  reclass : List Reclass
  replay : List Replay
  nextSeq : Nat
  /-- the contexts whose send its full replay store holds at the source (R396), each counted once (R401) -/
  blocked : List Who
  fillUntil : Option Nat
  fillDue : Bool
  deriving DecidableEq, Repr

/-- A cluster after reset. DESIGN CHOICE (log 101): the manual gives the cluster flag words (R204) no reset value and does not say
which source Millstone's turn begins with (R230); here the words are 0 and the turn begins with source 0. -/
def Cluster.reset : Cluster where
  l2 := []
  outgoing := []
  banks := []
  flags := []
  fmts := []
  queues := []
  turn := 0
  held := []
  walks := []
  tables := []
  reclass := []
  replay := []
  nextSeq := 0
  blocked := []
  fillUntil := none
  fillDue := false

/-- A work queue (R325, R328). -/
structure Wq where
  qbase : Nat
  lsize : Nat
  qtail : Nat
  qhead : Nat
  err : Bool
  /-- doorbells: the tail written and its tick, oldest first; the tick of the next read of an unready entry -/
  bells : List (Nat × Nat)
  poll : Option Nat
  deriving DecidableEq, Repr

/-- A VF's error block (R400). -/
structure ErrBlock where
  nuc : Nat
  npst : Nat
  npw : Nat
  nctx : Nat
  nfill : Nat
  faddr : Nat
  fcode : Nat
  fv : Bool
  deriving DecidableEq, Repr

/-- The virtual counters of a VF (R381 to R384, R203). -/
structure Counters where
  counts : List (BitVec 48)
  codes : List (BitVec 16)
  enable : BitVec 16
  run : BitVec 16
  ovf : BitVec 16
  deriving DecidableEq, Repr

/-- A virtual function. -/
structure Vf where
  node : Nat
  sec : Bool
  st : BitVec 2
  wmask : BitVec 16
  qdbase : Nat
  qdlen : Nat
  sstbase : Nat
  sstlen : Nat
  ctxbase : Nat
  ctxlen : Nat
  upcbase : Nat
  s1root : Nat
  s1en : Bool
  s2root : Nat
  gen : BitVec 16
  slice : Nat
  weight : Nat
  /-- fair-share account, in quarter cycles so that 1.5 and 2.25 cycles a tick are exact (R335, R424) -/
  account : Int
  queues : Tab Wq
  errs : ErrBlock
  counters : Counters
  deriving DecidableEq, Repr

/-- A work queue after reset: disabled (R325). -/
def Wq.reset : Wq := Wq.mk 0 0 0 0 false [] none

/-- An error block after reset (R400). -/
def ErrBlock.reset : ErrBlock := ErrBlock.mk 0 0 0 0 0 0 0 false

/-- Virtual counters after reset: the overflow status is 0 (R384); the manual gives no other reset value (log 3). -/
def Counters.reset : Counters :=
  Counters.mk (List.replicate 16 0) (List.replicate 16 0) 0 0 0

/-- A VF after reset (R195, R334, R341, R369): unbound, nothing set. -/
def Vf.reset : Vf where
  node := 0
  sec := false
  st := 0
  wmask := 0xFFFF
  qdbase := 0
  qdlen := 0
  sstbase := 0
  sstlen := 0
  ctxbase := 0
  ctxlen := 0
  upcbase := 0
  s1root := 0
  s1en := false
  s2root := 0
  gen := 0
  slice := 1000000
  weight := 1
  account := 0
  queues := []
  errs := ErrBlock.reset
  counters := Counters.reset

/-- Where a context's line is (R31, R306). -/
inductive Place where
  | l1 (core way : Nat)
  | l2 (cl : Nat)
  /-- in a write-back buffer of a cluster (R309) -/
  | buffer (cl : Nat)
  | memory
  | flight
  | retired
  deriving DecidableEq, Repr

/-- What the device holds about a context besides its line. -/
structure Ctx where
  place : Place
  rcb : Nat
  watch : Option Word
  /-- ended by R330: retired at its next boundary -/
  ended : Bool
  /-- the wake tick of a sleep (R109) -/
  wake : Option Nat
  /-- the line became READY while HOME, and its fetch is under way (R308) -/
  fetch : Bool
  /-- what is left of its last residence in a way (R86, R105): the core, the cycle of that core until which a yield passes it over,
  and the one from which its last instruction's latency lets it issue -/
  yield : Option (Nat × Nat × Nat)
  deriving DecidableEq, Repr

/-- States of a named RCB (R321). -/
inductive RcbState where
  | pending
  | admitted
  deriving DecidableEq, Repr

/-- What Headrace holds of a named RCB that is PENDING or ADMITTED (R320 to R332). -/
structure Rcb where
  vf : Nat
  addr : Nat
  /-- the RCB whose context spawned it; 0 for a root -/
  parent : Nat
  state : RcbState
  /-- the core of the context that spawned it (R323); none for a root -/
  spawner : Option Nat
  /-- its number among all namings, and its ancestors, nearest first: their numbers and context budgets -/
  order : Nat
  chain : List (Nat × Nat)
  cls : Nat
  prio : Nat
  deadline : Nat
  cbud : Nat
  ybud : Nat
  fdh : Nat
  entry : Nat
  dw7 : Word
  arg : Word
  squota : Nat
  rbar : Nat
  ibase : Nat
  lcount : Nat
  /-- the next index to deliver, less ibase; contexts delivered and not retired; instructions issued -/
  next : Nat
  live : Nat
  used : Nat
  /-- instructions issued by contexts of finished descendants -/
  past : Nat
  /-- reservations of squota held now -/
  sused : Nat
  gang : Option Nat
  deriving DecidableEq, Repr

/-- An entry of the pending-launch pool that Headrace has not read yet (R156, R332): the child, the spawning RCB, and
the context or handler whose earlier accesses come first. -/
structure PoolEntry where
  vf : Nat
  child : Nat
  parent : Nat
  who : Who
  core : Nat
  after : Nat
  /-- the child's ancestors, as `Rcb.chain` -/
  chain : List (Nat × Nat)
  deriving DecidableEq, Repr

/-- A gang launch on this device (R337): the naming of its RCB once its entry is taken, the members from which READY is
here, whether an ABORT is here or was sent. -/
structure Gang where
  id : Nat
  rcb : Option Nat
  start : Nat
  members : Word
  ready : List Nat
  aborted : Bool
  started : Bool
  /-- its RCB has been admitted here, be it DONE at once for want of contexts (R321) -/
  admitted : Bool
  /-- this device has sent an ABORT for it -/
  sent : Bool
  deriving DecidableEq, Repr

/-- A READY or ABORT that this device has sent to a member (R337), with its tick. -/
structure GangSend where
  gang : Nat
  member : Nat
  abort : Bool
  sent : Nat
  deriving DecidableEq, Repr

/-- A partition: its resident VF, the tick at which its slice ends, a SPLIT that waits for that, the cycles that this
slice has delivered so far in quarters (R335), and the VFs that had work when last asked (R333, R368). -/
structure Part where
  resident : Option Nat
  sliceEnd : Nat
  split : Bool
  gained : Nat
  hadWork : List Nat
  deriving DecidableEq, Repr

/-- A partition that no VF holds yet. -/
def Part.idle : Part := Part.mk none 0 false 0 []

/-- A memory word's open reduction slots (R56, R151): contributing core, type, value. -/
structure RedSlot where
  loc : Loc
  core : Nat
  ty : BitVec 2
  value : Word
  /-- the flags its contributions raised, kept sticky -/
  flags : BitVec 16
  poison : Bool
  deriving DecidableEq, Repr

/-- An increment on its way to the counter die (R382). -/
structure Increment where
  vf : Nat
  code : Nat
  by_ : Nat
  /-- the context whose ymark it counts -/
  mark : Option Who
  deriving DecidableEq, Repr

/-- A queued trigger write of action 3 (R379). -/
structure TrigWrite where
  cmd : Cmd
  value : Word
  deriving DecidableEq, Repr

/-- A stage-2 cache entry (R350): a guest page of a VF, its host page and the rights of its leaf (R343). -/
structure S2Entry where
  vf : Nat
  page : Nat
  frame : Nat
  r : Bool
  w : Bool
  x : Bool
  deriving DecidableEq, Repr

/-- A die: its Yarrow, throttle level, stage-2 cache (R350, R374, R424). -/
structure Die where
  /-- filter slots by vf * 8 + slot -/
  filters : Tab Filter
  events : List YEvent
  triggers : List TrigWrite
  /-- budget per window of each VF, and what is left of it (R380) -/
  ibud : Tab Nat
  left : Tab Int
  windowEnd : Nat
  throttle : Nat
  /-- the level that it takes at the next tick boundary (R424) -/
  pending : Option Nat
  /-- nominal cycles that its throttle level has skipped (R424) -/
  skipped : Nat
  /-- stage-2 cache, the newest entry first (R350) -/
  s2 : List S2Entry
  queue : List Cmd
  deriving DecidableEq, Repr

/-- A die after reset. -/
def Die.reset : Die := Die.mk [] [] [] [] [] 1024 0 none 0 [] []

/-! ## Sorrel and the platform (21, 22, 23) -/

/-- The Sorrel controller (22). -/
structure Sorrel where
  cmd : Word
  go : Bool
  st : Word
  args : List Word
  /-- the arguments of the command that runs, as they stood at its start -/
  latched : List Word
  /-- world-assignment registers: by cluster, and the package register (R403) -/
  worlds : Tab (BitVec 5)
  package : BitVec 24
  /-- secure granules of the region world table (R406) -/
  regions : List Nat
  /-- flash image and staging buffer: bytes, and whether the image is valid (R412) -/
  flash : List Byte
  flashValid : Bool
  staging : List Byte
  staged : Bool
  minVersion : Nat
  revoked : List Nat
  version : Nat
  /-- D of the running firmware, once an image from flash runs (R410, R413) -/
  measured : Option (BitVec 512)
  /-- the operator trust anchor, once written; none: the manufacturing key (R420) -/
  anchor : Option (BitVec 256)
  /-- peers with an open session (R420) -/
  sessions : List Nat
  deriving DecidableEq, Repr

/-- Sorrel after reset: every block and granule non-secure (R403, R406), mailbox idle; the contents of flash and of the
fuses are manufacture's (log 4). -/
def Sorrel.reset : Sorrel where
  cmd := 0
  go := false
  st := 0
  args := List.replicate 5 0
  latched := []
  worlds := []
  package := 0
  regions := []
  flash := []
  flashValid := true
  staging := []
  staged := false
  minVersion := 0
  revoked := []
  version := 0
  measured := none
  anchor := none
  sessions := []

/-- Whether the module runs (R412, R421, R424). -/
inductive Power where
  | on
  | heldInReset
  | off
  deriving DecidableEq, Repr

/-- The status that a frame command or a partition command left in its register (R351, R368). -/
inductive CmdStatus where
  | ok
  | refused
  | busy
  deriving DecidableEq, Repr

/-- A reset report entry (R399). -/
structure ResetReport where
  vf : Nat
  gen : BitVec 16
  kind : Nat
  port : Nat
  opcode : Nat
  ctx : Word
  sequence : Nat
  count : Nat
  mask : Word
  deriving DecidableEq, Repr

/-- The hypervisor's platform view (21, 23). -/
structure Platform where
  power : Power
  sorrel : Sorrel
  /-- CXL ports: up, logical devices bound to it (R372, R373, R418) -/
  portsDown : List Nat
  bindings : List (Nat × Nat)
  /-- the trained width and rate in GT/s in each CXL port's status register (R418), and the lane rate of each Neord port (R419) -/
  cxlTrained : List (Nat × Nat)
  neordRates : List Nat
  /-- the Neord device number (R419), and those of the linked devices (R423) -/
  device : Nat
  linked : List Nat
  /-- this device's tick less the tick master's (R423), the tick of its last slew, and the tick at which it last heard the
  master -/
  lead : Int
  slewed : Nat
  heard : Nat
  /-- the last sensor readings, by die, and of the module: °C, W, tenths of a litre per minute (R420, R424) -/
  temps : Tab Nat
  draw : Nat
  flow : Nat
  /-- package links declared down, and the ticks of each link's failed retrains (R397); a link between dies a < b is 4a + b,
  Neord port p is 16 + p -/
  linksDown : List Nat
  linkFails : Tab (List Nat)
  powerCap : Nat
  unsync : Bool
  /-- the counters of R401 by partition node * 256 + name -/
  counters : Tab Nat
  /-- the reset report ring of each partition (R399) -/
  reports : Tab (List ResetReport)
  badQuern : List Nat
  interrupts : List (Nat × Nat)
  moduleErrors : List Word
  /-- the bring-up step that holds the module, in Sorrel's status (R422); 8 when all have ended -/
  resetStep : Nat
  /-- what the next bring-up comes to (R421, R422): the chips, cables and ports as they then are (log 80) -/
  chips : BringUp
  deriving DecidableEq, Repr

/-- The platform after reset: ports up, cap 2,400 W (R425), counters 0. -/
def Platform.reset : Platform where
  power := .on
  sorrel := Sorrel.reset
  portsDown := []
  bindings := []
  cxlTrained := List.replicate 4 (16, 64)
  neordRates := List.replicate 8 224
  device := 0
  linked := []
  lead := 0
  slewed := 0
  heard := 0
  temps := []
  draw := 0
  flow := 0
  linksDown := []
  linkFails := []
  powerCap := 2400
  unsync := false
  counters := []
  reports := []
  badQuern := []
  interrupts := []
  moduleErrors := []
  resetStep := 8
  chips := {}

/-! ## The whole machine -/

/-- A turn that waits (log 1): an operation of the table, a way's issue slot, or a change of what the next bring-up will find. -/
inductive Turn where
  | op (i : Instr)
  | issue (core way : Nat)
  | chips (b : BringUp)
  deriving DecidableEq, Repr

/-- The machine. -/
structure State where
  /-- turns to take before the machine's own choice: outside inputs and the choices that R429 leaves open (log 1) -/
  agenda : List Turn
  /-- the issuing core and way -/
  run : Nat × Nat
  cycle : Nat
  tick : Nat
  /-- draws of free values so far (log 6) -/
  draws : Nat
  /-- posted entries so far (R266) -/
  posted : Nat
  /-- the answer to the last host read (R269, R394); none: the poison indication, or no read yet -/
  hostPort : Option Word
  mem : Memory
  cores : Tab Core
  clusters : Tab Cluster
  dies : Tab Die
  vfs : Tab Vf
  ctxs : Tab Ctx
  rcbs : List Rcb
  /-- finished RCBs of whose subtrees some RCB is still named (R330) -/
  ancestors : List Rcb
  pool : List PoolEntry
  named : Nat
  gangs : List Gang
  gangSends : List GangSend
  parts : Tab Part
  llc : List LlcLine
  frames : Tab Frame
  frameStatus : CmdStatus
  partStatus : CmdStatus
  fills : List Fill
  waiters : List Waiter
  events : List (Who × Event)
  requests : List PageReq
  nextTag : Nat
  /-- the partition in which each tag was asked for last, by tag (R352) -/
  asked : Tab Nat
  transit : List Completion
  packets : List Packet
  rangeWalks : List RangeWalk
  reds : List RedSlot
  increments : List Increment
  windows : List KeyWindow
  platform : Platform
  deriving DecidableEq, Repr

/-- Memory after reset: every word 0, full, not poisoned (R421). -/
def Memory.reset : Memory := Memory.mk [] [] []

/-- The module right after reset (R421): no VF bound, the partition tree the root alone, nothing in flight. -/
def State.reset : State where
  agenda := []
  run := (0, 0)
  cycle := 0
  tick := 0
  draws := 0
  posted := 0
  hostPort := none
  mem := Memory.reset
  cores := []
  clusters := []
  dies := []
  vfs := []
  ctxs := []
  rcbs := []
  ancestors := []
  pool := []
  named := 0
  gangs := []
  gangSends := []
  parts := [(1, Part.idle)]
  llc := []
  frames := []
  frameStatus := .ok
  partStatus := .ok
  fills := []
  waiters := []
  events := []
  requests := []
  nextTag := 0
  asked := []
  transit := []
  packets := []
  rangeWalks := []
  reds := []
  increments := []
  windows := []
  platform := Platform.reset

end Sys2Proof.Machine
end

