-- ==== Sys2Proof/Machine/Mem.lean ====
section
/-! DEFINITION. Memory: tables of units, the places of cores in the partition tree (18), bytes with their full/empty and
poison bits (06, 21), stage 2 and the frame table (17), LLC lines, and one word at any place of the machine. -/
namespace Sys2Proof.Machine

/-! ## Tables -/

/-- The entry of unit `k`, or `d` where the table does not list it. -/
def Tab.get {α : Type} : Tab α → Nat → α → α
  | [], _, d => d
  | (j, v) :: t, k, d => if j = k then v else Tab.get t k d

/-- The entry of unit `k`, if listed. -/
def Tab.find {α : Type} : Tab α → Nat → Option α
  | [], _ => none
  | (j, v) :: t, k => if j = k then some v else Tab.find t k

/-- Writes the entry of unit `k`, keeping the table in ascending order. -/
def Tab.set {α : Type} : Tab α → Nat → α → Tab α
  | [], k, v => [(k, v)]
  | (j, w) :: t, k, v => if k < j then (k, v) :: (j, w) :: t else if k = j then (k, v) :: t else (j, w) :: Tab.set t k v

/-- Removes the entry of unit `k`. -/
def Tab.erase {α : Type} (t : Tab α) (k : Nat) : Tab α := t.filter fun e => e.1 ≠ k

/-- Inserts a number into a rising list without repeats. -/
def insertNat : List Nat → Nat → List Nat
  | [], k => [k]
  | j :: t, k => if k < j then k :: j :: t else if k = j then j :: t else j :: insertNat t k

/-- Removes a number from a list. -/
def eraseNat (l : List Nat) (k : Nat) : List Nat := l.filter (· ≠ k)

/-! ## Units -/

def State.core (s : State) (c : Nat) : Core := s.cores.get c Core.reset
def State.setCore (s : State) (c : Nat) (k : Core) : State := { s with cores := s.cores.set c k }
def State.cluster (s : State) (k : Nat) : Cluster := s.clusters.get k Cluster.reset
def State.setCluster (s : State) (k : Nat) (c : Cluster) : State := { s with clusters := s.clusters.set k c }
def State.die (s : State) (d : Nat) : Die := s.dies.get d Die.reset
def State.setDie (s : State) (d : Nat) (x : Die) : State := { s with dies := s.dies.set d x }
def State.vf (s : State) (v : Nat) : Vf := s.vfs.get v Vf.reset
def State.setVf (s : State) (v : Nat) (x : Vf) : State := { s with vfs := s.vfs.set v x }

/-- The context id of R13 as one number: the table key of its registry entry. -/
def ctxKey (vf index : Nat) : Nat := vf * 2 ^ 40 + index
def State.ctx? (s : State) (vf index : Nat) : Option Ctx := s.ctxs.find (ctxKey vf index)
def State.setCtx (s : State) (vf index : Nat) (c : Ctx) : State := { s with ctxs := s.ctxs.set (ctxKey vf index) c }

/-- The cluster and the die of a physical core, the die of a cluster (R367). -/
def clusterOf (core : Nat) : Nat := core / 16
def dieOf (core : Nat) : Nat := core / 1024
def dieOfCluster (cl : Nat) : Nat := cl / 64

/-! ## The partition tree (R366, R367) -/

/-- The depth of a node, 0 for the root. -/
def nodeDepth (n : Nat) : Nat :=
  if n < 2 then 0 else if n < 4 then 1 else if n < 8 then 2 else if n < 16 then 3 else if n < 32 then 4
  else if n < 64 then 5 else 6

/-- Leaves of a node, and its first leaf. -/
def nodeLeaves (n : Nat) : Nat := 2 ^ (6 - nodeDepth n)
def firstLeaf (n : Nat) : Nat := n * nodeLeaves n - 64

/-- Clusters and cores of a node. -/
def nodeClusters (n : Nat) : Nat := 4 * nodeLeaves n
def nodeCores (n : Nat) : Nat := 64 * nodeLeaves n

/-- The leaf of a physical cluster, and its row-major position in the leaf's 2 × 2 block. -/
def leafOf (cl : Nat) : Nat := 16 * (cl / 64) + 4 * (cl % 64 / 16) + cl % 8 / 2
def posInLeaf (cl : Nat) : Nat := cl / 8 % 2 * 2 + cl % 2

/-- The physical cluster at a position of a leaf. -/
def clusterAt (leaf pos : Nat) : Nat :=
  64 * (leaf / 16) + 8 * (2 * (leaf % 16 / 4) + pos / 2) + 2 * (leaf % 4) + pos % 2

/-- Logical and physical numbers of clusters and cores in a node. -/
def logicalCluster (n cl : Nat) : Nat := (leafOf cl - firstLeaf n) * 4 + posInLeaf cl
def physicalCluster (n lc : Nat) : Nat := clusterAt (firstLeaf n + lc / 4) (lc % 4)
def logicalCore (n core : Nat) : Nat := logicalCluster n (core / 16) * 16 + core % 16
def physicalCore (n lcore : Nat) : Nat := physicalCluster n (lcore / 16) * 16 + lcore % 16

/-- Whether a physical cluster lies in a node. -/
def inNode (n cl : Nat) : Bool := n ≥ 1 && firstLeaf n ≤ leafOf cl && leafOf cl < firstLeaf n + nodeLeaves n

/-- The node a VF is bound to; an unbound VF is read as the root's. -/
def State.nodeOf (s : State) (v : Nat) : Nat := if (s.vf v).node = 0 then 1 else (s.vf v).node

/-- The partition that holds a physical cluster: the listed node that contains it. -/
def State.partOf (s : State) (cl : Nat) : Nat :=
  match s.parts.find? (fun e => inNode e.1 cl) with
  | some (n, _) => n
  | none => 1

/-- Logical number of a physical core in the partition of a VF, and back. -/
def State.lcore (s : State) (v core : Nat) : Nat := logicalCore (s.nodeOf v) core
def State.pcore (s : State) (v lcore : Nat) : Nat := physicalCore (s.nodeOf v) lcore

/-- The core that a line's ccore names; a number that a SPLIT has left outside the partition is redirected (R368). -/
def State.ccoreOf (s : State) (v : Nat) (l : Line) : Nat := s.pcore v (l.ccore.toNat % nodeCores (s.nodeOf v))

/-! ## Cycles of a core (R424) -/

/-- Cycles that a core has had: the nominal ones but for those that its die's throttle level skipped. -/
def State.coreCycle (s : State) (core : Nat) : Nat := s.cycle - (s.die (dieOf core)).skipped

/-! ## Free values (log 6) -/

/-- One more draw. -/
def State.drawn (s : State) : State := { s with draws := s.draws + 1 }

/-! ## Bytes -/

/-- Keys of on-chip bytes. -/
def scratchKey (core pos : Nat) : Nat := 2 ^ 48 + core * 2 ^ 17 + pos
def clusterKey (cl pos : Nat) : Nat := 2 ^ 49 + cl * 2 ^ 21 + pos

/-- The byte of a list of cells; an unlisted byte is 0 (R421; host memory by log 2). -/
def getCell : List Host.Cell → Nat → Byte
  | [], _ => 0
  | (j, b) :: t, k => if j = k then b else getCell t k

/-- Writes a byte; writing 0 removes the cell. -/
def putCell : List Host.Cell → Nat → Byte → List Host.Cell
  | [], k, b => if b = 0 then [] else [(k, b)]
  | (j, c) :: t, k, b =>
    if k < j then (if b = 0 then (j, c) :: t else (k, b) :: (j, c) :: t)
    else if k = j then (if b = 0 then t else (k, b) :: t)
    else (j, c) :: putCell t k b

/-- Strictly rising. -/
def rising : List Nat → Bool
  | [] => true
  | [_] => true
  | a :: b :: t => a < b && rising (b :: t)

def Memory.get (m : Memory) (k : Nat) : Byte := getCell m.cells k
def Memory.put (m : Memory) (k : Nat) (b : Byte) : Memory := { m with cells := putCell m.cells k b }

/-- The canonical form: rising addresses, no cell equal to an unlisted one, rising lists of words. -/
def Memory.wf (m : Memory) : Bool :=
  rising (m.cells.map Prod.fst) && m.cells.all (fun c => c.2 ≠ 0) && rising m.empty && rising m.poison

/-- `n` bytes from `k` as a little-endian number (R5). -/
def Memory.read (m : Memory) (k : Nat) : Nat → Nat
  | 0 => 0
  | n + 1 => (m.get k).toNat + 256 * m.read (k + 1) n

/-- Writes `n` little-endian bytes of `v` from `k`. -/
def Memory.write (m : Memory) (k : Nat) : Nat → Nat → Memory
  | 0, _ => m
  | n + 1, v => (m.put k (BitVec.ofNat 8 v)).write (k + 1) n (v / 256)

/-- The full/empty bit and the poison bit of the 8-byte word that holds byte `k`. -/
def Memory.full (m : Memory) (k : Nat) : Bool := !m.empty.contains (k / 8)
def Memory.poisoned (m : Memory) (k : Nat) : Bool := m.poison.contains (k / 8)
def Memory.setFull (m : Memory) (k : Nat) (f : Bool) : Memory :=
  { m with empty := if f then eraseNat m.empty (k / 8) else insertNat m.empty (k / 8) }
def Memory.setPoison (m : Memory) (k : Nat) (p : Bool) : Memory :=
  { m with poison := if p then insertNat m.poison (k / 8) else eraseNat m.poison (k / 8) }

/-- A device zero-fill of the words from `k` for `n` bytes: 0, full, no poison (R142). -/
def Memory.zeroFill (m : Memory) (k n : Nat) : Memory where
  cells := m.cells.filter fun c => c.1 < k || k + n ≤ c.1
  empty := m.empty.filter fun w => w < k / 8 || (k + n) / 8 ≤ w
  poison := m.poison.filter fun w => w < k / 8 || (k + n) / 8 ≤ w

/-- An 8-byte word: data, full/empty bit, poison bit. -/
structure Word8 where
  data : Word
  full : Bool
  poison : Bool
  deriving DecidableEq, Repr

def Memory.word (m : Memory) (k : Nat) : Word8 :=
  Word8.mk (BitVec.ofNat 64 (m.read (k / 8 * 8) 8)) (m.full k) (m.poisoned k)

def Memory.putWord (m : Memory) (k : Nat) (w : Word8) : Memory :=
  ((m.write (k / 8 * 8) 8 w.data.toNat).setFull k w.full).setPoison k w.poison

/-- `n` bytes of a word from byte `off`. -/
def Word8.bytes (w : Word8) (off n : Nat) : Nat := w.data.toNat / 2 ^ (8 * off) % 2 ^ (8 * n)

/-- A word with `n` bytes from byte `off` replaced. -/
def Word8.withBytes (w : Word8) (off n v : Nat) : Word8 :=
  let mask : Word := BitVec.ofNat 64 ((2 ^ (8 * n) - 1) * 2 ^ (8 * off))
  { w with data := (w.data &&& ~~~mask) ||| (BitVec.ofNat 64 (v % 2 ^ (8 * n) * 2 ^ (8 * off)) &&& mask) }

/-! ## Host-physical addresses (R414, R415) -/

def hbmEnd : Nat := 0x6000000000
def capacityEnd : Nat := 0x26000000000
def hostBase : Nat := 0x800000000000
def leafSpan : Nat := 0x180000000

/-- The HBM pseudo-channel of an address (R3, R414): its die, and its number among the 256 of that die, 16 to a leaf. -/
def pseudoChannel (hpa : Nat) : Nat × Nat :=
  (hpa / leafSpan / 16, 16 * (hpa / leafSpan % 16) + hpa % leafSpan / 256 % 16)

/-- The leaf that a pseudo-channel belongs to. -/
def channelLeaf (ch : Nat × Nat) : Nat := 16 * ch.1 + ch.2 / 16
def reservedFrom : Nat := 0x17B400000

/-- The leaf's share of the frame table: stage 2 never reaches it (R415). -/
def frameReserved (hpa : Nat) : Bool := hpa < hbmEnd && reservedFrom ≤ hpa % leafSpan

/-- A byte of HBM or of the capacity tier. -/
def moduleHpa (hpa : Nat) : Bool := hpa < capacityEnd

/-- A host memory byte. -/
def hostHpa (hpa : Nat) : Bool := hostBase ≤ hpa && hpa < 2 ^ 48

/-- The host half of a guest-physical space (R428). -/
def hostHalf (gpa : Nat) : Bool := hostBase ≤ gpa

/-- The die whose controllers serve a module address: HBM by leaf, the capacity tier by its 4 KiB interleave, two chips
to a die. -/
def dieServing (hpa : Nat) : Nat := if hpa < hbmEnd then hpa / leafSpan / 16 else (hpa - hbmEnd) / 4096 % 8 / 2

/-- The Quern chip of a capacity-tier address (R414). -/
def quernChip (hpa : Nat) : Nat := (hpa - hbmEnd) / 4096 % 8

/-! ## Stage 2 and the frame table (R350, R351) -/

/-- What a page-table entry says (R343). -/
structure Pte where
  v : Bool
  r : Bool
  w : Bool
  x : Bool
  u : Bool
  a : Bool
  d : Bool
  b7 : Bool
  cls : Nat
  ppn : Nat
  owner : Nat
  high : Nat
  mid : Nat
  deriving DecidableEq, Repr

def Pte.ofWord (e : Word) : Pte where
  v := e.getLsbD 0
  r := e.getLsbD 1
  w := e.getLsbD 2
  x := e.getLsbD 3
  u := e.getLsbD 4
  a := e.getLsbD 5
  d := e.getLsbD 6
  b7 := e.getLsbD 7
  cls := (e.extractLsb' 8 2).toNat
  mid := (e.extractLsb' 10 2).toNat
  ppn := (e.extractLsb' 12 36).toNat
  owner := (e.extractLsb' 48 12).toNat
  high := (e.extractLsb' 60 4).toNat

def Pte.leaf (e : Pte) : Bool := e.r || e.w || e.x

/-- An entry that ends a walk in a fault at a level (R344). -/
def Pte.bad (e : Pte) (level : Nat) : Bool :=
  !e.v || e.b7 || e.mid ≠ 0 || e.high ≠ 0 || e.cls = 3
    || (level = 4 && e.leaf) || (level = 1 && !e.leaf) || (e.w && !e.r)
    || (level = 2 && e.leaf && e.ppn % 2 ^ 9 ≠ 0) || (level = 3 && e.leaf && e.ppn % 2 ^ 18 ≠ 0)
    || (!e.leaf && (e.u || e.a || e.d || e.cls ≠ 0 || e.owner ≠ 0))

/-- The table index of a page number (address bits [47:12]) at a level. -/
def levelIndex (page level : Nat) : Nat := page / 2 ^ (9 * (level - 1)) % 512

/-- The stage-2 walk of a guest page from a table at a host-physical address. The tables hold u, d, cls and owner 0 (R350). -/
def s2Walk (m : Memory) (vf table page : Nat) : Nat → Option S2Entry
  | 0 => none
  | level + 1 =>
    let e := Pte.ofWord (m.word (table + 8 * levelIndex page (level + 1))).data
    if e.bad (level + 1) || e.u || e.d || e.cls ≠ 0 || e.owner ≠ 0 then none
    else if e.leaf then some (S2Entry.mk vf page (e.ppn + page % 2 ^ (9 * level)) e.r e.w e.x)
    else s2Walk m vf (e.ppn * 4096) page level

/-- Whether a leaf allows an access: a fetch by x, a write by w, a read by r (R343, R350). -/
def S2Entry.allows (e : S2Entry) (write fetch : Bool) : Bool := if fetch then e.x else if write then e.w else e.r

/-- Stage 2 of a guest page for an access: a stage-2 cache entry of some die that allows it, else the walk (R350). Where dies hold
different entries for the page, that of the lowest die whose entry allows the access answers: DESIGN CHOICE (log 102). -/
def State.stage2 (s : State) (v gpage : Nat) (write fetch : Bool) : Option S2Entry :=
  let fits (e : S2Entry) : Bool := e.vf = v && e.page = gpage && e.allows write fetch
  match s.dies.findSome? fun d => d.2.s2.find? fits with
  | some e => some e
  | none => (s2Walk s.mem v (s.vf v).s2root gpage 4).filter fits

/-- A frame-table entry. -/
def State.frame (s : State) (f : Nat) : Frame := s.frames.get f (Frame.mk 0 0 false 0)

/-- The frame check of R351. -/
def State.frameAllows (s : State) (v gpage hpage : Nat) (write : Bool) : Bool :=
  let f := s.frame hpage
  f.state = 1 && (if write then f.vf = v && f.gfn = gpage else f.vf = v || f.ro)

/-- Why an access does not reach its word. -/
inductive MemFault where
  /-- a stage-2 fault (R350, R351, R414, R428) -/
  | stage2
  /-- a non-secure access to a secure granule (R407) -/
  | world
  deriving DecidableEq, Repr

/-- The world bit of a host-physical address (R406). -/
def State.secureHpa (s : State) (hpa : Nat) : Bool := s.platform.sorrel.regions.contains (hpa / 2 ^ 21)

/-- Stage 2 with every check of R350, R351, R414, R415, R428 for an access: the host page and the write grant. -/
def State.translate2 (s : State) (v gpage : Nat) (write : Bool) (fetch : Bool := false) : Option (Nat × Bool) :=
  match s.stage2 v gpage write fetch with
  | none => none
  | some e =>
    let hpa := e.frame * 4096
    if hostHalf (gpage * 4096) then
      if hostHpa hpa then some (e.frame, e.w) else none
    else if moduleHpa hpa && !frameReserved hpa && s.frameAllows v gpage e.frame write then
      some (e.frame, e.w && s.frameAllows v gpage e.frame true)
    else none

/-! ## LLC lines -/

def Dir.empty : Dir := Dir.mk 0 0 false [] []

def State.llc? (s : State) (v line : Nat) : Option LlcLine := s.llc.find? fun l => l.vf = v && l.line = line

/-- Replaces or adds an LLC line. -/
def State.putLlc (s : State) (l : LlcLine) : State :=
  { s with llc := l :: s.llc.filter fun x => !(x.vf = l.vf && x.line = l.line) }

/-- Bits of a 64-byte line from memory, one per word. -/
def wordBits (f : Nat → Bool) : BitVec 8 :=
  BitVec.ofNat 8 ((List.range 8).foldl (fun acc i => if f i then acc + 2 ^ i else acc) 0)

/-- A 64-byte line of memory as an LLC line. -/
def State.lineFromMemory (s : State) (v line hpage : Nat) (write : Bool) : LlcLine :=
  let k := hpage * 4096 + line % 64 * 64
  LlcLine.mk v line (BitVec.ofNat 512 (s.mem.read k 64)) (wordBits fun i => s.mem.full (k + 8 * i))
    (wordBits fun i => s.mem.poisoned (k + 8 * i)) hpage write false Dir.empty none

/-- Writes an LLC line's words, bits and poison back to its host frame; write-backs never translate again (R350). -/
def State.lineToMemory (s : State) (l : LlcLine) : State :=
  let k := l.frame * 4096 + l.line % 64 * 64
  let m := s.mem.write k 64 l.data.toNat
  let step (m : Memory) (i : Nat) : Memory :=
    (m.setFull (k + 8 * i) (l.fe.getLsbD i)).setPoison (k + 8 * i) (l.poison.getLsbD i)
  { s with mem := (List.range 8).foldl step m }

/-- Whether the world check of R407 refuses an access to a frame. -/
def State.frameRefuses (s : State) (frame : Nat) (secure : Bool) : Bool := s.secureHpa (frame * 4096) && !secure

/-- The frame that stage 2 gives a guest page, whatever the rights of its leaf: the world check comes before them (R340). -/
def State.frameOf? (s : State) (v gpage : Nat) (write fetch : Bool) : Option Nat :=
  (((s.stage2 v gpage write fetch).or (s.stage2 v gpage false false)).or (s.stage2 v gpage false true)).map S2Entry.frame

/-- The line that a miss brings, or a write upgrade that stage 2 now takes to another frame than the line's (R350, R351): its world
first, then the leaf's rights and the frame table. -/
def State.lineBrought (s : State) (v line : Nat) (write secure fetch : Bool) : Except MemFault LlcLine :=
  match s.frameOf? v (line / 64) write fetch with
  | none => .error .stage2
  | some f =>
    if s.frameRefuses f secure then .error .world
    else
      match s.translate2 v (line / 64) write fetch with
      | none => .error .stage2
      | some (hp, w) => .ok (s.lineFromMemory v line hp w)

/-- The line an access of a VF sees, its world checked before the write grant (R340): the LLC line, with a write upgrade where
it lacks the grant, or the line that a miss would bring (R350). The upgrade holds for the frame that stage 2 gives now. -/
def State.lineView (s : State) (v line : Nat) (write secure : Bool) (fetch : Bool := false) : Except MemFault LlcLine :=
  match s.llc? v line with
  | some l =>
    if s.frameRefuses l.frame secure then .error .world
    else if write && !l.write then
      match s.lineBrought v line true secure fetch with
      | .error e => .error e
      | .ok x => .ok (if x.frame = l.frame then { l with write := true } else x)
    else .ok l
  | none => s.lineBrought v line write secure fetch

/-- Whether a miss of a VF leaves a line in the LLC: not with a wmask of 0 (R370). -/
def State.allocates (s : State) (v : Nat) : Bool := (s.vf v).wmask ≠ 0

/-- Remembers the translation that a line came by in the stage-2 cache of the die that serves the page, 1,024 entries
(R350); a full one drops the entry brought first: DESIGN CHOICE (log 102). -/
def State.cacheS2 (s : State) (v gpage : Nat) (write : Bool) : State :=
  match (s.stage2 v gpage write false).or (s.stage2 v gpage false true) with
  | none => s
  | some e =>
    let d := dieServing (e.frame * 4096)
    let x := s.die d
    s.setDie d { x with s2 := (e :: x.s2.filter fun y => !(y.vf = v && y.page = gpage)).take 1024 }

/-- Every core copy of a line goes: stage 2 has taken its page to another frame. -/
def State.dropCopies (s : State) (v line : Nat) : State :=
  { s with cores := s.cores.map fun e => (e.1, { e.2 with cache := e.2.cache.filter fun x => !(x.vf = v && x.line = line) }) }

/-- The LLC takes a line that an access has brought, or the access leaves none behind. -/
def State.keepLine (s : State) (l : LlcLine) (noAlloc : Bool) : State :=
  if (s.llc? l.vf l.line).any fun x => x.frame ≠ l.frame then
    ((s.dropCopies l.vf l.line).putLlc { l with dir := Dir.empty }).cacheS2 l.vf (l.line / 64) l.write
  else if (s.llc? l.vf l.line).any fun x => x.write = l.write then s.putLlc l
  else if (s.llc? l.vf l.line).isSome || (s.allocates l.vf && !noAlloc) then
    (s.putLlc l).cacheS2 l.vf (l.line / 64) l.write
  else if l.dirty then s.lineToMemory l else s

/-! ## Core data caches (R355 to R358) -/

/-- The word number within its line. -/
def wordIx (gpa : Nat) : Nat := gpa % 64 / 8

/-- Widens a mask of sixteen 4-byte words to bits. -/
def wordMask (m : BitVec 16) : BitVec 512 :=
  (List.range 16).foldl (fun acc i => if m.getLsbD i then acc ||| (BitVec.ofNat 512 (0xFFFFFFFF * 2 ^ (32 * i))) else acc) 0

/-- `dst` with the words of `m` taken from `src`. -/
def mergeWords (dst src : BitVec 512) (m : BitVec 16) : BitVec 512 :=
  (dst &&& ~~~(wordMask m)) ||| (src &&& wordMask m)

def Core.cacheLine? (c : Core) (v line : Nat) : Option CacheLine := c.cache.find? fun l => l.vf = v && l.line = line

/-- Puts the copy of a line first, as the most recently used, or drops it when it holds no valid word (R355). -/
def Core.putCache (c : Core) (l : CacheLine) : Core :=
  let rest := c.cache.filter fun x => !(x.vf = l.vf && x.line = l.line)
  { c with cache := if l.val = 0 then rest else l :: rest }

/-- Replaces the copy of a line where it stands, or drops it when it holds no valid word: what the slice does to a copy is no
use of it (R355, R358). -/
def Core.setCache (c : Core) (l : CacheLine) : Core :=
  { c with cache := (c.cache.map fun x => if x.vf = l.vf && x.line = l.line then l else x).filter fun x => x.val ≠ 0 }

/-- The words of a line as every module agent reads them: the LLC's with the dirty words of the core caches over them. -/
def State.overlay (s : State) (l : LlcLine) : BitVec 512 :=
  s.cores.foldl (fun d e =>
    match e.2.cacheLine? l.vf l.line with
    | none => d
    | some c => mergeWords d c.data c.dirty) l.data

/-- The words of a line that some core cache holds dirty. -/
def State.dirtyWords (s : State) (v line : Nat) : BitVec 16 :=
  s.cores.foldl (fun m e =>
    match e.2.cacheLine? v line with
    | none => m
    | some c => m ||| c.dirty) 0

/-- Poison of a line's doublewords once the words of `m`, newer than the bad data, stand over it: a doubleword whose two halves are
both newer is written whole (R141, R394). -/
def unpoison (p : BitVec 8) (m : BitVec 16) : BitVec 8 :=
  BitVec.ofNat 8 ((List.range 8).foldl (fun acc i =>
    if p.getLsbD i && !(m.getLsbD (2 * i) && m.getLsbD (2 * i + 1)) then acc + 2 ^ i else acc) 0)

/-- The poison of a line as every module agent meets it. -/
def State.livePoison (s : State) (l : LlcLine) : BitVec 8 :=
  if l.poison = 0 then 0 else unpoison l.poison (s.dirtyWords l.vf l.line)

/-- The poison that is left once the words of `m` reach the LLC line: of their doublewords, what every agent met before. -/
def State.settlePoison (s : State) (l : LlcLine) (m : BitVec 16) : BitVec 8 :=
  if l.poison = 0 then 0
  else
    let live := s.livePoison l
    BitVec.ofNat 8 ((List.range 8).foldl (fun acc i =>
      if (if m.getLsbD (2 * i) || m.getLsbD (2 * i + 1) then live.getLsbD i else l.poison.getLsbD i) then acc + 2 ^ i else acc) 0)

/-- Takes words out of an owner slot list; a slot with mask 0 is free (R356). -/
def clearOwners (owners : List (Nat × BitVec 16)) (m : BitVec 16) : List (Nat × BitVec 16) :=
  (owners.map fun o => (o.1, o.2 &&& ~~~m)).filter fun o => o.2 ≠ 0

/-- R358: the slice recalls the dirty words of `m` from whichever cores hold them, but for core `except_`, and where
`inval` says so invalidates those words in every other copy; a core left with no valid word is a sharer no more. Answers the
line with the recalled words. -/
def State.recall (s : State) (l : LlcLine) (m : BitVec 16) (inval : Bool) (except_ : Option Nat) : State × LlcLine :=
  let data := s.cores.foldl (fun d e =>
    match e.2.cacheLine? l.vf l.line with
    | none => d
    | some c => if except_ = some e.1 then d else mergeWords d c.data (c.dirty &&& m)) l.data
  let any := s.cores.any fun e =>
    match e.2.cacheLine? l.vf l.line with
    | none => false
    | some c => except_ ≠ some e.1 && (c.dirty &&& m) ≠ 0
  let recalled := s.cores.foldl (fun d e =>
    match e.2.cacheLine? l.vf l.line with
    | none => d
    | some c => if except_ = some e.1 then d else d ||| (c.dirty &&& m)) 0
  let cores := s.cores.map fun e =>
    match e.2.cacheLine? l.vf l.line with
    | none => e
    | some c =>
      if except_ = some e.1 then e
      else (e.1, e.2.setCache { c with
        dirty := c.dirty &&& ~~~m, val := if inval then c.val &&& ~~~m else c.val })
  let keeps (lc : Nat) : Bool := except_.any fun c => s.lcore l.vf c = lc
  let owners := l.dir.owners.map fun o => if keeps o.1 then o else (o.1, o.2 &&& ~~~m)
  let l' := { l with
    data := data
    poison := s.settlePoison l recalled
    dirty := l.dirty || any
    dir := { l.dir with
      sharers := if inval then l.dir.sharers.filter fun x =>
          cores.any fun e => s.lcore l.vf e.1 = x && (e.2.cacheLine? l.vf l.line).isSome
        else l.dir.sharers
      owners := owners.filter fun o => o.2 ≠ 0 } }
  ({ s with cores := cores }, l')

/-- The 4-byte words of a line that `n` bytes from offset `off` touch. -/
def wordsTouched (off n : Nat) : BitVec 16 :=
  (List.range 16).foldl (fun acc i => if off < 4 * i + 4 && 4 * i < off + n then acc ||| (1#16 <<< i) else acc) 0

/-! ## One word at any place -/

/-- The word of an LLC line that holds a guest-physical address. -/
def LlcLine.word (l : LlcLine) (data : BitVec 512) (gpa : Nat) : Word8 :=
  Word8.mk (data.extractLsb' (64 * wordIx gpa) 64) (l.fe.getLsbD (wordIx gpa)) (l.poison.getLsbD (wordIx gpa))

def setBit8 (b : BitVec 8) (i : Nat) (v : Bool) : BitVec 8 := if v then b ||| (1#8 <<< i) else b &&& ~~~(1#8 <<< i)

/-- An LLC line with one word replaced. -/
def LlcLine.putWord (l : LlcLine) (gpa : Nat) (w : Word8) : LlcLine :=
  let i := wordIx gpa
  let mask : BitVec 512 := BitVec.ofNat 512 ((2 ^ 64 - 1) * 2 ^ (64 * i))
  { l with
    data := (l.data &&& ~~~mask) ||| BitVec.ofNat 512 (w.data.toNat * 2 ^ (64 * i))
    fe := setBit8 l.fe i w.full
    poison := setBit8 l.poison i w.poison
    dirty := true }

/-! ## Host lines in core caches (R355, R372) -/

/-- The dirty words of the core caches over a host line of 64 bytes. -/
def State.hostOverlay (s : State) (h : Nat) (d : BitVec 512) : BitVec 512 :=
  s.cores.foldl (fun d e =>
    e.2.cache.foldl (fun d x => if x.host && x.hline = h then mergeWords d x.data x.dirty else d) d) d

/-- The words of a host line that some core cache holds dirty. -/
def State.hostDirty (s : State) (h : Nat) : BitVec 16 :=
  s.cores.foldl (fun m e =>
    e.2.cache.foldl (fun m x => if x.host && x.hline = h then m ||| x.dirty else m) m) 0

/-- A word of host memory as every agent reads it under CXL.cache: the host's, with a core's dirty words over it. -/
def State.hostWord8 (s : State) (h : Nat) : Word8 :=
  let w := s.mem.word h
  let dirty := s.hostDirty (h / 64)
  if dirty = 0 then w
  else
    let d := s.hostOverlay (h / 64) (BitVec.ofNat 512 (s.mem.read (h / 64 * 64) 64))
    let own := dirty.getLsbD (2 * wordIx h) && dirty.getLsbD (2 * wordIx h + 1)
    { w with data := d.extractLsb' (64 * wordIx h) 64, poison := w.poison && !own }

/-- Host memory takes the dirty words of a host line; a doubleword written whole is no longer poisoned (R394). -/
def State.hostMerge (s : State) (h : Nat) (data : BitVec 512) (dirty : BitVec 16) : State :=
  if dirty = 0 then s
  else
    let put (m : Memory) (i : Nat) : Memory :=
      if dirty.getLsbD i then
        let m1 := m.write (h * 64 + 4 * i) 4 (data.extractLsb' (32 * i) 32).toNat
        if dirty.getLsbD (i / 2 * 2) && dirty.getLsbD (i / 2 * 2 + 1) then m1.setPoison (h * 64 + 4 * i) false else m1
      else m
    { s with mem := (List.range 16).foldl put s.mem }

/-- A snoop of a host line: its dirty words go to host memory, and every copy but those of core `except_` is clean, or where
`inval` says so gone. -/
def State.hostRecall (s : State) (h : Nat) (inval : Bool) (except_ : Option Nat) : State :=
  let dirty := s.hostDirty h
  let s1 := if dirty = 0 then s else s.hostMerge h (s.hostOverlay h 0) dirty
  let drop (c : Nat) (x : CacheLine) : CacheLine :=
    if x.host && x.hline = h then { x with dirty := 0, val := if inval && except_ ≠ some c then 0 else x.val } else x
  { s1 with cores := s1.cores.map (fun e =>
      (e.1, { e.2 with cache := (e.2.cache.map (drop e.1)).filter (fun x => x.val != 0) })) }

/-- Host memory behind a guest page: its host-physical address. -/
def State.hostAddr (s : State) (v gpa : Nat) (write : Bool) (fetch : Bool := false) : Option Nat :=
  (s.translate2 v (gpa / 4096) write fetch).map fun h => h.1 * 4096 + gpa % 4096

/-- Whether the port that carries the logical device of a VF's partition is down: host memory reads poisoned through it
and a write through it is lost (R418, log 21). -/
def State.hostDown (s : State) (v : Nat) : Bool :=
  s.platform.bindings.any fun b => b.1 = s.nodeOf v && s.platform.portsDown.contains b.2

/-- Whether a guest-physical address lies in the first doubleword of an upcall ring's header (R288). -/
def State.occAt (s : State) (v gpa : Nat) : Bool :=
  let x := s.vf v
  x.upcbase ≠ 0 && x.upcbase ≤ gpa && gpa < x.upcbase + 8192 * nodeCores (s.nodeOf v) && (gpa - x.upcbase) % 8192 < 8

/-- A word as it reads at a guest-physical address: bits 0 and 1 of an occ word read 1 (R288). -/
def State.shows (s : State) (v gpa : Nat) (w : Word8) : Word8 := if s.occAt v gpa then { w with data := w.data ||| 3 } else w

/-- The lowest bytes from a place as they read there. -/
def State.showBytes (s : State) (loc : Loc) (x : Nat) : Nat :=
  match loc with
  | .paged v gpa => if s.occAt v gpa && gpa % 8 = 0 then x ||| 3 else x
  | _ => x

/-- The word that holds a place, as the next access in G reads it (R261). Host memory carries no bit (R142): it reads
full. -/
def State.word (s : State) (loc : Loc) (write secure : Bool) (fetch : Bool := false) : Except MemFault Word8 :=
  match loc with
  | .scratch c p => .ok (s.mem.word (scratchKey c p))
  | .cluster k p => .ok (s.mem.word (clusterKey k p))
  | .paged v gpa =>
    if hostHalf gpa then
      match s.hostAddr v gpa write fetch with
      | none => .error .stage2
      | some h => .ok (s.shows v gpa (Word8.mk (s.hostWord8 h).data true ((s.hostWord8 h).poison || s.hostDown v)))
    else
      match s.lineView v (gpa / 64) write secure fetch with
      | .error e => .error e
      | .ok l => .ok (s.shows v gpa ({ l with poison := s.livePoison l }.word (s.overlay l) gpa))

/-- The offset of a place within its 8-byte word. -/
def Loc.off : Loc → Nat
  | .scratch _ p => p % 8
  | .cluster _ p => p % 8
  | .paged _ g => g % 8

/-- Performs a write of `n` bytes of a word at a place, with its bit and its poison: at the bank, at the slice after the recall of R358
of the 4-byte words that it touches (of both where the LLC's data is bad, so that the word is settled whole, R394), or at the host.
A word that cannot be reached is left as it is. -/
def State.putWord (s : State) (loc : Loc) (w : Word8) (secure : Bool) (n : Nat := 8) : State :=
  match loc with
  | .scratch c p => { s with mem := s.mem.putWord (scratchKey c p) w }
  | .cluster k p => { s with mem := s.mem.putWord (clusterKey k p) w }
  | .paged v gpa =>
    if hostHalf gpa then
      match s.hostAddr v gpa true with
      | none => s
      | some h =>
        if s.hostDown v then s
        else
          let s1 := s.hostRecall (h / 64) true none
          { s1 with mem := s1.mem.putWord h { w with full := true } }
    else
      match s.lineView v (gpa / 64) true secure with
      | .error _ => s
      | .ok l =>
        let part := n < 8 && !l.poison.getLsbD (wordIx gpa)
        let at_ := if part then loc.off else 0
        let k := if part then n else 8
        let (s1, l1) := s.recall l (wordsTouched (gpa % 64 / 8 * 8 + at_) k) true none
        let data := ((l1.word l1.data gpa).withBytes at_ k (w.bytes at_ k)).data
        s1.keepLine (l1.putWord gpa { w with data := data }) false

/-- The recall of R358 before an operation at the slice that writes nothing: the words of `n` bytes at a place that some core holds
dirty come back, and where `inval` says so leave every copy. -/
def State.recallWords (s : State) (loc : Loc) (n : Nat) (inval secure : Bool) : State :=
  match loc with
  | .paged v gpa =>
    if hostHalf gpa then (s.hostAddr v gpa false).elim s fun h => s.hostRecall (h / 64) inval none
    else
      match s.lineView v (gpa / 64) false secure with
      | .error _ => s
      | .ok l =>
        let (s1, l1) := s.recall l (wordsTouched (gpa % 64) n) inval none
        s1.keepLine l1 true
  | _ => s

/-- The place `k` bytes on. -/
def Loc.plus : Loc → Nat → Loc
  | .scratch c p, k => .scratch c (p + k)
  | .cluster c p, k => .cluster c (p + k)
  | .paged v g, k => .paged v (g + k)

/-- The unit that a place lies in, and its position there: two places overlap only in one unit. -/
def Loc.unit : Loc → Nat × Nat
  | .scratch c _ => (0, c)
  | .cluster c _ => (1, c)
  | .paged v _ => (2, v)
def Loc.pos : Loc → Nat
  | .scratch _ p => p
  | .cluster _ p => p
  | .paged _ g => g

def Loc.overlaps (a : Loc) (n : Nat) (b : Loc) (k : Nat) : Bool :=
  a.unit = b.unit && a.pos < b.pos + k && b.pos < a.pos + n

/-- Whether a place is host memory. -/
def Loc.host : Loc → Bool
  | .paged _ g => hostHalf g
  | _ => false

/-- `n` bytes (1, 2, 4 or 8, aligned) at a place, with the poison of their word. -/
def State.readBytes (s : State) (loc : Loc) (n : Nat) (secure : Bool) (fetch : Bool := false) : Except MemFault (Nat × Bool) :=
  match s.word loc false secure fetch with
  | .error e => .error e
  | .ok w => .ok (w.bytes loc.off n, w.poison)

/-! ## Error counters (R400) -/

/-- Saturating count of 32 bits. -/
def bump (n : Nat) : Nat := if n + 1 < 2 ^ 32 then n + 1 else 2 ^ 32 - 1

/-- The first error captures its address and kind and posts MSI-X entry 3. -/
def State.capture (s : State) (v addr code : Nat) : State :=
  let x := s.vf v
  if x.errs.fv then s
  else
    let s1 := s.setVf v { x with errs := { x.errs with faddr := addr, fcode := code, fv := true } }
    { s1 with platform := { s1.platform with interrupts := s1.platform.interrupts ++ [(v, 3)] } }

/-- Counts an error of a VF by its kind (fcode), then captures it if it is the first. -/
def State.countErr (s : State) (v addr code : Nat) : State :=
  let x := s.vf v
  let e := x.errs
  let e' :=
    match code with
    | 1 => { e with nuc := bump e.nuc }
    | 2 => { e with npst := bump e.npst }
    | 3 => { e with npw := bump e.npw }
    | 4 => { e with nctx := bump e.nctx }
    | 5 => { e with nfill := bump e.nfill }
    | _ => e
  (s.setVf v { x with errs := e' }).capture v addr code

/-! ## Wakes (R145, R147, R427) -/

/-- Wakes the waiters that a performed write must wake, and those of the same 64-byte lines that the implementation
chooses to (log 9). A woken waiter's registration ends, and the wake travels as a context event (R313). -/
def State.wake (s : State) (loc : Loc) (n : Nat) (must : Waiter → Bool) : State :=
  let near (w : Waiter) : Bool :=
    w.loc.unit = loc.unit && w.loc.pos / 64 ≤ (loc.pos + n - 1) / 64 && loc.pos / 64 ≤ (w.loc.pos + w.n - 1) / 64
  s.waiters.foldl (fun s w =>
    if must w then { s with waiters := s.waiters.erase w, events := s.events ++ [(w.who, .wake w.kind)] }
    else if near w then
      let s1 := s.drawn
      if Config.mayWake s.draws then
        { s1 with waiters := s1.waiters.erase w, events := s1.events ++ [(w.who, .wake w.kind)] }
      else s1
    else s) s

/-- The waiters that any write of `n` bytes wakes for certain: watchers of the word, join waiters of the word, ring and
barrier waiters of the object, and an XLATE waiter for a free upcall slot (R290); FULL and EMPTY waiters when the bit became so. -/
def wokenByWrite (loc : Loc) (n : Nat) (toFull toEmpty : Bool) (w : Waiter) : Bool :=
  w.loc.overlaps w.n loc n &&
    match w.kind with
    | .addr | .join | .ring | .barrier | .xlate => true
    | .full => toFull
    | .empty => toEmpty
    | _ => false

/-- A performed write of the bytes of one word, with the wakes that follow; `w` and `w'` are the word before and after. -/
def State.performWord (s : State) (loc : Loc) (n : Nat) (w w' : Word8) (secure : Bool) : State :=
  (s.putWord loc w' secure n).wake loc n (wokenByWrite loc n (!w.full && w'.full) (w.full && !w'.full))

/-- A store of `n` bytes by or for a VF at its place (R141): a partial store to a poisoned word is discarded and
counted; a store of 8 bytes clears the poison; a store that cannot be performed is discarded and counted (R138). -/
def State.storeBytes (s : State) (v : Nat) (loc : Loc) (n val : Nat) (secure : Bool) : State :=
  match s.word loc true secure with
  | .error _ => s.countErr v loc.pos 3
  | .ok w =>
    if loc.host && s.hostDown v then s.countErr v loc.pos 3
    else if w.poison && n < 8 then s.countErr v loc.pos 2
    else s.performWord loc n w { w.withBytes loc.off n val with poison := false } secure

end Sys2Proof.Machine
end

