-- ==== Sys2Proof/Machine/Operands.lean ====
section
/-! DEFINITION. Operands: registers and predicates of a line (01, R8), pointers and the segment check (R29, R30, R135),
segment registers (R25 to R27), and stage 1 at the core (R340, R345, R346, R428). -/
namespace Sys2Proof.Machine

/-! ## Registers of a line -/

/-- g[r] (R8). -/
def Line.reg (l : Line) (r : BitVec 3) : Word := l.g.get r.toFin

/-- g[r] ← v. -/
def Line.setReg (l : Line) (r : BitVec 3) (v : Word) : Line := { l with g := l.g.set r.toNat v r.isLt }

/-- P[i]; bit 0 of pw always holds 1 (R8, R14). -/
def Line.pred (l : Line) (i : BitVec 5) : Bool := i == 0 || l.pw.getLsbD i.toNat

/-- P[i] ← b; a write to P[0] is discarded (R8). -/
def Line.setPred (l : Line) (i : BitVec 5) (b : Bool) : Line :=
  if i == 0 then l
  else { l with pw := if b then l.pw ||| (1#32 <<< i.toNat) else l.pw &&& ~~~(1#32 <<< i.toNat) }

/-- The predicate word as a whole, with bit 0 kept at 1 (R92). -/
def Line.setPw (l : Line) (v : BitVec 32) : Line := { l with pw := v ||| 1 }

/-- The fields of fcsr (R14): rounding mode, sticky flags NV DZ OF UF NX in bits 7 to 3, sat, fz. -/
def Line.rm (l : Line) : BitVec 3 := l.fcsr.extractLsb' 0 3
def Line.fz (l : Line) : Bool := l.fcsr.getLsbD 9

/-- Whether the guard lets the instruction execute: P[p] = 1 − s (R68). -/
def guardHolds (p : Pre) (l : Line) : Bool :=
  match p.guard with
  | none => true
  | some g => l.pred g.idx == (g.sense == 0)

/-- A sign- or zero-extended value (R8). -/
def sext64 (v bits : Nat) : Word := if v < 2 ^ (bits - 1) then BitVec.ofNat 64 v else BitVec.ofInt 64 ((v : Int) - 2 ^ bits)

/-- A displacement in units of `n` bytes added to a base pointer with 64-bit wrapping (R67, R139, R144). -/
def dispPtr (p : Pre) (base : Word) (b : BitVec 3) (n : Nat) : Word := base + BitVec.ofInt 64 (p.immU b * n)

/-! ## Trap causes (R277) -/

def causeIllegal : BitVec 16 := 0x01
def causePriv : BitVec 16 := 0x02
def causeSegLimit : BitVec 16 := 0x03
def causeSegRights : BitVec 16 := 0x04
def causeAlign : BitVec 16 := 0x05
def causePageFault : BitVec 16 := 0x06
def causeStage2 : BitVec 16 := 0x07
def causeMemUncorr : BitVec 16 := 0x08
def causeAtomicPath : BitVec 16 := 0x09
def causeFeUnsupp : BitVec 16 := 0x0A
def causeHandle : BitVec 16 := 0x0B
def causeHandlerWait : BitVec 16 := 0x0C
def causeLoop : BitVec 16 := 0x0D
def causeBrk : BitVec 16 := 0x0E
def causeTrap : BitVec 16 := 0x0F
def causeEngine : BitVec 16 := 0x10
def causeWorld : BitVec 16 := 0x11
def causeMigrate : BitVec 16 := 0x12
def causeWatch : BitVec 16 := 0x13

/-- A trap to take: its cause and tval. -/
structure TrapInfo where
  cause : BitVec 16
  tval : Word
  deriving DecidableEq, Repr

/-- The checks of R15 on a target as a 64-bit value. -/
def checkTarget (t : Word) : Option TrapInfo :=
  if t.extractLsb' 61 3 != 0 then some (TrapInfo.mk causeSegRights t)
  else if t.extractLsb' 48 13 != 0 then some (TrapInfo.mk causeSegLimit t)
  else if t.getLsbD 0 then some (TrapInfo.mk causeAlign t)
  else none

/-! ## Segments -/

def segTypeOf (t : Nat) : Option SegType :=
  match t with
  | 0 => some .plain
  | 1 => some .homed
  | 2 => some .scratch
  | 3 => some .cluster
  | 4 => some .peer
  | 5 => some .capacity
  | 6 => some .code
  | _ => none

/-- The span of a type (R27). -/
def SegType.span (t : SegType) (base clusters : Nat) : Nat :=
  match t with
  | .scratch => 2 ^ 17 - base
  | .cluster => 2 ^ 21 - base
  | .peer => clusters * 2 ^ 21
  | _ => 2 ^ 48 - base

/-- Loads one descriptor (R25 to R27). -/
def loadSeg (lo hi : Word) (clusters : Nat) : Seg :=
  if !lo.getLsbD 63 then Seg.invalid
  else
    match segTypeOf (lo.extractLsb' 53 3).toNat with
    | none => Seg.invalid
    | some t =>
      let base := if t = .peer then 0 else (lo.extractLsb' 0 48).toNat
      let limit := Nat.min (hi.extractLsb' 0 48).toNat (t.span base clusters)
      let code := t = .code
      Seg.mk true base limit (lo.getLsbD 48) (lo.getLsbD 49 && !code) (lo.getLsbD 50) (lo.getLsbD 51 && !code)
        (lo.getLsbD 52 && !code && t ≠ .capacity) t

/-- The pointer's fields (R29). -/
def ptrSeg (q : Word) : Nat := (q.extractLsb' 61 3).toNat
def ptrOff (q : Word) : Nat := (q.extractLsb' 0 48).toNat
def ptrHigh (q : Word) : Bool := q.extractLsb' 48 13 != 0

/-- The rights an access needs (R28), whether it is a full/empty operation (R30 step 3), and whether a CODE segment refuses it
(R143). -/
structure Need where
  r : Bool := false
  w : Bool := false
  x : Bool := false
  a : Bool := false
  f : Bool := false
  /-- a page-5 operation, which no CODE segment carries (R143) -/
  sync : Bool := false
  deriving DecidableEq, Repr

def needLoad : Need := Need.mk true false false false false false
def needStore : Need := Need.mk false true false false false false
def needFetch : Need := Need.mk false false true false false false
def needAtomic : Need := Need.mk true true false true false false
def needFeBoth : Need := Need.mk true true false false true false
def needFeRead : Need := Need.mk true false false false true false
def needFeWrite : Need := Need.mk false true false false true false
def needNone : Need := Need.mk false false false false false false
def needReadWrite : Need := Need.mk true true false false false false
/-- waddr, join.wait and bar.wait (R143). -/
def needWait : Need := Need.mk true false false false false true

def Seg.grants (g : Seg) (n : Need) : Bool :=
  (g.r || !n.r) && (g.w || !n.w) && (g.x || !n.x) && (g.a || !n.a) && (g.f || !n.f) && !(n.sync && g.type = .code)

/-- Whether any bank that `n` bytes of cluster memory from `pos` reach is kept for another VF (R212); no byte reaches none. -/
def State.bankKept (s : State) (v cl pos n : Nat) : Bool :=
  (s.cluster cl).banks.any fun e => e.1 ≠ v &&
    (List.range 32).any fun b => e.2.getLsbD b && b * 2 ^ 16 < pos + n && pos < (b + 1) * 2 ^ 16

/-- The handle-table range of a scratchpad (R207). -/
def handleTableFrom : Nat := 0x1F000

/-- What the segment check of a pointer yields before translation: an on-chip place, or a linear address. -/
inductive Site where
  | chip (loc : Loc)
  | linear (a : Nat)
  deriving DecidableEq, Repr

/-- The place that an offset of a segment names for a core and VF (R27, R29). -/
def State.site (s : State) (core v : Nat) (g : Seg) (off : Nat) : Site :=
  match g.type with
  | .scratch => .chip (.scratch core (g.base + off))
  | .cluster => .chip (.cluster (clusterOf core) (g.base + off))
  | .peer => .chip (.cluster (physicalCluster (s.nodeOf v) (off / 2 ^ 21)) (off % 2 ^ 21))
  | _ => .linear (g.base + off)

/-- Whether a segment type holds tiles and rings (R214, R218). -/
def SegType.onChip (t : SegType) : Bool :=
  match t with
  | .scratch | .cluster | .peer => true
  | _ => false

/-- The bytes from an offset of an on-chip segment as runs of one memory each: a PEER run ends with each cluster's memory
(R129). -/
def State.runs (s : State) (core v : Nat) (g : Seg) (off n : Nat) : Nat → List (Loc × Nat)
  | 0 => []
  | k + 1 =>
    if n = 0 then []
    else
      match s.site core v g off with
      | .linear _ => []
      | .chip l =>
        let m := match g.type with
          | .peer => Nat.min n (2 ^ 21 - off % 2 ^ 21)
          | _ => n
        (l, m) :: s.runs core v g (off + m) (n - m) k

/-- As many runs as an extent can have: one a cluster. -/
def State.runsOf (s : State) (core v : Nat) (g : Seg) (off n : Nat) : List (Loc × Nat) :=
  s.runs core v g off n (Config.clusters + 1)

/-- Whether bytes of one memory lie where R30 step 4 refuses them: a handle table or another VF's kept bank. -/
def State.runRefused (s : State) (v : Nat) (r : Loc × Nat) : Bool :=
  match r.1 with
  | .scratch _ p => r.2 ≠ 0 && handleTableFrom < p + r.2
  | .cluster k p => r.2 ≠ 0 && s.bankKept v k p r.2
  | .paged _ _ => false

/-- Whether any run lies in memory refused at R30 step 4 (R207, R212). -/
def State.runsRefused (s : State) (v : Nat) (rs : List (Loc × Nat)) : Bool := rs.any (s.runRefused v)

/-- Alignment of a place to `n` bytes (R135). -/
def Site.aligned (x : Site) (n : Nat) : Bool :=
  match x with
  | .chip l => l.pos % n = 0
  | .linear a => a % n = 0

/-- A loaded segment register of a slot. -/
def Slot.seg (sl : Slot) (k : Nat) : Seg := (sl.segs[k]?).getD Seg.invalid

/-- The segment check of R30 with R135's alignment, of `n` bytes through pointer `q`, its tval being `tv` (the pointer, or
for a fetch the parcel's offset); `align` is off for the forms that check none. -/
def State.segCheck (s : State) (core v : Nat) (segs : List Seg) (q : Word) (n : Nat) (need : Need) (align : Bool)
    (tv : Word) : Except TrapInfo (Seg × Site) :=
  let g := (segs[ptrSeg q]?).getD Seg.invalid
  let off := ptrOff q
  let x := s.site core v g off
  if ptrHigh q then .error (TrapInfo.mk causeSegLimit tv)
  else if !g.valid || g.limit < off + n then .error (TrapInfo.mk causeSegLimit tv)
  else if need.f && g.type = .capacity then .error (TrapInfo.mk causeFeUnsupp tv)
  else if !g.grants need || s.runsRefused v (s.runsOf core v g off n) then .error (TrapInfo.mk causeSegRights tv)
  else if align && (off % n ≠ 0 || !x.aligned n) then .error (TrapInfo.mk causeAlign tv)
  else .ok (g, x)

/-- The home core of a HOMED offset, a logical core (R27). -/
def homeOf (off cores : Nat) : Nat := off / 256 % cores

/-! ## Stage 1 at the core -/

/-- The pages of an entry's size (R346). -/
def sizePages (size : Nat) : Nat := if size = 0 then 1 else if size = 1 then 2 ^ 9 else 2 ^ 18

def TlbEntry.covers (e : TlbEntry) (v way page : Nat) : Bool :=
  e.vf = v && e.way = way && e.lpage / sizePages e.size = page / sizePages e.size

def TlbEntry.target (e : TlbEntry) (page : Nat) : Nat := e.gpage + page % sizePages e.size

/-- Page rights of R345 but for d. -/
def rightsAllow (acc : Access) (r w x : Bool) : Bool :=
  match acc with
  | .read | .feRead => r
  | .write | .feWrite => w
  | .fetch => x
  | .atomic => r && w

/-- A write access walks again when its entry has d = 0 (R344, R345). -/
def Access.writes : Access → Bool
  | .write | .atomic | .feWrite => true
  | .read | .fetch | .feRead => false

/-- The outcome of stage 1 for a linear address. -/
inductive Xl where
  | gpa (g : Nat) (priv : Bool)
  | miss
  | fault
  deriving DecidableEq, Repr

/-- Stage 1 through the micro-TLB of the way (R340 steps 2 to 4), whose entries stay in use when s1en falls; with s1en = 0
and no entry the linear address is the guest-physical one (R341). -/
def State.stage1 (s : State) (core way v : Nat) (sup : Bool) (a : Nat) (acc : Access) : Xl :=
  let walked : Xl := if (s.vf v).s1en then .miss else .gpa a false
  match (s.core core).tlb.find? fun e => e.covers v way (a / 4096) with
  | none => walked
  | some e =>
    if !rightsAllow acc e.r e.w e.x || (!sup && !e.u) then .fault
    else if acc.writes && !e.d then walked
    else .gpa (e.target (a / 4096) * 4096 + a % 4096) e.priv

/-- The entry that a translation used is the most recently used one (R346). -/
def State.usedTlb (s : State) (core way v a : Nat) : State :=
  let k := s.core core
  match k.tlb.find? fun e => e.covers v way (a / 4096) with
  | none => s
  | some e => s.setCore core { k with tlb := e :: k.tlb.erase e }

/-- Where an access ends up before its memory is touched. -/
inductive Reach where
  | ok (g : Seg) (loc : Loc) (priv : Bool)
  | trap (t : TrapInfo)
  /-- a micro-TLB miss on this linear address -/
  | miss (a : Nat)
  /-- a stage-1 fault -/
  | fault (a : Nat)
  deriving DecidableEq, Repr

/-- R340 steps 1 to 4 of an access by the context in a way. -/
def State.reach (s : State) (core way : Nat) (sl : Slot) (q : Word) (n : Nat) (need : Need) (acc : Access)
    (align : Bool) (tv : Word) : Reach :=
  let v := sl.line.vfid.toNat
  match s.segCheck core v sl.segs q n need align tv with
  | .error t => .trap t
  | .ok (g, .chip l) => .ok g l false
  | .ok (g, .linear a) =>
    match s.stage1 core way v sl.line.supervisor a acc with
    | .gpa x priv => .ok g (.paged v x) priv
    | .miss => .miss a
    | .fault => .fault a

/-- The destination of mig and send (R153): a physical core, or none. -/
def State.homeCore (s : State) (core v : Nat) (g : Seg) (off : Nat) : Option Nat :=
  match g.type with
  | .homed => some (s.pcore v (homeOf off (nodeCores (s.nodeOf v))))
  | .scratch => some core
  | .cluster => some (clusterOf core * 16 + (g.base + off) / 2 ^ 17)
  | .peer => some (physicalCluster (s.nodeOf v) (off / 2 ^ 21) * 16 + off % 2 ^ 21 / 2 ^ 17)
  | _ => none

end Sys2Proof.Machine
end

