-- ==== Sys2Proof/Machine/Ops.lean ====
section
/-! DEFINITION. Ops: the named operations the meanings share: a line's doublewords (R14), completion and loop firing
(R16, R101), branches (R15), waits (R21), taking an exception (R277 to R292) and returning from one (R197, R198, R304),
page requests (R352), Headrace's writes to an RCB (R318, R331), counters and flags (R204, R381). -/
namespace Sys2Proof.Machine

/-- What a meaning answers. -/
abbrev Out := Host.Outcome State Fault Refusal

/-! ## A line's doublewords (R14, R22) -/

def WaitKind.code : WaitKind → BitVec 4
  | .ready => 0
  | .fill => 1
  | .full => 2
  | .empty => 3
  | .addr => 4
  | .ring => 5
  | .pop => 6
  | .barrier => 7
  | .xlate => 8
  | .migrate => 9
  | .join => 10
  | .sleep => 11
  | .upcall => 12
  | .reserved13 => 13
  | .reserved14 => 14
  | .reserved15 => 15

def WaitKind.ofCode (c : BitVec 4) : WaitKind :=
  match c.toNat with
  | 0 => .ready
  | 1 => .fill
  | 2 => .full
  | 3 => .empty
  | 4 => .addr
  | 5 => .ring
  | 6 => .pop
  | 7 => .barrier
  | 8 => .xlate
  | 9 => .migrate
  | 10 => .join
  | 11 => .sleep
  | 12 => .upcall
  | 13 => .reserved13
  | 14 => .reserved14
  | _ => .reserved15

/-- Doubleword `k` of a line. -/
def Line.dw (l : Line) (k : Nat) : Word :=
  match k with
  | 0 => (0 : BitVec 12) ++ BitVec.ofBool l.step ++ BitVec.ofBool l.handler ++ BitVec.ofBool l.supervisor
      ++ BitVec.ofBool l.world ++ l.pc
  | 1 => l.wt.code ++ l.wtArg ++ l.pw
  | 2 => l.cls ++ l.prio ++ l.sset ++ (0 : BitVec 7) ++ l.vfid ++ l.fcsr
  | 3 => l.le0 ++ l.lb0
  | 4 => l.le1 ++ l.lb1
  | 5 => l.lc1 ++ l.lc0
  | 6 => (0 : BitVec 20) ++ l.ccore ++ l.tinfo ++ l.tcause
  | 7 => l.tval
  | _ => l.reg (BitVec.ofNat 3 (k - 8))

/-- fcsr as software writes it: bits [15:10] read 0 (R14, R95). -/
def fcsrOf (v : BitVec 16) : BitVec 16 := v &&& 0x03FF

/-- A loop offset as software writes it: bit 0 is written as 0 (R96). -/
def loopOff (v : BitVec 32) : BitVec 32 := v &&& 0xFFFFFFFE

/-- The line that sixteen doublewords hold, as a store to a HOME copy changes it, without cxst's checks (R307). -/
def Line.ofDws (f : Nat → Word) : Line where
  pc := (f 0).extractLsb' 0 48 &&& 0xFFFFFFFFFFFE
  world := (f 0).getLsbD 48
  supervisor := (f 0).getLsbD 49
  handler := (f 0).getLsbD 50
  step := (f 0).getLsbD 51
  pw := (f 1).extractLsb' 0 32 ||| 1
  wt := WaitKind.ofCode ((f 1).extractLsb' 60 4)
  wtArg := (f 1).extractLsb' 32 28
  fcsr := fcsrOf ((f 2).extractLsb' 0 16)
  vfid := (f 2).extractLsb' 16 9
  sset := (f 2).extractLsb' 32 16
  prio := (f 2).extractLsb' 48 8
  cls := (f 2).extractLsb' 56 8
  lb0 := loopOff ((f 3).extractLsb' 0 32)
  le0 := loopOff ((f 3).extractLsb' 32 32)
  lb1 := loopOff ((f 4).extractLsb' 0 32)
  le1 := loopOff ((f 4).extractLsb' 32 32)
  lc0 := (f 5).extractLsb' 0 32
  lc1 := (f 5).extractLsb' 32 32
  tcause := (f 6).extractLsb' 0 16
  tinfo := (f 6).extractLsb' 16 16
  ccore := (f 6).extractLsb' 32 12
  tval := f 7
  g := Vector.ofFn fun k => f (8 + k.val)

/-! ## Names -/

/-- A context id (R13). -/
def ctxWord (vf index : Nat) : Word := BitVec.ofNat 64 (ctxKey vf index)

/-- The id that rdsr of ctxid and a message carry: all ones in a handler (R303). -/
def Who.idWord : Who → Word
  | .ctx v i => ctxWord v i
  | .handler _ _ _ _ => BitVec.allOnes 64

def Who.vf : Who → Nat
  | .ctx v _ => v
  | .handler _ _ _ v => v

/-- The id a register names, if bits [63:49] are 0 and the index lies in the VF's context segment (R12, R13). -/
def State.namedCtx (s : State) (w : Word) : Option (Nat × Nat) :=
  let v := (w.extractLsb' 40 9).toNat
  let i := (w.extractLsb' 0 40).toNat
  if w.extractLsb' 49 15 != 0 || (s.vf v).ctxlen ≤ i then none else some (v, i)

/-! ## Ways -/

def State.slot? (s : State) (c w : Nat) : Option Slot := (s.core c).ways.find w

def State.putSlot (s : State) (c w : Nat) (sl : Slot) : State :=
  s.setCore c { s.core c with ways := (s.core c).ways.set w sl }

/-- The context in a way, if it is still there, issues no earlier than a cycle of its core (R86). -/
def State.notBefore (s : State) (c w : Nat) (who : Who) (n : Nat) : State :=
  match s.slot? c w with
  | some x => if x.who = who then s.putSlot c w { x with readyAt := Nat.max x.readyAt n } else s
  | none => s

/-- A line leaves its way: the way is free and its micro-TLB entries are invalid (R348). -/
def State.freeWay (s : State) (c w : Nat) : State :=
  let k := s.core c
  s.setCore c { k with ways := k.ways.erase w, tlb := k.tlb.filter fun e => e.way ≠ w }

/-- The slot of the issuing context. -/
def State.cur? (s : State) : Option Slot := s.slot? s.run.1 s.run.2

def State.putCur (s : State) (sl : Slot) : State := s.putSlot s.run.1 s.run.2 sl

/-- Does an operation of the issuing context; with no context in the issuing way nothing happens. -/
def withCur (s : State) (k : Slot → Out) : Out :=
  match s.cur? with
  | none => .next s
  | some sl => k sl

/-! ## Counters, flags (R204, R381, R382) -/

/-- An event that the VF's counters may count: its increment sets out for the counter die when a running counter selects
its code (log 14); `mark` is the context whose ymark it is. -/
def State.countOf (s : State) (v code n : Nat) (mark : Option Who) : State :=
  let x := (s.vf v).counters
  let wanted := (List.range 16).any fun i => x.run.getLsbD i && (x.codes[i]?).getD 0 == BitVec.ofNat 16 code
  if wanted && code ≠ 0 && !(0x100 ≤ code && code ≤ 0x103) && n ≠ 0 then
    { s with increments := s.increments ++ [Increment.mk v code n mark] }
  else s

def State.count (s : State) (v code n : Nat) : State := s.countOf v code n none

/-- Posts an MSI-X entry of a VF. -/
def State.interrupt (s : State) (v entry : Nat) : State :=
  { s with platform := { s.platform with interrupts := s.platform.interrupts ++ [(v, entry)] } }

/-- An increment applied to one counter; a wrap sets its overflow bit. -/
def Counters.bumpAt (x : Counters) (k n : Nat) : Counters :=
  let old := ((x.counts[k]?).getD 0).toNat
  { x with
    counts := x.counts.set k (BitVec.ofNat 48 (old + n))
    ovf := if 2 ^ 48 ≤ old + n then x.ovf ||| (1#16 <<< k) else x.ovf }

/-- The counters that an increment reaches: in the run mask, selecting its code. -/
def Counters.selects (x : Counters) (k code : Nat) : Bool := x.run.getLsbD k && (x.codes[k]?).getD 0 == BitVec.ofNat 16 code

/-- An increment that has reached the counter die; a wrap whose enable bit is set posts MSI-X entry 1. -/
def State.applyIncrement (s : State) (e : Increment) : State :=
  let old := (s.vf e.vf).counters
  let new := (List.range 16).foldl (fun x j => if old.selects j e.code then x.bumpAt j e.by_ else x) old
  let s1 := s.setVf e.vf { s.vf e.vf with counters := new }
  let wrapped (j : Nat) : Bool :=
    old.selects j e.code && 2 ^ 48 ≤ ((old.counts[j]?).getD 0).toNat + e.by_ && old.enable.getLsbD j
  (List.range 16).foldl (fun s j => if wrapped j then s.interrupt e.vf 1 else s) s1

/-- The increments of a context's own ymarks reach the counter die before its later yrd or yctl does (R382). -/
def State.applyMarks (s : State) (w : Who) : State :=
  (s.increments.filter fun e => e.mark = some w).foldl State.applyIncrement
    { s with increments := s.increments.filter fun e => e.mark ≠ some w }

/-- Sets bits of a VF's cluster flag word (R204). -/
def State.setFlag (s : State) (cl v bit : Nat) : State :=
  let k := s.cluster cl
  s.setCluster cl { k with flags := k.flags.set v (k.flags.get v 0 ||| (1#32 <<< bit)) }

/-- One more in a partition's hypervisor counter (R401). -/
def State.hyper (s : State) (node name : Nat) : State :=
  let c := s.platform.counters
  let k := node * 256 + name
  { s with platform := { s.platform with counters := c.set k (c.get k 0 + 1) } }

/-- The names of the counters of R401: corrected and uncorrectable errors of check domain d of R392, then the others. -/
def ctrCorrected (d : Nat) : Nat := 2 * d
def ctrUncorrectable (d : Nat) : Nat := 2 * d + 1
def ctrMesh : Nat := 16
def ctrReplays : Nat := 17
def ctrTimeouts : Nat := 18
def ctrDupPackets : Nat := 19
def ctrStale : Nat := 20
def ctrPartial : Nat := 21
def ctrReports : Nat := 22
def ctrHostWorld : Nat := 23
def ctrHostReserved : Nat := 24
def ctrHeld : Nat := 25
def ctrDupKeys : Nat := 26
def ctrRetries (link : Nat) : Nat := 32 + link
def ctrRetrains (link : Nat) : Nat := 64 + link

/-- The fabric counts of a partition (R381): 0 mesh flits, 1 Neord-link flits, 2 Neord-link retrains, 3 CXL-fabric flits. -/
def ctrFabric (k : Nat) : Nat := 96 + k

/-- A fabric count as the hypervisor reads it: what the model has seen, and of flits as many more as the traffic took, which
the manual does not say (log 86). -/
def State.fabricCount (s : State) (node k : Nat) : Nat :=
  s.platform.counters.get (node * 256 + ctrFabric k) 0 + (if k = 2 then 0 else Config.fabricFlits node k s.cycle)

/-- Counts a dropped Yarrow event of a slot, and event 0x0070 (R380). -/
def State.dropEvent (s : State) (d v slot : Nat) : State :=
  let x := s.die d
  let s1 :=
    match x.filters.find (8 * v + slot) with
    | none => s
    | some f => s.setDie d { x with filters := x.filters.set (8 * v + slot) { f with drops := bump f.drops } }
  s1.count v 0x70 1

/-- Whether an attached slot takes an event of a class: MARK by value and mask, FILL and LLCMISS by every 2^s-th, DONE by
port (R374). The bit says whether the event counts as seen. -/
def Filter.takes (f : Filter) (cls : Nat) (y0 : Word) (port : Nat) : Bool :=
  f.loaded && f.attached && f.cls = cls &&
    match cls with
    | 0 => (y0.toNat % 65536) &&& (f.sel / 65536) == (f.sel % 65536) &&& (f.sel / 65536)
    | 1 | 3 => (f.seen + 1) % 2 ^ (f.sel % 16) = 0
    | 2 => (f.sel / 2 ^ port) % 2 = 1
    | _ => true

/-- Whether a die's Yarrow serves a VF: a secure one takes only secure VFs' events (R404). -/
def State.yarrowOpen (s : State) (d v : Nat) : Bool := !s.platform.sorrel.package.getLsbD (20 + d) || (s.vf v).sec

/-- An event of a VF at a die: one entry of the die's queue of 64 for each slot that takes it; a full queue drops it
(R374, R380). -/
def State.yEvent (s : State) (d v cls port : Nat) (fields : List Word) : State :=
  (List.range 8).foldl (fun s slot =>
    let x := s.die d
    match x.filters.find (8 * v + slot) with
    | none => s
    | some f =>
      let take := f.takes cls (fields.headD 0) port
      let f' := if f.attached && f.cls = cls then { f with seen := f.seen + 1 } else f
      let s1 := s.setDie d { x with filters := x.filters.set (8 * v + slot) f' }
      if !take then s1
      else if !s.yarrowOpen d v then s1.dropEvent d v slot
      else if x.events.length < Config.yarrowQueue then
        s1.setDie d { s1.die d with events := (s1.die d).events ++ [YEvent.mk v slot fields] }
      else s1.dropEvent d v slot) s

/-! ## Counting at the slice (R374, R381) -/

/-- An access of a VF at its LLC slice: a hit of event 0x0040, or a miss of 0x0041 that raises an LLCMISS event in the die
that serves the line and brings the line where the VF may allocate. -/
def State.touchLlc (s : State) (v gpa : Nat) (write noAlloc : Bool) (fetch : Bool := false) : State :=
  if hostHalf gpa then s
  else
    match s.llc? v (gpa / 64) with
    | some _ => s.count v 0x40 1
    | none =>
      match s.translate2 v (gpa / 4096) write fetch with
      | none => s
      | some (hp, w) =>
        let fields : List Word := [BitVec.ofNat 64 gpa, Config.missLatency s.draws, 0, BitVec.ofNat 64 s.tick]
        let s1 := (s.drawn.count v 0x41 1).yEvent (dieServing (hp * 4096)) v 3 0 fields
        if noAlloc then s1 else s1.keepLine (s1.lineFromMemory v (gpa / 64) hp w) false

/-- Accesses of the device for a VF, counted at the slices of their lines. -/
def State.touchAll (s : State) (v : Nat) (gpas : List Nat) (write : Bool) : State :=
  gpas.foldl (fun s a => s.touchLlc v a write false) s

/-! ## Memory of the device's own accesses -/

/-- An 8-byte word at a guest-physical address, read by the device for a VF in the VF's world (log 64): segment sets, upcall
rings, context copies. -/
def State.gpaWord (s : State) (v gpa : Nat) : Option Word8 :=
  match s.word (.paged v gpa) false (s.vf v).sec with
  | .ok w => some w
  | .error _ => none

/-- The device writes a doubleword at a guest-physical address. -/
def State.gpaWrite (s : State) (v gpa : Nat) (val : Word) : State :=
  match s.word (.paged v gpa) true (s.vf v).sec with
  | .error _ => s.countErr v gpa 3
  | .ok w => s.performWord (.paged v gpa) 8 w { w with data := val, poison := false } (s.vf v).sec

/-- The same, which goes through to memory: it leaves a clean line clean and brings no line (R318, log 100). -/
def State.gpaWriteThrough (s : State) (v gpa : Nat) (val : Word) : State :=
  if hostHalf gpa then s.gpaWrite v gpa val
  else
    match s.lineView v (gpa / 64) true (s.vf v).sec with
    | .error _ => s.countErr v gpa 3
    | .ok l =>
      let dirty := (s.llc? v (gpa / 64)).any LlcLine.dirty
      let s1 := s.gpaWrite v gpa val
      match s1.llc? v (gpa / 64) with
      | none => s1
      | some x =>
        if dirty then s1
        else
          let s2 : State := { s1 with mem := s1.mem.putWord (x.frame * 4096 + gpa % 4096 / 8 * 8) (x.word x.data gpa) }
          if (s.llc? v (gpa / 64)).any fun y => y.frame = l.frame then s2.putLlc { x with dirty := false }
          else { s2 with llc := s2.llc.filter fun y => !(y.vf = v && y.line = gpa / 64) }

/-- The first of the device's own accesses that stage 2 does not reach. -/
def State.stage2Refused (s : State) (v : Nat) (write : Bool) (gpas : List Nat) : Option Nat :=
  gpas.find? fun a =>
    match s.word (.paged v a) write (s.vf v).sec with
    | .error .stage2 => true
    | _ => false

/-- A page request to the hypervisor (R352). -/
def State.request (s : State) (v gpage : Nat) (acc : Access) (r : Requester) (tval : Word) (tinfo : BitVec 16) : State :=
  { s with
    requests := s.requests ++ [PageReq.mk s.nextTag v (s.vf v).gen gpage acc r tval tinfo]
    nextTag := (s.nextTag + 1) % 2 ^ 32
    asked := s.asked.set s.nextTag (s.nodeOf v) }

/-- Where a stage-1 walk ends (R342 to R344). -/
inductive WalkEnd where
  /-- the guest-physical address of the leaf entry, the entry, its level -/
  | leaf (entry : Nat) (word : Word) (level : Nat)
  | fault
  /-- a table entry that stage 2 does not reach -/
  | mem (gpage : Nat)
  deriving DecidableEq, Repr

/-- The stage-1 walk of a VF from a table, for a linear address; a table in the host half, and an entry a non-secure VF
may not read, end it as a fault (R342, R407). -/
def State.s1Walk (s : State) (v table linear : Nat) : Nat → WalkEnd
  | 0 => .fault
  | level + 1 =>
    let at_ := table + 8 * levelIndex (linear / 4096) (level + 1)
    if hostHalf table then .fault
    else
      match s.word (.paged v at_) false (s.vf v).sec with
      | .error .stage2 => .mem (at_ / 4096)
      | .error .world => .fault
      | .ok w =>
        let e := Pte.ofWord w.data
        if w.poison || e.bad (level + 1) then .fault
        else if e.leaf then .leaf at_ w.data (level + 1)
        else s.s1Walk v (e.ppn * 4096) linear level

/-- The leaf that translates a linear address for Headrace, which holds no micro-TLB and is no user: its entry's address and
word, its level (R318, R342); none where the walk fails or the leaf lacks the right. -/
def State.headraceLeaf (s : State) (v linear : Nat) (write : Bool) : Option (Nat × Word × Nat) :=
  match s.s1Walk v (s.vf v).s1root linear 4 with
  | .leaf entry e level => if if write then (Pte.ofWord e).w else (Pte.ofWord e).r then some (entry, e, level) else none
  | _ => none

/-- The guest-physical address of a linear one for Headrace's access (R318). -/
def State.linearToGpa (s : State) (v linear : Nat) (write : Bool) : Option Nat :=
  if !(s.vf v).s1en then some linear
  else
    (s.headraceLeaf v linear write).map fun (_, e, level) =>
      ((Pte.ofWord e).ppn + linear / 4096 % 2 ^ (9 * (level - 1))) * 4096 + linear % 4096

/-- Bits a and d of the leaf that an access of Headrace uses (R318, R344); it is no core, so the class stays. -/
def State.headraceMarks (s : State) (v linear : Nat) (write : Bool) : State :=
  if !(s.vf v).s1en then s
  else
    match s.headraceLeaf v linear write with
    | none => s
    | some (entry, e, level) =>
      let e' := e ||| (if level = 1 then 0x20 else 0) ||| (if write then 0x40 else 0)
      if e' = e then s else s.gpaWrite v entry e'

/-- Headrace reads and writes a doubleword of an RCB at a linear address (R318). -/
def State.rcbWord (s : State) (v addr dw : Nat) : Option Word :=
  match s.linearToGpa v (addr + 8 * dw) false with
  | none => none
  | some g =>
    match s.gpaWord v g with
    | some w => if w.poison then none else some w.data
    | none => none

/-- A write of Headrace goes through to memory (R318). -/
def State.rcbWrite (s : State) (v addr dw : Nat) (val : Word) : State :=
  match s.linearToGpa v (addr + 8 * dw) true with
  | none => s
  | some g => (s.headraceMarks v (addr + 8 * dw) true).gpaWriteThrough v g val

/-- Headrace changes a doubleword of an RCB; one that it cannot read, or that is poisoned, stays as it is (R394). -/
def State.rcbUpdate (s : State) (v addr dw : Nat) (f : Word → Word) : State :=
  match s.rcbWord v addr dw with
  | none => s
  | some w => s.rcbWrite v addr dw (f w)

def State.rcb? (s : State) (v addr : Nat) : Option Rcb := s.rcbs.find? fun r => r.vf = v && r.addr = addr

def State.putRcb (s : State) (r : Rcb) : State :=
  { s with rcbs := s.rcbs.map fun x => if x.vf = r.vf && x.addr = r.addr then r else x }

/-! ## Lines wherever they lie (R31, R313) -/

/-- The guest-physical address of a memory copy (R306). -/
def State.copyAddr (s : State) (v i : Nat) : Nat := (s.vf v).ctxbase + 128 * i

/-- The memory copy as a line. -/
def State.copyLine (s : State) (v i : Nat) : Option Line :=
  if (List.range 16).all fun k => (s.gpaWord v (s.copyAddr v i + 8 * k)).any fun w => !w.poison then
    some (Line.ofDws fun k => match s.gpaWord v (s.copyAddr v i + 8 * k) with
      | some w => w.data
      | none => 0)
  else none

/-- A line written to its memory copy. -/
def State.writeCopy (s : State) (v i : Nat) (l : Line) : State :=
  (List.range 16).foldl (fun s k => s.gpaWrite v (s.copyAddr v i + 8 * k) (l.dw k))
    (s.touchAll v [s.copyAddr v i, s.copyAddr v i + 64] true)

def State.placeOf (s : State) (v i : Nat) : Option Place := (s.ctx? v i).map Ctx.place

/-- Where stage 2 does not reach the memory copy of a context. -/
def State.copyRefused (s : State) (v i : Nat) (write : Bool) : Option Nat :=
  s.stage2Refused v write ((List.range 16).map fun k => s.copyAddr v i + 8 * k)

/-- The same, of a context that is HOME. -/
def State.homeRefused (s : State) (v i : Nat) (write : Bool) : Option Nat :=
  if s.placeOf v i = some .memory then s.copyRefused v i write else none

/-- A context whose memory copy stage 2 does not reach asks the hypervisor for the page, once (R352, log 24). -/
def State.requestCopy (s : State) (v i a : Nat) (acc : Access) : State :=
  if s.requests.any fun r => r.requester = .copy (.ctx v i) then s else s.request v (a / 4096) acc (.copy (.ctx v i)) 0 0

/-- The bits of a line's doubleword that a supervisor's write changes (R14, R199); the others keep their values. -/
def copyMask (k : Nat) : Word :=
  match k with
  | 0 => 0x000AFFFFFFFFFFFE
  | 1 => 0x00000000FFFFFFFE
  | 2 => 0xFFFFFFFF000003FF
  | 3 | 4 => 0xFFFFFFFEFFFFFFFE
  | 6 => 0x0000000003FFFFFF
  | _ => 0xFFFFFFFFFFFFFFFF

def copyDw (k : Nat) (old new : Word) : Word := (old &&& ~~~(copyMask k)) ||| (new &&& copyMask k)

/-- A line after a supervisor's write of one doubleword: its writable fields change, nothing else (R14, R199). -/
def Line.writeDw (l : Line) (k : Nat) (w : Word) : Line :=
  match k with
  | 0 => { l with pc := w.extractLsb' 0 48 &&& 0xFFFFFFFFFFFE, supervisor := w.getLsbD 49, step := w.getLsbD 51 }
  | 1 => { l with pw := w.extractLsb' 0 32 ||| 1 }
  | 2 =>
    { l with
      fcsr := fcsrOf (w.extractLsb' 0 16)
      sset := w.extractLsb' 32 16
      prio := w.extractLsb' 48 8
      cls := w.extractLsb' 56 8 }
  | 3 => { l with lb0 := loopOff (w.extractLsb' 0 32), le0 := loopOff (w.extractLsb' 32 32) }
  | 4 => { l with lb1 := loopOff (w.extractLsb' 0 32), le1 := loopOff (w.extractLsb' 32 32) }
  | 5 => { l with lc0 := w.extractLsb' 0 32, lc1 := w.extractLsb' 32 32 }
  | 6 =>
    { l with
      tcause := w.extractLsb' 0 16
      tinfo := (l.tinfo &&& 0xFC00) ||| (w.extractLsb' 16 16 &&& 0x03FF) }
  | 7 => { l with tval := w }
  | _ => l.setReg (BitVec.ofNat 3 (k - 8)) w

/-- The context in whose memory copy a guest-physical address lies, and the doubleword (R306). -/
def State.copyAt (s : State) (v gpa : Nat) : Option (Nat × Nat) :=
  let x := s.vf v
  if !hostHalf x.ctxbase && x.ctxbase ≤ gpa && gpa < x.ctxbase + 128 * x.ctxlen then
    some ((gpa - x.ctxbase) / 128, (gpa - x.ctxbase) % 128 / 8)
  else none

/-- Whether a memory copy is marked AWAY or FLIGHT (R306). -/
def State.copyAway (s : State) (v i : Nat) : Bool :=
  match s.placeOf v i with
  | some (.l1 _ _) | some (.l2 _) | some (.buffer _) | some .flight => true
  | _ => false

/-- What an ordinary write of an 8-byte word leaves at a guest-physical address: in a context copy marked HOME the bits that
cxst would change, in one marked AWAY or FLIGHT nothing (R307; an atomic, a full/empty operation and an engine write as a
store, log 89); bits 0 and 1 of an occ word read 1 (R288); elsewhere its data. -/
def State.ordinaryDw (s : State) (v gpa : Nat) (old new : Word) : Option Word :=
  match s.copyAt v gpa with
  | none => some (if s.occAt v gpa then new ||| 3 else new)
  | some (i, k) => if s.copyAway v i then none else some (copyDw k old new)

/-- That of a word at any place. -/
def State.ordinaryData (s : State) (loc : Loc) (old new : Word) : Option Word :=
  match loc with
  | .paged v gpa => s.ordinaryDw v gpa old new
  | _ => some new

/-- An ordinary write of a word, with the wakes that follow; one to a copy marked AWAY or FLIGHT is discarded and counted
(R307). -/
def State.ordinaryWord (s : State) (v : Nat) (loc : Loc) (n : Nat) (w w' : Word8) (secure : Bool)
    (must : Waiter → Bool) : State :=
  match s.ordinaryData loc w.data w'.data with
  | none => s.countErr v loc.pos 4
  | some d => (s.putWord loc { w' with data := d } secure n).wake loc n must

/-- As `State.performWord`, for an ordinary write. -/
def State.ordinary (s : State) (v : Nat) (loc : Loc) (n : Nat) (w w' : Word8) (secure : Bool) : State :=
  s.ordinaryWord v loc n w w' secure (wokenByWrite loc n (!w.full && w'.full) (w.full && !w'.full))

/-- What an ordinary store of `n` bytes leaves of them, as `State.ordinaryDw` says; none where it is discarded. -/
def State.throughCopy (s : State) (v gpa n val : Nat) : Option Nat :=
  if (s.copyAt v gpa).isNone && !s.occAt v gpa then some val
  else
    match s.gpaWord v (gpa / 8 * 8) with
    | none => if (s.copyAt v gpa).any fun x => s.copyAway v x.1 then none else some val
    | some w =>
      (s.ordinaryDw v gpa w.data (w.withBytes (gpa % 8) n val).data).map fun x =>
        x.toNat / 2 ^ (8 * (gpa % 8)) % 2 ^ (8 * n)

/-- `State.storeBytes` for an ordinary writer (R288, R307). -/
def State.storeOrdinary (s : State) (v : Nat) (loc : Loc) (n val : Nat) (secure : Bool) : State :=
  match loc with
  | .paged x gpa =>
    match s.throughCopy x gpa n val with
    | none => s.countErr v gpa 4
    | some d => s.storeBytes v loc n d secure
  | _ => s.storeBytes v loc n val secure

/-- The line of a context, wherever it lies; a line in a packet is not reached (R313 step 5), a retired one is none. -/
def State.lineOf (s : State) (v i : Nat) : Option Line :=
  match s.placeOf v i with
  | some (.l1 c w) => (s.slot? c w).map Slot.line
  | some (.l2 k) => ((s.cluster k).l2.find? fun e => e.vf = v && e.index = i).map L2Line.line
  | some (.buffer k) => ((s.cluster k).outgoing.find? fun e => e.vf = v && e.index = i).map L2Line.line
  | some .memory => s.copyLine v i
  | _ => none

/-- Replaces the line of a context where it lies. -/
def State.setLine (s : State) (v i : Nat) (l : Line) : State :=
  match s.placeOf v i with
  | some (.l1 c w) =>
    match s.slot? c w with
    | some sl => s.putSlot c w { sl with line := l }
    | none => s
  | some (.l2 k) =>
    let x := s.cluster k
    s.setCluster k { x with l2 := x.l2.map fun e => if e.vf = v && e.index = i then { e with line := l } else e }
  | some (.buffer k) =>
    let x := s.cluster k
    s.setCluster k { x with
      outgoing := x.outgoing.map fun e => if e.vf = v && e.index = i then { e with line := l } else e }
  | some .memory => s.writeCopy v i l
  | _ => s

/-- A line that became READY outside an L1 joins the pull queue of its ccore (R311). -/
def State.queuePull (s : State) (v i : Nat) (l : Line) : State :=
  match s.placeOf v i with
  | some (.l2 _) | some (.buffer _) | some .memory =>
    let c := s.ccoreOf v l
    let k := s.core c
    if k.pulls.any fun e => e.1 = v && e.2.1 = i then s
    else s.setCore c { k with pulls := k.pulls ++ [(v, i, s.cycle)] }
  | _ => s

/-- A HOME line that became READY is on its way to a cluster; so is one that a write-back buffer brings home (R308, R316). -/
def State.startFetch (s : State) (v i : Nat) : State :=
  match s.ctx? v i with
  | none => s
  | some c =>
    match c.place with
    | .memory | .buffer _ => s.setCtx v i { c with fetch := true }
    | _ => s

/-- A line becomes READY where it lies (R308, R313, R314). -/
def State.readyLine (s : State) (v i : Nat) (l : Line) : State :=
  let l' := { l with wt := .ready, wtArg := 0 }
  ((s.setLine v i l').startFetch v i).queuePull v i l'

/-! ## Partial commands (R168) -/

def Core.partialPort (c : Core) (w : Who) : Option Nat :=
  (c.buffers.find? fun e => e.2.owner = w).map Prod.fst

/-- The completion of an abandoned command: BAD, count 0, word all ones. -/
def abandonedDw0 (hdr : Word) (port : Nat) : Word :=
  BitVec.ofNat 64 (hdr.toNat / 65536 % 65536 + 2 * 65536 + port * 2 ^ 20 + 2 ^ 23 + hdr.toNat % 256 * 2 ^ 24)

/-- A completion with a status other than OK sets bit [port] of the cluster flag word (R204), and MEM_UNCORR's fellow,
POISON, counts in nuc with the pointer of its word (R400). -/
def State.completionFlags (s : State) (core v port : Nat) (dw0 dw1 : Word) : State :=
  let status := (dw0.extractLsb' 16 4).toNat
  let s1 := if status = 0 then s else s.setFlag (clusterOf core) v port
  if status = 3 then s1.countErr v dw1.toNat 1 else s1

/-- Removes one reservation of a pusher on a port. -/
def dropReserved (r : List (Who × Nat)) (w : Who) (port : Nat) : List (Who × Nat) := r.erase (w, port)

/-- A completion enters a core's store: its flags, the count of its port, the DONE event (R204, R374, R381, R400). -/
def State.completionHeld (s : State) (c : Nat) (e : Completion) : State :=
  let v := e.who.vf
  ((s.completionFlags c v e.port e.dw0 e.dw1).count v (0x50 + e.port) 1).yEvent (dieOf c) v 2 e.port
    [e.dw0, e.dw1, e.who.idWord, BitVec.ofNat 64 s.tick]

/-- Abandons the partial commands of a context on its core: each buffer empties, its reserved entry takes the BAD
completion, and bit 7 of the flag word is set (R168). -/
def State.abandon (s : State) (c : Nat) (w : Who) : State :=
  ((s.core c).buffers.filter fun e => e.2.owner = w).foldl (fun s e =>
    let k := s.core c
    let done := Completion.mk w c e.1 (abandonedDw0 (e.2.dws.headD 0) e.1) (BitVec.allOnes 64) 0 none none false
    let s1 := s.setCore c { k with
      buffers := k.buffers.erase e.1
      reserved := dropReserved k.reserved w e.1
      held := k.held ++ [done] }
    (s1.setFlag (clusterOf c) w.vf 7).completionHeld c done) s

/-- Forgets everything a core holds for an owner: its partial command is abandoned, and the completion of that goes with its
other held completions and its reservations (R168, R304, R330). -/
def State.forget (s : State) (c : Nat) (w : Who) : State :=
  let s1 := s.abandon c w
  let k := s1.core c
  s1.setCore c { k with
    held := k.held.filter fun e => e.who ≠ w
    reserved := k.reserved.filter fun e => e.1 ≠ w }

/-- A handler ends: its completions, reservations and partial command go with it, and its way is free (R304, R348). -/
def State.freeHandler (s : State) (c w : Nat) (who : Who) : State := (s.forget c who).freeWay c w

/-! ## Taking an exception (R277 to R292) -/

/-- The upcall ring of a core (R288). -/
def State.upcallRing (s : State) (v core : Nat) : Nat := (s.vf v).upcbase + 8192 * s.lcore v core

/-- The kind of access, as R289 numbers it. -/
def Access.code : Access → Nat
  | .read => 0
  | .write => 1
  | .fetch => 2
  | .atomic | .feRead | .feWrite => 3

/-- The lowest free slot of an upcall ring: bits 0 and 1 of occ read 1 (R288). -/
def State.freeUpcall (s : State) (v ring : Nat) : Option Nat :=
  (List.range 256).find? fun k =>
    2 ≤ k && (s.gpaWord v (ring + 8 * (k / 64))).any fun w => !w.data.getLsbD (k % 64)

/-- Bits 0 and 1 of occ read 1 (R288). -/
def occKept (slot : Nat) : Word := if slot < 64 then 3 else 0

/-- Writes a descriptor or a handler record, sets its occ bit, and then increments seq (R286, R289, R290). R394 names no such consumer
of a poisoned word of the header: the device uses its data, and its write clears the poison: DESIGN CHOICE (log 102). -/
def State.writeUpcall (s : State) (v ring slot : Nat) (id tval : Word) (pc : BitVec 48) (cause tinfo : BitVec 16)
    (acc : Nat) : State :=
  let word (a : Nat) : Word := (s.gpaWord v a).elim 0 Word8.data
  let seq := word (ring + 32) + 1
  let d := ring + 32 * slot
  let dw3 : Word := (seq.extractLsb' 0 32) ++ (0 : BitVec 14) ++ BitVec.ofNat 2 acc ++ tinfo
  let s0 := s.touchAll v [ring, d] true
  let s1 := ((s0.gpaWrite v d id).gpaWrite v (d + 8) tval).gpaWrite v (d + 16) (cause ++ pc)
  let s2 := s1.gpaWrite v (d + 24) dw3
  let occ := ring + 8 * (slot / 64)
  let s3 := s2.gpaWrite v occ (word occ ||| (1#64 <<< (slot % 64)) ||| occKept slot)
  s3.gpaWrite v (ring + 32) seq

/-- A trap in a handler context (R286): a handler record if the ring has a free slot and upcbase is not 0, bit 8 of the
flag word, and the handler line is freed. -/
def State.handlerTrap (s : State) (c w : Nat) (sl : Slot) (cause : BitVec 16) (tval : Word) (tinfo : BitVec 16)
    (acc : Nat) : State :=
  let v := sl.line.vfid.toNat
  let ring := s.upcallRing v c
  let s1 :=
    if (s.vf v).upcbase = 0 then s
    else
      match s.freeUpcall v ring with
      | none => s
      | some k => s.writeUpcall v ring k (BitVec.allOnes 64) tval sl.line.pc cause tinfo acc
  (s1.setFlag (clusterOf c) v 8).freeHandler c w sl.who

/-- The fault-domain handler pc of the RCB that owns a context; 0 for none (R282, R284). -/
def State.fdhOf (s : State) (v rcb : Nat) : Nat :=
  match s.rcb? v rcb with
  | none => 0
  | some r => r.fdh

/-- An unhandled fault reported to the owning RCB (R331, R395): fcount, flt, and the first fault's records. -/
def State.reportFault (s : State) (v rcb : Nat) (id : Word) (cause tinfo : BitVec 16) : State :=
  if rcb = 0 then s
  else
    let first := (s.rcbWord v rcb 17).all fun w => w.extractLsb' 32 32 == 0
    let s1 := s.rcbUpdate v rcb 14 (· ||| 0x10)
    let s2 := if first then s1.rcbWrite v rcb 16 id else s1
    s2.rcbUpdate v rcb 17 fun w =>
      (w.extractLsb' 32 32 + 1) ++ (if first then tinfo ++ cause else w.extractLsb' 0 32)

/-- The fields that every trap writes (R278). -/
def Line.trapped (l : Line) (cause : BitVec 16) (tval : Word) (tinfo : BitVec 16) : Line :=
  { l with tcause := cause, tinfo := tinfo, tval := tval }

/-- The delivery of a trap to the fault domain (R281, R284): the core of ccore lists it, or with fdh = 0 the RCB learns
of it. -/
def State.deliverFault (s : State) (v i rcb : Nat) (l : Line) : State :=
  if s.fdhOf v rcb = 0 then s.reportFault v rcb (ctxWord v i) l.tcause l.tinfo
  else
    let c := s.ccoreOf v l
    let k := s.core c
    s.setCore c { k with deliveries := k.deliveries ++ [.parked v i] }

/-- Takes an exception routed to the fault domain in the context of a line, wherever it lies: tcause, tinfo and tval are
written, wt becomes UPCALL with slot 0, pc stays as the caller set it, the partial command is abandoned, a MEM_UNCORR
counts in nuc (R400). -/
def State.faultLine (s : State) (v i : Nat) (l : Line) (cause : BitVec 16) (tval : Word) (tinfo : BitVec 16) : State :=
  let l' := { l.trapped cause tval tinfo with wt := .upcall, wtArg := 0 }
  let rcb := (s.ctx? v i).elim 0 Ctx.rcb
  let s1 := s.abandon (s.ccoreOf v l) (.ctx v i)
  let s2 := s1.setLine v i l'
  let s3 := if cause = causeMemUncorr then s2.countErr v tval.toNat 1 else s2
  s3.deliverFault v i rcb l'

/-- TAKING AN EXCEPTION in the context of a way: in a handler it goes to the handler record, otherwise to the fault
domain. `sl` holds the line as the exception finds it, with pc as R277 gives it. -/
def State.takeTrap (s : State) (c w : Nat) (sl : Slot) (cause : BitVec 16) (tval : Word) (tinfo : BitVec 16)
    (acc : Nat) : State :=
  match sl.who with
  | .handler _ _ _ v =>
    let s1 := if cause = causeMemUncorr then s.countErr v tval.toNat 1 else s
    s1.handlerTrap c w sl cause tval tinfo acc
  | .ctx v i => (s.putSlot c w { sl with held := none }).faultLine v i sl.line cause tval tinfo

/-- The wait kinds' arguments (R22). -/
def argLinear28 (a : Nat) : BitVec 28 := BitVec.ofNat 28 (a / 2 ^ 20)
def argWord28 (a : Nat) : BitVec 28 := BitVec.ofNat 28 (a / 8)

/-- The fibre scheduler that an upcall ring names; none when it names none, upcbase is 0, or the ring is not reached
(R287). -/
def State.scheduler (s : State) (v ring : Nat) : Option Word :=
  if (s.vf v).upcbase = 0 then none
  else
    match s.gpaWord v (ring + 40) with
    | none => none
    | some w => if w.data = BitVec.allOnes 64 then none else some w.data

/-- A context whose upcall ring stage 2 does not reach waits XLATE for the hypervisor and then makes its access again (R292,
R352, log 24). -/
def State.ringWait (s : State) (v i : Nat) (l : Line) (a : Nat) (tval : Word) (tinfo : BitVec 16) (linear : Nat) : State :=
  (s.setLine v i { l with wt := .xlate, wtArg := argLinear28 linear }).request v (a / 4096) .write (.wait (.ctx v i)) tval tinfo

/-- Where stage 2 does not reach the header of an upcall ring. -/
def State.ringRefused (s : State) (v ring : Nat) : Option Nat :=
  if (s.vf v).upcbase = 0 then none else s.stage2Refused v true [ring]

/-- A stage-1 fault of a context's access (R287 to R290), its line being `l` wherever it lies: an upcall to the fibre
scheduler, or the fault domain, or with no free slot an XLATE wait that a freed slot ends; a ring that stage 2 does not reach is
waited for. -/
def State.pageFaultLine (s : State) (v i : Nat) (l : Line) (tval : Word) (tinfo : BitVec 16) (acc : Access)
    (linear : Nat) : State :=
  let c := s.ccoreOf v l
  let ring := s.upcallRing v c
  match s.ringRefused v ring with
  | some a => (s.abandon c (.ctx v i)).ringWait v i l a tval tinfo linear
  | none =>
    match s.scheduler v ring with
    | none => s.faultLine v i l causePageFault tval tinfo
    | some sched =>
      if sched = ctxWord v i then s.faultLine v i l causePageFault tval tinfo
      else
        let s1 := s.abandon c (.ctx v i)
        match s1.freeUpcall v ring with
        | none =>
          let s2 := s1.setLine v i { l with wt := .xlate, wtArg := argLinear28 linear }
          { s2 with waiters := s2.waiters ++ [Waiter.mk (.ctx v i) .xlate (.paged v ring) 32 none] }
        | some k =>
          match s1.stage2Refused v true [ring + 32 * k] with
          | some a => s1.ringWait v i l a tval tinfo linear
          | none =>
            let l' := { l.trapped causePageFault tval tinfo with wt := .upcall, wtArg := BitVec.ofNat 28 k }
            (s1.setLine v i l').writeUpcall v ring k (ctxWord v i) tval l.pc causePageFault tinfo acc.code

/-- A stage-1 fault of the context in a way. -/
def State.pageFault (s : State) (c w : Nat) (sl : Slot) (tval : Word) (tinfo : BitVec 16) (acc : Access)
    (linear : Nat) : State :=
  match sl.who with
  | .handler _ _ _ _ => s.handlerTrap c w sl causePageFault tval tinfo acc.code
  | .ctx v i => (s.putSlot c w { sl with held := none }).pageFaultLine v i sl.line tval tinfo acc linear

/-- The access kind of R289 of an instruction, for the record of a handler that traps. -/
def accCode (i : Instr) : Nat :=
  match i with
  | .stB .. | .stH .. | .stW .. | .stD .. | .cinval .. => 1
  | .amoAdd .. | .amoAnd .. | .amoOr .. | .amoXor .. | .amoMin .. | .amoMax .. | .amoMinn .. | .amoMaxn ..
  | .amoSwap .. | .amoCas .. | .redAdd .. | .redRd .. | .ldfe .. | .ldff .. | .stfe .. | .stef .. | .feSet ..
  | .feClr .. | .feRd .. | .joinDec .. | .joinWait .. | .barArrive .. | .barWait .. => 3
  | _ => 0

/-- The issuing context traps by an instruction: precise, with pc at the instruction (R278). -/
def trapOut (s : State) (sl : Slot) (i : Instr) (cause : BitVec 16) (tval : Word) : Out :=
  .next (s.takeTrap s.run.1 s.run.2 sl cause tval i.tinfo (accCode i))

/-- A trap already described. -/
def trapInfoOut (s : State) (sl : Slot) (i : Instr) (t : TrapInfo) : Out := trapOut s sl i t.cause t.tval

/-! ## Completing (R16, R86, R101) -/

/-- Offsets of an instruction at pc: its base parcel and the parcel after it. -/
def Line.baseOff (l : Line) (i : Instr) : Nat := l.pc.toNat + 2 * (i.parcels - 1)
def Line.nextOff (l : Line) (i : Instr) : Nat := l.pc.toNat + 2 * i.parcels

/-- Which hardware loop an instruction opens (the "not a loop i instruction" clauses of R101). -/
def loopOpened : Instr → Option (BitVec 1)
  | .loop _ l _ _ => some l
  | _ => none

/-- Loop firing at a completion without a branch: the line with pc and the counts moved (R101). -/
def Line.fire (l : Line) (i : Instr) : Line :=
  let b := l.baseOff i
  let next : BitVec 48 := BitVec.ofNat 48 (l.nextOff i)
  let at1 := b = l.le1.toNat && l.lc1 != 0 && loopOpened i ≠ some 1
  if at1 && l.lc1 != 1 then { l with lc1 := l.lc1 - 1, pc := l.lb1.setWidth 48 }
  else
    let l1 := if at1 then { l with lc1 := 0 } else l
    if b = l.le0.toNat && l.lc0 != 0 && loopOpened i ≠ some 0 then
      if l.lc0 != 1 then { l1 with lc0 := l.lc0 - 1, pc := l.lb0.setWidth 48 }
      else { l1 with lc0 := 0, pc := next }
    else { l1 with pc := next }

/-- The end of a completed instruction, pc already at the next one: the context may issue again `lat` cycles after this
one, and single-step traps BRK (R16) but for a context with a partial command, whose step trap waits for the push that
sends it (R168). -/
def settle (s : State) (sl : Slot) (i : Instr) (lat : Nat) : Out :=
  let sl' := { sl with readyAt := s.coreCycle s.run.1 + lat, held := none }
  if sl.line.step && ((s.core s.run.1).partialPort sl.who).isNone then
    .next ((s.putCur sl').takeTrap s.run.1 s.run.2 sl' causeBrk (sl'.line.pc.setWidth 64) i.tinfo 0)
  else .next (s.putCur sl')

/-- An instruction completes without taking a branch: loops fire, then single-step (R101, R102). -/
def complete (s : State) (sl : Slot) (i : Instr) (lat : Nat) : Out :=
  settle s { sl with line := sl.line.fire i } i lat

/-- An instruction takes a branch to `t`, a 64-bit value checked by R15; `f` is what else the branch writes to the line
once the check has passed. -/
def branch (s : State) (sl : Slot) (i : Instr) (lat : Nat) (t : Word) (f : Line → Line) : Out :=
  match checkTarget t with
  | some tr => trapInfoOut s sl i tr
  | none => settle s { sl with line := { f sl.line with pc := t.extractLsb' 0 48 } } i lat

/-- Latency classes of R86, R115, R136. -/
def latA : Nat := 8
def latM : Nat := 11
def latL : Nat := 10
def latF : Nat := 12
def latS : Nat := 20
def latD : Nat := 28

/-- An instruction under its guard (R68): guarded off, it completes with class A and has no effect. -/
def guarded (s : State) (i : Instr) (p : Pre) (k : Slot → Out) : Out :=
  withCur s fun sl => if guardHolds p sl.line then k sl else complete s sl i latA

/-- A privileged form (R71 step 4): PRIV in user mode, before the guard. -/
def privileged (s : State) (i : Instr) (p : Pre) (k : Slot → Out) : Out :=
  withCur s fun sl =>
    if sl.line.supervisor then (if guardHolds p sl.line then k sl else complete s sl i latA)
    else trapOut s sl i causePriv i.packed

/-- An instruction whose whole effect is on the line, with its latency class. -/
def lineOp (s : State) (i : Instr) (p : Pre) (lat : Nat) (f : Line → Line) : Out :=
  guarded s i p fun sl => complete s { sl with line := f sl.line } i lat

/-! ## Waiting (R21, R22) -/

/-- The context takes a wait, pc at the instruction; a wait of any kind but FILL abandons its partial command (R168). -/
def waitSlot (s : State) (sl : Slot) (kind : WaitKind) (arg : BitVec 28) : State :=
  (s.abandon s.run.1 sl.who).putCur
    { sl with line := { sl.line with wt := kind, wtArg := arg }, held := none }

def waitOut (s : State) (sl : Slot) (kind : WaitKind) (arg : BitVec 28) : Out := .next (waitSlot s sl kind arg)

/-- A wait that a handler may not take: HANDLER_WAIT with the rule's value (R286). -/
def waitOrTrap (s : State) (sl : Slot) (i : Instr) (kind : WaitKind) (arg : BitVec 28) (tval : Word) : Out :=
  if sl.line.handler then trapOut s sl i causeHandlerWait tval else waitOut s sl kind arg

/-- Registers the context as a waiter, in the step of its failed test; a context holds one registration at most (R145). -/
def State.register (s : State) (w : Waiter) : State :=
  { s with waiters := (s.waiters.filter fun x => x.who ≠ w.who) ++ [w] }

/-- A micro-TLB miss: the context waits XLATE and its walk joins the cluster's walker (R347). -/
def missOut (s : State) (sl : Slot) (tinfo : BitVec 16) (tval : Word) (a : Nat) (acc : Access) : Out :=
  let s1 := waitSlot s sl .xlate (argLinear28 a)
  let cl := clusterOf s.run.1
  let k := s1.cluster cl
  .next (s1.setCluster cl { k with walks := k.walks ++
    [Walk.mk sl.who s.run.1 sl.line.vfid.toNat a acc sl.line.supervisor tval tinfo false false none false] })

/-- A probe or fetch whose memory access fails: a stage-2 fault waits XLATE for the hypervisor (R136, R292), a refused
world traps WORLD (R407). -/
def memFaultAt (s : State) (sl : Slot) (i : Instr) (e : MemFault) (loc : Loc) (tval : Word) (acc : Access)
    (linear : Nat) : Out :=
  match e with
  | .world => trapOut s sl i causeWorld tval
  | .stage2 =>
    let s1 := waitSlot s sl .xlate (argLinear28 linear)
    .next (s1.request sl.line.vfid.toNat (loc.pos / 4096) acc (.wait sl.who) tval i.tinfo)

/-- That of an access through a pointer. -/
def memFaultOut (s : State) (sl : Slot) (i : Instr) (e : MemFault) (loc : Loc) (tval : Word) (acc : Access) : Out :=
  memFaultAt s sl i e loc tval acc ((sl.seg (ptrSeg tval)).base + ptrOff tval)

/-! ## Holding back for an on-chip memory that a VF switch clears (R209, R213) -/

/-- Whether the issuing context is an incoming one: of the VF that holds its core. A handler of an outgoing VF is not held
back. -/
def State.incoming (s : State) : Bool :=
  match s.cur? with
  | none => true
  | some sl => (s.core s.run.1).resident = some sl.line.vfid.toNat

def State.scrubbing (s : State) (c : Nat) : Bool := s.incoming && ((s.core c).scrubDue || (s.core c).scrubUntil.isSome)
def State.filling (s : State) (cl : Nat) : Bool := s.incoming && ((s.cluster cl).fillDue || (s.cluster cl).fillUntil.isSome)

/-- Whether a place lies in a memory that is still being cleared. -/
def State.clearing (s : State) (loc : Loc) : Bool :=
  match loc with
  | .scratch c _ => s.scrubbing c
  | .cluster k _ => s.filling k
  | .paged _ _ => false

/-- R340 steps 1 to 4 for an instruction's data access, its failures taken; `k` has the access's segment, place and
class. An access to a memory that is being cleared is not ready (R209, R213). -/
def access (s : State) (sl : Slot) (i : Instr) (q : Word) (n : Nat) (need : Need) (acc : Access)
    (k : Seg → Loc → Bool → Out) : Out :=
  match s.reach s.run.1 s.run.2 sl q n need acc true q with
  | .trap t => trapInfoOut s sl i t
  | .miss a => missOut s sl i.tinfo q a acc
  | .fault a => .next (s.pageFault s.run.1 s.run.2 sl q i.tinfo acc a)
  | .ok g loc priv => if s.clearing loc then .next s else k g loc priv

/-- Whether a context's accesses are secure (R402). -/
def Slot.secure (sl : Slot) : Bool := sl.line.world

/-! ## Returning from an exception (R197, R198, R283, R285) -/

/-- Whether a context of a VF is parked by a trap delivery (slot 0), or after a stage-1 fault (slot 2 or above). -/
def State.parkedSlot (s : State) (v i : Nat) : Option Nat :=
  match s.lineOf v i with
  | none => none
  | some l => if l.wt = .upcall then some (l.wtArg.toNat % 256) else none

/-- A parked context resumes: wt READY, it issues from the pc in its line; its trap-delivery entry, if any is left, goes
(R281, R283). -/
def State.resume (s : State) (v i : Nat) : State :=
  match s.lineOf v i with
  | none => s
  | some l =>
    let c := s.ccoreOf v l
    let k := s.core c
    (s.setCore c { k with deliveries := k.deliveries.filter fun d => d ≠ .parked v i }).readyLine v i l

/-- The occupancy bit of an upcall slot is cleared (R291). -/
def State.clearUpcall (s : State) (v core slot : Nat) : State :=
  let a := s.upcallRing v core + 8 * (slot / 64)
  let w := (s.gpaWord v a).elim 0 Word8.data
  (s.touchLlc v a true false).gpaWrite v a ((w &&& ~~~(1#64 <<< (slot % 64))) ||| occKept slot)

end Sys2Proof.Machine
end

