-- ==== Sys2Proof/Machine/Control.lean ====
section
/-! DEFINITION. Control: special registers of page 0, branches, loops and the SYS forms but fence and exit
(04_isa_scalar_control.md, R95 to R109). -/
namespace Sys2Proof.Machine

/-- What rdsr reads (R95): the context's id is all ones in a handler (R303). -/
def readSr (sl : Slot) (sr : BitVec 3) : Word :=
  let l := sl.line
  match sr.toNat with
  | 0 => (fcsrOf l.fcsr).setWidth 64
  | 1 => (loopOff l.lb0).setWidth 64
  | 2 => (loopOff l.le0).setWidth 64
  | 3 => l.lc0.setWidth 64
  | 4 => (loopOff l.lb1).setWidth 64
  | 5 => (loopOff l.le1).setWidth 64
  | 6 => l.lc1.setWidth 64
  | _ => sl.who.idWord

/-- What wrsr writes (R95, R96). -/
def Line.writeSr (l : Line) (sr : BitVec 3) (v : Word) : Line :=
  match sr.toNat with
  | 0 => { l with fcsr := fcsrOf (v.setWidth 16) }
  | 1 => { l with lb0 := loopOff (v.setWidth 32) }
  | 2 => { l with le0 := loopOff (v.setWidth 32) }
  | 3 => { l with lc0 := v.setWidth 32 }
  | 4 => { l with lb1 := loopOff (v.setWidth 32) }
  | 5 => { l with le1 := loopOff (v.setWidth 32) }
  | 6 => { l with lc1 := v.setWidth 32 }
  | _ => l

/-- rdsr (R95). -/
def execRdsr (p : Pre) (d sr : BitVec 3) (s : State) : Out :=
  let i : Instr := .rdsr p d sr
  guarded s i p fun sl => complete s { sl with line := sl.line.setReg d (readSr sl sr) } i latA

/-- Rounding modes that fcsr refuses (R17). -/
def badRm (v : BitVec 64) : Bool := 5 ≤ (v.extractLsb' 0 3).toNat

/-- wrsr (R95): modes 5 to 7 trap ILLEGAL with the value (R17). -/
def execWrsr (p : Pre) (a sr : BitVec 3) (s : State) : Out :=
  let i : Instr := .wrsr p a sr
  guarded s i p fun sl =>
    let v := sl.line.reg a
    if sr = 0 && badRm v then trapOut s sl i causeIllegal v
    else complete s { sl with line := sl.line.writeSr sr v } i latA

/-- The target of a relative branch (R97, R98): the parcel after it plus the offset in parcels, as a 64-bit value. -/
def Line.relTarget (l : Line) (i : Instr) (off : Int) : Word := BitVec.ofInt 64 (l.nextOff i + 2 * off)

/-- br (R97). -/
def execBr (p : Pre) (pr : BitVec 3) (sense : BitVec 1) (off : BitVec 8) (s : State) : Out :=
  let i : Instr := .br p pr sense off
  guarded s i p fun sl =>
    if sl.line.pred (pr.setWidth 5) == (sense == 0) then branch s sl i latA (sl.line.relTarget i (p.imm off)) id
    else complete s sl i latA

/-- jmp (R98). -/
def execJmp (p : Pre) (off : BitVec 11) (s : State) : Out :=
  let i : Instr := .jmp p off
  guarded s i p fun sl => branch s sl i latA (sl.line.relTarget i (p.imm off)) id

/-- call (R98): g7 is written only when the target passes its check. -/
def execCall (p : Pre) (off : BitVec 11) (s : State) : Out :=
  let i : Instr := .call p off
  guarded s i p fun sl =>
    let next : Word := (BitVec.ofNat 48 (sl.line.nextOff i)).setWidth 64
    branch s sl i latA (sl.line.relTarget i (p.imm off)) fun l => l.setReg 7 next

/-- Opens loop 0 or 1 (R100). -/
def Line.openLoop (l : Line) (k : BitVec 1) (lb le n : BitVec 32) : Line :=
  if k = 0 then { l with lb0 := lb, le0 := le, lc0 := n } else { l with lb1 := lb, le1 := le, lc1 := n }

/-- loop (R100). -/
def execLoop (p : Pre) (l : BitVec 1) (c : BitVec 3) (len : BitVec 8) (s : State) : Out :=
  let i : Instr := .loop p l c len
  guarded s i p fun sl =>
    let lb := sl.line.nextOff i
    let endoff : Int := lb + 2 * p.immU len
    if 2 ^ 32 ≤ endoff then trapOut s sl i causeLoop (sl.line.pc.setWidth 64)
    else
      let n : BitVec 32 := (sl.line.reg c).setWidth 32
      let opened (x : Line) : Line := x.openLoop l (BitVec.ofNat 32 lb) (BitVec.ofInt 32 (endoff - 2)) n
      if n = 0 then branch s sl i latA (BitVec.ofInt 64 endoff) opened
      else complete s { sl with line := opened sl.line } i latA

/-- ret (R99). -/
def execRet (p : Pre) (s : State) : Out :=
  let i : Instr := .ret p
  guarded s i p fun sl => branch s sl i latA (sl.line.reg 7) id

/-- jr (R99). -/
def execJr (p : Pre) (a : BitVec 3) (s : State) : Out :=
  let i : Instr := .jr p a
  guarded s i p fun sl => branch s sl i latA (sl.line.reg a) id

/-- nop (R104). -/
def execNop (p : Pre) (s : State) : Out := lineOp s (.nop p) p latA id

/-- The rotation of the slot table that a yield passes over (R105). -/
def yieldCycles : Nat := 32

/-- yield (R105); a nop in a handler. -/
def execYield (p : Pre) (s : State) : Out :=
  let i : Instr := .yield p
  guarded s i p fun sl =>
    complete s (if sl.line.handler then sl else { sl with yieldUntil := s.coreCycle s.run.1 + yieldCycles }) i latA

/-- trap and brk complete first and then trap with the code and the offset of their first parcel (R107). -/
def codeTrap (s : State) (i : Instr) (p : Pre) (code : Int) (cause : BitVec 16) : Out :=
  guarded s i p fun sl =>
    let tval : Word := sl.line.pc ++ BitVec.ofInt 16 code
    let sl' := { sl with line := sl.line.fire i, readyAt := s.coreCycle s.run.1 + latA }
    .next (s.takeTrap s.run.1 s.run.2 sl' cause tval i.tinfo 0)

/-- trap (R107). -/
def execTrap (p : Pre) (code : BitVec 6) (s : State) : Out := codeTrap s (.trap p code) p (p.immU code) causeTrap

/-- brk (R107). -/
def execBrk (p : Pre) (code : BitVec 6) (s : State) : Out := codeTrap s (.brk p code) p (p.immU code) causeBrk

/-- The cluster keeps a sleeper's wake tick beside its line (R109). -/
def State.setWake (s : State) (v i : Nat) (w : Option Nat) : State :=
  match s.ctx? v i with
  | none => s
  | some c => s.setCtx v i { c with wake := w }

/-- sleep (R109). -/
def execSleep (p : Pre) (a : BitVec 3) (s : State) : Out :=
  let i : Instr := .sleep p a
  guarded s i p fun sl =>
    let w := sl.line.reg a
    if w.toNat ≤ s.tick then complete s sl i latA
    else
      match sl.who with
      | .handler _ _ _ _ => trapOut s sl i causeHandlerWait w
      | .ctx v k => .next ((waitSlot s sl .sleep 0).setWake v k (some w.toNat))

end Sys2Proof.Machine
end

