-- ==== Sys2Proof/Machine/Flags.lean ====
section
/-! DEFINITION. Flags: element formats and exact values (R33, R36, R43 to R48), the one rounding and its flags (R37 to
R42), conversions (R49 to R51), group sums (R52, R53), division, root and the special functions (R57 to R59). -/
namespace Sys2Proof.Machine

/-! ## Sticky bits of fcsr (R14) -/

def flagNX : BitVec 16 := 0x008
def flagUF : BitVec 16 := 0x010
def flagOF : BitVec 16 := 0x020
def flagDZ : BitVec 16 := 0x040
def flagNV : BitVec 16 := 0x080
def flagSAT : BitVec 16 := 0x100
def flagIf (b : Bool) (f : BitVec 16) : BitVec 16 := if b then f else 0

/-- ORs flags into fcsr (R114). -/
def Line.raise (l : Line) (f : BitVec 16) : Line := { l with fcsr := l.fcsr ||| f }

/-! ## Exact values -/

/-- An exact value: a NaN (signalling or not), an infinity, a zero, or (−1)^neg · m · 2^e with m > 0. -/
inductive FVal where
  | nan (signalling : Bool)
  | inf (neg : Bool)
  | zero (neg : Bool)
  | num (neg : Bool) (m : Nat) (e : Int)
  deriving DecidableEq, Repr

/-- The value of a signed integer times 2^e. -/
def FVal.ofInt (v e : Int) : FVal := if v = 0 then .zero false else .num (v < 0) v.natAbs e

def FVal.isNaN : FVal → Bool
  | .nan _ => true
  | _ => false

def FVal.signals : FVal → Bool
  | .nan s => s
  | _ => false

def FVal.neg : FVal → FVal
  | .nan s => .nan s
  | .inf n => .inf !n
  | .zero n => .zero !n
  | .num n m e => .num (!n) m e

/-- A finite value as an integer in units of 2^u, for u at or below its exponent. -/
def FVal.scaled (x : FVal) (u : Int) : Int :=
  match x with
  | .num n m e => (if n then -1 else 1) * ((m * 2 ^ (e - u).toNat : Nat) : Int)
  | _ => 0

def FVal.expo : FVal → Int
  | .num _ _ e => e
  | _ => 0

/-- Whether the real value of `x` is below that of `y`; neither is a NaN. -/
def FVal.lt (x y : FVal) : Bool :=
  match x, y with
  | .inf a, .inf b => a && !b
  | .inf a, _ => a
  | _, .inf b => !b
  | _, _ =>
    let u := min x.expo y.expo
    x.scaled u < y.scaled u

/-- Whether the real values agree; +0 = −0. -/
def FVal.eqv (x y : FVal) : Bool :=
  match x, y with
  | .inf a, .inf b => a = b
  | .inf _, _ => false
  | _, .inf _ => false
  | _, _ =>
    let u := min x.expo y.expo
    x.scaled u = y.scaled u

/-- The exact sum and the flags of an invalid one (R38, R41, R116): a sum of zeros of one sign keeps it, an exact zero
sum otherwise is +0, −0 in RDN. -/
def FVal.add (rm : Nat) (x y : FVal) : FVal × BitVec 16 :=
  match x, y with
  | .nan s, _ => (.nan false, flagIf (s || y.signals) flagNV)
  | _, .nan s => (.nan false, flagIf s flagNV)
  | .inf a, .inf b => if a = b then (.inf a, 0) else (.nan false, flagNV)
  | .inf a, _ => (.inf a, 0)
  | _, .inf b => (.inf b, 0)
  | .zero a, .zero b => (.zero (if a = b then a else rm = 2), 0)
  | .zero _, v => (v, 0)
  | v, .zero _ => (v, 0)
  | .num _ _ e1, .num _ _ e2 =>
    let u := min e1 e2
    let v := x.scaled u + y.scaled u
    (if v = 0 then .zero (rm = 2) else .num (v < 0) v.natAbs u, 0)

/-- The exact product and the flags of an invalid one. -/
def FVal.mul (x y : FVal) : FVal × BitVec 16 :=
  match x, y with
  | .nan s, _ => (.nan false, flagIf (s || y.signals) flagNV)
  | _, .nan s => (.nan false, flagIf s flagNV)
  | .inf a, .inf b => (.inf (a != b), 0)
  | .inf _, .zero _ => (.nan false, flagNV)
  | .zero _, .inf _ => (.nan false, flagNV)
  | .inf a, .num b _ _ => (.inf (a != b), 0)
  | .num a _ _, .inf b => (.inf (a != b), 0)
  | .zero a, .zero b => (.zero (a != b), 0)
  | .zero a, .num b _ _ => (.zero (a != b), 0)
  | .num a _ _, .zero b => (.zero (a != b), 0)
  | .num a m1 e1, .num b m2 e2 => (.num (a != b) (m1 * m2) (e1 + e2), 0)

/-! ## IEEE formats (R36) -/

/-- Exponent and fraction widths and bias. -/
structure Ieee where
  ew : Nat
  fw : Nat
  bias : Nat
  deriving DecidableEq, Repr

def f32 : Ieee := Ieee.mk 8 23 127
def f16 : Ieee := Ieee.mk 5 10 15
def bf16 : Ieee := Ieee.mk 8 7 127

/-- The format that xop[1:0] of page 1 names (R75). -/
def fmtOf (f : BitVec 2) : Ieee := if f = 0 then f32 else if f = 1 then f16 else bf16

def Ieee.width (f : Ieee) : Nat := 1 + f.ew + f.fw
def Ieee.sign (f : Ieee) (bits : Nat) : Bool := bits / 2 ^ (f.ew + f.fw) % 2 = 1
def Ieee.expField (f : Ieee) (bits : Nat) : Nat := bits / 2 ^ f.fw % 2 ^ f.ew
def Ieee.frac (f : Ieee) (bits : Nat) : Nat := bits % 2 ^ f.fw
def Ieee.signBit (f : Ieee) (neg : Bool) : Nat := if neg then 2 ^ (f.ew + f.fw) else 0
def Ieee.infBits (f : Ieee) (neg : Bool) : Nat := f.signBit neg + (2 ^ f.ew - 1) * 2 ^ f.fw
def Ieee.maxBits (f : Ieee) (neg : Bool) : Nat := f.infBits neg - 1
def Ieee.canonNaN (f : Ieee) : Nat := f.infBits false + 2 ^ (f.fw - 1)
/-- The exponent of the smallest normal. -/
def Ieee.emin (f : Ieee) : Int := 1 - f.bias

/-- A bit pattern as an exact value, subnormals flushed under FZ (R37, R113). -/
def Ieee.decode (f : Ieee) (fz : Bool) (bits : Nat) : FVal :=
  let s := f.sign bits
  let e := f.expField bits
  let m := f.frac bits
  if e = 2 ^ f.ew - 1 then
    if m = 0 then .inf s else .nan (m < 2 ^ (f.fw - 1))
  else if e = 0 then
    if m = 0 || fz then .zero s else .num s m (f.emin - f.fw)
  else .num s (m + 2 ^ f.fw) (f.emin - f.fw + (e - 1 : Nat))

/-- Whether a magnitude between `q` and `q + 1` quanta is delivered as `q + 1` (R41): `cmp` compares its remainder with
one half (0 exact, 1 below, 2 tie, 3 above). -/
def roundsUp (rm : Nat) (neg : Bool) (q cmp : Nat) : Bool :=
  match cmp with
  | 0 => false
  | c =>
    match rm with
    | 0 => c = 3 || (c = 2 && q % 2 = 1)
    | 1 => false
    | 2 => neg
    | 3 => !neg
    | _ => c ≥ 2

/-- m · 2^e, or a value strictly between it and (m + 1) · 2^e when `sticky`, in units of 2^u: the whole units and how the
rest compares with one half. -/
def quantise (m : Nat) (e u : Int) (sticky : Bool) : Nat × Nat :=
  if u ≤ e then (m * 2 ^ (e - u).toNat, if sticky then 1 else 0)
  else
    let k := (u - e).toNat
    let q := m / 2 ^ k
    let r := m % 2 ^ k
    let half := 2 ^ (k - 1)
    (q, if r = 0 && !sticky then 0 else if r < half then 1 else if r = half && !sticky then 2 else 3)

/-- The one rounding of a nonzero finite value to a format, with R37, R39, R40 and R41: the bits and the flags. A
reserved rm of 5 to 7, which only a store to a memory copy can leave, rounds and overflows as RNA (log 43). -/
def Ieee.roundNum (f : Ieee) (rm : Nat) (fz neg : Bool) (m : Nat) (e : Int) (sticky : Bool) : Nat × BitVec 16 :=
  let top : Int := (Nat.log2 m : Int) + e
  -- unbounded exponent: for overflow and tininess
  let (qu, cu) := quantise m e (top - f.fw) sticky
  let ru := qu + (if roundsUp rm neg qu cu then 1 else 0)
  let etop := if ru = 2 ^ (f.fw + 1) then top + 1 else top
  if etop > f.bias then
    let toInf := rm = 0 || 4 ≤ rm || (rm = 2 && neg) || (rm = 3 && !neg)
    (if toInf then f.infBits neg else f.maxBits neg, flagOF ||| flagNX)
  else
    let u : Int := max (top - f.fw) (f.emin - f.fw)
    let (q, c) := quantise m e u sticky
    let r := q + (if roundsUp rm neg q c then 1 else 0)
    let inexact := c ≠ 0
    let tiny := etop < f.emin
    let biased : Nat := (u - (f.emin - f.fw)).toNat
    let bits := r + biased * 2 ^ f.fw
    if fz && bits < 2 ^ f.fw && bits ≠ 0 then (f.signBit neg, flagUF ||| flagNX)
    else (f.signBit neg + bits, flagIf inexact flagNX ||| flagIf (inexact && tiny) flagUF)

/-- Delivers an exact value to a format; a NaN becomes the canonical one (R38), its flags being those of the operation. -/
def Ieee.deliver (f : Ieee) (rm : Nat) (fz : Bool) (v : FVal) : Nat × BitVec 16 :=
  match v with
  | .nan _ => (f.canonNaN, 0)
  | .inf n => (f.infBits n, 0)
  | .zero n => (f.signBit n, 0)
  | .num n m e => f.roundNum rm fz n m e false

/-! ## Division and roots (R58) -/

/-- The integer square root, bit by bit from bit `b` of the root. -/
def isqrtFrom (n : Nat) : Nat → Nat → Nat
  | 0, r => if (r + 1) * (r + 1) ≤ n then r + 1 else r
  | b + 1, r =>
    let r' := r + 2 ^ (b + 1)
    if r' * r' ≤ n then isqrtFrom n b r' else isqrtFrom n b r

def isqrt (n : Nat) : Nat := isqrtFrom n (Nat.log2 n / 2 + 1) 0

/-- A quotient's leading bits and whether a rest follows: m · 2^e with sticky. -/
def quotient (m1 m2 : Nat) (e1 e2 : Int) : Nat × Int × Bool :=
  let k := Nat.log2 m2 + 40
  let n := m1 * 2 ^ k
  (n / m2, e1 - e2 - k, n % m2 ≠ 0)

/-- A root's leading bits: m · 2^e made even and wide. -/
def rootOf (m : Nat) (e : Int) : Nat × Int × Bool :=
  let k : Nat := if (e - 80) % 2 = 0 then 80 else 81
  let n := m * 2 ^ k
  let r := isqrt n
  (r, (e - k) / 2, r * r ≠ n)

/-- fdiv in a format (R58, R116). -/
def Ieee.div (f : Ieee) (rm : Nat) (fz : Bool) (x y : FVal) : Nat × BitVec 16 :=
  match x, y with
  | .nan s, _ => (f.canonNaN, flagIf (s || y.signals) flagNV)
  | _, .nan s => (f.canonNaN, flagIf s flagNV)
  | .inf _, .inf _ => (f.canonNaN, flagNV)
  | .zero _, .zero _ => (f.canonNaN, flagNV)
  | .inf a, .zero b => (f.infBits (a != b), 0)
  | .inf a, .num b _ _ => (f.infBits (a != b), 0)
  | .num a _ _, .zero b => (f.infBits (a != b), flagDZ)
  | .zero a, .inf b => (f.signBit (a != b), 0)
  | .zero a, .num b _ _ => (f.signBit (a != b), 0)
  | .num a _ _, .inf b => (f.signBit (a != b), 0)
  | .num a m1 e1, .num b m2 e2 =>
    let (q, e, s) := quotient m1 m2 e1 e2
    f.roundNum rm fz (a != b) q e s

/-- fsqrt in a format (R58). -/
def Ieee.sqrt (f : Ieee) (rm : Nat) (fz : Bool) (x : FVal) : Nat × BitVec 16 :=
  match x with
  | .nan s => (f.canonNaN, flagIf s flagNV)
  | .inf n => if n then (f.canonNaN, flagNV) else (f.infBits false, 0)
  | .zero n => (f.signBit n, 0)
  | .num n m e =>
    if n then (f.canonNaN, flagNV)
    else
      let (r, e', s) := rootOf m e
      f.roundNum rm fz false r e' s

/-- Rounds to the f32 value above or below an inexact value, as the free value says (log 7); a value beyond the range
follows R40 in rm. -/
def roundFree (rm : Nat) (fz neg up : Bool) (m : Nat) (e : Int) (sticky : Bool) : Nat × BitVec 16 :=
  if (Nat.log2 m : Int) + e > 127 then f32.roundNum rm fz neg m e sticky
  else f32.roundNum (if up then (if neg then 2 else 3) else 1) fz neg m e sticky

/-- rcp on f32 (R58): exact for powers of two, within 1 ulp elsewhere. -/
def rcp32 (rm : Nat) (fz : Bool) (bits : Nat) : Nat × BitVec 16 :=
  match f32.decode fz bits with
  | .nan s => (f32.canonNaN, flagIf s flagNV)
  | .inf n => (f32.signBit n, 0)
  | .zero n => (f32.infBits n, flagDZ)
  | .num n m e =>
    let (q, e', s) := quotient 1 m 0 e
    if s then roundFree rm fz n (Config.rcpUp (BitVec.ofNat 32 bits)) q e' s else f32.roundNum rm fz n q e' false

/-- rsqrt on f32 (R58): exact for even powers of two, within 1 ulp elsewhere. -/
def rsqrt32 (rm : Nat) (fz : Bool) (bits : Nat) : Nat × BitVec 16 :=
  match f32.decode fz bits with
  | .nan s => (f32.canonNaN, flagIf s flagNV)
  | .inf n => if n then (f32.canonNaN, flagNV) else (f32.signBit false, 0)
  | .zero n => (f32.infBits n, flagDZ)
  | .num n m e =>
    if n then (f32.canonNaN, flagNV)
    else
      -- 1 / sqrt(m · 2^e) = sqrt(2^k / m) · 2^((−e − k) / 2)
      let k : Nat := Nat.log2 m + (if ((Nat.log2 m : Int) + e) % 2 = 0 then 120 else 121)
      let n2 := 2 ^ k
      let r := isqrt (n2 / m)
      let s := !(n2 % m = 0 && r * r = n2 / m)
      if s then roundFree rm fz false (Config.rsqrtUp (BitVec.ofNat 32 bits)) r ((-e - k) / 2) s
      else f32.roundNum rm fz false r ((-e - k) / 2) false

/-! ## exp2 and log2 (R57) -/

/-- ln 2 in units of 2^-120. -/
def ln2Fix : Nat := 921350637599661305226344307672478454

/-- Σ y^n / n! for y in units of 2^-120, `n` terms from term index `i`, `t` being the last term. -/
def expTerms (y : Nat) : Nat → Nat → Nat → Nat
  | 0, _, t => t
  | n + 1, i, t => t + expTerms y n (i + 1) (t * y / 2 ^ 120 / (i + 1))

/-- 2^(f / 2^120) in units of 2^-120, for f below 2^120. -/
def exp2Fix (f : Nat) : Nat := expTerms (f * ln2Fix / 2 ^ 120) 40 0 (2 ^ 120)

/-- A signed count of f32 values from zero, and the bits of one: a larger value has the larger count. -/
def f32Count (neg : Bool) (mag : Nat) : Int := if neg then -(mag : Int) else mag
def f32OfCount (n : Int) : Nat := f32.signBit (n < 0) + n.natAbs

/-- A result within 2 ulp that never falls while the operand `x` rises (R57), as a count of f32 values: `low` is the
count at or just below the exact result; of the three counts from `low` on, those are reached whose free threshold `x` has
passed; `lo` and `hi` are the exact results at the integers around. DESIGN CHOICE (log 7): the manual does not say what an ulp
measures where the values around the exact result lie in two binades; here 2 ulp are two f32 values up or down. -/
def risingFree (reach : BitVec 32 → Nat) (x : Nat) (low lo hi : Int) : Int :=
  let passed (k : Int) : Int := if reach (BitVec.ofNat 32 (f32OfCount (low + k))) ≤ x then 1 else 0
  max lo (min hi (low - 1 + passed 0 + passed 1 + passed 2))

/-- Delivers such a result, inexact (R57): kept among the finite values, tiny ones flushed under FZ. -/
def deliverCount (fz : Bool) (n : Int) : Nat × BitVec 16 :=
  let mag := Nat.min n.natAbs (f32.maxBits false)
  let tiny := mag < 2 ^ 23
  if fz && tiny then (f32.signBit (n < 0), flagUF ||| flagNX)
  else (f32.signBit (n < 0) + mag, flagNX ||| flagIf tiny flagUF)

/-- The f32 magnitude at or just below m · 2^e. -/
def floorBits (m : Nat) (e : Int) : Nat := (f32.roundNum 1 false false m e true).1

/-- exp2 on f32 (R57). -/
def exp2_32 (rm : Nat) (fz : Bool) (bits : Nat) : Nat × BitVec 16 :=
  match f32.decode fz bits with
  | .nan s => (f32.canonNaN, flagIf s flagNV)
  | .inf n => (if n then 0 else f32.infBits false, 0)
  | .zero _ => (0x3F800000, 0)
  | .num n m e =>
    let u : Int := min e 0
    let v := (FVal.num n m e).scaled u
    let one : Int := 2 ^ (-u).toNat
    let k := v / one
    let r := (v % one).toNat
    if k ≥ 128 then f32.roundNum rm fz false 1 128 false
    else if k < -149 then (0, flagUF ||| flagNX)
    else if r = 0 then f32.roundNum rm fz false 1 k false
    else
      let low := floorBits (exp2Fix (r * 2 ^ 120 / one.toNat)) (k - 120)
      let x : Nat := (2 ^ 31 + f32Count n (bits % 2 ^ 31)).toNat
      let at_ (j : Int) : Nat := if j > 127 then f32.infBits false else (f32.roundNum rm false false 1 j false).1
      deliverCount fz (risingFree Config.exp2Reach x low (at_ k) (at_ (k + 1)))

/-- Fraction bits of log2 of y in units of 2^-256, 1 ≤ y < 2, by squaring: `n` bits. -/
def log2Bits : Nat → Nat → Nat → Nat
  | 0, _, acc => acc
  | n + 1, y, acc =>
    let y2 := y * y / 2 ^ 256
    if y2 ≥ 2 ^ 257 then log2Bits n (y2 / 2) (2 * acc + 1) else log2Bits n y2 (2 * acc)

/-- log2 on f32 (R57). -/
def log2_32 (rm : Nat) (fz : Bool) (bits : Nat) : Nat × BitVec 16 :=
  match f32.decode fz bits with
  | .nan s => (f32.canonNaN, flagIf s flagNV)
  | .inf n => if n then (f32.canonNaN, flagNV) else (f32.infBits false, 0)
  | .zero _ => (f32.infBits true, flagDZ)
  | .num n m e =>
    if n then (f32.canonNaN, flagNV)
    else
      let k := Nat.log2 m
      let top : Int := (k : Int) + e
      if m = 2 ^ k then
        if top = 0 then (0, 0) else f32.roundNum rm fz (top < 0) top.natAbs 0 false
      else
        let frac := log2Bits 120 (m * 2 ^ 256 / 2 ^ k) 0
        let v : Int := top * 2 ^ 120 + frac
        let mag := floorBits v.natAbs (-120)
        let low : Int := if v < 0 then -(mag : Int) - 1 else mag
        let at_ (j : Int) : Int :=
          if j = 0 then 0 else f32Count (j < 0) (f32.roundNum rm false false j.natAbs 0 false).1
        deliverCount fz (risingFree Config.log2Reach bits low (at_ top) (at_ (top + 1)))

/-- A special function in a narrower format: widened, computed in f32, then rounded once (R59). -/
def viaF32 (f : Ieee) (rm : Nat) (fz : Bool) (op : Nat → Nat × BitVec 16) (bits : Nat) : Nat × BitVec 16 :=
  if f = f32 then op bits
  else
    let x := f.decode fz bits
    let (wide, _) := f32.deliver rm false x
    let (r, fl) := op wide
    let (out, fl2) := f.deliver rm fz (f32.decode fz r)
    (out, flagIf x.signals flagNV ||| fl ||| fl2)

/-! ## The logarithmic formats (R43 to R48, R50, R51) -/

/-- The fraction tables of R47, as binary32 significands over 2^23. -/
def tableT8 (f : Nat) : Nat :=
  match f with
  | 0 => 0x800000
  | 1 => 0x8B95C2
  | 2 => 0x9837F0
  | 3 => 0xA5FED7
  | 4 => 0xB504F3
  | 5 => 0xC5672A
  | 6 => 0xD744FD
  | _ => 0xEAC0C7

/-- T6[f] = T8[2f] (R47). -/
def tableT6 (f : Nat) : Nat := tableT8 (2 * f)

/-- An L value: 6- or 8-bit, sign, code, scale. -/
structure LVal where
  six : Bool
  neg : Bool
  code : Nat
  scale : Int
  deriving DecidableEq, Repr

def LVal.ofBits (six : Bool) (bits : Nat) (scale : Int) : LVal :=
  if six then LVal.mk true (bits / 32 % 2 = 1) (bits % 32) scale
  else LVal.mk false (bits / 128 % 2 = 1) (bits % 128) scale

/-- ±T[f] · 2^i for a count of quarter or eighth steps. -/
def stepsVal (six neg : Bool) (q : Int) : FVal :=
  if six then .num neg (tableT6 (q % 4).toNat) (q / 4 - 23) else .num neg (tableT8 (q % 8).toNat) (q / 8 - 23)

/-- The exact value of R50. -/
def LVal.val (l : LVal) : FVal :=
  if l.code = 0 then .zero l.neg
  else if l.six then stepsVal true l.neg ((l.code : Int) - 16 + 4 * l.scale)
  else stepsVal false l.neg ((l.code : Int) - 64 + 8 * l.scale)

/-- Eighth steps of a code (R48). -/
def LVal.eighths (l : LVal) : Int := if l.six then 2 * ((l.code : Int) - 16) else (l.code : Int) - 64

/-- The product of two L values (R48). -/
def LVal.mul (a b : LVal) : FVal :=
  let neg := a.neg != b.neg
  if a.code = 0 || b.code = 0 then .zero neg
  else if a.six && b.six then
    stepsVal true neg ((a.code : Int) - 16 + ((b.code : Int) - 16) + 4 * (a.scale + b.scale))
  else stepsVal false neg (a.eighths + b.eighths + 8 * (a.scale + b.scale))

/-- The L6 code of a magnitude among the boundaries from code `c` up, `n` of them left; a tie takes the even code (R51). -/
def l6Code (x : FVal) (s : Int) : Nat → Nat → Nat
  | 0, c => c
  | n + 1, c =>
    let b := stepsVal false false (2 * (c : Int) - 31 + 8 * s)
    if b.lt x || (b.eqv x && c % 2 = 1) then l6Code x s n (c + 1) else c

/-- The code nearest a finite nonzero magnitude m · 2^e (R51); it may lie outside the format's range. -/
def lCode (six : Bool) (m : Nat) (e s : Int) : Int :=
  if six then (l6Code (.num false m e) s 32 0 : Nat)
  else
    let f : Int := (Nat.log2 (m ^ 16) : Int) + 16 * e
    (f + 127 - 16 * s) / 2 + 1

/-- A conversion into L8 or L6 at a scale (R51): the pattern and the flags. -/
def toL (six : Bool) (s : Int) (x : FVal) : Nat × BitVec 16 :=
  let top := if six then 31 else 127
  let sign (n : Bool) : Nat := if n then (if six then 32 else 128) else 0
  match x with
  | .zero n => (sign n, 0)
  | .nan _ => (0, flagNV)
  | .inf n => (sign n + top, flagSAT)
  | .num n m e =>
    let c := lCode six m e s
    if c > top then (sign n + top, flagSAT ||| flagNX)
    else if c ≤ 0 then (sign n, flagSAT ||| flagNX)
    else
      let v := (LVal.mk six false c.toNat s).val
      (sign n + c.toNat, flagIf (!v.eqv (.num false m e)) flagNX)

/-! ## Integers (R33, R34, R49) -/

/-- An integer format: signedness and width. -/
structure IntFmt where
  signed : Bool
  width : Nat
  deriving DecidableEq, Repr

def IntFmt.lo (t : IntFmt) : Int := if t.signed then -(2 ^ (t.width - 1)) else 0
def IntFmt.hi (t : IntFmt) : Int := if t.signed then 2 ^ (t.width - 1) - 1 else 2 ^ t.width - 1

def IntFmt.decode (t : IntFmt) (bits : Nat) : Int :=
  let b := bits % 2 ^ t.width
  if t.signed && 2 ^ (t.width - 1) ≤ b then (b : Int) - 2 ^ t.width else b

def IntFmt.encode (t : IntFmt) (v : Int) : Nat := (v % 2 ^ t.width).toNat

/-- Clamps an exact integer; a clamp sets SAT (R34). -/
def IntFmt.clamp (t : IntFmt) (v : Int) : Int × BitVec 16 :=
  if v < t.lo then (t.lo, flagSAT) else if t.hi < v then (t.hi, flagSAT) else (v, 0)

/-- A float delivered to an integer format (R49). -/
def IntFmt.fromFloat (t : IntFmt) (rm : Nat) (x : FVal) : Int × BitVec 16 :=
  match x with
  | .nan _ => (0, flagNV)
  | .inf n => (if n then t.lo else t.hi, flagNV)
  | .zero _ => (0, 0)
  | .num n m e =>
    let (q, c) := quantise m e 0 false
    let r := q + (if roundsUp rm n q c then 1 else 0)
    let v : Int := if n then -(r : Int) else r
    if v < t.lo then (t.lo, flagNV) else if t.hi < v then (t.hi, flagNV) else (v, flagIf (c ≠ 0) flagNX)

/-! ## Element formats -/

/-- The element formats of R75 and R214. -/
inductive Fmt where
  | float (f : Ieee)
  | log (six : Bool)
  | int (t : IntFmt)
  deriving DecidableEq, Repr

def intI (w : Nat) : Fmt := .int (IntFmt.mk true w)
def intN (w : Nat) : Fmt := .int (IntFmt.mk false w)

/-- An element as it enters an operation. -/
inductive Elem where
  | float (v : FVal)
  | log (l : LVal)
  | int (v : Int)
  deriving DecidableEq, Repr

/-- An element's bits read in a format with a scale (R123). -/
def Fmt.read (f : Fmt) (fz : Bool) (scale : Int) (bits : Nat) : Elem :=
  match f with
  | .float g => .float (g.decode fz (bits % 2 ^ g.width))
  | .log six => .log (LVal.ofBits six bits scale)
  | .int t => .int (t.decode bits)

/-- Its exact value. -/
def Elem.val : Elem → FVal
  | .float v => v
  | .log l => l.val
  | .int v => FVal.ofInt v 0

def Elem.isInt : Elem → Bool
  | .int _ => true
  | _ => false

/-- Delivers an exact value to a format as R49 to R51 deliver a float source: the bits and the flags. -/
def Fmt.deliver (f : Fmt) (rm : Nat) (fz : Bool) (scale : Int) (v : FVal) : Nat × BitVec 16 :=
  match f with
  | .float g => g.deliver rm fz v
  | .log six => toL six scale v
  | .int t =>
    let (r, fl) := t.fromFloat rm v
    (t.encode r, fl)

/-- Delivers an exact integer to an integer format, clamped (R34, R126). -/
def IntFmt.deliverInt (t : IntFmt) (v : Int) : Nat × BitVec 16 :=
  let (r, fl) := t.clamp v
  (t.encode r, fl)

/-- An element as a factor beside one that is no L value: an L value goes to f32 first (R48, R50). -/
def Elem.asFactor (e : Elem) (rm : Nat) (fz : Bool) : FVal × BitVec 16 :=
  match e with
  | .log l =>
    let (b, fl) := f32.deliver rm fz l.val
    (f32.decode false b, fl)
  | _ => (e.val, 0)

/-- The product of two elements (R48, R126): of codes for two L values, of the exact values otherwise. -/
def Elem.mul (rm : Nat) (fz : Bool) (a b : Elem) : FVal × BitVec 16 :=
  match a, b with
  | .log x, .log y => (x.mul y, 0)
  | _, _ =>
    let (x, f1) := a.asFactor rm fz
    let (y, f2) := b.asFactor rm fz
    let (v, f3) := FVal.mul x y
    (v, f1 ||| f2 ||| f3)

/-! ## Group sums (R52, R53) -/

/-- The exact sum of a group of terms and the flags of its invalid cases (R53): every term a zero of one sign keeps it. A
group with a quiet NaN term beside infinities of both signs raises no NV: DESIGN CHOICE (log 88). -/
def groupSum (rm : Nat) : List FVal → FVal × BitVec 16
  | [] => (.zero false, 0)
  | t :: ts =>
    let nan := (t :: ts).any FVal.isNaN
    let sig := (t :: ts).any FVal.signals
    let pos := (t :: ts).any (· == .inf false)
    let neg := (t :: ts).any (· == .inf true)
    if nan || (pos && neg) then (.nan false, flagIf (sig || (pos && neg && !nan)) flagNV)
    else if pos then (.inf false, 0)
    else if neg then (.inf true, 0)
    else ts.foldl (fun acc x => ((FVal.add rm acc.1 x).1, 0)) (t, 0)

/-- The accumulation of R52 over groups of four: `acc` is none before the first group of a sum with no initial value. -/
def sumGroups (rm : Nat) (fz : Bool) : Nat → List FVal → Option Nat → BitVec 16 → Option Nat × BitVec 16
  | 0, _, acc, fl => (acc, fl)
  | _, [], acc, fl => (acc, fl)
  | n + 1, ts, acc, fl =>
    let (s, f1) := groupSum rm (ts.take 4)
    match acc with
    | none =>
      let (b, f2) := f32.deliver rm fz s
      sumGroups rm fz n (ts.drop 4) (some b) (fl ||| f1 ||| f2)
    | some a =>
      let (v, f2) := FVal.add rm (f32.decode fz a) s
      let (b, f3) := f32.deliver rm fz v
      sumGroups rm fz n (ts.drop 4) (some b) (fl ||| f1 ||| f2 ||| f3)

/-- min and max of R117: the operand chosen and the flags; a NaN only when both are. -/
def minMax (max_ : Bool) (x y : FVal) : FVal × BitVec 16 :=
  let fl := flagIf (x.signals || y.signals) flagNV
  match x.isNaN, y.isNaN with
  | true, true => (.nan false, fl)
  | true, false => (y, fl)
  | false, true => (x, fl)
  | false, false =>
    match x, y with
    | .zero a, .zero b => (.zero (if max_ then a && b else a || b), 0)
    | _, _ => (if max_ then (if x.lt y then y else x) else (if y.lt x then y else x), 0)

end Sys2Proof.Machine
end

