-- ==== Sys2Proof/Machine/Coherence.lean ====
section
/-! DEFINITION. Coherence: core data caches and the directory (18, R355 to R362), the order in which posted writes are
performed (R265, R266), what each performs (06), and the delivery of fills (R23, R138). -/
namespace Sys2Proof.Machine

/-! ## Lines in a core data cache (R355) -/

/-- 512 bits with `n` bytes from byte `off` replaced. -/
def putBytes (d : BitVec 512) (off n v : Nat) : BitVec 512 :=
  let mask : BitVec 512 := BitVec.ofNat 512 ((2 ^ (8 * n) - 1) * 2 ^ (8 * off))
  (d &&& ~~~mask) ||| BitVec.ofNat 512 (v % 2 ^ (8 * n) * 2 ^ (8 * off))

def getBytes (d : BitVec 512) (off n : Nat) : Nat := d.toNat / 2 ^ (8 * off) % 2 ^ (8 * n)

/-- A line with no valid word. -/
def CacheLine.blank (v line : Nat) (priv : Bool) : CacheLine := CacheLine.mk v line 0 0 priv false 0 0

/-- Words of a line that lie in a poisoned doubleword: no cache keeps them valid. -/
def poisonWords (p : BitVec 8) : BitVec 16 :=
  (List.range 16).foldl (fun acc i => if p.getLsbD (i / 2) then acc ||| (1#16 <<< i) else acc) 0

/-- The words of a line that a core holds valid. -/
def Core.valid (c : Core) (v line : Nat) : BitVec 16 := ((c.cacheLine? v line).map CacheLine.val).getD 0

/-- A slot of owned words for a core. -/
def ownerMask (d : Dir) (lc : Nat) : BitVec 16 := ((d.owners.find? fun o => o.1 = lc).map Prod.snd).getD 0

/-- Adds a sharer; beyond four, invalidations go to every core (R357). -/
def Dir.addSharer (d : Dir) (lc : Nat) : Dir :=
  if d.sharers.contains lc then { d with kind := 2 }
  else if d.sharers.length < 4 then { d with kind := 2, sharers := d.sharers ++ [lc] }
  else { d with kind := 2, bcast := true }

/-- The directory entry of an access by a core: kind 1 with its holder for a private granule (R359), else a sharer. -/
def Dir.reached (d : Dir) (lc : Nat) (priv : Bool) : Dir :=
  if priv then { d with kind := 1, holder := lc } else d.addSharer lc

/-- Whether any core holds a word of a line. -/
def State.heldAnywhere (s : State) (v line : Nat) : Bool := s.cores.any fun e => (e.2.cacheLine? v line).isSome

/-- A core's dirty words of `m` written back to the LLC line, or to host memory, which a port that is down does not let them
reach (R418); they stay valid and clean (R161, R357). -/
def State.writeBackWords (s : State) (c v line : Nat) (m : BitVec 16) : State :=
  match (s.core c).cacheLine? v line, s.llc? v line with
  | some x, some l =>
    let d := x.dirty &&& m
    let owners := l.dir.owners.map fun o => if o.1 = s.lcore v c then (o.1, o.2 &&& ~~~m) else o
    let l' := { l with
      data := mergeWords l.data x.data d
      poison := s.settlePoison l d
      dirty := l.dirty || d != 0
      dir := { l.dir with owners := owners.filter fun o => o.2 ≠ 0 } }
    (s.setCore c ((s.core c).setCache { x with dirty := x.dirty &&& ~~~m })).putLlc l'
  | some x, none =>
    if x.host then
      let s1 := if s.hostDown v then s else s.hostMerge x.hline x.data (x.dirty &&& m)
      s1.setCore c ((s1.core c).setCache { x with dirty := x.dirty &&& ~~~m })
    else s
  | _, _ => s

/-- A core evicts a line: the slice takes its dirty words and clears its slots; with no sharer left the line is untracked
(R357). -/
def State.coreEvict (s : State) (c v line : Nat) : State :=
  let s1 := s.writeBackWords c v line 0xFFFF
  let k := s1.core c
  let s2 := s1.setCore c { k with cache := k.cache.filter fun x => !(x.vf = v && x.line = line) }
  match s2.llc? v line with
  | none => s2
  | some l =>
    let lc := s2.lcore v c
    let sharers := l.dir.sharers.filter fun x =>
      x ≠ lc && s2.cores.any fun e => s2.lcore v e.1 = x && (e.2.cacheLine? v line).isSome
    let gone := !s2.heldAnywhere v line
    let d : Dir := { l.dir with
      sharers := sharers
      owners := l.dir.owners.filter fun o => o.1 ≠ lc
      kind := if gone then 0 else l.dir.kind
      bcast := l.dir.bcast && !gone }
    s2.putLlc { l with dir := d }

/-- Room for a line in its set of 8: the least recently used one is evicted. The list holds the most recent line of a set
first. -/
def State.makeRoom (s : State) (c v line : Nat) : State :=
  let inSet := (s.core c).cache.filter fun x => x.line % 64 = line % 64
  if (inSet.any fun x => x.vf = v && x.line = line) || inSet.length < 8 then s
  else
    match inSet.getLast? with
    | none => s
    | some x => s.coreEvict c x.vf x.line

/-- Puts a core's copy of a line in place, the next victim when `stream` says so (R140), else the most recent. -/
def State.putCopy (s : State) (c : Nat) (x : CacheLine) (stream : Bool) : State :=
  let s1 := s.makeRoom c x.vf x.line
  let k := s1.core c
  if stream then
    let rest := k.cache.filter fun y => !(y.vf = x.vf && y.line = x.line)
    s1.setCore c { k with cache := rest ++ [x] }
  else s1.setCore c (k.putCache x)

/-- A hit makes a copy the most recently used. -/
def State.touchCopy (s : State) (c v line : Nat) : State :=
  match (s.core c).cacheLine? v line with
  | none => s
  | some x => s.setCore c ((s.core c).putCache x)

/-- R357, load miss: owners' dirty words of `m` come back to the LLC, the slice sends `m`, the core is a sharer. The copy
is the core's when the miss may allocate there. -/
def State.loadMiss (s : State) (c v line : Nat) (m : BitVec 16) (priv secure alloc stream : Bool) : Except MemFault State :=
  match s.lineView v line false secure with
  | .error e => .error e
  | .ok l =>
    let (s1, l1) := s.recall l m false none
    if !alloc then .ok (s1.keepLine l1 true)
    else if !s.allocates v then .ok (s1.keepLine l1 false)
    else
      let s2 := s1.keepLine { l1 with dir := l1.dir.reached (s.lcore v c) priv } false
      let old := ((s2.core c).cacheLine? v line).getD (CacheLine.blank v line priv)
      let new := m &&& ~~~old.val &&& ~~~(poisonWords (s2.livePoison l1))
      let x := { old with val := old.val ||| new, data := mergeWords old.data l1.data new, priv := priv }
      .ok (if x.val = 0 then s2 else s2.putCopy c x stream)

/-- The owner slots after a core takes `m` (R357): out of every other slot, into its own; a fifth owner first makes the
oldest give up its slot. -/
def grantOwner (owners : List (Nat × BitVec 16)) (lc : Nat) (m : BitVec 16) : List (Nat × BitVec 16) :=
  let others := clearOwners (owners.map fun o => if o.1 = lc then (o.1, o.2 ||| m) else (o.1, o.2 &&& ~~~m)) 0
  if others.any fun o => o.1 = lc then others
  else if others.length < 4 then others ++ [(lc, m)]
  else others.drop 1 ++ [(lc, m)]

/-- R357, store: the words of `m`, and only those, leave every other copy; ownership of `m` moves to the core, which then
holds them valid. -/
def State.takeOwnership (s : State) (c v line : Nat) (m : BitVec 16) (secure stream : Bool) : Except MemFault State :=
  match s.lineView v line true secure with
  | .error e => .error e
  | .ok l =>
    let lc := s.lcore v c
    let (s0, l0) :=
      match l.dir.owners with
      | o :: _ :: _ :: _ :: _ =>
        if l.dir.owners.any (fun x => x.1 = lc) then (s, l) else s.recall l o.2 false none
      | _ => (s, l)
    let (s1, l1) := s0.recall l0 m true (some c)
    let l2 := { l1 with dir := { (l1.dir.addSharer lc) with owners := grantOwner l1.dir.owners lc m } }
    let s2 := s1.keepLine l2 false
    let old := ((s2.core c).cacheLine? v line).getD (CacheLine.blank v line false)
    let new := m &&& ~~~old.val
    .ok (s2.putCopy c { old with val := old.val ||| m, data := mergeWords old.data l1.data new } stream)

/-! ## Releases at system scope (R269) -/

/-- Every dirty word of a core's data cache back at the LLC (R269). -/
def State.writeBackCore (s : State) (c : Nat) : State :=
  (s.core c).cache.foldl (fun s x => if x.dirty = 0 then s else s.writeBackWords c x.vf x.line 0xFFFF) s

/-- Every dirty word of a VF's lines, in whatever core cache, back at the LLC. -/
def State.writeBackVf (s : State) (v : Nat) : State :=
  s.cores.foldl (fun s e => e.2.cache.foldl (fun s x =>
    if x.vf ≠ v || x.dirty = 0 then s else s.writeBackWords e.1 x.vf x.line 0xFFFF) s) s

/-- What a release at system scope writes back before it is performed: every dirty word of the issuing core (R269), and the
VF's dirty words that its context may have left in the cache of a core it ran on before (log 18). -/
def State.systemRelease (s : State) (c v : Nat) : State := (s.writeBackCore c).writeBackVf v

/-! ## Order of performances (R264 to R266) -/

/-- The bank that performs an access (the table of R265). -/
def Loc.bank : Loc → Option (Nat × Nat × Nat)
  | .scratch c p => some (0, c, p / 64 % 16)
  | .cluster k p => some (1, k, p / 65536)
  | .paged v g => if hostHalf g then none else some (2, v, g / 64)

def Posted.bank (e : Posted) : Option (Nat × Nat × Nat) := if e.adaptive then none else e.loc.bank

/-- Whether it writes bytes at its place (a tailrace walk does not). -/
def Posted.writes (e : Posted) : Bool :=
  match e.post with
  | .walk _ _ _ _ _ => false
  | _ => true

/-- A release at partition or system scope also waits for adaptive stores (R263). -/
def waitsAdaptive (scope : BitVec 3) : Bool := 5 ≤ scope.toNat

/-- Whether an earlier posted entry of one context must be performed before a later access at a place (R265 cases 2 and
3, R266). -/
def Posted.before (e : Posted) (loc : Loc) (n : Nat) (bank : Option (Nat × Nat × Nat)) (release : Option (BitVec 3)) :
    Bool :=
  (e.writes && e.loc.overlaps e.n loc n)
    || (e.writes && bank.isSome && e.bank = bank)
    || (match release with
        | none => false
        | some sc => !e.adaptive || waitsAdaptive sc)

/-- The store-queue entries of a context on other cores. -/
def State.ownElsewhere (s : State) (c : Nat) (w : Who) : List Posted :=
  s.cores.flatMap fun e => if e.1 = c then [] else e.2.stores.filter fun x => x.who = w

/-- Whether a context has an entry earlier than number `age`, on core `c` or left behind elsewhere, that must go first. -/
def State.heldBack (s : State) (c : Nat) (w : Who) (mine : List Posted) (loc : Loc) (n : Nat)
    (bank : Option (Nat × Nat × Nat)) (release : Option (BitVec 3)) (age : Nat) : Bool :=
  (mine.any fun e => e.who = w && e.before loc n bank release)
    || (s.ownElsewhere c w).any fun e => e.age < age && e.before loc n bank release

/-- Whether a probe or a new access of a context may be performed now. -/
def State.mayPerform (s : State) (c : Nat) (w : Who) (loc : Loc) (n : Nat) (release : Option (BitVec 3)) : Bool :=
  !s.heldBack c w (s.core c).stores loc n loc.bank release s.posted

/-! ## Reduction slots (R56, R151) -/

/-- One contribution to a slot: the first exactly, a float one after flushing; later ones added in its rounding mode. -/
def RedSlot.add (sl : RedSlot) (rm : BitVec 3) (fz : Bool) (y : Word) : RedSlot :=
  if sl.ty = 0 then
    let (v, fl) := FVal.add rm.toNat (f32.decode fz sl.value.toNat) (f32.decode fz y.toNat)
    let (bits, fl2) := f32.deliver rm.toNat fz v
    { sl with value := BitVec.ofNat 64 bits, flags := sl.flags ||| fl ||| fl2 }
  else if sl.ty = 2 then { sl with value := ((sl.value + y).setWidth 32).setWidth 64 }
  else { sl with value := sl.value + y }

/-- A first contribution, as a slot takes it. -/
def firstContribution (ty : BitVec 2) (fz : Bool) (y : Word) : Word :=
  let bits := y.toNat % 2 ^ 32
  if ty = 0 then
    if fz && f32.expField bits = 0 then BitVec.ofNat 64 (f32.signBit (f32.sign bits)) else BitVec.ofNat 64 bits
  else if ty = 2 then BitVec.ofNat 64 bits
  else y

/-- A red.add reaches its word's place: the slot of its core and type (R56). -/
def State.contribute (s : State) (lc : Nat) (loc : Loc) (ty : BitVec 2) (rm : BitVec 3) (fz : Bool) (y : Word) : State :=
  let same (r : RedSlot) : Bool := r.loc = loc && r.core = lc && r.ty = ty
  if s.reds.any same then
    { s with reds := s.reds.map fun r => if same r then r.add rm fz y else r }
  else { s with reds := s.reds ++ [RedSlot.mk loc lc ty (firstContribution ty fz y) 0 false] }

/-! ## What a posted entry performs -/

/-- The VF's secure accesses: an access of the context that posted it. -/
def Posted.access (e : Posted) : Access :=
  match e.post with
  | .store => .write
  | .stfe | .feSet | .feClr => .feWrite
  | _ => .atomic

/-- The words that a core may store to with no request to the slice: those it holds of a private line (R362), those it owns of
a shared one (R357). -/
def State.ownWords (s : State) (c v line : Nat) (priv : Bool) : BitVec 16 :=
  let held := (s.core c).valid v line
  if priv then held
  else held &&& ((s.llc? v line).elim 0 fun l => ownerMask l.dir (s.lcore v c))

/-- Whether a posted write's stream hint counts: no-allocate and LLC-only take precedence (R140). -/
def Posted.streams (e : Posted) : Bool := e.stream && !e.noAlloc && !e.llcOnly

/-- A store into the core data cache: through ownership, or without it on a private granule (R357, R362). A store to a
poisoned word follows R141; the bad data at the LLC keeps its mark until the new words reach it (R394). -/
def State.storeCached (s : State) (c : Nat) (e : Posted) (gpa : Nat) : Except MemFault State :=
  let line := gpa / 64
  let m := wordsTouched (gpa % 64) e.n
  match s.lineView e.vf line true e.secure with
  | .error x => .error x
  | .ok l =>
    let w := ({ l with poison := s.livePoison l }).word (s.overlay l) gpa
    if w.poison && e.n < 8 then .ok (s.countErr e.vf gpa 2)
    else
      let s0 := if (s.llc? e.vf line).any LlcLine.write then s else s.keepLine l false
      let ask := m &&& ~~~(s0.ownWords c e.vf line e.priv)
      let got :=
        if ask = 0 then .ok s0
        else if e.priv then s0.loadMiss c e.vf line ask true e.secure true e.streams
        else s0.takeOwnership c e.vf line ask e.secure e.streams
      match got with
      | .error x => .error x
      | .ok s1 =>
        match (s1.core c).cacheLine? e.vf line with
        | none => .ok (s1.storeBytes e.vf e.loc e.n e.data.toNat e.secure)
        | some x =>
          let x' := { x with
            data := putBytes x.data (gpa % 64) e.n e.data.toNat
            val := x.val ||| m
            dirty := x.dirty ||| m }
          let missed := m &&& ~~~((s.core c).valid e.vf line)
          .ok ((s1.putCopy c x' (e.streams && missed ≠ 0)).wake e.loc e.n (wokenByWrite e.loc e.n false false))

/-- A store to host memory under CXL.cache (R269, R355, R372): every other copy of the line goes, its dirty words to the
host, and the store is performed in the core's copy, whose other words it brings. -/
def State.storeHost (s : State) (c : Nat) (e : Posted) (gpa h : Nat) : State :=
  let m := wordsTouched (gpa % 64) e.n
  if (s.hostWord8 h).poison && e.n < 8 then s.countErr e.vf gpa 2
  else
    let s1 := s.hostRecall (h / 64) true (some c)
    let line := BitVec.ofNat 512 (s1.mem.read (h / 64 * 64) 64)
    let old := ((s1.core c).cacheLine? e.vf (gpa / 64)).getD
      { CacheLine.blank e.vf (gpa / 64) false with host := true, hline := h / 64 }
    let filled := mergeWords old.data line (m &&& ~~~old.val)
    let x := { old with
      data := putBytes filled (gpa % 64) e.n e.data.toNat
      val := old.val ||| m
      dirty := old.dirty ||| m }
    (s1.putCopy c x (e.streams && m &&& ~~~old.val ≠ 0)).wake e.loc e.n (wokenByWrite e.loc e.n false false)

/-- Whether a store is performed in the core data cache: host memory whose port is up, or module memory that may allocate
there, and no hint against it unless the core already holds the line (R140). -/
def State.cachesStore (s : State) (c : Nat) (e : Posted) (gpa : Nat) : Bool :=
  (if hostHalf gpa then !s.hostDown e.vf else s.allocates e.vf)
    && (!(e.noAlloc || e.llcOnly) || ((s.core c).cacheLine? e.vf (gpa / 64)).isSome)

/-- A line that a no-allocate access brought leaves the LLC again (R140). -/
def State.releaseLine (s : State) (v line : Nat) : State :=
  match s.llc? v line with
  | none => s
  | some l => { (if l.dirty then s.lineToMemory l else s) with llc := s.llc.filter fun x => !(x.vf = v && x.line = line) }

/-- A store performed at its place, which it leaves uncached where its hint says so (R140). -/
def State.storeThrough (s : State) (e : Posted) : State :=
  let s1 := s.storeBytes e.vf e.loc e.n e.data.toNat e.secure
  match e.loc with
  | .paged v gpa => if e.noAlloc && (s.llc? v (gpa / 64)).isNone then s1.releaseLine v (gpa / 64) else s1
  | _ => s1

/-- A store's request to the slice, counted there (R357, R374, R381): a miss of the core data cache, or words that the core holds but
does not own. -/
def State.touchStore (s : State) (c : Nat) (e : Posted) (gpa : Nat) : State :=
  let m := wordsTouched (gpa % 64) e.n
  if ((s.core c).valid e.vf (gpa / 64)) &&& m ≠ m then (s.count e.vf 0x30 1).touchLlc e.vf gpa true e.noAlloc
  else if m &&& ~~~(s.ownWords c e.vf (gpa / 64) e.priv) ≠ 0 || !s.cachesStore c e gpa then s.touchLlc e.vf gpa true e.noAlloc
  else s

/-- A plain store at its place, one unit (R139, R261). -/
def State.storeAt (s : State) (c : Nat) (e : Posted) : Except MemFault State :=
  match e.loc with
  | .paged v gpa =>
    let s0 := s.touchStore c e gpa
    match s0.word e.loc true e.secure with
    | .error x => .error x
    | .ok _ =>
      if !s.cachesStore c e gpa then .ok (s0.storeThrough e)
      else if hostHalf gpa then
        .ok ((s0.hostAddr v gpa true).elim s0 fun h => s0.storeHost c e gpa h)
      else s0.storeCached c e gpa
  | _ => .ok (s.storeBytes e.vf e.loc e.n e.data.toNat e.secure)

/-- A plain store, one to a context's memory copy as R307 has it once translation and world let it there (R340). -/
def State.performStore (s : State) (c : Nat) (e : Posted) : Except MemFault State :=
  match e.loc with
  | .paged v gpa =>
    match s.throughCopy v gpa e.n e.data.toNat, s.word e.loc true e.secure with
    | none, .error x => .error x
    | none, .ok _ => .ok (s.countErr v gpa 4)
    | some x, _ => s.storeAt c { e with data := BitVec.ofNat 64 x }
  | _ => s.storeAt c e

/-- join.dec at its place (R157): 0 stays 0; a poisoned word is left alone and counted. JOIN waiters wake for certain only
when the word reaches 0. -/
def State.joinDec (s : State) (v : Nat) (loc : Loc) (secure : Bool) : Except MemFault State :=
  match s.word loc true secure with
  | .error e => .error e
  | .ok w =>
    if w.poison then .ok (s.countErr v loc.pos 3)
    else if w.data = 0 then .ok s
    else
      let must (x : Waiter) : Bool :=
        wokenByWrite loc 8 false false x && (x.kind ≠ .join || w.data = 1)
      .ok (s.ordinaryWord v loc 8 w { w with data := w.data - 1 } secure must)

/-- The doublewords of a barrier object after an arrival (R158, R159), and whether the phase ended. -/
def barrierStep (w0 w1 : Word) : Word × Word × Bool :=
  let count := w0.extractLsb' 0 32
  let pending := w0.extractLsb' 32 32
  let c := if count = 0 then 1 else count
  let left := (if pending = 0 || c.toNat < pending.toNat then c else pending) - 1
  if left = 0 then (c ++ count, w1 + 1, true) else (left ++ count, w1, false)

/-- An arrival on a barrier object, a context's or a walk's (R159, R161); what a phase's end does to the staged slot tables
is `State.phaseEnded`'s. -/
def State.arrive (s : State) (v : Nat) (loc : Loc) (secure : Bool) : Except MemFault (State × Bool) :=
  match s.word loc true secure, s.word (loc.plus 8) true secure with
  | .ok w0, .ok w1 =>
    if w0.poison || w1.poison then .ok (s.countErr v loc.pos 3, false)
    else
      let (x0, x1, ended) := barrierStep w0.data w1.data
      let must (x : Waiter) : Bool :=
        wokenByWrite loc 16 false false x && (x.kind ≠ .barrier || ended)
      match s.ordinaryData loc w0.data x0, s.ordinaryData (loc.plus 8) w1.data x1 with
      | some d0, some d1 =>
        let s1 := (s.putWord loc { w0 with data := d0 } secure).putWord (loc.plus 8) { w1 with data := d1 } secure
        .ok (s1.wake loc 16 must, ended)
      | _, _ => .ok (s.countErr v loc.pos 4, false)
  | .error e, _ => .error e
  | _, .error e => .error e

/-- The place of a region barrier, which an RCB names by its linear address; none where stage 1 does not map it. -/
def State.barrierLoc (s : State) (v rbar : Nat) : Option Loc := (s.linearToGpa v rbar true).map (Loc.paged v)

/-- A phase of a region barrier ended: the staged slot table of each core that waits for it comes into force whole, and
the staged one starts again as its copy (R202). -/
def State.phaseEnded (s : State) (v : Nat) (loc : Loc) : State :=
  { s with cores := s.cores.map fun e =>
      if e.2.staged.any fun x => x.1 = v && s.barrierLoc v x.2 = some loc then
        (e.1, { e.2 with sltcur := e.2.sltnew, staged := [] })
      else e }

/-- An arrival with the effect of a phase's end. -/
def State.arrival (s : State) (v : Nat) (loc : Loc) (secure : Bool) : Except MemFault State :=
  match s.arrive v loc secure with
  | .error e => .error e
  | .ok (s1, ended) => .ok (if ended then s1.phaseEnded v loc else s1)

/-- A full/empty bit set or cleared, data and poison as they are (R144, R145). -/
def State.setBit (s : State) (v : Nat) (loc : Loc) (f secure : Bool) : Except MemFault State :=
  match s.word loc true secure with
  | .error e => .error e
  | .ok w => .ok (s.ordinary v loc 8 w { w with full := f } secure)

/-- Counts the access of a posted operation other than a plain store at its LLC slice (R374, R381). -/
def State.touchPosted (s : State) (e : Posted) : State :=
  match e.post, e.loc with
  | .store, _ | .walk _ _ _ _ _, _ => s
  | _, .paged v gpa =>
    match s.word e.loc true e.secure with
    | .ok _ => s.touchLlc v gpa true false
    | .error _ => s
  | _, _ => s

/-- The effect of a posted entry at its place of execution (R143). -/
def State.performEffect (s : State) (c : Nat) (e : Posted) : Except MemFault State :=
  match e.post with
  | .store => s.performStore c e
  | .stfe =>
    match s.word e.loc true e.secure with
    | .error x => .error x
    | .ok w => .ok (s.ordinary e.vf e.loc 8 w (Word8.mk e.data true false) e.secure)
  | .feSet => s.setBit e.vf e.loc true e.secure
  | .feClr => s.setBit e.vf e.loc false e.secure
  | .redAdd ty rm fz =>
    match s.word e.loc true e.secure with
    | .error x => .error x
    | .ok _ => .ok (s.contribute (s.lcore e.vf c) e.loc ty rm fz e.data)
  | .joinDec => s.joinDec e.vf e.loc e.secure
  | .barArrive => s.arrival e.vf e.loc e.secure
  | .walk inval linear chip len rbar =>
    .ok { s with rangeWalks := s.rangeWalks ++ [RangeWalk.mk c e.vf inval linear chip len rbar 0] }

/-- Replaces entry `k` of a core's store queue. -/
def State.setPosted (s : State) (c k : Nat) (e : Posted) : State :=
  let x := s.core c
  s.setCore c { x with stores := x.stores.set k e }

def State.dropPosted (s : State) (c k : Nat) : State :=
  let x := s.core c
  s.setCore c { x with stores := x.stores.eraseIdx k }

/-- An earlier red.add of the core's to the same word: they are added in the order in which the core issued them, whichever of its
contexts did (R56). -/
def Posted.addsBefore (e x : Posted) : Bool :=
  match e.post, x.post with
  | .redAdd _ _ _, .redAdd _ _ _ => e.loc = x.loc
  | _, _ => false

/-- Whether entry `k` may leave the store queue now: no page request holds it, and R56, R265 and R266 let it go before every
earlier entry of its context, or of its core. -/
def State.postedReady (s : State) (c k : Nat) (e : Posted) : Bool :=
  let release := match e.post with
    | .walk _ _ _ _ _ => some 5
    | _ => e.release
  e.request.isNone && !s.heldBack c e.who ((s.core c).stores.take k) e.loc e.n e.bank release e.age
    && !((s.core c).stores.take k).any e.addsBefore

/-- Performs entry `k` of a core's store queue (R265); a release at system scope first writes the core's dirty words back
(R266, R269). A stage-2 fault asks the hypervisor and keeps the entry; a refused world discards it and counts it (R407). -/
def State.performPosted (s : State) (c k : Nat) : State :=
  match (s.core c).stores[k]? with
  | none => s
  | some e =>
    if !s.postedReady c k e then s
    else
      let s0 := if e.release = some 6 then s.systemRelease c e.vf else s
      match (s0.touchPosted e).performEffect c e with
      | .ok s1 => s1.dropPosted c k
      | .error .world => (s0.dropPosted c k).countErr e.vf e.loc.pos 3
      | .error .stage2 =>
        (s0.setPosted c k { e with request := some s0.nextTag }).request e.vf (e.loc.pos / 4096) e.access (.posted e.who) 0 0

/-! ## Contexts and handlers as the addressees of events (R304, R313) -/

/-- The line that an event's addressee names: a handler only while its start is current. -/
def State.whoLine (s : State) (w : Who) : Option Line :=
  match w with
  | .ctx v i => s.lineOf v i
  | .handler c way _ _ =>
    match s.slot? c (60 + way) with
    | some sl => if sl.who = w then some sl.line else none
    | none => none

/-- Replaces that line. -/
def State.setWhoLine (s : State) (w : Who) (l : Line) : State :=
  match w with
  | .ctx v i => s.setLine v i l
  | .handler c way _ _ =>
    match s.slot? c (60 + way) with
    | some sl => s.putSlot c (60 + way) { sl with line := l }
    | none => s

/-- Makes it READY with line `l`. -/
def State.readyWho (s : State) (w : Who) (l : Line) : State :=
  match w with
  | .ctx v i => s.readyLine v i l
  | .handler _ _ _ _ => s.setWhoLine w { l with wt := .ready, wtArg := 0 }

/-- A trap that reaches a context from outside its own issue, wherever its line lies; a handler goes to its record. -/
def State.trapWho (s : State) (w : Who) (l : Line) (cause : BitVec 16) (tval : Word) (tinfo : BitVec 16) (acc : Nat) : State :=
  match w with
  | .ctx v i => (s.setLine v i l).faultLine v i l cause tval tinfo
  | .handler c way _ _ =>
    match s.slot? c (60 + way) with
    | none => s
    | some sl => s.takeTrap c (60 + way) { sl with line := l } cause tval tinfo acc

/-! ## Fills (R23, R136, R138) -/

/-- The argument of a FILL wait. -/
def fillArg (reg : BitVec 3) (tag : BitVec 8) : BitVec 28 := BitVec.ofNat 28 (reg.toNat + 8 * tag.toNat)

/-- A load's register value from `n` bytes (R139). -/
def loaded (v n : Nat) (signed : Bool) : Word := if signed then sext64 v (8 * n) else BitVec.ofNat 64 v

/-- A load's copy of a host line under CXL.cache: the dirty words of every copy go to the host, and the core holds the
missing words clean (R355, R372). -/
def State.fillHost (s : State) (f : Fill) (v gpa h : Nat) : State :=
  if f.noAlloc || f.llcOnly || s.hostDown v then s
  else
    let s1 := s.hostRecall (h / 64) false none
    let line := BitVec.ofNat 512 (s1.mem.read (h / 64 * 64) 64)
    let bad := wordBits fun i => s1.mem.poisoned (h / 64 * 64 + 8 * i)
    let old := ((s1.core f.core).cacheLine? v (gpa / 64)).getD
      { CacheLine.blank v (gpa / 64) false with host := true, hline := h / 64 }
    let new := wordsTouched (gpa % 64) f.n &&& ~~~old.val &&& ~~~(poisonWords bad)
    let x := { old with val := old.val ||| new, data := mergeWords old.data line new }
    if x.val = 0 then s1 else s1.putCopy f.core x (f.stream && new ≠ 0)

/-- What a fill's memory answers: the bytes, poison, or why not; the state after the copies it leaves, of the words that the
core lacked (R140, R357). -/
def State.fillRead (s : State) (f : Fill) : Except MemFault (State × Nat × Bool) :=
  match s.readBytes f.loc f.n f.secure with
  | .error e => .error e
  | .ok (v, p) =>
    match f.loc with
    | .paged vf gpa =>
      if hostHalf gpa then .ok ((s.hostAddr vf gpa false).elim s (s.fillHost f vf gpa), v, p)
      else
        let s1 := s.touchLlc vf gpa false f.noAlloc
        let missing := wordsTouched (gpa % 64) f.n &&& ~~~((s1.core f.core).valid vf (gpa / 64))
        match s1.loadMiss f.core vf (gpa / 64) missing f.priv f.secure (!(f.noAlloc || f.llcOnly)) (f.stream && missing ≠ 0) with
        | .error e => .error e
        | .ok s2 => .ok (s2, v, p)
    | _ => .ok (s, v, p)

/-- A response that finds its line no longer waiting for it is discarded, counted, and sets bit 6 of the flag word (R23,
R204, R400). -/
def State.discardFill (s : State) (f : Fill) : State :=
  (s.countErr f.who.vf f.linear 5).setFlag (clusterOf f.core) f.who.vf 6

/-- The FILL event of a response that reaches its context (R374). -/
def State.fillEvent (s : State) (f : Fill) : State :=
  s.yEvent (dieOf f.core) f.who.vf 1 0
    [BitVec.ofNat 64 (s.coreCycle f.core - f.since), f.who.idWord, BitVec.ofNat 64 f.linear, BitVec.ofNat 64 s.tick]

/-- A fill's response at its line (R23): the register and READY; discarded and counted when the line no longer waits for
it. Single-step takes its BRK here, once the load's register is written (R16), but for a context with a partial command (R168). -/
def State.deliverFill (s : State) (f : Fill) (v : Nat) : State :=
  match s.whoLine f.who with
  | none => s.discardFill f
  | some l =>
    if l.wt ≠ .fill || l.wtArg ≠ fillArg f.reg f.tag then s.discardFill f
    else
      let l' := l.setReg f.reg (loaded v f.n f.signed)
      let s1 := s.fillEvent f
      if l.step && !(s1.cores.any fun e => (e.2.partialPort f.who).isSome) then
        s1.trapWho f.who { l' with wt := .ready, wtArg := 0 } causeBrk (l'.pc.setWidth 64) f.tinfo 0
      else s1.readyWho f.who l'

/-- A fill load that cannot be performed: a late trap (R138), its register unchanged; a response of bad data is a response
(R374). -/
def State.lateTrap (s : State) (f : Fill) (cause : BitVec 16) : State :=
  match s.whoLine f.who with
  | none => s.discardFill f
  | some l =>
    if l.wt ≠ .fill || l.wtArg ≠ fillArg f.reg f.tag then s.discardFill f
    else (if cause = causeMemUncorr then s.fillEvent f else s).trapWho f.who { l with wt := .ready, wtArg := 0 } cause f.q f.tinfo 0

/-- Fill `k` answers, no earlier than the 10 cycles of class L (R429), and performed after the context's earlier accesses that R265
puts before it; a stage-2 fault asks the hypervisor. -/
def State.answerFill (s : State) (k : Nat) : State :=
  match s.fills[k]? with
  | none => s
  | some f =>
    if s.coreCycle f.core < f.since + latL || f.request.isSome
        || s.heldBack f.core f.who (s.core f.core).stores f.loc f.n f.loc.bank none s.posted then s
    else
      let gone : State := { s with fills := s.fills.eraseIdx k }
      match s.fillRead f with
      | .ok (s1, v, poison) =>
        let s2 : State := { s1 with fills := s1.fills.eraseIdx k }
        if poison then s2.lateTrap f causeMemUncorr else s2.deliverFill f v
      | .error .world => gone.lateTrap f causeWorld
      | .error .stage2 =>
        let s1 : State := { s with fills := s.fills.set k { f with request := some s.nextTag } }
        s1.request f.who.vf (f.loc.pos / 4096) .read (.fill f.who) f.q f.tinfo

end Sys2Proof.Machine
end

