-- ==== Sys2Proof/Machine/LoadStore.lean ====
section
/-! DEFINITION. LoadStore: the page-0 loads and stores (06_isa_memory_sync.md, R135 to R141). -/
namespace Sys2Proof.Machine

/-! ## Shared by everything that posts or holds (R136, R137) -/

/-- The scope at which an ORDER prefix makes an access a release; none when it does not (R65, R267). -/
def preRelease (p : Pre) : Option (BitVec 3) :=
  match p.order with
  | none => none
  | some o => if o.ord = ordRelease || o.ord = ordAcqRel then some o.scope else none

/-- Hints of an ORDER prefix: stream, no-allocate, LLC-only (R140). -/
def preHints (p : Pre) : Bool × Bool × Bool :=
  match p.order with
  | none => (false, false, false)
  | some o => (o.stream = 1, o.noAlloc = 1, o.llcOnly = 1)

/-- The instruction stays in flight, its line pinned, until an event of the device answers it (R106, R136, R137). -/
def hold (s : State) (sl : Slot) (i : Instr) : Out := .next (s.putCur { sl with held := some i })

/-- A core whose store queue is full (R137). -/
def Core.storesFull (k : Core) : Bool := Config.storeQueue ≤ k.stores.length

/-- A posted instruction takes an entry and completes; with the queue full the context is not ready, and nothing happens
(R137). -/
def post (s : State) (sl : Slot) (i : Instr) (e : Posted) : Out :=
  let k := s.core s.run.1
  if k.storesFull then .next s
  else 
    let s1 := s.setCore s.run.1 { k with stores := k.stores ++ [{ e with age := s.posted }] }
    complete { s1 with posted := s.posted + 1 } sl i latA

/-! ## Loads (R139) -/

/-- What a context's queued stores answer to a load. -/
inductive Forward where
  | none
  | value (v : Nat)
  /-- an entry overlaps only in part, carries no data, or stands on another core: the load waits (R137) -/
  | wait
  deriving DecidableEq, Repr

/-- The bytes a queued entry gives a load that it covers. -/
def Posted.give (e : Posted) (loc : Loc) (n : Nat) : Forward :=
  let covers := e.loc.pos ≤ loc.pos && loc.pos + n ≤ e.loc.pos + e.n
  match e.post with
  | .store | .stfe =>
    if covers then .value (e.data.toNat / 2 ^ (8 * (loc.pos - e.loc.pos)) % 2 ^ (8 * n)) else .wait
  | _ => .wait

/-- A load's own queued stores (R137, R261): the newest entry over its bytes decides. -/
def State.forward (s : State) (c : Nat) (w : Who) (loc : Loc) (n : Nat) : Forward :=
  let over_ (e : Posted) : Bool := e.who = w && e.writes && e.loc.overlaps e.n loc n
  if (s.ownElsewhere c w).any over_ then .wait
  else
    match ((s.core c).stores.filter over_).getLast? with
    | none => .none
    | some e =>
      match e.give loc n with
      | .value x => .value (s.showBytes loc x)
      | f => f

/-- The bytes of a load that hits whole in the core data cache. -/
def State.cacheHit (s : State) (c : Nat) (loc : Loc) (n : Nat) : Option Nat :=
  match loc with
  | .paged v gpa =>
    match (s.core c).cacheLine? v (gpa / 64) with
    | none => none
    | some x =>
      let m := wordsTouched (gpa % 64) n
      if x.val &&& m = m then some (s.showBytes loc (getBytes x.data (gpa % 64) n)) else none
  | _ => none

/-- A local load completes (R136). -/
def loadDone (s : State) (sl : Slot) (i : Instr) (d : BitVec 3) (v n : Nat) (signed : Bool) : Out :=
  complete s { sl with line := sl.line.setReg d (loaded v n signed) } i latL

/-- A fill load completes at issue and waits FILL (R21, R23, R136). -/
def issueFill (s : State) (sl : Slot) (i : Instr) (d : BitVec 3) (q : Word) (g : Seg) (loc : Loc) (n : Nat)
    (signed priv : Bool) (hints : Bool × Bool × Bool) : Out :=
  let v := sl.line.vfid.toNat
  let tag : BitVec 8 := (s.vf v).gen.setWidth 8
  let linear := g.base + ptrOff q
  let f := Fill.mk sl.who s.run.1 d tag loc n signed q i.tinfo hints.1 hints.2.1 hints.2.2 priv sl.secure (s.coreCycle s.run.1) linear
    none
  let line := { sl.line.fire i with wt := .fill, wtArg := fillArg d tag }
  let s1 := match loc with
    | .paged _ _ => s.count v 0x30 1
    | _ => s
  .next ({ s1 with fills := s1.fills ++ [f] }.putCur { sl with line := line, readyAt := s.coreCycle s.run.1 + latL, held := none })

/-- The pointer of the 8-byte word that holds the place of a pointer (R277, R394). -/
def wordPtr (q : Word) (loc : Loc) : Word := q - BitVec.ofNat 64 loc.off

/-- A load at its place (R136): own queued stores, the scratchpad and the data cache answer locally; the rest are fills. -/
def loadAt (s : State) (sl : Slot) (i : Instr) (d : BitVec 3) (q : Word) (n : Nat) (signed : Bool)
    (hints : Bool × Bool × Bool) (g : Seg) (loc : Loc) (priv : Bool) : Out :=
  let c := s.run.1
  match s.forward c sl.who loc n with
  | .value v => loadDone s sl i d v n signed
  | .wait => hold s sl i
  | .none =>
    match loc with
    | .scratch _ _ =>
      if !s.mayPerform c sl.who loc n none then hold s sl i
      else
        match s.readBytes loc n sl.secure with
        | .error e => memFaultOut s sl i e loc q .read
        | .ok (v, poison) => if poison then trapOut s sl i causeMemUncorr (wordPtr q loc) else loadDone s sl i d v n signed
    | .cluster _ _ => issueFill s sl i d q g loc n signed priv hints
    | .paged v gpa =>
      match s.cacheHit c loc n with
      | none => issueFill s sl i d q g loc n signed priv hints
      | some x =>
        if !s.mayPerform c sl.who loc n none then hold s sl i
        else
          match (if hostHalf gpa then .ok () else (s.lineView v (gpa / 64) false sl.secure).map fun _ => ()) with
          | .error .world => trapOut s sl i causeWorld q
          | _ => loadDone (s.touchCopy c v (gpa / 64)) sl i d x n signed

/-- A load (R139). -/
def loadOp (s : State) (i : Instr) (p : Pre) (d a b : BitVec 3) (n : Nat) (signed : Bool) : Out :=
  guarded s i p fun sl =>
    let q := dispPtr p (sl.line.reg a) b n
    access s sl i q n needLoad .read fun g loc priv => loadAt s sl i d q n signed (preHints p) g loc priv

/-- ldz.b (R139). -/
def execLdzB (p : Pre) (d a b : BitVec 3) (s : State) : Out := loadOp s (.ldzB p d a b) p d a b 1 false

/-- lds.b (R139). -/
def execLdsB (p : Pre) (d a b : BitVec 3) (s : State) : Out := loadOp s (.ldsB p d a b) p d a b 1 true

/-- ldz.h (R139). -/
def execLdzH (p : Pre) (d a b : BitVec 3) (s : State) : Out := loadOp s (.ldzH p d a b) p d a b 2 false

/-- lds.h (R139). -/
def execLdsH (p : Pre) (d a b : BitVec 3) (s : State) : Out := loadOp s (.ldsH p d a b) p d a b 2 true

/-- ldz.w (R139). -/
def execLdzW (p : Pre) (d a b : BitVec 3) (s : State) : Out := loadOp s (.ldzW p d a b) p d a b 4 false

/-- lds.w (R139). -/
def execLdsW (p : Pre) (d a b : BitVec 3) (s : State) : Out := loadOp s (.ldsW p d a b) p d a b 4 true

/-- ld.d (R139). -/
def execLdD (p : Pre) (d a b : BitVec 3) (s : State) : Out := loadOp s (.ldD p d a b) p d a b 8 false

/-! ## Stores (R139) -/

/-- A st.* through PEER to another cluster takes an adaptive route (R264). -/
def adaptiveStore (c : Nat) (g : Seg) (loc : Loc) : Bool :=
  match g.type, loc with
  | .peer, .cluster k _ => k ≠ clusterOf c
  | _, _ => false

/-- A store (R139): posted, a release at its scope when ORDER says so. -/
def storeOp (s : State) (i : Instr) (p : Pre) (d a b : BitVec 3) (n : Nat) : Out :=
  guarded s i p fun sl =>
    let q := dispPtr p (sl.line.reg a) b n
    access s sl i q n needStore .write fun g loc priv =>
      let data : Word := BitVec.ofNat 64 ((sl.line.reg d).toNat % 2 ^ (8 * n))
      post s sl i (Posted.mk sl.who sl.line.vfid.toNat loc n data .store (preRelease p) (adaptiveStore s.run.1 g loc) g.type
        (preHints p).1 (preHints p).2.1 (preHints p).2.2 priv sl.secure none 0)

/-- st.b (R139). -/
def execStB (p : Pre) (d a b : BitVec 3) (s : State) : Out := storeOp s (.stB p d a b) p d a b 1

/-- st.h (R139). -/
def execStH (p : Pre) (d a b : BitVec 3) (s : State) : Out := storeOp s (.stH p d a b) p d a b 2

/-- st.w (R139). -/
def execStW (p : Pre) (d a b : BitVec 3) (s : State) : Out := storeOp s (.stW p d a b) p d a b 4

/-- st.d (R139). -/
def execStD (p : Pre) (d a b : BitVec 3) (s : State) : Out := storeOp s (.stD p d a b) p d a b 8

end Sys2Proof.Machine
end

