-- ==== Sys2Proof/Machine/Launch.lean ====
section
/-! DEFINITION. Launch: contexts that retire, end and depart (R32, R108, R154, R315, R330), and the region control blocks
that own them (16_headrace.md, R318 to R326). -/
namespace Sys2Proof.Machine

/-! ## RCB words that Headrace keeps up to date (R319) -/

/-- Replaces bits [lo + n − 1 : lo] of a doubleword. -/
def setField (w : Word) (lo n v : Nat) : Word :=
  let mask : Word := BitVec.ofNat 64 ((2 ^ n - 1) * 2 ^ lo)
  (w &&& ~~~mask) ||| (BitVec.ofNat 64 (v % 2 ^ n * 2 ^ lo))

/-- Headrace rewrites a field of a doubleword of an RCB. -/
def State.rcbField (s : State) (v addr dw lo n val : Nat) : State :=
  s.rcbUpdate v addr dw fun w => setField w lo n val

/-- The codes of R321. -/
def stateNew : Nat := 0
def statePending : Nat := 1
def stateAdmitted : Nat := 2
def stateDone : Nat := 3
def stateAborted : Nat := 4

/-- The live count of an RCB changes (R329): in Headrace's record, if there is one, and in dw14. -/
def State.setLive (s : State) (v addr : Nat) (f : Nat → Nat) : State :=
  if addr = 0 then s
  else
    let s1 := match s.rcb? v addr with
      | none => s
      | some r => s.putRcb { r with live := f r.live }
    s1.rcbUpdate v addr 14 fun w => setField w 16 48 (f (w.toNat / 2 ^ 16))

/-- A context of an RCB is no longer live (R329): the count of the ABORTED record that still has contexts to retire, for a context
that R330 ended, else that of the named one. -/
def State.unlive (s : State) (v : Nat) (c : Ctx) : State :=
  match s.ancestors.find? fun a => c.ended && a.vf = v && a.addr = c.rcb && 0 < a.live with
  | none => s.setLive v c.rcb (· - 1)
  | some a =>
    let s1 : State := { s with ancestors := s.ancestors.map fun x => if x.order = a.order then { x with live := x.live - 1 } else x }
    if (s.rcb? v c.rcb).isSome then s1 else s1.setLive v c.rcb (· - 1)

/-- An RCB's reservations of its quota change (R156, R326). -/
def State.setSused (s : State) (r : Rcb) (n : Nat) : State :=
  (s.putRcb { r with sused := n }).rcbField r.vf r.addr 12 32 32 n

/-! ## Retirement (R32, R108, R330) -/

/-- A discarded WATCH is counted as a dropped event of its slot (R293): its tval names slot and die (R379). -/
def State.dropWatch (s : State) (v : Nat) (tval : Word) : State :=
  s.dropEvent (tval.toNat / 8 % 4) v (tval.toNat % 8)

/-- The WATCHes on their way to a context are counted as discarded. -/
def State.dropWatches (s : State) (v i : Nat) : State :=
  s.events.foldl (fun s e =>
    match e with
    | (.ctx v' i', .watch tval) => if v' = v && i' = i then s.dropWatch v tval else s
    | _ => s) s

/-- What the device holds for a context besides its line is dropped: waits, events, its place in pull queues and
trap-delivery lists. -/
def State.dropEvents (s0 : State) (v i : Nat) : State :=
  let s := s0.dropWatches v i
  { s with
    waiters := s.waiters.filter fun w => w.who ≠ .ctx v i
    events := s.events.filter fun e => e.1 ≠ .ctx v i
    cores := s.cores.map fun e => (e.1, { e.2 with
      pulls := e.2.pulls.filter fun q => !(q.1 = v && q.2.1 = i)
      deliveries := e.2.deliveries.filter fun d => d ≠ .parked v i }) }

/-- Takes a line out of the place that holds it. -/
def State.removeLine (s : State) (v i : Nat) : State :=
  match s.placeOf v i with
  | some (.l1 c w) => s.freeWay c w
  | some (.l2 k) =>
    let x := s.cluster k
    s.setCluster k { x with l2 := x.l2.filter fun e => !(e.vf = v && e.index = i) }
  | some (.buffer k) =>
    let x := s.cluster k
    s.setCluster k { x with outgoing := x.outgoing.filter fun e => !(e.vf = v && e.index = i) }
  | _ => s

/-- A context retires: its line goes back to its memory copy, and its RCB records it (R32, R329). -/
def State.retire (s : State) (v i : Nat) : State :=
  match s.ctx? v i with
  | none => s
  | some c =>
    let s1 := match s.lineOf v i with
      | some l => s.writeCopy v i l
      | none => s
    let s2 := (s1.removeLine v i).dropEvents v i
    ((c.watch.elim s2 (s2.dropWatch v)).setCtx v i (Ctx.mk .retired c.rcb none false none false none)).unlive v c

/-- The commands that a context has sent, and their completions on the way, are no longer any context's: a later launch that takes
the index gets none of them (R330). -/
def State.orphan (s : State) (w : Who) : State :=
  let cmd (c : Cmd) : Cmd := if c.who = w then { c with orphan := true } else c
  { s with
    clusters := s.clusters.map fun e => (e.1, { e.2 with
      queues := e.2.queues.map cmd
      held := e.2.held.map fun h => { h with cmd := cmd h.cmd } })
    dies := s.dies.map fun e => (e.1, { e.2 with queue := e.2.queue.map cmd })
    transit := s.transit.map fun x => if x.who = w then { x with orphan := true } else x }

/-- Everything that any core holds for a context that ends goes: completions, reservations, partial commands; what the engines still
do for it is nobody's (R330). -/
def State.forgetAll (s : State) (w : Who) : State := (s.cores.foldl (fun s e => s.forget e.1 w) s).orphan w

/-- Whether a way's page-3 instruction still runs (R128, R130). -/
def State.vectorRuns (s : State) (c w : Nat) : Bool := s.coreCycle c < (s.core c).vector.get w 0

/-- Whether an operation of the context in a way is in flight: its line stays there until that completes (R130, R136). -/
def State.inOperation (s : State) (c w : Nat) : Bool := ((s.slot? c w).bind Slot.held).isSome || s.vectorRuns c w

/-- Ends a context (R330): at once unless its line is in a packet or an operation of it is still in flight; then at its
next boundary. -/
def State.endCtx (s : State) (v i : Nat) : State :=
  match s.ctx? v i with
  | none => s
  | some c =>
    let s1 := (s.forgetAll (.ctx v i)).dropEvents v i
    match c.place with
    | .retired => s
    | .flight => s1.setCtx v i { c with ended := true, wake := none }
    | .l1 k w =>
      if s.inOperation k w then s1.setCtx v i { c with ended := true, wake := none }
      else s1.retire v i
    | _ => s1.retire v i

/-- An ended context whose operation has completed retires at this boundary (R330). -/
def State.retireEnded (s : State) (v i : Nat) : State :=
  match s.ctx? v i with
  | some c =>
    match c.place with
    | .l1 k w => if c.ended && !s.inOperation k w then s.retire v i else s
    | .flight => s
    | _ => if c.ended then s.retire v i else s
  | none => s

/-- The check domain, as R392 lists them, that holds a context's line: 4 for a context L1 or L2, a buffer or a packet; for its memory
copy 1 in an LLC line, else 0 in HBM or 7 in the capacity tier. -/
def State.lineDomain (s : State) (v i : Nat) (place : Place) : Nat :=
  let a := s.copyAddr v i
  match place with
  | .memory =>
    if (s.llc? v (a / 64)).isSome then 1
    else if (s.frameOf? v (a / 4096) false false).all fun f => f * 4096 < hbmEnd then 0 else 7
  | _ => 4

/-- A context whose line cannot be kept ends as R330 ends one: its line, wherever it lies, its events and what the device holds for
it are gone, and its RCB records an unhandled fault (R395). -/
def State.dropLine (s : State) (v i : Nat) (c : Ctx) (cause : BitVec 16) : State :=
  let gone := ((s.forgetAll (.ctx v i)).removeLine v i).dropEvents v i
  let s1 := c.watch.elim gone (gone.dropWatch v)
  let s2 : State := { s1 with packets := s1.packets.filter fun p => !(p.vf = v && p.index = i) }
  ((s2.setCtx v i (Ctx.mk .retired c.rcb none false none false none)).unlive v c).reportFault v c.rcb (ctxWord v i) cause 0

/-- A doubleword of a memory copy is left poisoned, where the VF's world reaches it (R395, R407). -/
def State.poisonCopy (s : State) (v i k : Nat) : State :=
  let loc := Loc.paged v (s.copyAddr v i + 8 * k)
  match s.word loc true (s.vf v).sec with
  | .ok w => s.putWord loc { w with poison := true } (s.vf v).sec
  | .error _ => s

/-- A context line that meets an uncorrectable error (R393, R395): the error counts against the domain that held it, the context
ends, its RCB records the fault, its memory copy is left poisoned. -/
def State.loseLine (s : State) (v i : Nat) : State :=
  match s.ctx? v i with
  | none => s
  | some c =>
    if c.place = .retired then s
    else
      let s1 := s.dropLine v i c causeMemUncorr
      let s2 := (List.range 16).foldl (fun s k => s.poisonCopy v i k) s1
      (s2.hyper (s.nodeOf v) (ctrUncorrectable (s.lineDomain v i c.place))).countErr v (s.copyAddr v i) 6

/-- A context whose memory copy the hypervisor refuses for good: its line cannot be brought or sent home, so it ends, and its RCB
records STAGE2 as R395 has it record MEM_UNCORR (DESIGN CHOICE, log 24). -/
def State.refuseCopy (s : State) (v i : Nat) : State :=
  match s.ctx? v i with
  | none => s
  | some c =>
    match c.place with
    | .memory | .buffer _ => s.dropLine v i c causeStage2
    | _ => s

/-! ## Finishing an RCB (R326, R330) -/

/-- join.dec by Headrace on a join word at a linear address (R157). -/
def State.headraceJoin (s : State) (v addr : Nat) : State :=
  match s.linearToGpa v (addr + 88) true with
  | none => s
  | some g =>
    match (s.headraceMarks v (addr + 88) true).joinDec v (.paged v g) (s.vf v).sec with
    | .ok s1 => s1
    | .error _ => s.countErr v g 3

/-- The record of a naming. -/
def State.rcbOf (s : State) (order : Nat) : Option Rcb := s.rcbs.find? fun r => r.order = order

/-- Whether a record lies in the subtree of another. -/
def Rcb.under (x r : Rcb) : Bool := x.order = r.order || x.chain.any fun e => e.1 = r.order

/-- Whether something below a finished RCB is still named: an RCB, an unread spawn, or another finished RCB with either. -/
def State.hasBelow (s : State) (a : Rcb) : Bool :=
  let mine (chain : List (Nat × Nat)) : Bool := chain.any fun e => e.1 = a.order
  s.rcbs.any (fun x => mine x.chain) || s.pool.any (fun e => mine e.chain) || s.ancestors.any fun x => mine x.chain

/-- The record of a naming, be it finished. -/
def State.recordOf (s : State) (order : Nat) : Option Rcb :=
  (s.rcbOf order).orElse fun _ => s.ancestors.find? fun r => r.order = order

def addPast (order n : Nat) (r : Rcb) : Rcb := if r.order = order then { r with past := r.past + n } else r

/-- A finished RCB is forgotten once nothing below it is named and none of its contexts is live (R324); what its subtree has issued
stays with its parent (R330). -/
def State.pruneOne (s : State) : State :=
  match s.ancestors.find? fun a => a.live = 0 && !s.hasBelow a with
  | none => s
  | some a =>
    let parent := (a.chain.head?).elim a.order Prod.fst
    { s with
      ancestors := (s.ancestors.filter fun x => x.order ≠ a.order).map (addPast parent (a.used + a.past))
      rcbs := s.rcbs.map (addPast parent (a.used + a.past)) }

def State.prune (s : State) : State := s.ancestors.foldl (fun s _ => s.pruneOne) s

/-- A reservation of a spawner's quota comes back (R321, R326): in its record, or, once it has finished, in the RCB alone. -/
def State.unreserve (s : State) (v parent : Nat) (chain : List (Nat × Nat)) : State :=
  match chain.head?.bind fun e => s.rcbOf e.1 with
  | some p => s.setSused p (p.sused - 1)
  | none =>
    match s.rcb? v parent, s.rcbWord v parent 12 with
    | none, some w => s.rcbWrite v parent 12 (setField w 32 32 (w.toNat / 2 ^ 32 - 1))
    | _, _ => s

/-- A record leaves the named RCBs for the finished ones. -/
def State.unname (s : State) (r : Rcb) : State :=
  ({ s with rcbs := s.rcbs.filter fun x => x.order ≠ r.order, ancestors := s.ancestors ++ [r] }).prune

/-- An RCB reaches DONE or ABORTED: its reservation in its parent's quota comes back, the parent's join counter falls, and
the state is written, a release at system scope after which a host sees every store of its contexts (R326). -/
def State.finishRcb (s : State) (r : Rcb) (code why : Nat) : State :=
  let s1 := s.unname r
  let s2 := if r.parent = 0 then s1 else (s1.unreserve r.vf r.parent r.chain).headraceJoin r.vf r.parent
  ((s2.writeBackVf r.vf).rcbField r.vf r.addr 14 8 8 why).rcbField r.vf r.addr 14 0 4 code

/-- The named RCBs of a subtree. -/
def State.subtree (s : State) (r : Rcb) : List Rcb := s.rcbs.filter fun x => x.under r

/-- Contexts of a VF that an RCB owns and that are not retired. -/
def State.ctxsOf (s : State) (v rcb : Nat) : List Nat :=
  s.ctxs.filterMap fun e => if e.1 / 2 ^ 40 = v && e.2.rcb = rcb && e.2.place ≠ .retired then some (e.1 % 2 ^ 40) else none

/-- The contexts of an RCB end, and it finishes ABORTED (R330). -/
def State.abortOne (s : State) (r : Rcb) (why : Nat) : State :=
  let s1 := (s.ctxsOf r.vf r.addr).foldl (fun s i => s.endCtx r.vf i) s
  match s1.rcb? r.vf r.addr with
  | none => s1
  | some x => s1.finishRcb x stateAborted why

/-- The HW fields of an RCB but those of dw14 return to their reset values (R321). -/
def State.clearHw (s : State) (v addr : Nat) : State :=
  (((s.rcbField v addr 12 32 32 0).rcbWrite v addr 15 0).rcbWrite v addr 16 0).rcbWrite v addr 17 0

/-- A spawned child that Headrace has not read when its subtree is ABORTED: if it is NEW it becomes ABORTED too, with none of its
last run's records. -/
def State.abortEntry (s : State) (e : PoolEntry) (why : Nat) : State :=
  let s1 := s.unreserve e.vf e.parent e.chain
  match s1.rcbWord e.vf e.child 14 with
  | none => s1
  | some w =>
    if w.toNat % 16 ≠ stateNew then s1
    else ((s1.headraceJoin e.vf e.parent).clearHw e.vf e.child).rcbWrite e.vf e.child 14 (BitVec.ofNat 64 (why * 256 + stateAborted))

/-- A subtree becomes ABORTED, the deepest RCBs, named last, first (R330). -/
def State.abortSubtree (s : State) (r : Rcb) (why : Nat) : State :=
  let t := s.subtree r
  let mine (e : PoolEntry) : Bool := e.chain.any fun x => x.1 = r.order
  let s1 := (s.pool.filter mine).foldl (fun s e => s.abortEntry e why)
    { s with pool := s.pool.filter fun e => !mine e }
  (t.reverse.foldl (fun s x => s.abortOne x why) s1).prune

/-! ## Departure (R154, R308, R315, R396) -/

/-- A cluster whose 512 replay records are in use holds new sends (R396). -/
def Cluster.full (k : Cluster) : Bool := Config.replayRecords ≤ k.replay.length

/-- Cycles after which an unacknowledged record times out (R397). -/
def ackCycles : Nat := 65536

/-- A cluster takes a replay record for a send (R396). -/
def State.record (s : State) (cl v : Nat) (sent : Sent) : State :=
  let k := s.cluster cl
  let r := Replay.mk k.nextSeq sent v (s.vf v).gen (Marks.mk 0 0 0 false false) 0 (s.cycle + ackCycles)
  s.setCluster cl { k with replay := k.replay ++ [r], nextSeq := (k.nextSeq + 1) % 65536 }

/-- A packet sets out, with a record of its cluster. -/
def State.sendPacket (s : State) (p : Packet) : State :=
  let p1 : Packet := { p with seq := (s.cluster p.cluster).nextSeq }
  let s1 := s.record p.cluster p.vf (.packet p1)
  { s1 with packets := s1.packets ++ [p1] }

/-- The issuing context leaves for another core of its partition: the line goes into a packet with wt MIGRATE and ccore
the destination, its way is free, its completions and reservations follow (R154, R173, R308). Its partial command is
abandoned (R168). -/
def depart (s : State) (sl : Slot) (v i dest : Nat) : Out :=
  let c := s.run.1
  let cl := clusterOf c
  if (s.cluster cl).full then .next s
  else
    let w := Who.ctx v i
    let s0 := s.abandon c w
    let dst := s0.lcore v dest
    let line := { sl.line with wt := .migrate, wtArg := BitVec.ofNat 28 dst, ccore := BitVec.ofNat 12 dst }
    let k := s0.core c
    let held := k.held.filter fun e => e.who = w
    let reserved := k.reserved.filter fun e => e.1 = w
    let s1 := (s0.forget c w).freeWay c s.run.2
    let s3 := s1.sendPacket (Packet.mk false (s0.lcore v c) dst v i line cl 0 none held reserved)
    let s4 := match s3.ctx? v i with
      | none => s3
      | some x => s3.setCtx v i { x with place := .flight }
    .next (s4.count v 0x21 1)

/-- Migration by an instruction to the home core of its pointer (R154, R155): a handler traps HANDLER_WAIT. -/
def migrate (s : State) (sl : Slot) (i : Instr) (dest : Nat) (q : Word) : Out :=
  match sl.who with
  | .handler _ _ _ _ => trapOut s sl i causeHandlerWait q
  | .ctx v k => depart s sl v k dest

/-- R30 steps 1 and 2 alone, for one byte (R153, R174, R190). -/
def limitCheck (g : Seg) (q : Word) (n : Nat) : Bool := !ptrHigh q && g.valid && ptrOff q + n ≤ g.limit

end Sys2Proof.Machine
end

