-- ==== Sys2Proof/Machine/Residence.lean ====
section
/-! DEFINITION. Residence: a context's line in a context L1, a context L2, its memory copy or a packet, and its moves
(15_context_hierarchy.md, R303 to R316), and the segment registers it loads (R24 to R26). -/
namespace Sys2Proof.Machine

/-! ## The context L1 (R303, R310) -/

/-- The ordinary ways that cl1lim leaves (R303). -/
def Core.ordinary (k : Core) : Nat := Nat.min k.cl1lim.toNat 60

/-- Pinned lines are never moved: handlers, an operation in flight, a running page-3 instruction, an unsent partial
command (R310). -/
def State.pinned (s : State) (c w : Nat) (sl : Slot) : Bool :=
  60 ≤ w || sl.held.isSome || s.vectorRuns c w || ((s.core c).partialPort sl.who).isSome

/-- The lowest free ordinary way. -/
def Core.freeOrdinary (k : Core) : Option Nat := (List.range k.ordinary).find? fun w => (k.ways.find w).isNone

/-- The least recently issued of a list of ways, ties to the earlier entry. -/
def leastRecent (l : List (Nat × Slot)) : Option (Nat × Slot) :=
  l.foldl (fun best e =>
    match best with
    | none => some e
    | some b => if e.2.lastIssue < b.2.lastIssue then some e else some b) none

/-- Cycles for which a line is ready outside before a ready line makes room (R310). -/
def readyWait : Nat := 64

/-- The victim for a line that has been READY outside the L1 since a cycle: a waiting line first, then an eligible ready
one (R310). A line that a VF switch moves out leaves by that switch (R339). -/
def State.victim (s : State) (c since : Nat) : Option Nat :=
  let k := s.core c
  let free := k.ways.filter fun e =>
    e.1 < k.ordinary && k.resident = some e.2.line.vfid.toNat && !s.pinned c e.1 e.2
  match leastRecent (free.filter fun e => e.2.line.wt ≠ .ready) with
  | some (w, _) => some w
  | none =>
    if s.cycle < since + readyWait then none
    else (leastRecent (free.filter fun e => e.2.line.wt = .ready && e.2.issued)).map Prod.fst

/-! ## The context L2 (R305, R309) -/

/-- The set of a context (R305). -/
def l2Set (v i : Nat) : Nat := (i % 512) ^^^ (v % 512)

def Cluster.inSet (k : Cluster) (set : Nat) : List L2Line := k.l2.filter fun e => l2Set e.vf e.index = set

/-- The victim of a full set: waiting lines first, then the one that has stayed longest (R309). -/
def Cluster.l2Victim (k : Cluster) (set : Nat) : Option L2Line :=
  let here := k.inSet set
  if here.length < 16 then none
  else
    match here.find? fun e => e.line.wt ≠ .ready with
    | some e => some e
    | none => here.head?

/-- Write-back buffers of a cluster (R309). -/
def writeBackBuffers : Nat := 16

/-- A line of a write-back buffer reaches its memory copy, which is then HOME (R308, R309); where stage 2 does not reach the copy
it waits in the buffer for the hypervisor (R352, log 24). -/
def State.writeBackLine (s : State) (cl : Nat) (e : L2Line) : State :=
  match s.copyRefused e.vf e.index true with
  | some a => s.requestCopy e.vf e.index a .write
  | none =>
    let k := s.cluster cl
    let s1 := s.setCluster cl { k with outgoing := k.outgoing.filter fun x => !(x.vf = e.vf && x.index = e.index) }
    let s2 := s1.writeCopy e.vf e.index e.line
    match s2.ctx? e.vf e.index with
    | none => s2
    | some c => s2.setCtx e.vf e.index { c with place := .memory }

/-- The oldest write-back of a cluster that waits for no page ends: the slice accepts the line (R308). -/
def lineWriteBack (cl : Nat) (s : State) : Out :=
  let waits (e : L2Line) : Bool := s.requests.any fun r => r.requester = .copy (.ctx e.vf e.index)
  match (s.cluster cl).outgoing.find? fun e => !waits e with
  | none => .next s
  | some e => .next (s.writeBackLine cl e)

/-- Whether a set of a context L2 has room for one line, or a write-back buffer is free for its victim (R309). -/
def State.l2Admits (s : State) (cl set : Nat) : Bool :=
  let k := s.cluster cl
  (k.l2Victim set).isNone || k.outgoing.length < writeBackBuffers

/-- A set of a context L2 makes room for one line: its victim goes to a write-back buffer. -/
def State.l2Room (s : State) (cl set : Nat) : State :=
  let k := s.cluster cl
  match k.l2Victim set with
  | none => s
  | some e =>
    let s1 := s.setCluster cl { k with
      l2 := k.l2.filter fun x => !(x.vf = e.vf && x.index = e.index)
      outgoing := k.outgoing ++ [e] }
    match s1.ctx? e.vf e.index with
    | none => s1
    | some c => s1.setCtx e.vf e.index { c with place := .buffer cl }

/-- Where a context's line now is. -/
def State.setPlace (s : State) (v i : Nat) (p : Place) : State :=
  match s.ctx? v i with
  | none => s
  | some c => s.setCtx v i { c with place := p, fetch := false }

/-- A line enters a cluster's context L2; a READY one is queued for a pull (R309, R311). -/
def State.enterL2 (s : State) (cl v i : Nat) (l : Line) : State :=
  let s1 := s.l2Room cl (l2Set v i)
  let k := s1.cluster cl
  let s2 := (s1.setCluster cl { k with l2 := k.l2 ++ [L2Line.mk v i l] }).setPlace v i (.l2 cl)
  if l.wt = .ready then s2.queuePull v i l else s2

/-- Whether the context L2 can take the line of a way now; while every write-back buffer is busy and the line's set is full,
its eviction waits in its way (R309). -/
def State.evictable (s : State) (c w : Nat) : Bool :=
  match (s.slot? c w).map Slot.who with
  | some (.ctx v i) => s.l2Admits (clusterOf c) (l2Set v i)
  | _ => false

/-- A yield and a latency that have not run out stay with the context, for its core (R86, R105). -/
def State.keepYield (s : State) (c : Nat) (sl : Slot) (v i : Nat) : State :=
  let now := s.coreCycle c
  match s.ctx? v i with
  | none => s
  | some x => s.setCtx v i { x with yield :=
      if now < sl.yieldUntil || now < sl.readyAt then some (c, sl.yieldUntil, sl.readyAt) else none }

/-- An eviction from a context L1 into its cluster's L2 (R308); one that the L2 cannot take does not happen yet (R309). -/
def State.evict (s : State) (c w : Nat) : State :=
  match s.slot? c w with
  | none => s
  | some sl =>
    match sl.who with
    | .handler _ _ _ _ => s
    | .ctx v i =>
      if !s.evictable c w then s
      else ((((s.freeWay c w).enterL2 (clusterOf c) v i sl.line)).keepYield c sl v i).count v 0x20 1

/-- Room in a core's L1 for a line READY since a cycle: a free way, or a victim's after its eviction. -/
def State.roomFor (s : State) (c since : Nat) : Option (State × Nat) :=
  match (s.core c).freeOrdinary with
  | some w => some (s, w)
  | none =>
    match s.victim c since with
    | some w => if s.evictable c w then some (s.evict c w, w) else none
    | none => none

/-- Cycles from a decision to residence (R308). -/
def pullCycles : Nat := 10

/-- A line whose core is now another (R31, R368). -/
def State.redirected (s : State) (v c : Nat) (l : Line) : Line := { l with ccore := BitVec.ofNat 12 (s.lcore v c) }

/-- A line takes residence in a way, its segment registers still to be loaded (R26, R308); back on its core it issues no earlier than
its last instruction's latency lets it (R86). -/
def State.seat (s : State) (c w v i : Nat) (l : Line) : State :=
  let at_ := s.cycle + pullCycles
  let rcb := (s.ctx? v i).elim 0 Ctx.rcb
  let line := s.redirected v c l
  let left := match (s.ctx? v i).bind Ctx.yield with
    | some (c', n) => if c' = c then n else (0, 0)
    | none => (0, 0)
  let ready := Nat.max (s.coreCycle c + pullCycles) left.2
  (s.putSlot c w (Slot.mk line (.ctx v i) [] false ready at_ false left.1 none false rcb)).setPlace v i (.l1 c w)

/-- The line leaves the pull queues. -/
def State.unqueue (s : State) (c v i : Nat) : State :=
  let k := s.core c
  s.setCore c { k with pulls := k.pulls.filter fun q => !(q.1 = v && q.2.1 = i) }

/-- The head of a core's pull queue among the lines of its resident VF: a line of another VF is never pulled, and none
waits behind it (R311, R339). -/
def Core.pullHead (k : Core) : Option (Nat × Nat × Nat) := k.pulls.find? fun q => k.resident = some q.1

/-- A pull: the head of a core's pull queue, READY in the cluster's L2 since an earlier cycle, takes a way (R311). A head
that is no longer READY outside the L1 leaves the queue. -/
def State.pull (s : State) (c : Nat) : State :=
  match (s.core c).pullHead with
  | none => s
  | some (v, i, since) =>
    match s.placeOf v i, s.lineOf v i with
    | some (.l2 k), some l =>
      if l.wt ≠ .ready then s.unqueue c v i
      else if s.cycle ≤ since || k ≠ clusterOf c then s
      else
        match s.roomFor c since with
        | none => s
        | some (s1, w) =>
          -- the eviction that made room may have sent this very line home from a full set
          match s1.placeOf v i with
          | some (.l2 _) => ((s1.removeLine v i).unqueue c v i).seat c w v i l
          | _ => s1
    | some .memory, some l => if l.wt ≠ .ready then s.unqueue c v i else s
    | some .memory, none => s
    | some (.buffer _), _ => s
    | _, _ => s.unqueue c v i

/-- The cycle in which a line joined a pull queue. -/
def Core.queuedAt (k : Core) (v i : Nat) : Option Nat := (k.pulls.find? fun q => q.1 = v && q.2.1 = i).map fun q => q.2.2

/-- A READY line marked HOME is fetched, the reads of its copy counted: to its core's L1 when there is room, a free way or a victim's,
in its turn in the pull queue; without room to the context L2, when it became READY while HOME (R308), while one that an L2 wrote back
READY waits for its pull (R309, R311). A poisoned copy is a lost line (R395); one that stage 2 does not reach is asked for (R352,
log 24). -/
def State.fetchHome (s : State) (v i : Nat) : State :=
  match s.placeOf v i with
  | some .memory =>
    match s.copyLine v i with
    | none =>
      match s.copyRefused v i false with
      | some a => s.requestCopy v i a .read
      | none => if (List.range 16).any fun k => (s.gpaWord v (s.copyAddr v i + 8 * k)).isNone then s else s.loseLine v i
    | some l =>
      if l.wt ≠ .ready then s
      else
        let c := s.ccoreOf v l
        let read := s.touchAll v [s.copyAddr v i, s.copyAddr v i + 64] false
        let toL2 :=
          if (s.ctx? v i).any Ctx.fetch && s.l2Admits (clusterOf c) (l2Set v i) then
            read.enterL2 (clusterOf c) v i (s.redirected v c l) else s
        match (s.core c).queuedAt v i with
        | some since =>
          if (s.core c).resident ≠ some v then toL2
          else if s.cycle ≤ since then s
          else
            match read.roomFor c since with
            | none => toL2
            | some (s1, w) =>
              if (s.core c).pullHead = some (v, i, since) then (s1.unqueue c v i).seat c w v i l else s
        | none => toL2
  | _ => s

/-! ## Segment registers (R24 to R26) -/

/-- A doubleword of a descriptor: read by the device as the VF would; a poisoned or refused word loads nothing valid. -/
def State.descWord (s : State) (v gpa : Nat) : Except MemFault Word :=
  match s.word (.paged v gpa) false (s.vf v).sec with
  | .error .stage2 => .error .stage2
  | .error .world => .ok 0
  | .ok w => .ok (if w.poison then 0 else w.data)

/-- The eight registers of a set, from the segment-set table; none where stage 2 does not reach it, with its address. -/
def State.loadSet (s : State) (v sset : Nat) : Except Nat (List Seg) :=
  let x := s.vf v
  if x.sstlen ≤ sset then .ok (List.replicate 8 Seg.invalid)
  else
    let n := nodeClusters (s.nodeOf v)
    (List.range 8).foldr (fun k acc =>
      let a := x.sstbase + 128 * sset + 16 * k
      match s.descWord v a, s.descWord v (a + 8), acc with
      | .ok lo, .ok hi, .ok l => .ok (loadSeg lo hi n :: l)
      | _, _, .error e => .error e
      | _, _, .ok _ => .error a) (.ok [])

/-! ## Packets (R315) -/

/-- Takes packet `k` out of flight. -/
def State.dropPacket (s : State) (k : Nat) : State := { s with packets := s.packets.eraseIdx k }

/-- The completions and reservations that follow a packet enter the destination's store (R173); those of an ended context are
discarded (R330). -/
def State.unload (s : State) (c : Nat) (p : Packet) : State :=
  let k := s.core c
  if (s.ctx? p.vf p.index).any Ctx.ended then s
  else s.setCore c { k with
    held := k.held ++ p.completions.map fun e => { e with core := c }
    reserved := k.reserved ++ p.reserved }

/-- Whether the completion store of a core has room for a packet's. -/
def State.admits (s : State) (c : Nat) (p : Packet) : Bool :=
  let k := s.core c
  k.held.length + k.reserved.length + p.completions.length + p.reserved.length ≤ Config.completionStore

/-- The line as it stands on arrival: READY after a migration, as Headrace wrote it after a launch. -/
def Packet.arrives (p : Packet) : Line := if p.launch then p.line else { p.line with wt := .ready, wtArg := 0 }

/-- An arrived line goes to the destination cluster's L2, once that can take it (R309). -/
def State.arriveL2 (s : State) (k : Nat) (p : Packet) (c : Nat) : State :=
  if !s.l2Admits (clusterOf c) (l2Set p.vf p.index) then s
  else
    (((s.dropPacket k).unload c p).enterL2 (clusterOf c) p.vf p.index (s.redirected p.vf c p.arrives)).retireEnded p.vf p.index

/-- Arrival of packet `k`: a free way, a victim's, or, where the resident VF is another, the context L2; with neither to be
had it is held as arrived (R315). An ended context retires here (R330). -/
def State.arrivePacket (s : State) (k : Nat) : State :=
  match s.packets[k]? with
  | none => s
  | some p =>
    let c := s.pcore p.vf p.dst
    if !s.admits c p then s
    else if (s.core c).resident ≠ some p.vf then s.arriveL2 k p c
    else
      match s.roomFor c (p.arrived.getD s.cycle) with
      | some (s1, w) =>
        (((s1.dropPacket k).unload c p).seat c w p.vf p.index p.arrives).retireEnded p.vf p.index
      | none =>
        if p.arrived.isSome then s else { s with packets := s.packets.set k { p with arrived := some s.cycle } }

/-- A packet that has found no way within 64 cycles of its arrival (R315). -/
def State.arriveLate (s : State) (k : Nat) : State :=
  match s.packets[k]? with
  | none => s
  | some p =>
    match p.arrived with
    | none => s
    | some n =>
      let c := s.pcore p.vf p.dst
      if s.cycle < n + readyWait || !s.admits c p then s else s.arriveL2 k p c

end Sys2Proof.Machine
end

