-- ==== Sys2Proof/Machine/Fetch.lean ====
section
/-! DEFINITION. Fetch: the segment registers a context loads before it issues (R26), its parcels one after another (R28,
R60 to R62), and the trap of a chain that is no instruction (R71). -/
namespace Sys2Proof.Machine

/-! ## One parcel -/

/-- What fetching a parcel, or a whole chain, comes to besides success. -/
inductive FetchFail where
  /-- a trap: the cause and the offset or value -/
  | trap (cause : BitVec 16) (tval : Word)
  /-- a micro-TLB miss of this linear address, for the parcel at an offset -/
  | miss (a off : Nat)
  /-- stage 2 does not reach the place, for the parcel at an offset -/
  | stage2 (loc : Loc) (off : Nat)
  deriving DecidableEq, Repr

/-- The `n` bytes of a parcel that a fetch reads at a place, and the state after the LLC has served it, where a fetch that misses
leaves no line (log 100). A fetch does not snoop the core data caches: while they hold newer words it sees the LLC's, or the host's,
or those, as the free value says (R62, log 8). Stage 2 asks the fetch right of what it translates (R343). -/
def State.readPiece (s : State) (loc : Loc) (n : Nat) (secure : Bool) : Except MemFault (State × Nat × Bool) :=
  match s.readBytes loc n secure true with
  | .error e => .error e
  | .ok (new, poison) =>
    match loc with
    | .paged vf gpa =>
      if hostHalf gpa then
        let w := s.shows vf gpa ((s.hostAddr vf gpa false true).elim (Word8.mk 0 true false) s.mem.word)
        let old := w.bytes loc.off n
        let bad := w.poison || s.hostDown vf
        if bad = poison && old = new then .ok (s, new, poison)
        else if Config.fetchNew s.draws then .ok (s.drawn, new, poison)
        else .ok (s.drawn, old, bad)
      else
        match s.lineView vf (gpa / 64) false secure true with
        | .error e => .error e
        | .ok l =>
          let w := s.shows vf gpa (l.word l.data gpa)
          let old := w.bytes loc.off n
          let fresh := w.poison = poison && old = new
          let s1 := s.touchLlc vf gpa false true true
          if fresh then .ok (s1, new, poison)
          else if Config.fetchNew s1.draws then .ok (s1.drawn, new, poison)
          else .ok (s1.drawn, old, w.poison)
    | _ => .ok (s, new, poison)

/-- The frame that a fetch's bytes come from: the one that the LLC line records, or that stage 2 gives (R350). -/
def State.fetchFrame (s : State) (loc : Loc) (secure : Bool) : Option Nat :=
  match loc with
  | .paged vf gpa =>
    if hostHalf gpa then none
    else
      match s.lineView vf (gpa / 64) false secure true with
      | .ok l => some l.frame
      | .error _ => none
  | _ => none

/-- What an instruction fetch buffer holds of a parcel, beside what memory holds now: until the flush of R62 is confirmed each fetch
sees the old bytes or the new ones (log 8). The world check is made of the frame that they came from (R407). -/
def State.bufferedPiece (s : State) (e : FetchEntry) (secure : Bool) : Except MemFault (State × Nat) :=
  let old := e.data.toNat
  if e.frame.any fun f => s.frameRefuses f secure then .error .world
  else
    match s.readBytes e.loc e.n secure true with
    | .ok (new, false) => if new = old then .ok (s, old) else .ok (s.drawn, if Config.fetchNew s.draws then new else old)
    | _ => .ok (s, old)

/-- `n` bytes, at offset `at_` of sg0, of the parcel at offset `off`: the checks of R28 and R30, stage 1, and the buffer or memory. -/
def State.fetchPiece (s : State) (c w : Nat) (sl : Slot) (off at_ n : Nat) : Except FetchFail (State × Nat) :=
  let tv : Word := BitVec.ofNat 64 off
  match s.reach c w sl (BitVec.ofNat 64 at_) n needFetch .fetch false tv with
  | .trap t => .error (.trap t.cause t.tval)
  | .fault _ => .error (.trap causePageFault tv)
  | .miss a => .error (.miss a off)
  | .ok g loc _ =>
    let s0 := match g.type with
      | .scratch | .cluster | .peer => s
      | _ => s.usedTlb c w sl.line.vfid.toNat (g.base + at_)
    match (s0.core c).fetch.find? fun e => e.loc = loc && e.n = n with
    | some e => (s0.bufferedPiece e sl.secure).mapError fun _ => .trap causeWorld tv
    | none =>
      match s0.readPiece loc n sl.secure with
      | .error .world => .error (.trap causeWorld tv)
      | .error .stage2 => .error (.stage2 loc off)
      | .ok (s1, p, poison) =>
        if poison then .error (.trap causeMemUncorr tv)
        else
          let k := s1.core c
          .ok (s1.setCore c { k with
            fetch := FetchEntry.mk loc n (BitVec.ofNat 16 p) (s0.fetchFrame loc sl.secure) :: k.fetch }, p)

/-- One parcel at an offset of sg0: the checks of R28 and R30 with n = 2 on the whole, then its bytes, one after the other where it
straddles a word, as it may where the base of sg0 is odd (R27, R60, R61). -/
def State.fetchParcel (s : State) (c w : Nat) (sl : Slot) (off : Nat) : Except FetchFail (State × Parcel) :=
  let tv : Word := BitVec.ofNat 64 off
  if ((sl.seg 0).base + off) % 8 ≠ 7 then (s.fetchPiece c w sl off off 2).map fun r => (r.1, BitVec.ofNat 16 r.2)
  else
    match s.segCheck c sl.line.vfid.toNat sl.segs tv 2 needFetch false tv with
    | .error t => .error (.trap t.cause t.tval)
    | .ok _ =>
      match s.fetchPiece c w sl off off 1 with
      | .error e => .error e
      | .ok (s1, lo) =>
        (s1.fetchPiece c w sl off (off + 1) 1).map fun r => (r.1, BitVec.ofNat 16 (lo + 256 * r.2))

/-! ## A chain -/

/-- A fetched chain. -/
inductive Fetched where
  | instr (i : Instr) (s : State)
  | bad (f : DecodeFail) (s : State)
  | miss (a off : Nat) (parcels : List Parcel) (s : State)
  | stage2 (loc : Loc) (off : Nat) (parcels : List Parcel) (s : State)
  deriving DecidableEq, Repr

/-- Fetches and decodes parcel by parcel, in the order of R71 (an offset past 2^48 fails the limit check of its parcel). -/
def State.fetchFrom (s : State) (c w : Nat) (sl : Slot) (d : DecState) (got : List Parcel) (off : Nat) : Nat → Fetched
  | 0 => .bad (.chain got) s
  | n + 1 =>
    let failed (e : FetchFail) : Fetched :=
      match e with
      | .trap cause tv => .bad (.fetch cause tv got) s
      | .miss a o => .miss a o got s
      | .stage2 l o => .stage2 l o got s
    if 2 ^ 48 ≤ off then failed (.trap causeSegLimit (BitVec.ofNat 64 off))
    else
      match s.fetchParcel c w sl off with
      | .error e => failed e
      | .ok (s1, p) =>
        match decodeParcel d p with
        | .more d' => s1.fetchFrom c w sl d' (got ++ [p]) (off + 2) n
        | .done i => .instr i s1
        | .reject _ => .bad (.chain (got ++ [p])) s1

/-- The instruction at pc. -/
def State.fetchInstr (s : State) (c w : Nat) (sl : Slot) : Fetched :=
  s.fetchFrom c w sl DecState.start [] sl.line.pc.toNat 6

/-- Parcels of a failed chain. -/
def failedParcels : DecodeFail → List Parcel
  | .fetch _ _ ps => ps
  | .chain ps => ps

/-- The linear address of a parcel's byte that stage 1 refuses: the second of one that straddles a page whose first byte passes. -/
def State.faultedAt (s : State) (sl : Slot) (off : Nat) : Nat :=
  let a := (sl.seg 0).base + off
  if a % 4096 ≠ 4095 then a
  else
    match s.stage1 s.run.1 s.run.2 sl.line.vfid.toNat sl.line.supervisor a .fetch with
    | .fault => a
    | _ => a + 1

/-- A chain that is no instruction (R61, R71): the trap of its first failing check; a stage-1 fault is an upcall of access
kind fetch (R287). -/
def execIllegalEncoding (f : DecodeFail) (s : State) : Out :=
  withCur s fun sl =>
    let tinfo := tinfoOfChain (failedParcels f)
    match f with
    | .chain ps => .next (s.takeTrap s.run.1 s.run.2 sl causeIllegal (packParcels ps) tinfo (accOfChain ps))
    | .fetch cause tv _ =>
      if cause = causePageFault then
        .next (s.pageFault s.run.1 s.run.2 sl tv tinfo .fetch (s.faultedAt sl tv.toNat))
      else .next (s.takeTrap s.run.1 s.run.2 sl cause tv tinfo (Access.fetch).code)

/-- A fetch that misses the micro-TLB waits XLATE with pc at the instruction (R347). -/
def fetchMiss (s : State) (sl : Slot) (a off : Nat) (got : List Parcel) : Out :=
  missOut s sl (tinfoOfChain got) (BitVec.ofNat 64 off) a .fetch

/-- A fetch that stage 2 refuses waits XLATE for the hypervisor (R292). -/
def fetchStage2 (s : State) (sl : Slot) (loc : Loc) (off : Nat) (got : List Parcel) : Out :=
  let a := (sl.seg 0).base + off
  let s1 := waitSlot s sl .xlate (argLinear28 (if a % 4096 = 4095 && loc.pos % 4096 = 0 then a + 1 else a))
  .next (s1.request sl.line.vfid.toNat (loc.pos / 4096) .fetch (.wait sl.who) (BitVec.ofNat 64 off) (tinfoOfChain got))

/-! ## Before the instruction (R26, R293, R330) -/

/-- The context loads its segment registers, if they are stale. -/
def State.loadSegs (s : State) (sl : Slot) : Except Nat Slot :=
  if sl.segsLoaded then .ok sl
  else
    match s.loadSet sl.line.vfid.toNat sl.line.sset.toNat with
    | .error a => .error a
    | .ok l => .ok { sl with segs := l, segsLoaded := true }

/-- The reads of a segment set, counted at their slices (R374, R381). -/
def State.readSet (s : State) (sl : Slot) : State :=
  let x := s.vf sl.line.vfid.toNat
  let set := sl.line.sset.toNat
  if x.sstlen ≤ set then s
  else s.touchAll sl.line.vfid.toNat [x.sstbase + 128 * set, x.sstbase + 128 * set + 64] false

/-- Those of a line that has yet to load its set. -/
def State.touchSet (s : State) (sl : Slot) : State := if sl.segsLoaded then s else s.readSet sl

/-- A segment set that stage 2 does not reach: the context waits XLATE for the hypervisor. No linear address and no pointer exist
here: the argument of the wait is bits [47:20] of the descriptor's guest-physical address, tinfo is 0, and a fatal answer's tval is
the context's pc: DESIGN CHOICE (log 90). -/
def segsStage2 (s : State) (sl : Slot) (a : Nat) : Out :=
  let s1 := waitSlot s sl .xlate (argLinear28 a)
  .next (s1.request sl.line.vfid.toNat (a / 4096) .read (.wait sl.who) (sl.line.pc.setWidth 64) 0)

/-- A context takes its pending WATCH: the trap WATCH before its next instruction (R293). -/
def State.takeWatch (s : State) (c w : Nat) (sl : Slot) (v i : Nat) (x : Ctx) (tval : Word) : State :=
  (s.setCtx v i { x with watch := none }).takeTrap c w sl causeWatch tval 0 0

/-- What a slot's boundary brings before an instruction: retirement of an ended context, or a pending WATCH. -/
def State.boundary (s : State) (c w : Nat) (sl : Slot) : Option State :=
  match sl.who with
  | .handler _ _ _ _ => none
  | .ctx v i =>
    match s.ctx? v i with
    | none => none
    | some x =>
      if x.ended then some (s.retireEnded v i)
      else
        match x.watch with
        | some tval => some (s.takeWatch c w sl v i x tval)
        | none => none

/-! ## Issue -/

/-- An issue counts: in its RCB (R330) and as event 0x0010 (R381); the way was issued from in this cycle. -/
def State.prepare (s : State) (c w : Nat) (sl : Slot) : State :=
  let s1 := s.putSlot c w { sl with lastIssue := s.cycle, issued := true }
  let s2 := { s1 with run := (c, w) }.count sl.line.vfid.toNat 0x10 1
  match s2.rcb? sl.line.vfid.toNat sl.rcb with
  | none => s2
  | some r => (s2.putRcb { r with used := r.used + 1 }).rcbWrite r.vf r.addr 15 (BitVec.ofNat 64 (r.used + 1))

/-- Whether every access that a context made on another core is performed at package scope (R273). -/
def State.settledElsewhere (s : State) (c : Nat) (w : Who) : Bool := (s.ownElsewhere c w).all Posted.adaptive

/-- A context that the slot table may select (R338): READY, its latency elapsed, of the resident VF (a handler runs to its
end), in a way that cl1lim leaves it (R312) on a core that a SPLIT has not taken from its partition (R368), its accesses on an
earlier core performed (R273). A line of the outgoing VF that
a partial command pins issues nothing more: DESIGN CHOICE (log 91). -/
def State.issuable (s : State) (c w : Nat) (sl : Slot) : Bool :=
  let k := s.core c
  sl.line.wt = .ready && sl.held.isNone && sl.readyAt ≤ s.coreCycle c
    && (60 ≤ w || (w < k.ordinary && k.resident = some sl.line.vfid.toNat
      && inNode (s.nodeOf sl.line.vfid.toNat) (clusterOf c)))
    && s.settledElsewhere c sl.who

end Sys2Proof.Machine
end

