-- ==== Sys2Proof/Machine/Float.lean ====
section
/-! DEFINITION. Float: the page-1 instructions of 05_isa_float_tile.md, R113 to R122. -/
namespace Sys2Proof.Machine

/-- Bits, with flags. -/
abbrev Rounded := Nat × BitVec 16

/-- A source register's bits in a format (R113). -/
def fbits (f : Ieee) (w : Word) : Nat := w.toNat % 2 ^ f.width

/-- fcsr.rm as the rounding functions take it. -/
def Line.rmode (l : Line) : Nat := l.rm.toNat

/-- Writes a result of a page-1 instruction with its flags: zeros above it (R113, R114). -/
def Line.putFloat (l : Line) (d : BitVec 3) (r : Rounded) : Line := (l.setReg d (BitVec.ofNat 64 r.1)).raise r.2

/-- A page-1 instruction with one source. -/
def funary (s : State) (i : Instr) (p : Pre) (f : Ieee) (d a : BitVec 3) (lat : Nat)
    (op : (rm : Nat) → (fz : Bool) → (bits : Nat) → Rounded) : Out :=
  lineOp s i p lat fun l => l.putFloat d (op l.rmode l.fz (fbits f (l.reg a)))

/-- A page-1 instruction with two sources, read as exact values. -/
def fbinary (s : State) (i : Instr) (p : Pre) (f : Ieee) (d a b : BitVec 3) (lat : Nat)
    (op : (rm : Nat) → (fz : Bool) → FVal → FVal → Rounded) : Out :=
  lineOp s i p lat fun l =>
    l.putFloat d (op l.rmode l.fz (f.decode l.fz (fbits f (l.reg a))) (f.decode l.fz (fbits f (l.reg b))))

/-- Delivers an exact result whose operation raised flags of its own. -/
def Ieee.finish (f : Ieee) (rm : Nat) (fz : Bool) (r : FVal × BitVec 16) : Rounded :=
  let (bits, fl) := f.deliver rm fz r.1
  (bits, r.2 ||| fl)

def Ieee.addOp (f : Ieee) (rm : Nat) (fz : Bool) (x y : FVal) : Rounded := f.finish rm fz (FVal.add rm x y)
def Ieee.subOp (f : Ieee) (rm : Nat) (fz : Bool) (x y : FVal) : Rounded := f.finish rm fz (FVal.add rm x y.neg)
def Ieee.mulOp (f : Ieee) (rm : Nat) (fz : Bool) (x y : FVal) : Rounded := f.finish rm fz (FVal.mul x y)

/-- x × y + z with one rounding (R116). -/
def Ieee.fmaOp (f : Ieee) (rm : Nat) (fz : Bool) (x y z : FVal) : Rounded :=
  let m := FVal.mul x y
  let r := FVal.add rm m.1 z
  f.finish rm fz (r.1, m.2 ||| r.2)

/-- fdiv: the narrower formats divide in f32 and round once more (R59). -/
def Ieee.divOp (f : Ieee) (rm : Nat) (fz : Bool) (x y : FVal) : Rounded :=
  if f = f32 then f32.div rm fz x y
  else
    let r := f32.div rm fz x y
    let q := f.deliver rm fz (f32.decode fz r.1)
    (q.1, r.2 ||| q.2)

/-- fmin and fmax (R117). -/
def Ieee.minMaxOp (f : Ieee) (max_ : Bool) (rm : Nat) (fz : Bool) (x y : FVal) : Rounded :=
  f.finish rm fz (minMax max_ x y)

/-- fsqrt on f32 bits. -/
def sqrt32 (rm : Nat) (fz : Bool) (bits : Nat) : Rounded := f32.sqrt rm fz (f32.decode fz bits)

/-- A special function in a format (R57 to R59). -/
def Ieee.special (f : Ieee) (op : Nat → Bool → Nat → Rounded) (rm : Nat) (fz : Bool) (bits : Nat) : Rounded :=
  viaF32 f rm fz (op rm fz) bits

/-- The one-hot class mask of R119. -/
def Ieee.classMask (f : Ieee) (bits : Nat) : Nat :=
  let neg := f.sign bits
  let e := f.expField bits
  let m := f.frac bits
  if e = 2 ^ f.ew - 1 then
    if m = 0 then (if neg then 1 else 128) else if m < 2 ^ (f.fw - 1) then 256 else 512
  else if e = 0 then
    if m = 0 then (if neg then 8 else 16) else if neg then 4 else 32
  else if neg then 2 else 64

/-- fadd (R116, R117). -/
def execFadd (p : Pre) (f : BitVec 2) (d a b : BitVec 3) (s : State) : Out :=
  fbinary s (.fadd p f d a b) p (fmtOf f) d a b latF (fmtOf f).addOp

/-- fsub (R116, R117). -/
def execFsub (p : Pre) (f : BitVec 2) (d a b : BitVec 3) (s : State) : Out :=
  fbinary s (.fsub p f d a b) p (fmtOf f) d a b latF (fmtOf f).subOp

/-- fmul (R116, R117). -/
def execFmul (p : Pre) (f : BitVec 2) (d a b : BitVec 3) (s : State) : Out :=
  fbinary s (.fmul p f d a b) p (fmtOf f) d a b latF (fmtOf f).mulOp

/-- fdiv (R116, R117). -/
def execFdiv (p : Pre) (f : BitVec 2) (d a b : BitVec 3) (s : State) : Out :=
  fbinary s (.fdiv p f d a b) p (fmtOf f) d a b latD (fmtOf f).divOp

/-- fmin (R116, R117). -/
def execFmin (p : Pre) (f : BitVec 2) (d a b : BitVec 3) (s : State) : Out :=
  fbinary s (.fmin p f d a b) p (fmtOf f) d a b latF ((fmtOf f).minMaxOp false)

/-- fmax (R116, R117). -/
def execFmax (p : Pre) (f : BitVec 2) (d a b : BitVec 3) (s : State) : Out :=
  fbinary s (.fmax p f d a b) p (fmtOf f) d a b latF ((fmtOf f).minMaxOp true)

/-- fma (R116): g[d] is also the addend. -/
def execFma (p : Pre) (f : BitVec 2) (d a b : BitVec 3) (s : State) : Out :=
  lineOp s (.fma p f d a b) p latF fun l =>
    let g := fmtOf f
    let val (r : BitVec 3) : FVal := g.decode l.fz (fbits g (l.reg r))
    l.putFloat d (g.fmaOp l.rmode l.fz (val a) (val b) (val d))

/-- fabs (R118): a bit operation. -/
def execFabs (p : Pre) (f : BitVec 2) (d a : BitVec 3) (s : State) : Out :=
  funary s (.fabs p f d a) p (fmtOf f) d a latA fun _ _ x => (x % 2 ^ ((fmtOf f).width - 1), 0)

/-- fneg (R118): a bit operation. -/
def execFneg (p : Pre) (f : BitVec 2) (d a : BitVec 3) (s : State) : Out :=
  funary s (.fneg p f d a) p (fmtOf f) d a latA fun _ _ x =>
    ((x + 2 ^ ((fmtOf f).width - 1)) % 2 ^ (fmtOf f).width, 0)

/-- fclass (R119). -/
def execFclass (p : Pre) (f : BitVec 2) (d a : BitVec 3) (s : State) : Out :=
  funary s (.fclass p f d a) p (fmtOf f) d a latA fun _ _ x => ((fmtOf f).classMask x, 0)

/-- fsqrt (R118, R57 to R59). -/
def execFsqrt (p : Pre) (f : BitVec 2) (d a : BitVec 3) (s : State) : Out :=
  funary s (.fsqrt p f d a) p (fmtOf f) d a latD ((fmtOf f).special sqrt32)

/-- exp2 (R118, R57 to R59). -/
def execExp2 (p : Pre) (f : BitVec 2) (d a : BitVec 3) (s : State) : Out :=
  funary s (.exp2 p f d a) p (fmtOf f) d a latS ((fmtOf f).special exp2_32)

/-- log2 (R118, R57 to R59). -/
def execLog2 (p : Pre) (f : BitVec 2) (d a : BitVec 3) (s : State) : Out :=
  funary s (.log2 p f d a) p (fmtOf f) d a latS ((fmtOf f).special log2_32)

/-- rcp (R118, R57 to R59). -/
def execRcp (p : Pre) (f : BitVec 2) (d a : BitVec 3) (s : State) : Out :=
  funary s (.rcp p f d a) p (fmtOf f) d a latS ((fmtOf f).special rcp32)

/-- rsqrt (R118, R57 to R59). -/
def execRsqrt (p : Pre) (f : BitVec 2) (d a : BitVec 3) (s : State) : Out :=
  funary s (.rsqrt p f d a) p (fmtOf f) d a latS ((fmtOf f).special rsqrt32)

/-- An fcmp relation (R120): with a NaN it is 0 but for un; NV for any NaN in lt and le, else for a signalling one. -/
def fcmpOp (s : State) (i : Instr) (p : Pre) (t : BitVec 5) (f : Ieee) (a b : BitVec 3) (quiet : Bool)
    (rel : FVal → FVal → Bool) : Out :=
  lineOp s i p latA fun l =>
    let x := f.decode l.fz (fbits f (l.reg a))
    let y := f.decode l.fz (fbits f (l.reg b))
    let nv := if quiet then x.signals || y.signals else x.isNaN || y.isNaN
    (l.setPred t (rel x y)).raise (flagIf nv flagNV)

def FVal.unordered (x y : FVal) : Bool := x.isNaN || y.isNaN

/-- fcmp.eq (R120). -/
def execFcmpEq (p : Pre) (q f : BitVec 2) (d a b : BitVec 3) (s : State) : Out :=
  fcmpOp s (.fcmpEq p q f d a b) p (q ++ d) (fmtOf f) a b true fun x y => !x.unordered y && x.eqv y

/-- fcmp.lt (R120). -/
def execFcmpLt (p : Pre) (q f : BitVec 2) (d a b : BitVec 3) (s : State) : Out :=
  fcmpOp s (.fcmpLt p q f d a b) p (q ++ d) (fmtOf f) a b false fun x y => !x.unordered y && x.lt y

/-- fcmp.le (R120). -/
def execFcmpLe (p : Pre) (q f : BitVec 2) (d a b : BitVec 3) (s : State) : Out :=
  fcmpOp s (.fcmpLe p q f d a b) p (q ++ d) (fmtOf f) a b false fun x y => !x.unordered y && !y.lt x

/-- fcmp.un (R120). -/
def execFcmpUn (p : Pre) (q f : BitVec 2) (d a b : BitVec 3) (s : State) : Out :=
  fcmpOp s (.fcmpUn p q f d a b) p (q ++ d) (fmtOf f) a b true fun x y => x.unordered y

/-- The format that an fcvt tag names (R75). -/
def tagFmt (t : BitVec 4) : Fmt :=
  match t.toNat with
  | 0 => intI 32
  | 1 => intI 64
  | 2 => intN 32
  | 3 => intN 64
  | 4 => .float f32
  | 5 => .float f16
  | 6 => .float bf16
  | 7 => .log false
  | _ => .log true

/-- A conversion of register bits (R121): the register value and the flags. -/
def convert (src dst : Fmt) (rm : Nat) (fz : Bool) (scale : Int) (bits : Nat) : Word × BitVec 16 :=
  let x := src.read fz scale bits
  match x, dst with
  | .int v, .int t =>
    let (r, fl) := t.clamp v
    (BitVec.ofInt 64 r, fl)
  | _, .int t =>
    let (r, fl) := t.fromFloat rm x.val
    (BitVec.ofInt 64 r, fl)
  | _, _ =>
    let (r, fl) := dst.deliver rm fz scale x.val
    (BitVec.ofNat 64 r, fl ||| flagIf x.val.signals flagNV)

/-- The scale of an fcvt: its IMM payload, signed (R67). -/
def fcvtScale (p : Pre) : Int :=
  match p.imms with
  | [] => 0
  | x :: _ => x.toInt

/-- fcvt (R121). -/
def execFcvt (p : Pre) (src : BitVec 4) (d a : BitVec 3) (dst : BitVec 4) (s : State) : Out :=
  lineOp s (.fcvt p src d a dst) p latF fun l =>
    let (r, fl) := convert (tagFmt src) (tagFmt dst) l.rmode l.fz (fcvtScale p) (l.reg a).toNat
    (l.setReg d r).raise fl

end Sys2Proof.Machine
end

