-- ==== Sys2Proof/Machine/Handles.lean ====
section
/-! DEFINITION. Handles: runs of on-chip bytes, the descriptors of handles (R214, R218), tiles and their elements (R46, R123)
and ring counts (R219, R220), as page-3 and page-4 instructions and the engines use them (08_tiles_rings.md). -/
namespace Sys2Proof.Machine

/-! ## Runs of on-chip bytes -/

/-- The memory key of an on-chip place; a paged place has none. -/
def Loc.key : Loc → Nat
  | .scratch c p => scratchKey c p
  | .cluster k p => clusterKey k p
  | .paged _ _ => 0

/-- The bytes of runs as a little-endian number. -/
def State.readRuns (s : State) : List (Loc × Nat) → Nat
  | [] => 0
  | (l, n) :: t => s.mem.read l.key n + 256 ^ n * s.readRuns t

/-- The distance from the start of the runs back or forth to the first poisoned word they touch. -/
def State.poisonIn (s : State) (rs : List (Loc × Nat)) : Option Int :=
  (rs.foldl (fun (acc : Option Int × Nat) r =>
    let key := r.1.key
    let hit := (List.range ((r.2 + 7) / 8 + 1)).find? fun j => key / 8 + j ≤ (key + r.2 - 1) / 8 && r.2 ≠ 0
      && s.mem.poison.contains (key / 8 + j)
    (acc.1.or (hit.map fun j => (acc.2 : Int) + 8 * j - (key % 8 : Nat)), acc.2 + r.2)) (none, 0)).1

/-- Writes `n` bytes of a value from a place, word by word: a whole word clears its poison, a part of a poisoned word is
discarded and counted (R141, R394). DESIGN CHOICE (log 94): the manual does not say whether the containers of a row that
cover a whole poisoned word, none of them 8 bytes wide (R129, R261), clear its poison; here they do. -/
def State.storeRun (s : State) (v : Nat) (loc : Loc) (n val : Nat) (secure : Bool) : Nat → State
  | 0 => s
  | k + 1 =>
    if n = 0 then s
    else
      let m := Nat.min n (8 - loc.off)
      (s.storeBytes v loc m (val % 256 ^ m) secure).storeRun v (loc.plus m) (n - m) (val / 256 ^ m) secure k

/-- Writes a value over runs. -/
def State.writeRuns (s : State) (v : Nat) : List (Loc × Nat) → Nat → State
  | [], _ => s
  | (l, n) :: t, val => (s.storeRun v l n val true (n / 8 + 2)).writeRuns v t (val / 256 ^ n)

/-! ## Descriptors (R214, R218) -/

/-- An entry of a core's handle table; an undefined entry reads as 0 (R189). -/
def Core.handle (c : Core) (h : BitVec 8) : Word × Word := c.handles.get h.toNat (0, 0)

/-- A handle-table entry written; the undefined kind clears it (R189). -/
def Core.setHandle (c : Core) (h : BitVec 8) (lo hi : Word) : Core :=
  { c with handles := if lo.extractLsb' 0 2 == 0 then c.handles.erase h.toNat else c.handles.set h.toNat (lo, hi) }

/-- A tile descriptor. -/
structure Tile where
  fmt : Nat
  scale : Int
  rows : Nat
  cols : Nat
  stride : Nat
  base : Word
  deriving DecidableEq, Repr

/-- The bytes of an element of a format code; l6 packs four in three (R46). -/
def fmtBytes (f : Nat) : Nat :=
  match f with
  | 0 | 8 | 9 => 4
  | 1 | 2 | 7 | 10 => 2
  | _ => 1

/-- The formats of R214. -/
def fmtOfCode (f : Nat) : Fmt :=
  match f with
  | 0 => .float f32
  | 1 => .float f16
  | 2 => .float bf16
  | 3 => .log false
  | 4 => .log true
  | 5 => intI 8
  | 6 => intN 8
  | 7 => intI 16
  | 8 => intI 32
  | 9 => intN 32
  | _ => intN 16

def fmtL6 : Nat := 4

/-- Bytes of a row's elements (R215). -/
def rowBytes (fmt cols : Nat) : Nat := if fmt = fmtL6 then 3 * ((cols + 3) / 4) else cols * fmtBytes fmt

def Tile.rowLen (t : Tile) : Nat := rowBytes t.fmt t.cols
def Tile.elems (t : Tile) : Nat := t.rows * t.cols

/-- From the base to the last byte of the last row (R124). -/
def Tile.extent (t : Tile) : Nat := (t.rows - 1) * t.stride + t.rowLen

/-- A valid TILE (R214, R215). -/
def tileOf (e : Word × Word) : Option Tile :=
  let lo := e.1
  let t := Tile.mk (lo.extractLsb' 2 4).toNat (lo.extractLsb' 8 8).toInt (lo.extractLsb' 16 13).toNat
    (lo.extractLsb' 32 13).toNat (lo.extractLsb' 48 16).toNat e.2
  if lo.extractLsb' 0 2 != 1 || 11 ≤ t.fmt || lo.extractLsb' 6 2 != 0 || lo.extractLsb' 29 3 != 0
      || lo.extractLsb' 45 3 != 0 || t.rows = 0 || 4096 < t.rows || t.cols = 0 || 4096 < t.cols
      || t.stride % fmtBytes t.fmt ≠ 0 || (1 < t.rows && t.stride < t.rowLen) then none
  else some t

/-- A ring descriptor. -/
structure Ring where
  slots : Nat
  sstride : Nat
  p : Nat
  c : Nat
  init : Bool
  base : Word
  deriving DecidableEq, Repr

/-- A valid RING (R218). -/
def ringOf (e : Word × Word) : Option Ring :=
  let lo := e.1
  let r := Ring.mk ((lo.extractLsb' 8 4).toNat + 1) (lo.extractLsb' 16 16).toNat (lo.extractLsb' 32 16).toNat
    (lo.extractLsb' 48 16).toNat (lo.getLsbD 6) e.2
  if lo.extractLsb' 0 2 != 2 || lo.extractLsb' 2 4 != 0 || lo.getLsbD 7 || lo.extractLsb' 12 4 != 0
      || r.sstride = 0 || r.sstride % 8 ≠ 0 || e.2.extractLsb' 0 4 != 0
      || (r.init && r.slots < (r.p + 65536 - r.c) % 65536) then none
  else some r

/-! ## Elements (R46, R123) -/

/-- The bits of element `j` in the bytes of a row. -/
def elemBits (fmt row j : Nat) : Nat :=
  if fmt = fmtL6 then row / 2 ^ (24 * (j / 4) + 6 * (j % 4)) % 64
  else row / 256 ^ (j * fmtBytes fmt) % 256 ^ fmtBytes fmt

/-- The bytes of a row that holds the given bits; the unused elements of a last l6 group are 0. -/
def rowOfBits (fmt : Nat) (bits : List Nat) : Nat :=
  (bits.foldl (fun (acc : Nat × Nat) b =>
    let at_ := if fmt = fmtL6 then 2 ^ (24 * (acc.2 / 4) + 6 * (acc.2 % 4)) else 256 ^ (acc.2 * fmtBytes fmt)
    let w := if fmt = fmtL6 then 64 else 256 ^ fmtBytes fmt
    (acc.1 + b % w * at_, acc.2 + 1)) (0, 0)).1

/-- A tile at a place: the segment its base selects and who uses it. -/
structure Placed where
  core : Nat
  vf : Nat
  seg : Seg
  off : Nat
  tile : Tile
  deriving DecidableEq, Repr

/-- The runs of row `i` of a placed tile, and of its whole extent. -/
def State.rowRuns (s : State) (p : Placed) (i : Nat) : List (Loc × Nat) :=
  s.runsOf p.core p.vf p.seg (p.off + i * p.tile.stride) p.tile.rowLen
def State.extentRuns (s : State) (p : Placed) : List (Loc × Nat) :=
  s.runsOf p.core p.vf p.seg p.off p.tile.extent

/-- The bits of row `i`, and of every element in row-major order. -/
def State.rowBits (s : State) (p : Placed) (i : Nat) : List Nat :=
  let row := s.readRuns (s.rowRuns p i)
  (List.range p.tile.cols).map fun j => elemBits p.tile.fmt row j
def State.tileBits (s : State) (p : Placed) : List Nat := (List.range p.tile.rows).flatMap fun i => s.rowBits p i

/-- Offset from the row's start of the container of element `j`, and its bytes. -/
def containerOf (fmt j : Nat) : Nat × Nat := if fmt = fmtL6 then (3 * (j / 4), 3) else (j * fmtBytes fmt, fmtBytes fmt)

/-- The pointer to the first poisoned word of row `i`'s elements. -/
def State.rowPoison (s : State) (p : Placed) (i : Nat) : Option Word :=
  (s.poisonIn (s.rowRuns p i)).map fun d => p.tile.base + BitVec.ofInt 64 (((i * p.tile.stride : Nat) : Int) + d)

/-- The pointer to the first poisoned word of a source tile in element order (R129). -/
def State.tilePoison (s : State) (p : Placed) : Option Word := (List.range p.tile.rows).findSome? fun i => s.rowPoison p i

/-- Writes row `i`. -/
def State.writeRow (s : State) (p : Placed) (i : Nat) (bits : List Nat) : State :=
  s.writeRuns p.vf (s.rowRuns p i) (rowOfBits p.tile.fmt bits)

/-- Writes the rows of a tile from `i`, its elements in row-major order. -/
def State.writeRows (s : State) (p : Placed) (i : Nat) (bits : List Nat) : Nat → State
  | 0 => s
  | n + 1 => (s.writeRow p i (bits.take p.tile.cols)).writeRows p (i + 1) (bits.drop p.tile.cols) n

def State.writeTile (s : State) (p : Placed) (bits : List Nat) : State := s.writeRows p 0 bits p.tile.rows

/-! ## Order with the context's own posted writes (R129, R265) -/

/-- Whether a posted entry lies in a bank that a run reaches. -/
def runInBank (r : Loc × Nat) (b : Nat × Nat × Nat) : Bool :=
  match r.1 with
  | .scratch c p =>
    b.1 = 0 && b.2.1 = c && (List.range (Nat.min 16 ((p + r.2 - 1) / 64 - p / 64 + 1))).any fun j => (p / 64 + j) % 16 = b.2.2
  | .cluster k p => b.1 = 1 && b.2.1 = k && p / 65536 ≤ b.2.2 && b.2.2 ≤ (p + r.2 - 1) / 65536
  | .paged _ _ => false

/-- Whether a context has a posted write that R265 puts before an access to these runs. -/
def State.runsHeld (s : State) (w : Who) (rs : List (Loc × Nat)) : Bool :=
  s.cores.any fun e => e.2.stores.any fun x => x.who = w && x.writes && rs.any fun r =>
    x.loc.overlaps x.n r.1 r.2 || (match x.bank with
      | some b => runInBank r b
      | none => false)

/-! ## Ring counts (R187, R219, R220) -/

/-- The counts of a ring header's doublewords: P and pidx, or C and cidx. -/
def ringCount (w : Word) : Nat := (w.extractLsb' 0 16).toNat
def ringIdx (w : Word) : Nat := (w.extractLsb' 16 4).toNat
def ringDw (count idx : Nat) : Word := BitVec.ofNat 64 (count % 65536 + 65536 * (idx % 16))

/-- A count and its index moved on by n (R220). -/
def ringMove (w : Word) (n slots : Nat) : Word := ringDw (ringCount w + n) ((ringIdx w + n) % slots)

/-- The two doublewords of a ring header at a place (R219); R30 aligns its offset, not its place (R218). -/
def State.header (s : State) (loc : Loc) : Word × Word :=
  (BitVec.ofNat 64 (s.readRuns [(loc, 8)]), BitVec.ofNat 64 (s.readRuns [(loc.plus 8, 8)]))

/-- A header's doubleword `k` written. -/
def State.putHeader (s : State) (v : Nat) (loc : Loc) (k : Nat) (w : Word) : State :=
  s.writeRuns v [(loc.plus (8 * k), 8)] w.toNat

/-- The pointer to the first poisoned word of a header. -/
def State.headerPoison (s : State) (base : Word) (loc : Loc) : Option Word :=
  (s.poisonIn [(loc, 16)]).map fun d => base + BitVec.ofInt 64 d

def ringFilled (p c : Word) : Nat := (ringCount p + 65536 - ringCount c) % 65536

end Sys2Proof.Machine
end

