-- ==== Sys2Proof/Machine/Walk.lean ====
section
/-! DEFINITION. Walk: the cluster walker (17_translation.md, R342 to R349), the classes of granules (18, R359 to R361) and the
order of a release before what it publishes (R266). -/
namespace Sys2Proof.Machine

/-! ## One walk -/

/-- What a walk comes to. -/
inductive Walked where
  /-- the translation, as a micro-TLB entry of way 0 -/
  | done (s : State) (e : TlbEntry)
  | fault
  /-- stage 2 does not reach a table entry: its guest page, and the access to it -/
  | stage2 (gpage : Nat) (acc : Access)
  /-- it starts a reclassification of the granule -/
  | wait (s : State)
  /-- its leaf entry has changed: the walk starts again -/
  | again (s : State)
  /-- a reclassification of the granule is under way -/
  | held
  deriving DecidableEq, Repr

/-- Whether a granule is being reclassified (R361). -/
def State.marked (s : State) (v gpage : Nat) : Bool :=
  s.clusters.any fun k => k.2.reclass.any fun r => r.vf = v && r.gpage = gpage

/-- Whether some core cache holds a line of a granule (R360). -/
def State.granuleHeld (s : State) (v gpage : Nat) : Bool :=
  s.cores.any fun e => e.2.cache.any fun x => x.vf = v && x.line / 64 = gpage

/-- Bits of a leaf entry: class and owner replaced (R343). -/
def leafClass (e : Word) (cls owner : Nat) : Word :=
  (e &&& 0xF000FFFFFFFFFCFF) ||| BitVec.ofNat 64 (cls * 256 + owner * 2 ^ 48)

/-- A 4 KiB leaf after a translation by a core: a is set, and an unclassified granule gets its class (R344, R360). -/
def State.leafAfter (s : State) (v lc : Nat) (e : Word) : Word :=
  let p := Pte.ofWord e
  let e1 := e ||| 0x20
  if p.cls ≠ 0 then e1
  else if s.granuleHeld v p.ppn then leafClass e1 2 0
  else leafClass e1 1 lc

/-- The entry that a leaf gives a core (R346). -/
def leafTlb (v lc linear level : Nat) (e : Word) : TlbEntry :=
  let p := Pte.ofWord e
  let pages := 2 ^ (9 * (level - 1))
  TlbEntry.mk 0 v (linear / 4096 / pages * pages) (level - 1) p.ppn p.r p.w p.x p.u p.d
    (level = 1 && p.cls = 1 && p.owner = lc)

/-- A leaf that passed its rights: a, d and the class are written in one compare-and-swap at the entry's slice (R344), where
they change. The swap fails where the slice now holds another entry, that of a frame brought for the write: the walk starts
again. -/
def State.useLeaf (s : State) (v lc linear level entry : Nat) (e : Word) (writes : Bool) : Walked :=
  let e1 := if level = 1 then s.leafAfter v lc e else e
  let e2 := if writes then e1 ||| 0x40 else e1
  if e2 = e then .done s (leafTlb v lc linear level e)
  else
    match s.word (.paged v entry) true (s.vf v).sec with
    | .error .stage2 => .stage2 (entry / 4096) .write
    | .error .world => .fault
    | .ok w =>
      let s1 := s.touchLlc v entry true false
      if w.data ≠ e || w.poison then
        match s1.lineView v (entry / 64) true (s.vf v).sec with
        | .error _ => .again s1
        | .ok l => .again (s1.keepLine l false)
      else .done (s1.performWord (.paged v entry) 8 w { w with data := e2 } (s.vf v).sec) (leafTlb v lc linear level e2)

/-- The deepest table that a walker cache holds for a linear address (R341). -/
def Cluster.tableFor (k : Cluster) (v linear : Nat) : Option TableEntry :=
  [1, 2, 3].findSome? fun level =>
    k.tables.find? fun e => e.vf = v && e.level = level && e.range = linear / 4096 / 2 ^ (9 * level)

/-- The tables that a walk read on its way from one at a level down to a leaf. -/
def State.tablesRead (s : State) (v table linear : Nat) : Nat → List TableEntry
  | 0 => []
  | level + 1 =>
    match s.word (.paged v (table + 8 * levelIndex (linear / 4096) (level + 1))) false (s.vf v).sec with
    | .ok w =>
      let e := Pte.ofWord w.data
      if e.leaf || e.bad (level + 1) || level = 0 then []
      else
        TableEntry.mk v level (linear / 4096 / 2 ^ (9 * level)) (e.ppn * 4096)
          :: s.tablesRead v (e.ppn * 4096) linear level
    | .error _ => []

/-- Where a walk starts: at the root, or where the walker cache still holds it at a deeper table, if the free value says so
(log 51). -/
def State.walkStart (s : State) (cl v linear : Nat) : State × Nat × Nat :=
  match (s.cluster cl).tableFor v linear with
  | none => (s, (s.vf v).s1root, 4)
  | some e => (s.drawn, if Config.walkerHit s.draws then (e.table, e.level) else ((s.vf v).s1root, 4))

/-- A walk that reached its leaf leaves the tables it read in the walker cache; one of a fault leaves none (R344). -/
def State.keepTables (s : State) (cl v table linear level : Nat) : State :=
  let k := s.cluster cl
  let new := s.tablesRead v table linear level
  let old := k.tables.filter fun x => !(new.any fun e => x.vf = e.vf && x.level = e.level && x.range = e.range)
  s.setCluster cl { k with tables := new ++ old }

/-- A walk for a core's access by the walker of cluster `cl` from a table at a level (R342 to R345, R360); `keep` says whether
it fills the walker cache. -/
def State.walkFrom (s : State) (cl v lc linear : Nat) (acc : Access) (sup keep : Bool) (table from_ : Nat) : Walked :=
  match s.s1Walk v table linear from_ with
  | .fault => .fault
  | .mem g => .stage2 g .read
  | .leaf entry e level =>
    let p := Pte.ofWord e
    if s.marked v p.ppn && level = 1 then .held
    else if !rightsAllow acc p.r p.w p.x || (!sup && !p.u) then .fault
    else if level = 1 && p.cls = 1 && p.owner ≠ lc then
      let k := s.cluster cl
      .wait (s.setCluster cl { k with reclass := k.reclass ++ [Reclass.mk v p.ppn entry p.owner] })
    else (if keep then s.keepTables cl v table linear from_ else s).useLeaf v lc linear level entry e acc.writes

/-- The addresses of the entries that a walk reads from a table at a level. -/
def State.entriesRead (s : State) (v table linear : Nat) : Nat → List Nat
  | 0 => []
  | level + 1 =>
    let at_ := table + 8 * levelIndex (linear / 4096) (level + 1)
    if hostHalf table then []
    else
      match s.word (.paged v at_) false (s.vf v).sec with
      | .error _ => []
      | .ok w =>
        let e := Pte.ofWord w.data
        if w.poison || e.bad (level + 1) || e.leaf then [at_] else at_ :: s.entriesRead v (e.ppn * 4096) linear level

/-- The reads of a walk, at the LLC, counted at their slices (R342, R374, R381). -/
def State.touchWalk (s : State) (v table linear level : Nat) : State := s.touchAll v (s.entriesRead v table linear level) false

/-- A walk for a core's access by the walker of cluster `cl`. With s1en = 0 there is none (R341). -/
def State.walk (s : State) (cl v lc linear : Nat) (acc : Access) (sup : Bool) : Walked :=
  let (s1, table, level) := s.walkStart cl v linear
  (s1.touchWalk v table linear level).walkFrom cl v lc linear acc sup true table level

/-! ## Reclassification (R361) -/

/-- The first entry of a core's store queue that writes a granule. -/
def State.granuleEntry (s : State) (c v gpage : Nat) : Option Nat :=
  (s.core c).stores.findIdx? fun e => e.writes && (match e.loc with
    | .paged v' g => v' = v && g / 4096 = gpage
    | _ => false)

/-- Step 4: the granule's lines are written back and lose priv, as do the core's fills of it on their way (R359); their slices set them to kind 2 with the owner core as
their only sharer. -/
def State.shareGranule (s : State) (c v gpage : Nat) : State :=
  let here (x : CacheLine) : Bool := x.vf = v && x.line / 64 = gpage
  let s1 := ((s.core c).cache.filter here).foldl (fun s x => s.writeBackWords c v x.line 0xFFFF) s
  let held := ((s1.core c).cache.filter here).map CacheLine.line
  let k := s1.core c
  let s2 := s1.setCore c { k with cache := k.cache.map fun x => if here x then { x with priv := false } else x }
  let onGranule (f : Fill) : Bool := f.core = c && match f.loc with
    | .paged x g => x = v && g / 4096 = gpage
    | _ => false
  { s2 with
    fills := s2.fills.map fun f => if onGranule f then { f with priv := false } else f
    llc := s2.llc.map fun l =>
      if l.vf = v && l.line / 64 = gpage && l.dir.kind = 1 then
        { l with dir := if held.contains l.line then { Dir.empty with kind := 2, sharers := [s2.lcore v c] } else Dir.empty }
      else l }

/-- Step 2: the owner core drops its micro-TLB entries for the granule. -/
def State.dropGranule (s : State) (c v gpage : Nat) : State :=
  let k := s.core c
  s.setCore c { k with tlb := k.tlb.filter fun e => !(e.vf = v && e.gpage = gpage && e.size = 0) }

/-- Steps 4 and 5: the lines are shared, and the leaf entry says so, by a swap at its slice (R374, R381). -/
def State.reclassify (s : State) (r : Reclass) : State :=
  let s1 := s.shareGranule (s.pcore r.vf r.owner) r.vf r.gpage
  let s2 := s1.touchLlc r.vf r.entry true false
  match s2.gpaWord r.vf r.entry with
  | none => s2
  | some w =>
    let p := Pte.ofWord w.data
    if p.leaf && p.cls = 1 && p.owner = r.owner && p.ppn = r.gpage then
      s2.gpaWrite r.vf r.entry (leafClass w.data 2 0)
    else s2

/-- RECLASS `k` in the order of clusters and marks (R361): the owner core's entries for the granule go, its queued stores to
it are performed one after another, each when R265 and R266 let it, and then the granule is shared. -/
def execReclass (k : Nat) (s : State) : Out :=
  let all := s.clusters.flatMap fun c => c.2.reclass.map fun r => (c.1, r)
  match all[k]? with
  | none => .next s
  | some (cl, r) =>
    let c := s.pcore r.vf r.owner
    let s1 := s.dropGranule c r.vf r.gpage
    match s1.granuleEntry c r.vf r.gpage with
    | some n => .next (s1.performPosted c n)
    | none =>
      let s2 := s1.reclassify r
      let x := s2.cluster cl
      .next (s2.setCluster cl { x with reclass := x.reclass.erase r })

/-! ## Walks of contexts (R347, R349) -/

/-- The way in which an addressee's line now lies. -/
def State.wayOf (s : State) (w : Who) : Option (Nat × Nat) :=
  match w with
  | .ctx v i =>
    match s.placeOf v i with
    | some (.l1 c way) => some (c, way)
    | _ => none
  | .handler c way _ _ =>
    match s.slot? c (60 + way) with
    | some sl => if sl.who = w then some (c, 60 + way) else none
    | none => none

/-- A micro-TLB of 16 entries takes one in place of the least recently used; the list holds the most recent first (R346). -/
def State.fillTlb (s : State) (c way : Nat) (e : TlbEntry) : State :=
  let k := s.core c
  let same (x : TlbEntry) : Bool := x.way = way && x.vf = e.vf && x.lpage = e.lpage && x.size = e.size
  s.setCore c { k with tlb := ({ e with way := way } :: k.tlb.filter fun x => !same x).take 16 }

def State.dropWalk (s : State) (cl k : Nat) : State :=
  let x := s.cluster cl
  s.setCluster cl { x with walks := x.walks.eraseIdx k }

def State.setWalk (s : State) (cl k : Nat) (w : Walk) : State :=
  let x := s.cluster cl
  s.setCluster cl { x with walks := x.walks.set k w }

/-- A stage-1 fault of a walk reaches its line wherever it lies, if the line still waits for it (R287, R349). -/
def State.walkFault (s : State) (w : Walk) : State :=
  match s.whoLine w.who with
  | none => s
  | some l =>
    if l.wt ≠ .xlate then s
    else
      let l' := { l with wt := .ready, wtArg := 0 }
      match w.who with
      | .ctx v i => s.pageFaultLine v i l' w.tval w.tinfo w.access w.linear
      | .handler c way _ _ =>
        match s.slot? c (60 + way) with
        | none => s
        | some sl => s.pageFault c (60 + way) { sl with line := l' } w.tval w.tinfo w.access w.linear

/-- The walk of a requester ends with its translation: the entry goes to the way where the line now lies, unless a tlbinv
covered it or its VF has lost the core meanwhile, and the requester wakes (R347, R349). -/
def State.answerWalk (s : State) (w : Walk) (e : TlbEntry) : State :=
  let s1 := match s.wayOf w.who with
    | some (c, way) => if w.stale || w.switched || c ≠ w.core then s else s.fillTlb c way e
    | none => s
  { s1 with events := s1.events ++ [(w.who, .wake .xlate)] }

/-- Walk `k` of a cluster ends, from a table at a level (R342, R347); none where a reclassification holds it. The requesters of a
stale one that ends in a fault execute again (R349). -/
def State.endWalk (s : State) (cl k : Nat) (w : Walk) (table level : Nat) : Option State :=
  match s.walkFrom cl w.vf (s.lcore w.vf w.core) w.linear w.access w.supervisor (!w.stale) table level with
  | .fault =>
    let s1 := s.dropWalk cl k
    some (if w.stale then { s1 with events := s1.events ++ [(w.who, .wake .xlate)] } else s1.walkFault w)
  | .stage2 g acc =>
    some ((s.setWalk cl k { w with request := some s.nextTag }).request w.vf g acc (.walk w.who) w.tval w.tinfo)
  | .wait s1 => some (s1.setWalk cl k { w with held := true })
  | .again s1 => some (s1.setWalk cl k w)
  | .held => none
  | .done s1 e => some ((s1.dropWalk cl k).answerWalk w e)

/-- Whether two misses are one walk: on one page of one VF in one cluster (R349). -/
def Walk.joins (x w : Walk) : Bool := x.vf = w.vf && x.linear / 4096 = w.linear / 4096

/-- Ends the walks that joined one which has just ended, each requester by the same entries. -/
def State.endJoined (s : State) (cl : Nat) (w : Walk) (table level : Nat) : Nat → State
  | 0 => s
  | n + 1 =>
    match (s.cluster cl).walks.findIdx? (·.joins w) with
    | none => s
    | some k =>
      match (s.cluster cl).walks[k]? with
      | none => s
      | some x =>
        let s1 := (s.endWalk cl k x table level).getD s
        if (s1.cluster cl).walks.length < (s.cluster cl).walks.length then s1.endJoined cl w table level n else s1

/-- STAGE1_WALK (R342): one walk for every miss on its page (R349). One that a reclassification holds counts its table reads
once, and waits (R361). -/
def execStage1Walk (cl k : Nat) (s : State) : Out :=
  match (s.cluster cl).walks[k]? with
  | none => .next s
  | some w =>
    if w.request.isSome || ((s.cluster cl).walks.take k).any (·.joins w) then .next s
    else
      let n := (s.cluster cl).walks.length
      let (s0, table, level) := s.walkStart cl w.vf w.linear
      let read := if w.held then s0 else s0.touchWalk w.vf table w.linear level
      match read.endWalk cl k { w with held := false } table level with
      | none => .next (if w.held then s else read.setWalk cl k { w with held := true })
      | some s1 => .next (if (s1.cluster cl).walks.length < n then s1.endJoined cl w table level n else s1)

/-! ## What a release waits for (R266) -/

/-- Whether the posted entries of a context numbered below `age` are performed, its adaptive stores where asked. -/
def State.drainedBefore (s : State) (w : Who) (age : Nat) (adaptive : Bool) : Bool :=
  s.cores.all fun e => e.2.stores.all fun x => x.who ≠ w || age ≤ x.age || (x.adaptive && !adaptive)

end Sys2Proof.Machine
end

