-- ==== Sys2Proof/Machine/Engine.lean ====
section
/-! DEFINITION. Engine: what the six engines share (07_isa_engines_system.md, R163 to R176, R222): a command's fields, its
accesses, its end with arrival word and completion. -/
namespace Sys2Proof.Machine

/-- Bytes of the word that a filter writes through the output pointer of its YW.ATTACH (R379). -/
def outputBytes : Nat := 8

/-! ## A command's fields (R164) -/

def Cmd.dw (c : Cmd) (k : Nat) : Word := (c.dws[k]?).getD 0
def Cmd.bits (c : Cmd) (k lo n : Nat) : Nat := (c.dw k).toNat / 2 ^ lo % 2 ^ n
def Cmd.flag (c : Cmd) (k b : Nat) : Bool := (c.dw k).getLsbD b
def Cmd.opcode (c : Cmd) : Nat := c.bits 0 0 8
def Cmd.length (c : Cmd) : Nat := c.bits 0 8 8
def Cmd.sequence (c : Cmd) : Nat := c.bits 0 16 16
def Cmd.cap (c : Cmd) : Nat := c.bits 0 32 32

/-- The descriptor of a handle named by the command, as it was when it was sent (R174). -/
def Cmd.handle (c : Cmd) (h : Nat) : Word × Word := ((c.handles.find? fun e => e.1 = h).map Prod.snd).getD (0, 0)

/-- The ports. -/
def portMm : Nat := 0
def portSl : Nat := 1
def portFl : Nat := 2
def portBo : Nat := 3
def portQn : Nat := 4
def portYw : Nat := 5

/-- The length that an engine lists for an opcode (R178 to R186); Flume's commands have one of two. -/
def lengthOk (port opcode length : Nat) : Bool :=
  match port with
  | 0 => (opcode = 1 && length = 4) || (opcode = 2 && length = 8)
  | 1 => 1 ≤ opcode && opcode ≤ 3 && length = 8
  | 2 => 1 ≤ opcode && opcode ≤ 2 && (length = 4 || length = 8)
  | 3 => 1 ≤ opcode && opcode ≤ 2 && length = 8
  | 4 => opcode = 1 && length = 8
  | 5 => 1 ≤ opcode && opcode ≤ 4 && length = 4
  | _ => false

def Cmd.listed (c : Cmd) : Bool := lengthOk c.port c.opcode c.length

/-- The handle fields of a command (R174). -/
def handleFields (port : Nat) (dws : List Word) : List Nat :=
  let c (k lo : Nat) : Nat := ((dws[k]?).getD 0).toNat / 2 ^ lo % 256
  match port, c 0 0 with
  | 0, 2 => [c 1 0, c 1 8, c 1 16, c 1 24, c 1 32, c 1 40]
  | 1, _ => [c 1 0, c 1 8]
  | 3, _ => [c 1 0, c 1 8]
  | _, _ => []

/-- The arrival word a command names: pointer, value, af (R166, R222); a zero pointer names none. -/
def Cmd.arrival (c : Cmd) : Option (Word × Word × Bool) :=
  let at_ (p v f : Nat) : Option (Word × Word × Bool) :=
    if c.dw p = 0 then none else some (c.dw p, c.dw v, c.flag f 0)
  if !c.listed then none
  else
    match c.port, c.opcode with
    | 0, 2 => at_ 5 6 7
    | 1, _ => at_ 5 6 7
    | 2, _ => if c.length = 8 then at_ 4 5 6 else none
    | 3, _ => at_ 5 6 7
    | 4, _ => if c.dw 7 = 0 then none else some (c.dw 7, BitVec.ofNat 64 (c.bits 1 32 32), c.flag 1 21)
    | _, _ => none

/-! ## Running -/

/-- Why a command stops before its end. -/
inductive Halt where
  /-- it ends with a status other than OK, with this word -/
  | status (code : Nat) (word : Word)
  /-- a stage-2 fault of the access through a pointer (R352) -/
  | stage2 (ptr : Word) (gpage : Nat) (acc : Access)
  /-- a reclassification holds its walk back (R361) -/
  | hold
  deriving DecidableEq, Repr

/-- The machine and the units a command has done. -/
structure Run where
  s : State
  done : Nat
  deriving DecidableEq, Repr

/-- A part of a command's execution. -/
abbrev Eng := EStateM Halt Run

def statusCap : Nat := 1
def statusBad : Nat := 2
def statusPoison : Nat := 3
def statusPartial : Nat := 4

def badWith (w : Word) : Halt := .status statusBad w

/-- BAD for a field or a handle: word all ones (R166). -/
def badField : Halt := badWith (BitVec.allOnes 64)

def Eng.need (ok : Bool) (h : Halt) : Eng Unit := if ok then pure () else throw h
def Eng.state : Eng State := do return (← get).s
def Eng.put (s : State) : Eng Unit := modify fun r => { r with s := s }
def Eng.count (n : Nat) : Eng Unit := modify fun r => { r with done := n }

/-- An engine of a block is secure by its world bit (R403). -/
def State.blockSecure (s : State) (cl port : Nat) : Bool :=
  let p := s.platform.sorrel.package
  match port with
  | 4 => (List.range 8).all fun k => p.getLsbD k
  | 5 => p.getLsbD (20 + dieOfCluster cl)
  | _ => (s.platform.sorrel.worlds.get cl 0).getLsbD (port + 1)

/-- Whether some block the command needs refuses the VF (R404). -/
def State.worldRefuses (s : State) (cl : Nat) (c : Cmd) : Bool :=
  let block := match c.port with
    | 4 => (List.range 8).any fun k => s.platform.sorrel.package.getLsbD k
    | _ => s.blockSecure cl c.port
  block && !(s.vf c.vf).sec

/-- An engine access is secure when its pusher and the block are (R402). -/
def State.engSecure (s : State) (c : Cmd) (cl : Nat) : Bool := c.secure && s.blockSecure cl c.port

/-- The cluster whose block executes a command: a capability's, else the pusher's (R163). -/
def State.execCluster (s : State) (c : Cmd) : Nat :=
  if c.port = portMm && c.cap ≠ 0 then physicalCluster (s.nodeOf c.vf) (c.cap % 256) else clusterOf c.core

/-! ## Accesses (R174) -/

/-- R30 steps 1 and 2 of a pointer field for its first byte, at the sending (R174). -/
def Cmd.pointerOk (c : Cmd) (q : Word) : Bool :=
  let g := (c.segs[ptrSeg q]?).getD Seg.invalid
  !ptrHigh q && g.valid && ptrOff q + 1 ≤ g.limit

/-- The segment register a pointer selects. -/
def Cmd.seg (c : Cmd) (q : Word) : Seg := (c.segs[ptrSeg q]?).getD Seg.invalid

/-- Whether a command's engine reaches the pusher's scratchpad: an engine of the pusher's cluster does, a die's or one that a
capability names does not (R208, R232, log 93). -/
def Cmd.reachesScratch (c : Cmd) : Bool := c.cap = 0 && c.port ≠ portQn && c.port ≠ portYw

/-- A pointer `k` bytes on. -/
def ptrPlus (q : Word) (k : Nat) : Word := q + BitVec.ofNat 64 k

/-- A pointer `k` bytes on through the same segment register: an offset of 2^48 or more passes no limit (R174). DESIGN CHOICE
(log 99): where the offset passes 2^48 no pointer names the access, and the manual does not say which word BAD gives; here it is the
pointer plus `k`, modulo 2^64. -/
def engPtr (q : Word) (k : Nat) : Eng Word := if ptrOff q + k < 2 ^ 48 then return ptrPlus q k else throw (badWith (ptrPlus q k))

/-- Limit, rights and type of `n` bytes at a pointer: BAD with the pointer when they fail. -/
def engSite (c : Cmd) (q : Word) (n : Nat) (need : Need) : Eng (Seg × Site) := do
  match (← Eng.state).segCheck c.core c.vf c.segs q n need false q with
  | .ok (g, x) => if g.type = .scratch && !c.reachesScratch then throw (badWith q) else return (g, x)
  | .error _ => throw (badWith q)

/-- The cluster whose walker an engine uses (R340): Millstone's own; the die's engines have none, and use the pusher's
(log 93). -/
def Cmd.walker (c : Cmd) (cl : Nat) : Nat := if c.port = portMm then cl else clusterOf c.core

/-- The place of a linear address, through stage 1 in the pusher's VF: PARTIAL with the pointer on a fault. DESIGN CHOICE
(log 99): the manual does not say what an address of 2^48 or more means, which the row address of a Quern table can come to (R257);
here it wraps at 2^48. -/
def engLinear (c : Cmd) (cl : Nat) (q : Word) (address : Nat) (acc : Access) : Eng Loc := do
  let s ← Eng.state
  let a := address % 2 ^ 48
  if !(s.vf c.vf).s1en then return .paged c.vf a
  match s.walk (c.walker cl) c.vf (s.lcore c.vf c.core) a acc c.supervisor with
  | .fault => throw (.status statusPartial q)
  | .stage2 g x => throw (.stage2 q g x)
  | .wait s1 | .again s1 => do Eng.put s1; throw .hold
  | .held => throw .hold
  | .done s1 e => do
    Eng.put s1
    return .paged c.vf (e.target (a / 4096) * 4096 + a % 4096)

/-- The place of `n` bytes (within one page) at a pointer. -/
def engLoc (c : Cmd) (cl : Nat) (q : Word) (n : Nat) (need : Need) (acc : Access) : Eng Loc := do
  match (← engSite c q n need).2 with
  | .chip l => return l
  | .linear a => engLinear c cl q a acc

/-- Counts an engine's access to module memory at its LLC slice (R374, R381). -/
def engTouch (loc : Loc) (write : Bool) : Eng Unit := do
  match loc with
  | .paged v gpa => Eng.put ((← Eng.state).touchLlc v gpa write false)
  | _ => return ()

/-- A memory fault of an engine access. -/
def engFault (q : Word) (loc : Loc) (acc : Access) : MemFault → Halt
  | .world => badWith q
  | .stage2 => .stage2 q (loc.pos / 4096) acc

/-- Reads the word at a place: POISON with its pointer when it is poisoned. -/
def engWord (c : Cmd) (cl : Nat) (q : Word) (loc : Loc) (acc : Access) : Eng Word8 := do
  let s ← Eng.state
  match s.word loc acc.writes (s.engSecure c cl) with
  | .error e => throw (engFault q loc acc e)
  | .ok w => do
    engTouch loc acc.writes
    if w.poison then throw (.status statusPoison (wordPtr q loc)) else return w

/-- Reads `n` bytes within one word, with the rights of a plain read or of another access. -/
def engRead (c : Cmd) (cl : Nat) (q : Word) (n : Nat) (need : Need := needLoad) (acc : Access := .read) : Eng Nat := do
  let loc ← engLoc c cl q n need acc
  return (← engWord c cl q loc acc).bytes loc.off n

/-- Checks a write of `n` bytes within one word as far as its translation and its frame; answers its place. -/
def engWritable (c : Cmd) (cl : Nat) (q : Word) (n : Nat) (need : Need) (acc : Access) : Eng Loc := do
  let loc ← engLoc c cl q n need acc
  let s ← Eng.state
  match s.word loc true (s.engSecure c cl) with
  | .error e => throw (engFault q loc acc e)
  | .ok _ => return loc

/-- Writes `n` bytes within one word. -/
def engWrite (c : Cmd) (cl : Nat) (q : Word) (n v : Nat) (need : Need := needStore) (acc : Access := .write) : Eng Unit := do
  let loc ← engWritable c cl q n need acc
  engTouch loc true
  let s ← Eng.state
  Eng.put (s.storeOrdinary c.vf loc n v (s.engSecure c cl))

/-- Reads `n` words of 8 bytes (R255: each single-copy atomic) as one number. -/
def engWords (c : Cmd) (cl : Nat) (q : Word) : Nat → Eng Nat
  | 0 => return 0
  | n + 1 => do
    let w ← engRead c cl q 8
    return w + 2 ^ 64 * (← engWords c cl (ptrPlus q 8) n)

/-- Checks that `n` words from a pointer can be written. -/
def engWordsWritable (c : Cmd) (cl : Nat) (q : Word) (need : Need) (acc : Access) : Nat → Eng Unit
  | 0 => return ()
  | n + 1 => do
    let _ ← engWritable c cl q 8 need acc
    engWordsWritable c cl (ptrPlus q 8) need acc n

def engPutWords (c : Cmd) (cl : Nat) (q : Word) (v : Nat) : Nat → Eng Unit
  | 0 => return ()
  | n + 1 => do
    engWrite c cl q 8 (v % 2 ^ 64)
    engPutWords c cl (ptrPlus q 8) (v / 2 ^ 64) n

/-! ## Tiles of a command -/

/-- A valid tile of a command's handle field; BAD with word all ones otherwise. -/
def engTile (c : Cmd) (h : Nat) : Eng Tile :=
  match tileOf (c.handle h) with
  | some t => return t
  | none => throw badField

/-- A tile placed for the command: its base selects a valid register of on-chip memory that the engine reaches (R174, R214,
R215); a failure of a handle has word all ones. Each access into it has its own check. -/
def engPlace (c : Cmd) (t : Tile) : Eng Placed :=
  let g := c.seg t.base
  if ptrHigh t.base || !g.valid || !g.type.onChip || (g.type = .scratch && !c.reachesScratch) then throw badField
  else return Placed.mk c.core c.vf g (ptrOff t.base) t

/-- The pointer to byte `k` from a tile's base. -/
def Placed.ptr (p : Placed) (k : Nat) : Word := ptrPlus p.tile.base k

/-- An access to `n` bytes of a placed tile from byte `k`: BAD where limit, rights or R30 step 4 refuse it (R174), with the
access's pointer where `named` says so (R256), else all ones; POISON where it reads a poisoned word. -/
def engSpan (p : Placed) (k n : Nat) (need : Need) (named : Bool) : Eng Unit := do
  let s ← Eng.state
  let rs := s.runsOf p.core p.vf p.seg (p.off + k) n
  Eng.need (p.off + k + n ≤ p.seg.limit && p.seg.grants need && !s.runsRefused p.vf rs)
    (if named then badWith (p.ptr k) else badField)
  match (if need.r then s.poisonIn rs else none) with
  | some d => throw (.status statusPoison (p.tile.base + BitVec.ofInt 64 ((k : Int) + d)))
  | none => return ()

/-- The access to the containers of elements `j0` to `j1 - 1` of row `i`. -/
def engElems (p : Placed) (i j0 j1 : Nat) (named : Bool) : Eng Unit :=
  let from_ := (containerOf p.tile.fmt j0).1
  let last := containerOf p.tile.fmt (j1 - 1)
  if j1 ≤ j0 then return ()
  else engSpan p (i * p.tile.stride + from_) (last.1 + last.2 - from_) needLoad named

/-- The accesses to every row of a tile, in order. -/
def engRows (p : Placed) (named : Bool) : Eng Unit :=
  (List.range p.tile.rows).forM fun i => engElems p i 0 p.tile.cols named

/-! ## Its end (R165, R166, R222) -/

/-- The completion's first doubleword. -/
def completionDw0 (c : Cmd) (status count : Nat) : Word :=
  BitVec.ofNat 64 (c.sequence + status * 2 ^ 16 + c.port * 2 ^ 20 + 2 ^ 23 + c.opcode * 2 ^ 24 + count % 2 ^ 32 * 2 ^ 32)

/-- A progress mark of a command's record is set (R398). -/
def State.mark (s : State) (c : Cmd) (f : Marks → Marks) : State :=
  match c.seq with
  | none => s
  | some n =>
    let k := s.cluster (clusterOf c.core)
    s.setCluster (clusterOf c.core) { k with
      replay := k.replay.map fun r => if r.seq = n then { r with marks := f r.marks } else r }

/-- The bytes of an element of SL.SCATADD, the elements of one entry, and those that a command has sent (R255, R256). -/
def Cmd.elemBytes (c : Cmd) : Nat := if c.bits 1 16 4 = 1 then 8 else 4
def Cmd.perEntry (c : Cmd) : Nat := c.bits 1 32 32 / c.elemBytes
def Cmd.sent (c : Cmd) : Nat := if c.port = portSl && c.opcode = 3 then c.done * c.perEntry + c.elem else 0

/-- The record of a command, and the elements of it that are not acknowledged (R398). -/
def State.recordFor (s : State) (c : Cmd) : Option Replay :=
  c.seq.bind fun n => (s.cluster (clusterOf c.core)).replay.find? fun r => r.seq = n
def State.unacked (s : State) (c : Cmd) : Nat := c.sent - (s.recordFor c).elim c.sent fun r => r.marks.acked

/-- The wait for an acknowledgement of a command's record starts anew (R397). -/
def State.restartAck (s : State) (c : Cmd) : State :=
  match c.seq with
  | none => s
  | some n =>
    let k := s.cluster (clusterOf c.core)
    s.setCluster (clusterOf c.core) { k with
      replay := k.replay.map fun r => if r.seq = n then { r with deadline := s.cycle + ackCycles } else r }

/-- The command of a replay record, while it is in an engine. -/
def State.liveCmd (s : State) (cl seq : Nat) : Option Cmd :=
  ((s.clusters.flatMap fun e => e.2.queues ++ e.2.held.map RowHold.cmd) ++ s.dies.flatMap fun e => e.2.queue).find? fun c =>
    c.seq = some seq && clusterOf c.core = cl

/-- The place of execution of an atomic (R143), as a number: a scratchpad, a bank of a cluster's memory, the slice before a
pseudo-channel or a Quern chip. -/
def State.placeNumber (s : State) (loc : Loc) : Nat :=
  match loc with
  | .scratch c _ => c
  | .cluster k p => 4096 + 32 * k + p / 65536
  | .paged v gpa =>
    match s.lineView v (gpa / 64) false true with
    | .error _ => 0
    | .ok l =>
      let hpa := l.frame * 4096 + gpa % 4096
      if hpa < hbmEnd then 16384 + 256 * (pseudoChannel hpa).1 + (pseudoChannel hpa).2 else 17408 + quernChip hpa

/-- Keys that a window holds (R398). -/
def keysKept : Nat := 64

/-- An element's key enters the window of its place for the source cluster; the oldest of 65 leaves it (R398). -/
def State.noteKey (s : State) (place src : Nat) (key : Nat × Nat) : State :=
  let here (w : KeyWindow) : Bool := w.place = place && w.src = src
  let keys := ((s.windows.find? here).elim [] KeyWindow.keys) ++ [key]
  { s with windows := KeyWindow.mk place src (keys.drop (keys.length - keysKept)) :: s.windows.filter fun w => !here w }

/-- Whether the places of execution have applied an element (R398, R399). -/
def State.applied (s : State) (src seq e : Nat) : Bool := s.windows.any fun w => w.src = src && w.keys.contains (seq, e)

/-- The completion sets out for its store. -/
def State.sendCompletion (s : State) (c : Cmd) (status count : Nat) (word : Word) (flags : BitVec 16) : State :=
  { s.mark c fun m => { m with completed := true } with
    transit := s.transit ++ [Completion.mk c.who c.core c.port (completionDw0 c status count) word flags
      (c.seq.map fun n => (clusterOf c.core, n)) none c.orphan] }

/-- The arrival word's pointer field fails at acceptance: its checks at the sending, its alignment, a scratchpad that the
engine does not reach, or af where the memory carries no bit (R166, R174, R208). -/
def Cmd.arrivalBad (c : Cmd) : Bool :=
  match c.arrival with
  | none => false
  | some (q, _, af) => !c.pointerOk q || ptrOff q % 8 ≠ 0 || ((c.seg q).type = .scratch && !c.reachesScratch)
    || (af && (c.seg q).type = .capacity)

/-- The arrival write: one 8-byte write, with the bit when af says so; host memory carries none (R166). -/
def engArrive (c : Cmd) (cl : Nat) (complement : Bool) : Eng Unit := do
  match c.arrival with
  | none => return ()
  | some (q, v, af) =>
    let (g, site) ← engSite c q 8 needStore
    Eng.need (match site with
      | .chip l => l.pos % 8 = 0
      | .linear a => a % 8 = 0) (badWith q)
    let loc ← match site with
      | .chip l => pure l
      | .linear a => engLinear c cl q a .write
    Eng.need (!(af && (loc.host || g.type = .capacity))) (badWith q)
    let s ← Eng.state
    match s.word loc true (s.engSecure c cl) with
    | .error e => throw (engFault q loc .write e)
    | .ok w => do
      engTouch loc true
      let val := if complement then ~~~v else v
      let s ← Eng.state
      Eng.put (s.ordinary c.vf loc 8 w (Word8.mk val (w.full || af) false) (s.engSecure c cl))

/-- Whether a status writes the complement of the arrival value. -/
def complements (status : Nat) : Bool := status = statusBad || status = statusPoison || status = statusPartial

/-- Where a command goes when it cannot end yet: back where it waits, as `keep` puts it. -/
abbrev Keep := State → Cmd → State

/-- The last step of a command: its arrival write, then its completion. A failing arrival write turns OK into its own
status; a page request leaves the command with its ending kept (R352). -/
def endCmd (s : State) (c : Cmd) (cl : Nat) (keep : Keep) (status count : Nat) (word : Word) (flags : BitVec 16) : State :=
  if status = statusCap || c.arrivalBad then s.sendCompletion c status count word flags
  else
    match (engArrive c cl (complements status)).run (Run.mk s count) with
    | .ok _ r => (r.s.mark c fun m => { m with arrived := true }).sendCompletion c status count word flags
    | .error (.status code w) r =>
      if status = 0 then r.s.sendCompletion c code count w flags else r.s.sendCompletion c status count word flags
    | .error (.stage2 q g acc) r =>
      let waiting : Cmd := { c with
        ending := some (status, word, flags), done := count, request := some r.s.nextTag, fatal := none }
      (keep r.s waiting).request c.vf g acc (.engine c.who c.port) q 0
    | .error .hold r => keep r.s { c with ending := some (status, word, flags), done := count, fatal := none }

/-- Runs a command from where it stands: `body` answers the completion's word and flags; the units done so far are in the
run. A fatal answer to the page request of an access ends it BAD with its pointer (R352), and with the complement of its
arrival value (R166); one to that of the arrival write turns OK into BAD. -/
def runCmd (s : State) (c : Cmd) (cl : Nat) (keep : Keep) (body : Eng (Word × BitVec 16)) : State :=
  match c.fatal, c.ending with
  | some q, none => endCmd s c cl keep statusBad c.done q 0
  | some q, some (status, word, flags) =>
    if status = 0 then s.sendCompletion c statusBad c.done q flags else s.sendCompletion c status c.done word flags
  | none, some (status, word, flags) => endCmd s c cl keep status c.done word flags
  | none, none =>
    match body.run (Run.mk s c.done) with
    | .ok (word, flags) r => endCmd r.s c cl keep 0 r.done word flags
    | .error (.status code w) r => endCmd r.s c cl keep code r.done w 0
    | .error (.stage2 q g acc) r =>
      (keep r.s { c with done := r.done, request := some r.s.nextTag }).request c.vf g acc (.engine c.who c.port) q 0
    | .error .hold r => keep r.s { c with done := r.done }

/-- The checks common to every command before its own (R163, R176, R186, R404): an unlisted form, a capability where none
belongs, a refused world, a field. `mmCap` is Millstone's check of its token (R176). DESIGN CHOICE (log 94): the manual does
not say whether a command that is unlisted and whose capability is refused too ends BAD (R186) or CAP (R163, R176); here it
ends BAD. -/
def engFields (c : Cmd) (cl : Nat) (fields : List Word) (fieldsOk mmCap : Bool) : Eng Unit := do
  Eng.need c.listed badField
  Eng.need ((c.cap = 0 || c.port = portMm) && mmCap) (.status statusCap 0)
  Eng.need (!(← Eng.state).worldRefuses cl c) (.status statusCap 0)
  Eng.need (fieldsOk && fields.all (· == 0)) badField

/-- The checks of the pointer fields at acceptance (R174). -/
def engPointers (c : Cmd) (pointers : List Word) : Eng Unit := do
  match pointers.find? fun q => !c.pointerOk q with
  | some q => throw (badWith q)
  | none => pure ()
  match c.arrival with
  | some (q, _, _) => Eng.need (!c.arrivalBad) (badWith q)
  | none => pure ()

/-- Both, for an engine whose other checks come after. -/
def engAccept (c : Cmd) (cl : Nat) (fields pointers : List Word) (fieldsOk mmCap : Bool) : Eng Unit := do
  engFields c cl fields fieldsOk mmCap
  engPointers c pointers

/-! ## Queues (R167, R230) -/

/-- The release of a command's push is performed: every operand is read after it (R170). -/
def State.released (s : State) (c : Cmd) : Bool := s.drainedBefore c.who c.after (waitsAdaptive c.scope)

/-- The oldest command of a port and source in a queue, and its position. -/
def headOf (q : List Cmd) (port src : Nat) : Option (Nat × Cmd) :=
  match q.findIdx? fun c => c.port = port && c.src = src with
  | none => none
  | some k => (q[k]?).map fun c => (k, c)

/-- Whether a command may run now. -/
def State.mayRun (s : State) (c : Cmd) : Bool := c.request.isNone && s.released c

/-- A release at system scope writes the pusher's dirty words back before the command reads (R269). -/
def State.publish (s : State) (c : Cmd) : State := if c.scope = 6 then s.systemRelease c.core c.vf else s

/-- Acceptance takes a record of the pusher's cluster, if the command has none yet (R396); none when the store is full. -/
def State.acceptRecord (s : State) (c : Cmd) : Option (State × Cmd) :=
  let cl := clusterOf c.core
  if c.seq.isSome then some (s, c)
  else if (s.cluster cl).full then none
  else
    let c1 : Cmd := { c with seq := some (s.cluster cl).nextSeq }
    some ((s.publish c).record cl c.vf (.command c1), c1)

/-- A cluster's command `k` put back, or taken out. -/
def keepCmd (cl k : Nat) : Keep := fun s c =>
  let x := s.cluster cl
  s.setCluster cl { x with queues := x.queues.take k ++ c :: x.queues.drop k }

def State.takeCmd (s : State) (cl k : Nat) : State :=
  let x := s.cluster cl
  s.setCluster cl { x with queues := x.queues.eraseIdx k }

/-- A die's command, likewise. -/
def keepDie (d k : Nat) : Keep := fun s c =>
  let x := s.die d
  s.setDie d { x with queue := x.queue.take k ++ c :: x.queue.drop k }

def State.takeDie (s : State) (d k : Nat) : State :=
  let x := s.die d
  s.setDie d { x with queue := x.queue.eraseIdx k }

/-- The command that a cluster engine takes next, if it is one of `ops`' (an unlisted form is the first row's): the oldest of
its port; Bolter may go on with a command before an older one of the other opcode that has started (R167, R173, R271, R302). -/
def State.nextCmd (s : State) (cl port : Nat) (ops : Nat → Bool) : Option (Nat × Cmd) :=
  let q := (s.cluster cl).queues
  match q.findIdx? fun c => c.port = port && (port ≠ portBo || ops c.opcode) with
  | none => none
  | some k =>
    if (q.take k).any fun c => c.port = port && c.seq.isNone then none
    else ((q[k]?).filter fun c => ops c.opcode).map fun c => (k, c)

/-- A cluster engine accepts the next command of `ops`, or goes on with it, as `run` says. -/
def clusterEngineBy (s : State) (cl port : Nat) (ops : Nat → Bool) (run : State → Cmd → Keep → State) : Out :=
  match s.nextCmd cl port ops with
  | none => .next s
  | some (k, c) =>
    if !s.mayRun c then .next s
    else
      match s.acceptRecord c with
      | none => .next s
      | some (s1, c1) => .next (run (s1.takeCmd cl k) c1 (keepCmd cl k))

def clusterEngine (s : State) (cl port : Nat) (ops : Nat → Bool) (body : Cmd → Eng (Word × BitVec 16)) : Out :=
  clusterEngineBy s cl port ops fun s c keep => runCmd s c cl keep (body c)

/-- The head of a die's queue of a port, likewise; the capacity tier and Yarrow keep no replay record (R396). -/
def dieEngine (s : State) (d port : Nat) (ops : Nat → Bool) (body : Cmd → Eng (Word × BitVec 16)) : Out :=
  match headOf (s.die d).queue port 0 with
  | none => .next s
  | some (k, c) =>
    if !ops c.opcode || !s.mayRun c then .next s
    else .next (runCmd ((s.publish c).takeDie d k) c (clusterOf c.core) (keepDie d k) (body c))

end Sys2Proof.Machine
end

