-- ==== Sys2Proof/Machine/Tiles.lean ====
section
/-! DEFINITION. Tiles: the page-3 instructions (05_isa_float_tile.md, R123 to R134). -/
namespace Sys2Proof.Machine

/-! ## Operand checks (R124, R125) -/

/-- tval of a HANDLE trap (R124). -/
def handleTval (h : BitVec 8) (reason : Nat) : Word := BitVec.ofNat 64 (h.toNat + 256 * reason)

def handleTrap (h : BitVec 8) (reason : Nat) : TrapInfo := TrapInfo.mk causeHandle (handleTval h reason)

/-- How the shapes of a form's operands agree (R125, R132). -/
inductive TileShape where
  | same
  | copy
  | reduce
  deriving DecidableEq, Repr

/-- An operand: its handle number, its descriptor, and the access kind of R289 by which the form reaches it. -/
structure Operand where
  handle : BitVec 8
  tile : Tile
  acc : Nat
  deriving DecidableEq, Repr

/-- A trap of a page-3 instruction with the access kind of the operand that fails (R289). -/
abbrev TileTrap := TrapInfo × Nat

/-- Access kinds of a source and of a destination (R289). -/
def accSource : Nat := 0
def accDest : Nat := 1

/-- R124 step 1 for one operand. -/
def Core.operand (k : Core) (h : BitVec 8) (acc : Nat) : Except TileTrap Operand :=
  match tileOf (k.handle h) with
  | none => .error (handleTrap h 1, acc)
  | some t => .ok (Operand.mk h t acc)

/-- The trap of the first operand that fails a test. -/
def firstBad (ops : List Operand) (bad : Tile → Bool) (reason : Nat) : Option TileTrap :=
  (ops.find? fun o => bad o.tile).map fun o => (handleTrap o.handle reason, o.acc)

/-- Whether two tiles have the same rows and columns. -/
def Tile.sameShape (x y : Tile) : Bool := x.rows = y.rows && x.cols = y.cols

/-- R124 step 4: the shapes of hA, hB and hD. -/
def shapesBad (sh : TileShape) (a b : Option Operand) (d : Operand) : Option TileTrap :=
  match sh with
  | .copy => firstBad a.toList (fun t => t.elems ≠ d.tile.elems) 2
  | .reduce => firstBad [d] (fun t => a.any fun x => t.elems ≠ x.tile.rows) 2
  | .same =>
    (firstBad a.toList (fun t => !t.sameShape d.tile) 2).or
      (firstBad b.toList (fun t => !(t.sameShape d.tile || (t.rows = 1 && (t.cols = d.tile.cols || t.cols = 1)))) 2)

/-- R124 steps 2 to 4: formats (tcopy: hD has hA's, log 19), alignment of the base, element limit, shapes. -/
def operandsBad (sh : TileShape) (a b : Option Operand) (d : Operand) : Option TileTrap :=
  let ops := a.toList ++ b.toList ++ [d]
  let fmtBad (t : Tile) : Bool := 8 < t.fmt || (sh = .copy && a.any fun x => t.fmt ≠ x.tile.fmt)
  (firstBad ops fmtBad 3).or
    ((firstBad ops (fun t => t.base.toNat % fmtBytes t.fmt ≠ 0) 5).or
      ((firstBad ops (fun t => 4096 < t.elems) 4).or (shapesBad sh a b d)))

/-- R124 step 5 for one operand: its extent as one access, in SCRATCH, CLUSTER or PEER memory (R214). -/
def State.placeTile (s : State) (core v : Nat) (segs : List Seg) (o : Operand) (need : Need) : Except TileTrap Placed :=
  match s.segCheck core v segs o.tile.base o.tile.extent need false o.tile.base with
  | .error e => .error (e, o.acc)
  | .ok (g, _) =>
    if g.type.onChip then .ok (Placed.mk core v g (ptrOff o.tile.base) o.tile)
    else .error (TrapInfo.mk causeSegRights o.tile.base, o.acc)

/-- The placed operands of a form. -/
structure Tiles where
  a : Option Placed
  b : Option Placed
  d : Placed
  deriving DecidableEq, Repr

def optOperand (k : Core) (h : Option (BitVec 8)) : Except TileTrap (Option Operand) :=
  match h with
  | none => .ok none
  | some x =>
    match k.operand x accSource with
    | .ok o => .ok (some o)
    | .error e => .error e

def State.optPlace (s : State) (core v : Nat) (segs : List Seg) (o : Option Operand) : Except TileTrap (Option Placed) :=
  match o with
  | none => .ok none
  | some x =>
    match s.placeTile core v segs x needLoad with
    | .ok p => .ok (some p)
    | .error e => .error e

/-- The checks of R124 in order. -/
def State.tiles (s : State) (core v : Nat) (segs : List Seg) (a b : Option (BitVec 8)) (d : BitVec 8) (sh : TileShape)
    (readsD : Bool) : Except TileTrap Tiles :=
  let k := s.core core
  match optOperand k a, optOperand k b, k.operand d accDest with
  | .error e, _, _ => .error e
  | .ok _, .error e, _ => .error e
  | .ok _, .ok _, .error e => .error e
  | .ok oa, .ok ob, .ok od =>
    match operandsBad sh oa ob od with
    | some e => .error e
    | none =>
      match s.optPlace core v segs oa, s.optPlace core v segs ob,
          s.placeTile core v segs od (if readsD then needReadWrite else needStore) with
      | .error e, _, _ => .error e
      | .ok _, .error e, _ => .error e
      | .ok _, .ok _, .error e => .error e
      | .ok pa, .ok pb, .ok pd => .ok (Tiles.mk pa pb pd)

def Tiles.all (t : Tiles) : List Placed := t.a.toList ++ t.b.toList ++ [t.d]

/-! ## Execution (R127 to R130) -/

/-- The bits a form reads: hA, hB broadcast to hD's shape, and hD. -/
structure TileVals where
  a : List Nat
  b : List Nat
  d : List Nat
  deriving DecidableEq, Repr

/-- hB's elements as R125 broadcasts them. -/
def broadcast (t d : Tile) (bits : List Nat) : List Nat :=
  if t.sameShape d then bits
  else if t.cols = 1 then List.replicate d.elems (bits.headD 0)
  else (List.replicate d.rows bits).flatten

/-- Lanes of the vector unit (R128). -/
def vectorLanes (ts : List Tile) : Nat :=
  let w := ts.foldl (fun m t => Nat.max m (fmtBytes t.fmt)) 1
  if w = 4 then 16 else if w = 2 then 32 else 64

/-- Cycles for which a form occupies the vector unit (R128). -/
def vectorCycles (ts : List Tile) (special : Bool) : Nat :=
  let e := ts.foldl (fun m t => Nat.max m t.elems) 0
  let n := if special then 16 else vectorLanes ts
  (e + n - 1) / n

/-- Whether the vector unit is busy (R128). -/
def State.vectorBusy (s : State) (c : Nat) : Bool := s.coreCycle c < (s.core c).vectorFree

/-- An instruction of way `w` takes the vector unit for `n` cycles, and completes 12 cycles after that (R128, R130). -/
def State.takeVector (s : State) (c w n : Nat) : State :=
  let k := s.core c
  s.setCore c { k with vector := k.vector.set w (s.coreCycle c + 12 + n), vectorFree := s.coreCycle c + n }

/-- A page-3 instruction: while the unit is busy or the scratchpad is scrubbed its context is not ready, whatever its guard (R128,
R209); then its checks, its sources read before anything is written, its results and flags. -/
def tileOp (s : State) (i : Instr) (p : Pre) (a b : Option (BitVec 8)) (d : BitVec 8) (sh : TileShape)
    (readsD special : Bool) (f : Line → Tiles → TileVals → List Nat × BitVec 16) : Out :=
  if s.vectorBusy s.run.1 || s.scrubbing s.run.1 then .next s
  else guarded s i p fun sl =>
    let c := s.run.1
    let v := sl.line.vfid.toNat
    match s.tiles c v sl.segs a b d sh readsD with
    | .error (e, acc) => .next (s.takeTrap c s.run.2 sl e.cause e.tval i.tinfo acc)
    | .ok t =>
      let rs := t.all.flatMap s.extentRuns
      if rs.any fun r => s.clearing r.1 then .next s
      else if s.runsHeld sl.who rs then hold s sl i
      else
        match (t.a.toList ++ t.b.toList).findSome? s.tilePoison, (if readsD then s.tilePoison t.d else none) with
        | some q, _ => trapOut s sl i causeMemUncorr q
        | none, some q => .next (s.takeTrap c s.run.2 sl causeMemUncorr q i.tinfo accDest)
        | none, none =>
          let bits (o : Option Placed) : List Nat := (o.map s.tileBits).getD []
          let vals := TileVals.mk (bits t.a)
            (match t.b with
              | some x => broadcast x.tile t.d.tile (s.tileBits x)
              | none => [])
            (if readsD then s.tileBits t.d else [])
          let (out, fl) := f sl.line t vals
          let s1 := s.writeTile t.d out
          let n := vectorCycles (t.all.map Placed.tile) special
          complete (s1.takeVector c s.run.2 n) { sl with line := sl.line.raise fl } i (12 + n)

/-! ## Element results (R126) -/

/-- An exact element result: an integer, or a value with the flags of its operation. -/
inductive Res where
  | int (v : Int)
  | val (r : FVal × BitVec 16)
  deriving DecidableEq, Repr

/-- Delivery to a tile's format (R126). -/
def Tile.deliver (d : Tile) (l : Line) (r : Res) : Nat × BitVec 16 :=
  match r, fmtOfCode d.fmt with
  | .int v, .int t => t.deliverInt v
  | .int v, f => f.deliver l.rmode l.fz d.scale (FVal.ofInt v 0)
  | .val (v, fl), f =>
    let (b, f2) := f.deliver l.rmode l.fz d.scale v
    (b, fl ||| f2)

/-- Whether a format code is an integer format. -/
def fmtIsInt (f : Nat) : Bool := 5 ≤ f

/-- The bits of the results and the OR of their flags (R127). -/
def gatherFlags (l : List (Nat × BitVec 16)) : List Nat × BitVec 16 :=
  (l.map Prod.fst, l.foldl (fun acc r => acc ||| r.2) 0)

/-- The elements of a placed operand. -/
def Placed.elems (p : Placed) (l : Line) (bits : List Nat) : List Elem :=
  bits.map fun b => (fmtOfCode p.tile.fmt).read l.fz p.tile.scale b

def optElems (p : Option Placed) (l : Line) (bits : List Nat) : List Elem :=
  match p with
  | some x => x.elems l bits
  | none => []

/-- A value passed on: a signalling NaN sets NV. -/
def passed (v : FVal) : Res := .val (v, flagIf v.signals flagNV)

/-- An element passed on to hD: exactly clamped between integer formats. -/
def passElem (clamp : Bool) (x : Elem) : Res :=
  match x, clamp with
  | .int v, true => .int v
  | _, _ => passed x.val

/-- A TBIN result of two elements. -/
def tbin (s : State) (i : Instr) (p : Pre) (hd ha hb : BitVec 8)
    (fi : Int → Int → Int) (ff : Line → Elem → Elem → FVal × BitVec 16) : Out :=
  tileOp s i p (some ha) (some hb) hd .same false false fun l t v =>
    gatherFlags (((optElems t.a l v.a).zip (optElems t.b l v.b)).map fun e =>
      t.d.tile.deliver l (match e.1, e.2, fmtIsInt t.d.tile.fmt with
        | .int x, .int y, true => .int (fi x y)
        | x, y, _ => .val (ff l x y)))

/-- tadd (R131). -/
def execTadd (p : Pre) (hd ha hb : BitVec 8) (s : State) : Out :=
  tbin s (.tadd p hd ha hb) p hd ha hb (· + ·) fun l x y => FVal.add l.rmode x.val y.val

/-- tsub (R131). -/
def execTsub (p : Pre) (hd ha hb : BitVec 8) (s : State) : Out :=
  tbin s (.tsub p hd ha hb) p hd ha hb (· - ·) fun l x y => FVal.add l.rmode x.val y.val.neg

/-- tmul (R131). -/
def execTmul (p : Pre) (hd ha hb : BitVec 8) (s : State) : Out :=
  tbin s (.tmul p hd ha hb) p hd ha hb (· * ·) fun l x y => Elem.mul l.rmode l.fz x y

/-- tmin (R131). -/
def execTmin (p : Pre) (hd ha hb : BitVec 8) (s : State) : Out :=
  tbin s (.tmin p hd ha hb) p hd ha hb (fun x y => if y < x then y else x) fun _ x y => minMax false x.val y.val

/-- tmax (R131). -/
def execTmax (p : Pre) (hd ha hb : BitVec 8) (s : State) : Out :=
  tbin s (.tmax p hd ha hb) p hd ha hb (fun x y => if x < y then y else x) fun _ x y => minMax true x.val y.val

/-- tfma (R131): one delivery of a × b + c. -/
def execTfma (p : Pre) (hd ha hb : BitVec 8) (s : State) : Out :=
  tileOp s (.tfma p hd ha hb) p (some ha) (some hb) hd .same true false fun l t v =>
    gatherFlags (((optElems t.a l v.a).zip ((optElems t.b l v.b).zip (t.d.elems l v.d))).map fun e =>
      t.d.tile.deliver l (match e.1, e.2.1, e.2.2 with
        | .int x, .int y, .int z => .int (x * y + z)
        | x, y, z =>
          let m := Elem.mul l.rmode l.fz x y
          let r := FVal.add l.rmode m.1 z.val
          .val (r.1, m.2 ||| r.2)))

/-- Whether an element counts as zero in a mask (R131). -/
def FVal.isZero : FVal → Bool
  | .zero _ => true
  | _ => false

/-- tsel's result for one element: the chosen operand's bits where its format and scale are hD's, else delivered. -/
def selElem (l : Line) (d : Tile) (clamp : Bool) (t : Tile) (bits : Nat) : Nat × BitVec 16 :=
  if t.fmt = d.fmt && ((t.fmt ≠ 3 && t.fmt ≠ 4) || t.scale = d.scale) then (bits, 0)
  else d.deliver l (passElem clamp ((fmtOfCode t.fmt).read l.fz t.scale bits))

/-- tsel (R131). -/
def execTsel (p : Pre) (hd ha hb : BitVec 8) (s : State) : Out :=
  tileOp s (.tsel p hd ha hb) p (some ha) (some hb) hd .same true false fun l t v =>
    match t.a, t.b with
    | some a, some b =>
      let clamp := fmtIsInt a.tile.fmt && fmtIsInt b.tile.fmt
      gatherFlags ((v.a.zip (v.b.zip (t.d.elems l v.d))).map fun e =>
        if e.2.2.val.isZero then selElem l t.d.tile clamp b.tile e.2.1 else selElem l t.d.tile clamp a.tile e.1)
    | _, _ => ([], 0)

/-- A TUN form on single elements. -/
def tun (s : State) (i : Instr) (p : Pre) (hd ha : BitVec 8) (special : Bool) (f : Line → Elem → Res) : Out :=
  tileOp s i p (some ha) none hd .same false special fun l t v =>
    gatherFlags ((optElems t.a l v.a).map fun e => t.d.tile.deliver l (f l e))

/-- tcvt (R132). -/
def execTcvt (p : Pre) (hd ha : BitVec 8) (s : State) : Out :=
  tun s (.tcvt p hd ha) p hd ha false fun _ e => passElem true e

/-- A special function of an element: rounded to f32, computed, its value to be delivered (R132). DESIGN CHOICE (log 101): with
integer formats of hA and hD the manual can be read as R126's first case, a clamp with SAT, or as rounding at delivery; here the f32
value is delivered as a real, rounded in rm and NV out of range. -/
def throughF32 (op : Nat → Bool → Nat → Nat × BitVec 16) (l : Line) (e : Elem) : Res :=
  let (b, f1) := f32.deliver l.rmode l.fz e.val
  let (r, f2) := op l.rmode l.fz b
  .val (f32.decode false r, flagIf e.val.signals flagNV ||| f1 ||| f2)

/-- texp2 (R132). -/
def execTexp2 (p : Pre) (hd ha : BitVec 8) (s : State) : Out := tun s (.texp2 p hd ha) p hd ha true (throughF32 exp2_32)

/-- tlog2 (R132). -/
def execTlog2 (p : Pre) (hd ha : BitVec 8) (s : State) : Out := tun s (.tlog2 p hd ha) p hd ha true (throughF32 log2_32)

/-- trcp (R132). -/
def execTrcp (p : Pre) (hd ha : BitVec 8) (s : State) : Out := tun s (.trcp p hd ha) p hd ha true (throughF32 rcp32)

/-- tcopy (R132). -/
def execTcopy (p : Pre) (hd ha : BitVec 8) (s : State) : Out :=
  tileOp s (.tcopy p hd ha) p (some ha) none hd .copy false false fun _ _ v => (v.a, 0)

/-- Splits row-major elements into rows. -/
def rowsOf {α : Type} (cols : Nat) : Nat → List α → List (List α)
  | 0, _ => []
  | n + 1, l => l.take cols :: rowsOf cols n (l.drop cols)

/-- A reduction of each row of hA. -/
def tred (s : State) (i : Instr) (p : Pre) (hd ha : BitVec 8) (f : Line → Bool → List Elem → Res) : Out :=
  tileOp s i p (some ha) none hd .reduce false false fun l t v =>
    match t.a with
    | some a =>
      gatherFlags ((rowsOf a.tile.cols a.tile.rows (a.elems l v.a)).map fun r =>
        t.d.tile.deliver l (f l (fmtIsInt a.tile.fmt) r))
    | none => ([], 0)

/-- The sum of a row: exact for integers, in groups of four otherwise (R52, R132). -/
def rowSum (l : Line) (ints : Bool) (r : List Elem) : Res :=
  if ints then
    .int (r.foldl (fun acc e => acc + (match e with
      | .int v => v
      | _ => 0)) 0)
  else
    let (acc, fl) := sumGroups l.rmode l.fz r.length (r.map Elem.val) none 0
    .val (f32.decode false (acc.getD 0), fl)

/-- The largest element of a row by the rules of fmax (R117, R132). -/
def rowMax (_l : Line) (ints : Bool) (r : List Elem) : Res :=
  match r with
  | [] => .int 0
  | e :: t =>
    match e, ints with
    | .int v, true => .int (t.foldl (fun acc x => match x with
      | .int y => if acc < y then y else acc
      | _ => acc) v)
    | _, _ =>
      .val (t.foldl (fun acc x =>
        let m := minMax true acc.1 x.val
        (m.1, acc.2 ||| m.2)) (e.val, flagIf e.val.signals flagNV))

/-- tred.sum (R132). -/
def execTredSum (p : Pre) (hd ha : BitVec 8) (s : State) : Out := tred s (.tredSum p hd ha) p hd ha rowSum

/-- tred.max (R132). -/
def execTredMax (p : Pre) (hd ha : BitVec 8) (s : State) : Out := tred s (.tredMax p hd ha) p hd ha rowMax

/-- The f32 scalar of a TSCAL form (R133). -/
def scalarOf (l : Line) (k : BitVec 3) : FVal := f32.decode l.fz ((l.reg k).toNat % 2 ^ 32)

/-- tscale (R133). -/
def execTscale (p : Pre) (hd ha : BitVec 8) (k : BitVec 3) (s : State) : Out :=
  tun s (.tscale p hd ha k) p hd ha false fun l e => .val (Elem.mul l.rmode l.fz e (.float (scalarOf l k)))

/-- tfill (R133). -/
def execTfill (p : Pre) (hd : BitVec 8) (k : BitVec 3) (s : State) : Out :=
  tileOp s (.tfill p hd k) p none none hd .same false false fun l t _ =>
    (List.replicate t.d.tile.elems ((l.reg k).toNat % (if t.d.tile.fmt = fmtL6 then 64 else 256 ^ fmtBytes t.d.tile.fmt)), 0)

/-- The relation of tmask, quiet (R133). -/
def maskHolds (c : BitVec 2) (x y : FVal) : Bool :=
  let nan := x.isNaN || y.isNaN
  match c.toNat with
  | 0 => !nan && y.lt x
  | 1 => !nan && !x.lt y
  | 2 => !nan && x.eqv y
  | _ => nan || !x.eqv y

/-- tmask (R133). -/
def execTmask (p : Pre) (hd ha : BitVec 8) (k : BitVec 3) (s : State) : Out :=
  tun s (.tmask p hd ha k) p hd ha false fun l e =>
    let y := scalarOf l k
    let holds := maskHolds ((l.reg k).extractLsb' 32 2) e.val y
    .val (FVal.ofInt (if holds then 1 else 0) 0, flagIf (e.val.signals || y.signals) flagNV)

end Sys2Proof.Machine
end

