-- ==== Sys2Proof/Machine/Millstone.lean ====
section
/-! DEFINITION. Millstone: MM.FMT, MM.MUL and its held row advances (09_millstone_sparse.md, R226 to R248; R178 to R180). -/
namespace Sys2Proof.Machine

/-! ## Format contexts (R226 to R229) -/

/-- A format context at reset: f16 × f16 into f32 (R227). -/
def FmtCtx.reset : FmtCtx := FmtCtx.mk 0x11 false 0 0 0

def Cluster.fmt (k : Cluster) (src : Nat) : FmtCtx := k.fmts.get src FmtCtx.reset

/-- Millstone's source of a command (R226, R230). -/
def sourceOf (core cap : Nat) : Nat := if cap = 0 then core % 16 else 16 + cap / 256 % 16

def fmtField (w : Word) (lo n : Nat) : Nat := w.toNat / 2 ^ lo % 2 ^ n

/-- Whether fa, fb, fc and rm are a mix that R178 accepts. -/
def fmtsOk (w : Word) : Bool :=
  let fa := fmtField w 0 4
  let fb := fmtField w 4 4
  let fc := fmtField w 8 4
  let ints := fa = 5 || fa = 6 || fb = 5 || fb = 6
  fa ≤ 6 && fb ≤ 6 && (fc ≤ 4 || fc = 7) && fmtField w 12 3 ≤ 4
    && (if ints then (fa = 5 || fa = 6) && (fb = 5 || fb = 6) && fc = 7 else fc ≠ 7)

/-- The check of a capability at acceptance (R176, R231). -/
def State.tokenOk (s : State) (cl : Nat) (c : Cmd) : Bool :=
  if c.cap = 0 then true
  else
    let f := (s.cluster cl).fmt (16 + c.cap / 256 % 16)
    f.bound && f.vf = c.vf && f.check.toNat = c.cap / 2 ^ 12 && s.tick < f.expiry.toNat
      && inNode (s.nodeOf c.vf) cl

/-- MM.FMT (R178). -/
def mmFmtBody (cl : Nat) (c : Cmd) : Eng (Word × BitVec 16) := do
  let s ← Eng.state
  let rest := [BitVec.ofNat 64 (c.bits 1 17 15), BitVec.ofNat 64 (c.bits 1 56 8), c.dw 2, c.dw 3]
  engAccept c cl rest [] (fmtsOk (c.dw 1)) (s.tokenOk cl c)
  let k := s.cluster cl
  let old := k.fmt c.src
  Eng.put (s.setCluster cl { k with fmts := k.fmts.set c.src { old with
    fmt := c.dw 1, vf := if c.cap = 0 then c.vf else old.vf } })
  return (0, 0)

/-! ## Operands of MM.MUL (R179, R232) -/

/-- The element format for a code of fc (R178): 7 is i32. -/
def fcCode (fc : Nat) : Nat := if fc = 7 then 8 else fc

/-- A command's tiles. -/
structure MmTiles where
  a : Placed
  b : Placed
  c : Option Placed
  d : Tile
  hi : Option Placed
  hm : Option Placed
  deriving DecidableEq, Repr

/-- Whether a tile's base selects a SCRATCH register. -/
def Cmd.scratchTile (c : Cmd) (t : Tile) : Bool := (c.seg t.base).type = .scratch

/-- An optional tile. -/
def engOptTile (c : Cmd) (wanted : Bool) (h : Nat) : Eng (Option Tile) := do
  if wanted then return some (← engTile c h) else return none

def engOptPlace (c : Cmd) (t : Option Tile) : Eng (Option Placed) := do
  match t with
  | none => return none
  | some x => return some (← engPlace c x)

/-- The checks of R232 on the operands, and their places. -/
def mmTiles (c : Cmd) (fmt : Word) : Eng MmTiles := do
  let gi := c.flag 1 56
  let bm := c.flag 1 57
  let ta ← engTile c (c.bits 1 0 8)
  let tb ← engTile c (c.bits 1 8 8)
  let tc ← engOptTile c (c.flag 1 58) (c.bits 1 16 8)
  let td ← engTile c (c.bits 1 24 8)
  let ti ← engOptTile c gi (c.bits 1 32 8)
  let tm ← engOptTile c bm (c.bits 1 40 8)
  let fd := fcCode (fmtField fmt 8 4)
  Eng.need (ta.fmt = fmtField fmt 0 4 && tb.fmt = fmtField fmt 4 4 && td.fmt = fd && tc.all (·.fmt = fd)
    && ti.all (fun t => t.fmt = 8 || t.fmt = 9) && tm.all (·.fmt = 10)) badField
  Eng.need (td.rows ≤ 32 && td.cols ≤ 32 && tb.rows ≤ 128 && tb.cols = td.cols && ta.cols = tb.rows
    && (gi || ta.rows = td.rows) && tc.all (fun t => t.rows = td.rows && t.cols = td.cols)
    && ti.all (fun t => td.rows ≤ t.elems) && tm.all (fun t => (tb.rows + 31) / 32 ≤ t.elems)) badField
  let all := [ta, tb, td] ++ tc.toList ++ ti.toList ++ tm.toList
  Eng.need (c.cap = 0 || all.all fun t => !c.scratchTile t) badField
  Eng.need (!c.flag 1 59 || c.scratchTile td) badField
  return MmTiles.mk (← engPlace c ta) (← engPlace c tb) (← engOptPlace c tc) td (← engOptPlace c ti) (← engOptPlace c tm)

/-- The pointer to element `n`, in row-major order, of a tile. -/
def Tile.elemPtr (t : Tile) (n : Nat) : Word :=
  t.base + BitVec.ofNat 64 (n / t.cols * t.stride + (containerOf t.fmt (n % t.cols)).1)

/-- The accesses to the first `n` elements of a tile, in row-major order. -/
def engFirst (p : Placed) (n : Nat) : Eng Unit :=
  (List.range n).forM fun k => engElems p (k / p.tile.cols) (k % p.tile.cols) (k % p.tile.cols + 1) false

/-- The row of the table that holds row `i` of A, for each i: R235 with gi = 1; all checked before a row is read. DESIGN
CHOICE (log 94): the manual does not say whether a bad index or a poisoned hi element at a later position ends the command;
here hi is read whole first, so that the poison does. -/
def mmRows (t : MmTiles) : Eng (List Nat) := do
  match t.hi with
  | none => return List.range t.d.rows
  | some h =>
    engFirst h t.d.rows
    let bits := ((← Eng.state).tileBits h).take t.d.rows
    match bits.findIdx? fun x => t.a.tile.rows ≤ x with
    | some n => throw (badWith (h.tile.elemPtr n))
    | none => return bits

/-- Whether row `i`, column `k` of A lies in a marked block (R236). -/
def markedBlock (hm : Option (List Nat)) (i k : Nat) : Bool :=
  match hm with
  | none => false
  | some ws => ((ws[k / 32]?).getD 0) / 2 ^ (4 * (i / 8) + k % 32 / 8) % 2 = 1

/-- Marked blocks that lie at least partly inside A. -/
def skippedBlocks (hm : Option (List Nat)) (rows cols : Nat) : Nat :=
  ((List.range ((rows + 7) / 8)).flatMap fun rb => (List.range ((cols + 7) / 8)).filter fun cb =>
    markedBlock hm (8 * rb) (8 * cb)).length

/-! ## Decomposition (R238 to R240) -/

/-- The magnitude of an element's value. -/
def FVal.magnitude : FVal → FVal
  | .zero _ => .zero false
  | .num _ m e => .num false m e
  | .inf _ => .inf false
  | .nan x => .nan x

/-- Whether `x` stands before `y` in the order of R238: the greater magnitude, a NaN above every number. -/
def largerMag (x y : FVal) : Bool :=
  match x.isNaN, y.isNaN with
  | true, false => true
  | _, true => false
  | false, false => y.lt x

/-- Inserts a column's magnitude, after those that are not smaller. -/
def insertMag (e : Nat × FVal) : List (Nat × FVal) → List (Nat × FVal)
  | [] => [e]
  | f :: t => if largerMag e.2 f.2 then e :: f :: t else f :: insertMag e t

/-- What the loader makes of A: for each row the columns it takes, and the counts of the completion. -/
structure Loaded where
  taken : List (List Bool)
  dropped : Nat
  kept : Nat
  terms : Nat
  dense : Bool
  deriving DecidableEq, Repr

/-- The nonzero unmarked columns of a row's column group, in the order of R238. -/
def groupOrder (row : List FVal) (marked : Nat → Bool) (g : Nat) : List Nat :=
  let cols := (List.range 8).map fun j => 8 * g + j
  let live := cols.filterMap fun k =>
    match row[k]? with
    | none => none
    | some x => if x.isZero || marked k then none else some (k, x.magnitude)
  (live.foldl (fun acc e => insertMag e acc) []).map Prod.fst

/-- The exact sum of the magnitudes of residual entries is at most the loss bound; a NaN never is (R240). -/
def withinLoss (loss : FVal) (mags : List FVal) : Bool :=
  let sum := mags.foldl (fun acc x => (FVal.add 0 acc x).1) (.zero false)
  !sum.isNaN && !(loss.lt sum)

/-- The loader's choice for t = 1 to 4 (R238 to R240). -/
def decompose (a : List (List FVal)) (marked : Nat → Nat → Bool) (t : Nat) (loss : Option FVal) : Loaded :=
  let groups := (((a.map List.length).headD 0) + 7) / 8
  let order (i : Nat) : List (List Nat) :=
    (List.range groups).map fun g => groupOrder ((a[i]?).getD []) (marked i) g
  let orders := (List.range a.length).map order
  let residual (i : Nat) : List Nat := ((orders[i]?).getD []).flatMap fun g => g.drop (2 * t)
  let total := ((List.range a.length).map fun i => (residual i).length).sum
  if total > 128 then
    Loaded.mk ((List.range a.length).map fun i => (List.range ((a[i]?).getD []).length).map fun k => !marked i k) 0 0 0 true
  else
    let mags (rg : Nat) : List FVal := ((List.range a.length).filter fun i => i / 8 = rg).flatMap fun i =>
      (residual i).map fun k => ((((a[i]?).getD [])[k]?).getD (.zero false)).magnitude
    let drops (rg : Nat) : Bool :=
      match loss with
      | none => false
      | some l => !(mags rg).isEmpty && withinLoss l (mags rg)
    let dropped := ((List.range 4).map fun rg => if drops rg then (mags rg).length else 0).sum
    let used (n : Nat) : Bool := orders.any fun r => r.any fun g => 2 * n < g.length
    let takes (i k : Nat) : Bool :=
      ((((orders[i]?).getD [])[k / 8]?).getD []).contains k && !(drops (i / 8) && (residual i).contains k)
    Loaded.mk ((List.range a.length).map fun i => (List.range ((a[i]?).getD []).length).map fun k => takes i k)
      dropped (total - dropped) ((List.range t).filter used).length false

/-! ## Computing (R233, R234) -/

/-- Elements of a matrix row, in groups of four with the products taken. -/
def productGroups (rm : Nat) (fz : Bool) (row : List Elem) (col : List Elem) (taken : List Bool) :
    List (List (FVal × BitVec 16)) :=
  let all := (row.zip col).zip taken
  (List.range ((all.length + 3) / 4)).map fun g =>
    ((all.drop (4 * g)).take 4).filterMap fun e => if e.2 then some (Elem.mul rm fz e.1.1 e.1.2) else none

/-- The accumulation over the groups that take a product (R233, R52). -/
def accumulate (rm : Nat) (fz : Bool) (groups : List (List (FVal × BitVec 16))) (acc : Nat) (fl : BitVec 16) :
    Nat × BitVec 16 :=
  groups.foldl (fun st g =>
    if g.isEmpty then st
    else
      let f := g.foldl (fun f e => f ||| e.2) st.2
      let (r, f2) := sumGroups rm fz 1 (g.map Prod.fst) (some st.1) f
      (r.getD st.1, f2)) (acc, fl)

/-- The integer of an element. -/
def Elem.toInt : Elem → Int
  | .int v => v
  | _ => 0

/-- The wrapped i32 accumulation (R54, R233). -/
def accumulateInt (row col : List Elem) (taken : List Bool) (acc : Int) : Nat :=
  (intSum (((row.zip col).zip taken).map fun e => if e.2 then e.1.1.toInt * e.1.2.toInt else 0) acc).toNat
where
  intSum (l : List Int) (acc : Int) : Int := (l.foldl (· + ·) acc) % 2 ^ 32

/-- Delivery of an accumulator in fc (R234). -/
def mmDeliver (fc rm : Nat) (sat fz : Bool) (sc : Int) (acc : Nat) : Nat × BitVec 16 :=
  let narrow (f : Ieee) : Nat × BitVec 16 :=
    let v := f32.decode fz acc
    let (b, fl) := f.deliver rm fz v
    if sat && fl &&& flagOF ≠ 0 then (f.maxBits (f32.sign acc), flagSAT ||| flagOF ||| flagNX) else (b, fl)
  match fc with
  | 1 => narrow f16
  | 2 => narrow bf16
  | 3 => toL false sc (f32.decode fz acc)
  | 4 => toL true sc (f32.decode fz acc)
  | _ => (acc, 0)

/-- The matrices of a command as read. -/
structure MmVals where
  a : List (List Elem)
  b : List (List Elem)
  c : Option (List (List Elem))
  taken : List (List Bool)
  deriving DecidableEq, Repr

/-- One output element. -/
def mmElem (fmt : Word) (row col : List Elem) (taken : List Bool) (c : Option Elem) : Nat × BitVec 16 :=
  let rm := fmtField fmt 12 3
  let fz := fmt.getLsbD 16
  let fc := fmtField fmt 8 4
  if fc = 7 then (accumulateInt row col taken ((c.map Elem.toInt).getD 0), 0)
  else
    let (start, f0) := match c with
      | none => (0, 0)
      | some e =>
        let (bits, fl) := f32.deliver rm fz e.val
        (bits, fl ||| flagIf e.val.signals flagNV)
    let (acc, f1) := accumulate rm fz (productGroups rm fz row col taken) start f0
    let (bits, f2) := mmDeliver fc rm (fmt.getLsbD 15) fz (fmt.extractLsb' 48 8).toInt acc
    (bits, f1 ||| f2)

/-- An element of a matrix. -/
def matrixAt (m : List (List Elem)) (i j : Nat) : Elem := (((m[i]?).getD [])[j]?).getD (.int 0)

/-- Every output row, and the flags gathered. -/
def mmCompute (fmt : Word) (v : MmVals) (cols : Nat) : List (List Nat) × BitVec 16 :=
  let column (j : Nat) : List Elem := (List.range v.b.length).map fun k => matrixAt v.b k j
  let rows := (List.range v.a.length).map fun i =>
    (List.range cols).map fun j =>
      mmElem fmt ((v.a[i]?).getD []) (column j) ((v.taken[i]?).getD [])
        (v.c.map fun m => matrixAt m i j)
  (rows.map fun r => r.map Prod.fst, rows.foldl (fun f r => r.foldl (fun f e => f ||| e.2) f) 0)

/-- The elements of row `i` of a placed operand, in a format with the context's scale. -/
def State.mmRow (s : State) (p : Placed) (i : Nat) (fz : Bool) (scale : Int) : List Elem :=
  (s.rowBits p i).map fun b => (fmtOfCode p.tile.fmt).read fz scale b

/-- Reads the operands: a refused access or poison ends the command before any write (R174, R246); a marked block is not read
(R236). DESIGN CHOICE (log 101): where several operands hold a poisoned word, the manual does not say whose pointer POISON gives;
here they are taken in the order hi, hm, A, B, C. -/
def mmRead (c : Cmd) (fmt : Word) (t : MmTiles) : Eng (MmVals × Loaded × Nat) := do
  let rows ← mmRows t
  let s ← Eng.state
  let fz := fmt.getLsbD 16
  let k := t.b.tile.rows
  match t.hm with
  | some h => engFirst h ((k + 31) / 32)
  | none => pure ()
  let hm := t.hm.map s.tileBits
  (List.range rows.length).forM fun i => (List.range ((k + 7) / 8)).forM fun g =>
    if markedBlock hm i (8 * g) then pure () else engElems t.a ((rows[i]?).getD 0) (8 * g) (Nat.min (8 * g + 8) k) false
  engRows t.b false
  match t.c with
  | some p => engRows p false
  | none => pure ()
  let sa := (fmt.extractLsb' 32 8).toInt
  let sb := (fmt.extractLsb' 40 8).toInt
  let sc := (fmt.extractLsb' 48 8).toInt
  let a := rows.map fun r => s.mmRow t.a r fz sa
  let b := (List.range k).map fun r => s.mmRow t.b r fz sb
  let cv := t.c.map fun p => (List.range t.d.rows).map fun r => s.mmRow p r fz sc
  let n := c.bits 2 0 3
  let loss := if c.flag 2 3 then some (f32.decode false (c.bits 2 32 32)) else none
  let ld :=
    if n = 0 then
      Loaded.mk ((List.range a.length).map fun i => (List.range k).map fun j => !markedBlock hm i j) 0 0 0 false
    else decompose (a.map fun r => r.map Elem.val) (markedBlock hm) n loss
  return (MmVals.mk a b cv ld.taken, ld, skippedBlocks hm t.d.rows k)

/-- The OK word of the completion (R180). -/
def mmWord (ld : Loaded) (skipped : Nat) : Word :=
  BitVec.ofNat 64 (skipped % 65536 + ld.dropped * 2 ^ 16 + ld.kept * 2 ^ 24 + ld.terms * 2 ^ 32
    + (if ld.dense then 2 ^ 35 else 0))

/-! ## Delivery (R243, R244) -/

/-- The core that receives row `i`: with rtc = 1 the map's, else the pusher. -/
def Cmd.receiver (c : Cmd) (cl i : Nat) : Nat :=
  if c.flag 1 59 then cl * 16 + c.bits (3 + i / 16) (4 * (i % 16)) 4 else c.core

/-- A row that touches the handle table of its scratchpad (R207, R243). -/
def Cmd.inTable (c : Cmd) (q : Word) (n : Nat) : Bool :=
  let g := c.seg q
  g.type = .scratch && limitCheck g q n && handleTableFrom < g.base + ptrOff q + n

/-- Writes row `i` of D: BAD with the row's pointer where R243 refuses it, all ones where the handle fails in another way
(R166, R246). -/
def mmDeliverRow (c : Cmd) (cl : Nat) (d : Tile) (i : Nat) (bits : List Nat) : Eng Unit := do
  let s ← Eng.state
  let q := ptrPlus d.base (i * d.stride)
  let core := c.receiver cl i
  let refused := if c.inTable q d.rowLen then badWith q else badField
  Eng.need (ptrOff d.base + i * d.stride < 2 ^ 48) badField
  match s.segCheck core c.vf c.segs q d.rowLen needStore false q with
  | .error _ => throw refused
  | .ok (g, _) =>
    Eng.need g.type.onChip badField
    Eng.need (g.type ≠ .scratch || (s.core core).resident = some c.vf) (badWith q)
    Eng.put (s.writeRuns c.vf (s.runsOf core c.vf g (ptrOff q) d.rowLen) (rowOfBits d.fmt bits))

/-- What advancing a receiving core's ring comes to. -/
inductive Advanced where
  | ok (s : State)
  | full
  | fail (h : Halt)
  deriving DecidableEq, Repr

/-- The place of a receiving core's ring header: its base checked through the pusher's segment registers (R218, R244). -/
def State.ringPlace (s : State) (c : Cmd) (core : Nat) (r : Ring) : Option Loc :=
  let g := c.seg r.base
  match s.segCheck (if g.type = .scratch then core else c.core) c.vf c.segs r.base 16 needReadWrite false r.base with
  | .error _ => none
  | .ok (g, .chip l) => if g.type.onChip && !(c.cap ≠ 0 && g.type = .scratch) then some l else none
  | .ok (_, .linear _) => none

/-- The ring hr of a receiving core as its handle table holds it now. -/
def State.mmRing (s : State) (c : Cmd) (core : Nat) : Word × Word := (s.core core).handle (BitVec.ofNat 8 (c.bits 1 48 8))

/-- radv.p 1 by Millstone for a receiving core on a ring that it looked up (R188, R244). -/
def State.mmAdvance (s : State) (c : Cmd) (core : Nat) (ring : Word × Word) : Advanced :=
  match ringOf ring with
  | none => .fail badField
  | some r =>
    match s.ringPlace c core r with
    | none => .fail badField
    | some loc =>
      match s.headerPoison r.base loc with
      | some q => .fail (.status statusPoison q)
      | none =>
        let (p, k) := s.header loc
        if r.slots ≤ ringFilled p k then .full else .ok (s.putHeader c.vf loc 0 (ringMove p 1 r.slots))

/-- How the delivery of a command's rows ends. -/
inductive Delivered where
  | done
  /-- the advance of row `row` waits for a slot of the ring -/
  | held (row : Nat) (ring : Word × Word)
  deriving DecidableEq, Repr

/-- Delivers the rows from `i` on, each followed by its ring advance (R244). -/
def mmDeliverRows (c : Cmd) (cl : Nat) (d : Tile) (i : Nat) : List (List Nat) → Eng Delivered
  | [] => return .done
  | r :: rest => do
    mmDeliverRow c cl d i r
    if !c.flag 1 60 then
      Eng.count (i + 1)
      mmDeliverRows c cl d (i + 1) rest
    else
      let s ← Eng.state
      let ring := s.mmRing c (c.receiver cl i)
      match s.mmAdvance c (c.receiver cl i) ring with
      | .ok s1 =>
        Eng.put (s1.mark c fun m => { m with advances := i + 1 })
        Eng.count (i + 1)
        mmDeliverRows c cl d (i + 1) rest
      | .full => return .held i ring
      | .fail h => throw h

/-! ## Commands -/

/-- Must-be-0 fields, term count and loss bound of MM.MUL (R179, R232). DESIGN CHOICE (log 101): a loss bound that is negative is
BAD, and the manual does not say whether −0 counts as negative; here it does not. -/
def mmMulFields (c : Cmd) : Bool :=
  let loss := c.bits 2 32 32
  c.bits 1 61 3 = 0 && c.bits 2 4 28 = 0 && c.bits 7 1 63 = 0 && c.bits 2 0 3 ≤ 4
    && (!c.flag 2 3 || (match f32.decode false loss with
        | .zero _ => true
        | .num n _ _ => !n
        | _ => false))

/-- The part of MM.MUL before delivery: its rows, word and flags. -/
def mmMulRead (cl : Nat) (c : Cmd) : Eng (Tile × List (List Nat) × Word × BitVec 16) := do
  let s ← Eng.state
  engFields c cl [] (mmMulFields c) (s.tokenOk cl c)
  let fmt := ((s.cluster cl).fmt c.src).fmt
  let t ← mmTiles c fmt
  engPointers c []
  let (v, ld, skipped) ← mmRead c fmt t
  let (rows, fl) := mmCompute fmt v t.d.cols
  return (t.d, rows, mmWord ld skipped, fl)

/-- Ends a Millstone command after its delivery, or keeps it where its advance waits (R244). -/
def mmFinish (c : Cmd) (cl : Nat) (keep : Keep) (rows : List (List Nat)) (word : Word) (fl : BitVec 16)
    (r : EStateM.Result Halt Run Delivered) : State :=
  match r with
  | .ok .done run => endCmd run.s c cl keep 0 run.done word fl
  | .ok (.held row ring) run =>
    let k := run.s.cluster cl
    let h := RowHold.mk { c with done := run.done } ring row true rows word fl
    run.s.setCluster cl { k with held := (k.held.filter RowHold.waits) ++ h :: k.held.filter fun x => !x.waits }
  | .error (.status code w) run => endCmd run.s c cl keep code run.done w fl
  | .error _ run => endCmd run.s c cl keep statusBad run.done (BitVec.allOnes 64) fl

/-- Places of the hold (R244), and of the stages before the deliver stage (R242). -/
def mmHold : Nat := 4
def mmStages : Nat := 4

/-- While the hold is full and one more advance waits, the deliver stage is taken (R244). -/
def Cluster.deliverBusy (k : Cluster) : Bool := mmHold < (k.held.filter RowHold.waits).length

/-- Whether a source's oldest command may be accepted, or goes on (R230). -/
def State.mmEligible (s : State) (cl src : Nat) : Bool :=
  match headOf (s.cluster cl).queues portMm src with
  | none => false
  | some (_, c) =>
    s.mayRun c && (c.seq.isSome || ((s.parts.get (s.partOf cl) Part.idle).resident = some c.vf
      && !(s.cluster (clusterOf c.core)).full))

/-- Whether a source's oldest command has delivered its rows and has its arrival write and completion alone to make, which take no
stage (R242). -/
def State.mmEnds (s : State) (cl src : Nat) : Bool := (headOf (s.cluster cl).queues portMm src).any fun e => e.2.ending.isSome

/-- The next source in turn (R230); with every stage taken, one whose command ends. -/
def State.mmNext (s : State) (cl : Nat) : Option Nat :=
  let busy := mmStages ≤ ((s.cluster cl).held.filter fun h => !h.waits).length
  ((List.range 32).map fun j => ((s.cluster cl).turn + j) % 32).find? fun src =>
    s.mmEligible cl src && (!busy || s.mmEnds cl src)

/-- Acceptance of the command of a source, if it is the next one in turn and has an opcode of `ops` (R230). -/
def mmAccept (s : State) (cl src : Nat) (ops : Nat → Bool) (run : State → Cmd → Keep → State) : Out :=
  if s.mmNext cl ≠ some src then .next s
  else
    match headOf (s.cluster cl).queues portMm src with
    | none => .next s
    | some (k, c) =>
      if !ops c.opcode then .next s
      else
        match s.acceptRecord c with
        | none => .next s
        | some (s1, c1) =>
          let x := s1.cluster cl
          let s2 := (s1.setCluster cl { x with turn := if c.seq.isSome then x.turn else (src + 1) % 32 }).takeCmd cl k
          .next (run s2 c1 (keepCmd cl k))

/-- MM.FMT (R178, R229); an opcode that Millstone does not list is BAD (R186). -/
def execMmFmt (cl src : Nat) (s : State) : Out :=
  mmAccept s cl src (fun o => o ≠ 2) fun s c keep => runCmd s c cl keep (mmFmtBody cl c)

/-- MM.MUL (R179, R233 to R246). -/
def execMmMul (cl src : Nat) (s : State) : Out :=
  mmAccept s cl src (fun o => o = 2) fun s c keep =>
    if c.fatal.isSome || c.ending.isSome then runCmd s c cl keep (return (0, 0))
    else
      match (mmMulRead cl c).run (Run.mk s 0) with
      | .error (.status code w) r => endCmd r.s c cl keep code 0 w 0
      | .error _ r => endCmd r.s c cl keep statusBad 0 (BitVec.allOnes 64) 0
      | .ok (d, rows, word, fl) r =>
        let k := r.s.cluster cl
        if k.deliverBusy || k.held.any (fun h => !h.waits) then
          r.s.setCluster cl { k with held := k.held ++ [RowHold.mk c (0, 0) 0 false rows word fl] }
        else mmFinish c cl keep rows word fl ((mmDeliverRows c cl d 0 rows).run r)

/-- A held command goes on with the delivery of its rows from row `i` (R243, R244). -/
def mmGoOn (cl : Nat) (s : State) (h : RowHold) (keep : Keep) (i : Nat) : State :=
  match tileOf (h.cmd.handle (h.cmd.bits 1 24 8)) with
  | none => s
  | some d => mmFinish h.cmd cl keep h.rows h.word h.flags ((mmDeliverRows h.cmd cl d i (h.rows.drop i)).run (Run.mk s i))

/-- Whether held command `k` may go on: its advance waits for a slot, or it is the oldest computed one and the deliver stage
is free (R242). -/
def Cluster.mayGoOn (x : Cluster) (k : Nat) (h : RowHold) : Bool :=
  h.waits || (!x.deliverBusy && (x.held.take k).all RowHold.waits)

/-- MM_ROW_ADVANCE (R244): a held advance proceeds once its ring has a slot free, and the command with it; a command that
waits for the deliver stage enters it once it is free. -/
def execMmRowAdvance (cl k : Nat) (s : State) : Out :=
  let x := s.cluster cl
  match x.held[k]? with
  | none => .next s
  | some h =>
    let s1 := s.setCluster cl { x with held := x.held.eraseIdx k }
    let keep : Keep := fun s c => s.setCluster cl { s.cluster cl with queues := c :: (s.cluster cl).queues }
    if !x.mayGoOn k h then .next s
    else if !h.waits then .next (mmGoOn cl s1 h keep h.row)
    else
      match s1.mmAdvance h.cmd (h.cmd.receiver cl h.row) h.ring with
      | .full => .next s
      | .fail (.status code w) => .next (endCmd s1 h.cmd cl keep code h.cmd.done w h.flags)
      | .fail _ => .next (endCmd s1 h.cmd cl keep statusBad h.cmd.done (BitVec.allOnes 64) h.flags)
      | .ok s2 => .next (mmGoOn cl (s2.mark h.cmd fun m => { m with advances := h.row + 1 }) h keep (h.row + 1))

end Sys2Proof.Machine
end

