-- ==== Sys2Proof/Machine/Movers.lean ====
section
/-! DEFINITION. Movers: Sluice, Flume, Bolter and Quern (07, R181 to R184; 08, R224, R225; 10_bolter_sluice_quern.md). -/
namespace Sys2Proof.Machine

/-! ## Runs of bytes at a pointer -/

/-- Whether `n` bytes at a pointer pass the attached limit and rights, without an answer. -/
def Cmd.reaches (c : Cmd) (s : State) (q : Word) (n : Nat) (need : Need) : Bool :=
  match s.segCheck c.core c.vf c.segs q n need false q with
  | .ok _ => true
  | .error _ => false

/-- How many of `n` bytes from a pointer one access takes: up to the end of an 8-byte word. -/
def spanOf (s : State) (c : Cmd) (q : Word) (n : Nat) : Nat :=
  let pos := match s.site c.core c.vf (c.seg q) (ptrOff q) with
    | .chip l => l.pos
    | .linear a => a
  Nat.min n (8 - pos % 8)

/-- The same for Flume, which ends at the byte that fails (R225): a single byte where the rest does not pass. -/
def flSpan (s : State) (c : Cmd) (q : Word) (n : Nat) (need : Need) : Nat :=
  let m := spanOf s c q n
  if c.reaches s q m need then m else 1

/-- Reads `n` bytes from a pointer. -/
def engReadN (c : Cmd) (cl : Nat) (q : Word) (n : Nat) (need : Need) (acc : Access) : Nat → Eng Nat
  | 0 => return 0
  | fuel + 1 => do
    if n = 0 then return 0
    let m := spanOf (← Eng.state) c q n
    let v ← engRead c cl q m need acc
    return v + 256 ^ m * (← engReadN c cl (ptrPlus q m) (n - m) need acc fuel)

/-- Checks that `n` bytes from a pointer can be written. -/
def engCheckN (c : Cmd) (cl : Nat) (q : Word) (n : Nat) (need : Need) (acc : Access) : Nat → Eng Unit
  | 0 => return ()
  | fuel + 1 => do
    if n = 0 then return ()
    let m := spanOf (← Eng.state) c q n
    let _ ← engWritable c cl q m need acc
    engCheckN c cl (ptrPlus q m) (n - m) need acc fuel

/-- Writes `n` bytes from a pointer. -/
def engWriteN (c : Cmd) (cl : Nat) (q : Word) (n v : Nat) (need : Need) (acc : Access) : Nat → Eng Unit
  | 0 => return ()
  | fuel + 1 => do
    if n = 0 then return ()
    let m := spanOf (← Eng.state) c q n
    engWrite c cl q m (v % 256 ^ m) need acc
    engWriteN c cl (ptrPlus q m) (n - m) (v / 256 ^ m) need acc fuel

/-! ## Sluice (R181, R254 to R256) -/

/-- What a Sluice command works on. -/
structure Sluice where
  hi : Placed
  hp : Placed
  rowlen : Nat
  table : Word
  stride : Nat
  rows : Nat
  ety : Nat
  deriving DecidableEq, Repr

/-- Checks at acceptance (R181, R254). -/
def slSetup (c : Cmd) (cl : Nat) : Eng Sluice := do
  let add := c.opcode = 3
  let rowlen := c.bits 1 32 32
  let ety := c.bits 1 16 4
  let zero := [BitVec.ofNat 64 (c.bits 1 20 12), BitVec.ofNat 64 (c.bits 3 40 24), BitVec.ofNat 64 (c.bits 4 40 24),
    BitVec.ofNat 64 (c.bits 7 1 63)]
  engAccept c cl zero [c.dw 2] ((if add then ety ≤ 2 else ety = 0) && 8 ≤ rowlen && rowlen ≤ 65536 && rowlen % 8 = 0) true
  let ti ← engTile c (c.bits 1 0 8)
  let tp ← engTile c (c.bits 1 8 8)
  let table := c.dw 2
  let stride := c.bits 3 0 40
  Eng.need (ti.fmt = 8 || ti.fmt = 9) badField
  Eng.need (ti.elems ≤ tp.rows && rowlen ≤ tp.rowLen && tp.base.toNat % 8 = 0 && stride % 8 = 0 && rowlen ≤ stride) badField
  Eng.need (ptrOff table % 8 = 0 && (c.seg table).type ≠ .code) (badWith table)
  return Sluice.mk (← engPlace c ti) (← engPlace c tp) rowlen table stride (c.bits 4 0 40) ety

/-- The rights of a Sluice access to its table. -/
def needAdd : Need := needAtomic

/-- The index of an entry, checked, and the pointers of its table row and of its packed row (R254, R256). -/
def slIndex (x : Sluice) (e : Nat) : Eng (Word × Word) := do
  let s ← Eng.state
  let i := e / x.hi.tile.cols
  let j := e % x.hi.tile.cols
  engElems x.hi i j (j + 1) true
  let r := ((s.rowBits x.hi i)[j]?).getD 0
  Eng.need (r < x.rows && !(x.hi.tile.fmt = 8 && 2 ^ 31 ≤ r)) (badWith (x.hi.tile.elemPtr e))
  return (← engPtr x.table (r * x.stride), ← engPtr x.hp.tile.base (e * x.hp.tile.stride))

/-- One entry of SL.GATHER or SL.SCATTER: its index, its source row whole, its destination's checks, then its writes
(R255, R256). -/
def slEntry (c : Cmd) (cl : Nat) (x : Sluice) (e : Nat) : Eng Unit := do
  let (tq, pq) ← slIndex x e
  let (src, dst) := if c.opcode = 2 then (pq, tq) else (tq, pq)
  let v ← engReadN c cl src x.rowlen needLoad .read x.rowlen
  engCheckN c cl dst x.rowlen needStore .write x.rowlen
  engWriteN c cl dst x.rowlen v needStore .write x.rowlen
  Eng.count (e + 1)

/-- The entries of SL.GATHER or SL.SCATTER, from the first not yet done. -/
def slBody (cl : Nat) (c : Cmd) : Eng (Word × BitVec 16) := do
  let x ← slSetup c cl
  (List.range (x.hi.tile.elems - c.done)).forM fun k => slEntry c cl x (c.done + k)
  return (0, 0)

/-- The linear page of a pointer's first byte. -/
def linearPage (c : Cmd) (q : Word) : Nat := ((c.seg q).base + ptrOff q) % 2 ^ 48 / 4096

/-- The place of `m` bytes of a table row at a pointer: on chip its own, in paged memory by the guest pages to which the pages of
the row, from page `first` on, were translated when its entry was checked (R256). -/
def slPlace (c : Cmd) (pages : List Nat) (first : Nat) (q : Word) (m : Nat) : Eng Loc := do
  match (← engSite c q m needAdd).2 with
  | .chip l => return l
  | .linear a => return .paged c.vf (((pages[a % 2 ^ 48 / 4096 - first]?).getD 0) * 4096 + a % 4096)

/-- The guest pages of a table row of `n` bytes at a pointer, translated for its atomic adds; none for a row on chip. -/
def slPages (c : Cmd) (cl : Nat) (q : Word) (n : Nat) : Eng (List Nat) := do
  match (← engSite c q 1 needAdd).2 with
  | .chip _ => return []
  | .linear a =>
    (List.range ((a % 4096 + n - 1) / 4096 + 1)).mapM fun j => do
      let from_ := if j = 0 then 0 else 4096 * j - a % 4096
      let loc ← engLinear c cl (ptrPlus q from_) (a + from_) .atomic
      return loc.pos / 4096

/-- The words that hold `n` bytes at a pointer, read for an atomic: in module memory, not poisoned (R254, R256). -/
def slTake (c : Cmd) (cl : Nat) (pages : List Nat) (first : Nat) (q : Word) (n : Nat) : Nat → Eng Nat
  | 0 => return 0
  | fuel + 1 => do
    if n = 0 then return 0
    let m := spanOf (← Eng.state) c q n
    let loc ← slPlace c pages first q m
    Eng.need (!loc.host) (badWith q)
    let w ← engWord c cl q loc .atomic
    return w.bytes loc.off m + 256 ^ m * (← slTake c cl pages first (ptrPlus q m) (n - m) fuel)

/-- The same bytes written. -/
def slPut (c : Cmd) (cl : Nat) (pages : List Nat) (first : Nat) (q : Word) (n v : Nat) : Nat → Eng Unit
  | 0 => return ()
  | fuel + 1 => do
    if n = 0 then return ()
    let m := spanOf (← Eng.state) c q n
    let loc ← slPlace c pages first q m
    let s ← Eng.state
    Eng.put (s.storeOrdinary c.vf loc m (v % 256 ^ m) (s.engSecure c cl))
    slPut c cl pages first (ptrPlus q m) (n - m) (v / 256 ^ m) fuel

/-- The checks of every element of a table row, each one access, before any is added (R256). -/
def slAddCheck (c : Cmd) (cl : Nat) (pages : List Nat) (first : Nat) (q : Word) (n : Nat) : Nat → Eng Unit
  | 0 => return ()
  | k + 1 => do
    let _ ← engSite c q n needAdd
    let _ ← slTake c cl pages first q n n
    slAddCheck c cl pages first (ptrPlus q n) n k

/-- An element of SL.SCATADD: one atomic add at its place of execution, whose window takes its key (R143, R255, R398). -/
def slAdd (c : Cmd) (cl : Nat) (ety : Nat) (pages : List Nat) (first : Nat) (q : Word) (x : Nat) : Eng Unit := do
  let n := c.elemBytes
  let t ← slTake c cl pages first q n n
  let v := if ety = 2 then (f32.deliver 0 false (FVal.add 0 (f32.decode false t) (f32.decode false x)).1).1
    else (t + x) % 256 ^ n
  let loc ← slPlace c pages first q (spanOf (← Eng.state) c q n)
  slPut c cl pages first q n v n
  let s0 ← Eng.state
  let s := if s0.unacked c = 0 then s0.restartAck c else s0
  Eng.put (s.noteKey (s.placeNumber loc) (clusterOf c.core) (c.seq.getD 0, c.sent))

/-- The next entry of SL.SCATADD starts: its index, its source row read whole, the pages of its table row and the checks of its
elements (R255, R256). -/
def slStart (c : Cmd) (cl : Nat) (x : Sluice) : Eng Cmd := do
  let (tq, pq) ← slIndex x c.done
  let v ← engReadN c cl pq x.rowlen needLoad .read x.rowlen
  let pages ← slPages c cl tq x.rowlen
  slAddCheck c cl pages (linearPage c tq) tq c.elemBytes c.perEntry
  return { c with row := some (ScatterRow.mk tq v pages), elem := 0 }

/-- One step of SL.SCATADD: the start of an entry, or its next element, of which 64 at most are unacknowledged (R256, R398). The bit
says that the last element is acknowledged. -/
def slAddStep (cl : Nat) (c : Cmd) : Eng (Cmd × Bool) := do
  let x ← slSetup c cl
  let open_ := (← Eng.state).unacked c
  if c.done = x.hi.tile.elems then return (c, open_ = 0)
  match c.row with
  | none => return (← slStart c cl x, false)
  | some r =>
    if keysKept ≤ open_ then return (c, false)
    let at_ := c.elem * c.elemBytes
    slAdd c cl x.ety r.pages (linearPage c r.ptr) (ptrPlus r.ptr at_) (r.bits / 256 ^ at_ % 256 ^ c.elemBytes)
    return (if c.elem + 1 = c.perEntry then { c with done := c.done + 1, elem := 0, row := none }
      else { c with elem := c.elem + 1 }, false)

/-- SL.SCATADD goes on by one element, so that the additions of others come between (R255); it ends, as any command does, once the
last element that it sent is acknowledged. An element that fails after its entry's checks passed ends the command with the whole
entries as its count, the entry partly added: DESIGN CHOICE (log 102). -/
def slAddRun (cl : Nat) (s : State) (c : Cmd) (keep : Keep) : State :=
  if c.fatal.isSome || c.ending.isSome then runCmd s c cl keep (pure (0, 0))
  else
    match (slAddStep cl c).run (Run.mk s c.done) with
    | .error (.status code w) r => if s.unacked c = 0 then endCmd r.s c cl keep code c.done w 0 else keep s c
    | .error (.stage2 q g acc) r =>
      (keep r.s { c with request := some r.s.nextTag }).request c.vf g acc (.engine c.who c.port) q 0
    | .error .hold r => keep r.s c
    | .ok (c1, true) r => endCmd r.s c1 cl keep 0 c1.done 0 0
    | .ok (c1, false) r => keep r.s c1

/-- SL.GATHER (R254); an opcode that Sluice does not list is BAD (R186). -/
def execSlGather (cl : Nat) (s : State) : Out := clusterEngine s cl portSl (fun o => o ≠ 2 && o ≠ 3) (slBody cl)

/-- SL.SCATTER (R254). -/
def execSlScatter (cl : Nat) (s : State) : Out := clusterEngine s cl portSl (fun o => o = 2) (slBody cl)

/-- SL.SCATADD (R254, R255). -/
def execSlScatadd (cl : Nat) (s : State) : Out := clusterEngineBy s cl portSl (fun o => o = 3) (slAddRun cl)

/-! ## Flume (R182, R224, R225) -/

/-- Flume's word on POISON is the pointer of the byte that failed (R182). -/
def flHalt (q : Word) : Halt → Halt
  | .status code w => if code = statusPoison then .status code q else .status code w
  | h => h

/-- The bytes of a source that can be read from a pointer, lowest first, and why the reading stopped. -/
def flRead (c : Cmd) (cl : Nat) (q : Word) : Nat → Run → List Byte × Option Halt × Run
  | 0, r => ([], none, r)
  | n + 1, r =>
    match (engRead c cl q 1).run r with
    | .error h r1 => ([], some (flHalt q h), r1)
    | .ok v r1 =>
      let (t, h, r2) := flRead c cl (ptrPlus q 1) n r1
      (BitVec.ofNat 8 v :: t, h, r2)

/-- Writes bytes from a pointer, counting each. -/
def flWrite (c : Cmd) (cl : Nat) (q : Word) : Nat → List Byte → Eng Unit
  | 0, _ => return ()
  | fuel + 1, bytes => do
    if bytes.isEmpty then return ()
    let r ← get
    let m := flSpan r.s c q bytes.length needStore
    let v := (bytes.take m).foldr (fun b acc => b.toNat + 256 * acc) 0
    engWrite c cl q m v
    Eng.count (r.done + m)
    flWrite c cl (ptrPlus q m) fuel (bytes.drop m)

/-- How far the translation of `n` bytes from a pointer gets for a write: to a stop that is no end of the command (R352,
R361), or to the end or to a byte that cannot be written. -/
def flReach (c : Cmd) (cl : Nat) (q : Word) : Nat → Nat → Run → Option Halt × Run
  | 0, _, r => (none, r)
  | fuel + 1, n, r =>
    if n = 0 then (none, r)
    else
      let m := flSpan r.s c q n needStore
      match (engWritable c cl q m needStore .write).run r with
      | .ok _ r1 => flReach c cl (ptrPlus q m) fuel (n - m) r1
      | .error (.status _ _) r1 => (none, r1)
      | .error h r1 => (some h, r1)

/-- A stop after which the command goes on. -/
def Halt.resumes : Halt → Bool
  | .status _ _ => false
  | _ => true

/-- One block: its source is read whole, then its destination written up to the first failing byte of either. One that
stops for a page request or a reclassification has written nothing, and starts again as a block (R225). -/
def flBlock (c : Cmd) (cl : Nat) (at_ n : Nat) : Eng Unit := do
  let r ← get
  let (bytes, stop, r1) := flRead c cl (ptrPlus (c.dw 2) at_) n r
  set r1
  match stop.filter Halt.resumes with
  | some h => throw h
  | none => pure ()
  let (wait, r2) := flReach c cl (ptrPlus (c.dw 1) at_) bytes.length bytes.length r1
  set r2
  match wait with
  | some h => throw h
  | none => pure ()
  flWrite c cl (ptrPlus (c.dw 1) at_) n bytes
  match stop with
  | some h => throw h
  | none => return ()

/-- Blocks of `size` bytes from byte `at_` of a copy. -/
def flBlocks (c : Cmd) (cl : Nat) (size at_ n : Nat) : Nat → Eng Unit
  | 0 => return ()
  | fuel + 1 => do
    if n = 0 then return ()
    let m := Nat.min size n
    flBlock c cl at_ m
    flBlocks c cl size (at_ + m) (n - m) fuel

/-- Whether a pointer's first byte lies on chip. -/
def Cmd.onChip (c : Cmd) (q : Word) : Bool := (c.seg q).type.onChip

/-- Paged ranges of one segment register that overlap as linear addresses (R225). -/
def flOverlap (c : Cmd) : Bool :=
  let n := c.bits 3 0 32
  let d := ptrOff (c.dw 1)
  let r := ptrOff (c.dw 2)
  !c.onChip (c.dw 1) && !c.onChip (c.dw 2) && ptrSeg (c.dw 1) = ptrSeg (c.dw 2) && d < r + n && r < d + n

/-- The must-be-0 fields of a Flume command. -/
def flZero (c : Cmd) : List Word :=
  BitVec.ofNat 64 (c.bits 3 32 32) :: (if c.length = 8 then [BitVec.ofNat 64 (c.bits 6 1 63), c.dw 7] else [])

/-- A copy of overlapping ranges within one on-chip memory keeps a progress mark for each 64-byte block that it has done (R398). -/
def flMark (c : Cmd) : Eng Unit := do
  let r ← get
  let n := c.bits 3 0 32
  let at_ (q : Word) : Site := r.s.site c.core c.vf (c.seg q) (ptrOff q)
  match at_ (c.dw 1), at_ (c.dw 2) with
  | .chip a, .chip b => if a.overlaps n b n then Eng.put (r.s.mark c fun m => { m with blocks := (r.done + 63) / 64 })
  | _, _ => return ()

/-- FL.COPY: a copy within on-chip memory acts as if its whole source were read first (R224), a paged one goes in 64-byte
blocks (R225). R224 speaks of one scratchpad or one cluster memory; that overlapping ranges which straddle two clusters' memories
copy so too is DESIGN CHOICE (log 102). -/
def flCopyBody (cl : Nat) (c : Cmd) : Eng (Word × BitVec 16) := do
  engAccept c cl (flZero c) [c.dw 1, c.dw 2] true true
  let n := c.bits 3 0 32
  Eng.need (!(flOverlap c && c.done = 0)) badField
  let chip := c.onChip (c.dw 1) && c.onChip (c.dw 2)
  flBlocks c cl (if chip then n else 64) c.done (n - c.done) (n + 1)
  flMark c
  return (0, 0)

/-- The pattern's bytes for a destination range that starts at byte `at_`. -/
def flPattern (p : Word) (at_ n : Nat) : List Byte :=
  (List.range n).map fun j => BitVec.ofNat 8 (p.toNat / 256 ^ ((at_ + j) % 8))

def flFillBody (cl : Nat) (c : Cmd) : Eng (Word × BitVec 16) := do
  engAccept c cl (flZero c) [c.dw 1] true true
  let n := c.bits 3 0 32 - c.done
  flWrite c cl (ptrPlus (c.dw 1) c.done) n (flPattern (c.dw 2) c.done n)
  return (0, 0)

/-- FL.COPY (R182); an opcode that Flume does not list is BAD (R186). -/
def execFlCopy (cl : Nat) (s : State) : Out := clusterEngine s cl portFl (fun o => o ≠ 2) (flCopyBody cl)

/-- FL.FILL (R182). -/
def execFlFill (cl : Nat) (s : State) : Out := clusterEngine s cl portFl (fun o => o = 2) (flFillBody cl)

/-! ## Bolter (R183, R249 to R253) -/

/-- A pair with its sortable image (R249). -/
structure KeyPair where
  u : Nat
  key : Nat
  ix : Nat
  deriving DecidableEq, Repr

/-- The sortable image of a key pattern. -/
def sortable (int : Bool) (x : Nat) : Nat := if !int && 2 ^ 31 ≤ x then 2 ^ 32 - 1 - x else x ^^^ 2 ^ 31

/-- Whether `a` ranks before `b`. -/
def KeyPair.before (a b : KeyPair) : Bool := b.u < a.u || (a.u = b.u && a.ix < b.ix)

def insertPair (a : KeyPair) : List KeyPair → List KeyPair
  | [] => [a]
  | b :: t => if b.before a then b :: insertPair a t else a :: b :: t

/-- The `k` highest-ranked pairs, in descending rank. -/
def topPairs (k : Nat) (l : List KeyPair) : List KeyPair := l.foldl (fun acc a => (insertPair a acc).take k) []

/-- Whether a key pattern is an f32 NaN. -/
def isNaN32 (x : Nat) : Bool := 0x7F800000 < x % 2 ^ 31

/-- Checks of both commands at acceptance; answers k, the key tile and the output tile. -/
def boSetup (c : Cmd) (cl : Nat) : Eng (Nat × Tile × Tile) := do
  let merge := c.opcode = 2
  let k := c.bits 1 16 7
  let zero := [BitVec.ofNat 64 (c.bits 1 24 8), c.dw 2, c.dw 3, c.dw 4, BitVec.ofNat 64 (c.bits 7 1 63)]
  engAccept c cl zero [] (1 ≤ k && k ≤ 64 && (if merge then c.bits 1 32 32 = 0 else !c.flag 1 23)) true
  let tk ← engTile c (c.bits 1 0 8)
  let to_ ← engTile c (c.bits 1 8 8)
  Eng.need (to_.rows = 1 && 2 * k ≤ to_.cols && (to_.fmt = 0 || to_.fmt = 8 || to_.fmt = 9)) badField
  return (k, tk, to_)

/-- Writes the pairs to the output row, in order. -/
def boWrite (p : Placed) (j : Nat) : List KeyPair → Eng Unit
  | [] => return ()
  | x :: rest => do
    engSpan p (8 * j) 8 needStore false
    let s ← Eng.state
    Eng.put (s.writeRuns p.vf (s.runsOf p.core p.vf p.seg (p.off + 8 * j) 8) (x.key + 2 ^ 32 * x.ix))
    Eng.count (j + 1)
    boWrite p (j + 1) rest

/-- The passes that BO.TOPK makes over its keys (R251). -/
def Cmd.boPasses (c : Cmd) : Nat := if c.bits 1 16 7 ≤ 8 then 3 else 4

/-- One pass of BO.TOPK: the key patterns as it reads them (R250, R252). -/
def boTopkPass (cl : Nat) (c : Cmd) : Eng (List Nat) := do
  let (_, tk, _) ← boSetup c cl
  Eng.need (tk.fmt = 0 || tk.fmt = 1 || tk.fmt = 8) badField
  Eng.need (c.bits 1 32 32 + tk.elems - 1 < 2 ^ 32) badField
  let p ← engPlace c tk
  engRows p false
  let s ← Eng.state
  let wide (x : Nat) : Nat := if tk.fmt = 1 then (f32.deliver 0 false (f16.decode false x)).1 else x
  return (s.tileBits p).map wide

/-- The keys that BO.TOPK ranks, with their elements: those that every pass read, all of them; where the passes differ, a free
choice of elements, each with a value that one of the passes read (R252, log 95). -/
def topkKeys (draw : Nat) (passes : List (List Nat)) : List (Nat × Nat) × List (Nat × Nat) :=
  let first := passes.headD []
  if passes.all (· == first) then (first.zipIdx, first.zipIdx)
  else
    let value (e : Nat) : Nat := ((((passes[Config.topkPass draw e % passes.length]?).getD [])[e]?).getD 0)
    let all := (List.range first.length).map fun e => (value e, e)
    (all, all.filter fun x => Config.topkTakes draw x.2)

/-- The selection and the output of BO.TOPK after its last pass (R250). -/
def boTopkBody (cl : Nat) (c : Cmd) : Eng (Word × BitVec 16) := do
  let (k, tk, to_) ← boSetup c cl
  let s ← Eng.state
  let int := tk.fmt = 8
  let (all, chosen) := topkKeys s.draws c.passes
  Eng.put s.drawn
  let pair (e : Nat × Nat) : KeyPair := KeyPair.mk (sortable int e.1) e.1 (c.bits 1 32 32 + e.2)
  let live (l : List (Nat × Nat)) : List KeyPair := (l.map pair).filter fun e => int || !isNaN32 e.key
  boWrite (← engPlace c to_) 0 (topPairs k (live chosen))
  return (BitVec.ofNat 64 (all.length - (live all).length), 0)

/-- BO.TOPK goes on by one pass, or after the last ends (R251, R252). -/
def boTopkRun (cl : Nat) (s : State) (c : Cmd) (keep : Keep) : State :=
  if c.fatal.isSome || c.ending.isSome then runCmd s c cl keep (boTopkBody cl c)
  else
    match (boTopkPass cl c).run (Run.mk s 0) with
    | .error (.status code w) r => endCmd r.s c cl keep code 0 w 0
    | .error _ r => keep r.s c
    | .ok keys r =>
      let c1 := { c with passes := c.passes ++ [keys] }
      if c1.passes.length < c.boPasses then keep r.s c1 else runCmd r.s c1 cl keep (boTopkBody cl c1)

/-- Pairs of a list of elements. -/
def pairUp : List Nat → List (Nat × Nat)
  | a :: b :: t => (a, b) :: pairUp t
  | _ => []

/-- BO.MERGE (R253). -/
def boMergeBody (cl : Nat) (c : Cmd) : Eng (Word × BitVec 16) := do
  let (k, tk, to_) ← boSetup c cl
  Eng.need ((tk.fmt = 8 || tk.fmt = 9) && tk.rows = 1 && tk.cols % 2 = 0) badField
  let p ← engPlace c tk
  engRows p false
  let s ← Eng.state
  let int := c.flag 1 23
  let pairs := (pairUp (s.tileBits p)).map fun e => KeyPair.mk (sortable int e.1) e.1 e.2
  let live := pairs.filter fun e => int || !isNaN32 e.key
  let once := live.foldl (fun acc e => if acc.contains e then acc else acc ++ [e]) []
  boWrite (← engPlace c to_) 0 (topPairs k once)
  return (BitVec.ofNat 64 (pairs.length - live.length + 2 ^ 32 * (live.length - once.length)), 0)

/-- BO.TOPK (R250); an opcode that Bolter does not list is BAD (R186). -/
def execBoTopk (cl : Nat) (s : State) : Out := clusterEngineBy s cl portBo (fun o => o ≠ 2) (boTopkRun cl)

/-- BO.MERGE (R253). -/
def execBoMerge (cl : Nat) (s : State) : Out := clusterEngine s cl portBo (fun o => o = 2) (boMergeBody cl)

/-! ## Quern (R184, R257 to R259) -/

/-- A table of the VF's Quern table directory (R257). -/
structure QuernTable where
  base : Nat
  scale : Int
  rows : Nat
  /-- in bytes -/
  stride : Nat
  deriving DecidableEq, Repr

/-- A word of the directory, at its guest-physical address: POISON with that address when it is poisoned, a page request
where stage 2 does not reach it, BAD with it in the other world (R166, R352, R394, R407; the word is log 93). -/
def qnDirWord (c : Cmd) (gpa : Nat) : Eng Word := do
  let q : Word := BitVec.ofNat 64 gpa
  let s ← Eng.state
  match s.word (.paged c.vf gpa) false (s.engSecure c (clusterOf c.core)) with
  | .error .stage2 => throw (.stage2 q (gpa / 4096) .read)
  | .error .world => throw (badWith q)
  | .ok w => do
    engTouch (.paged c.vf gpa) false
    if w.poison then throw (.status statusPoison q) else return w.data

/-- The table of a table id (R257): BAD beyond the directory, with v = 0 or with a must-be-0 bit set. -/
def engQuernTable (c : Cmd) (id : Nat) : Eng QuernTable := do
  let x := (← Eng.state).vf c.vf
  Eng.need (!((x.qdbase = 0 && x.qdlen = 0) || x.qdlen < id)) badField
  let lo ← qnDirWord c (x.qdbase + 16 * id)
  let hi ← qnDirWord c (x.qdbase + 16 * id + 8)
  Eng.need (lo.getLsbD 63 && lo.extractLsb' 56 7 == 0) badField
  return QuernTable.mk (lo.extractLsb' 0 48).toNat (lo.extractLsb' 48 8).toInt
    (hi.extractLsb' 0 40).toNat (64 * (hi.extractLsb' 40 24).toNat)

/-- The pointer of a 4-byte element of a command's array, its access checked whole: BAD names the element (R258). -/
def qnPtr (c : Cmd) (q : Word) (k : Nat) (need : Need) : Eng Word := do
  let p ← engPtr q (4 * k)
  let _ ← engSite c p 4 need
  return p

/-- Reads a 4-byte element of a command's array. -/
def qnRead (c : Cmd) (cl : Nat) (q : Word) (k : Nat) : Eng Nat := do
  engReadN c cl (← qnPtr c q k needLoad) 4 needLoad .read 4

/-- Reads `n` bytes at a linear address, word by word. -/
def engLinearN (c : Cmd) (cl a n : Nat) : Nat → Eng Nat
  | 0 => return 0
  | fuel + 1 => do
    if n = 0 then return 0
    let q : Word := BitVec.ofNat 64 a
    let loc ← engLinear c cl q a .read
    let m := Nat.min n (8 - loc.off)
    let w ← engWord c cl q loc .read
    return w.bytes loc.off m + 256 ^ m * (← engLinearN c cl (a + m) (n - m) fuel)

/-- Element `j` of a table row, as a factor (R258); its bytes are read through stage 1 as a linear address. -/
def qnElem (c : Cmd) (cl : Nat) (t : QuernTable) (fmt r j : Nat) : Eng FVal := do
  let n := fmtBytes fmt
  let v ← engLinearN c cl (t.base + t.stride * r + n * j) n n
  return (((fmtOfCode fmt).read false t.scale v).asFactor 0 false).1

/-- The pooled element `j` of a bag (R258). -/
def qnPool (c : Cmd) (cl : Nat) (t : QuernTable) (fmt j lo hi : Nat) : Eng Nat :=
  (List.range (hi - lo)).foldlM (fun v k => do
    let r ← qnRead c cl (c.dw 2) (lo + k)
    let w ← if c.flag 1 20 then pure 0x3F800000 else qnRead c cl (c.dw 3) (lo + k)
    let x ← qnElem c cl t fmt r j
    let p := (FVal.mul (f32.decode false w) x).1
    let sum := if k = 0 then p else (FVal.add 0 (f32.decode false v) p).1
    return (f32.deliver 0 false sum).1) 0

/-- Every boundary pair, then every index, is checked before anything is written (R258). -/
def qnCheck (c : Cmd) (cl : Nat) (t : QuernTable) (bags : Nat) : Eng Unit := do
  (List.range bags).forM fun b => do
    let lo ← qnRead c cl (c.dw 4) b
    let hi ← qnRead c cl (c.dw 4) (b + 1)
    Eng.need (lo ≤ hi) (badWith (ptrPlus (c.dw 4) (4 * (b + 1))))
  let lo ← qnRead c cl (c.dw 4) 0
  let hi ← qnRead c cl (c.dw 4) bags
  (List.range (hi - lo)).forM fun k => do
    let r ← qnRead c cl (c.dw 2) (lo + k)
    Eng.need (r < t.rows) (badWith (ptrPlus (c.dw 2) (4 * (lo + k))))

/-- One bag: its vector is pooled, then written whole (R259). -/
def qnBag (c : Cmd) (cl : Nat) (t : QuernTable) (fmt rowlen b : Nat) : Eng Unit := do
  let lo ← qnRead c cl (c.dw 4) b
  let hi ← qnRead c cl (c.dw 4) (b + 1)
  let v ← (List.range rowlen).mapM fun j => qnPool c cl t fmt j lo hi
  (v.zipIdx).forM fun e => do
    engWriteN c cl (← qnPtr c (c.dw 6) (rowlen * b + e.2) needStore) 4 e.1 needStore .write 4
  Eng.count (b + 1)

/-- QN.BAG (R184, R258, R259). One that goes on after a page request checks every boundary and index again, as they then stand, and
ends BAD with the bags written as its count where one fails: DESIGN CHOICE (log 102). -/
def qnBagBody (c : Cmd) : Eng (Word × BitVec 16) := do
  let cl := clusterOf c.core
  let fmt := c.bits 1 16 4
  let bags := c.bits 5 0 32
  let rowlen := c.bits 5 32 16
  let zero := [BitVec.ofNat 64 (c.bits 1 22 10), BitVec.ofNat 64 (c.bits 5 48 16)]
  let pointers := [c.dw 2] ++ (if c.flag 1 20 then [] else [c.dw 3]) ++ [c.dw 4, c.dw 6]
  engAccept c cl zero pointers (fmt ≤ 3 && 1 ≤ bags && bags ≤ 2 ^ 20 && 1 ≤ rowlen && rowlen ≤ 4096) true
  Eng.need (← Eng.state).platform.badQuern.isEmpty badField
  let ty := (c.seg (c.dw 6)).type
  Eng.need (ty = .cluster || ty = .peer) (badWith (c.dw 6))
  let t ← engQuernTable c (c.bits 1 0 16)
  Eng.need (rowlen * fmtBytes fmt ≤ t.stride) badField
  qnCheck c cl t bags
  (List.range (bags - c.done)).forM fun k => qnBag c cl t fmt rowlen (c.done + k)
  return (0, 0)

/-- QN.BAG (R258); an opcode that the capacity tier does not list is BAD (R186). -/
def execQnBag (die : Nat) (s : State) : Out := dieEngine s die portQn (fun _ => true) qnBagBody

end Sys2Proof.Machine
end

