-- ==== Sys2Proof/Machine/Sync.lean ====
section
/-! DEFINITION. Sync: page 5 (06_isa_memory_sync.md, R142 to R161), fence, exit, and the answers to instructions held in
flight (R106, R108, R136). -/
namespace Sys2Proof.Machine

/-! ## Shared by page 5 -/

/-- The home scope of a segment type (R143). -/
def homeScope (t : SegType) : BitVec 3 :=
  match t with
  | .scratch => 1
  | .cluster => 2
  | .peer => 5
  | .homed => 5
  | .plain => 6
  | .capacity => 4
  | .code => 6

/-- What an operation may not reach (R143): nothing there, host memory, or host and capacity-tier memory. -/
inductive Refuses where
  | nothing
  | host (cause : BitVec 16)
  | hostAndCapacity (cause : BitVec 16)
  deriving DecidableEq, Repr

def Refuses.cause? (r : Refuses) (g : Seg) (loc : Loc) : Option (BitVec 16) :=
  match r with
  | .nothing => none
  | .host c => if loc.host then some c else none
  | .hostAndCapacity c => if loc.host || g.type = .capacity then some c else none

/-- The access of a synchronising operation: the checks of R30 and R135, translation, the refusals of R143. -/
def syncAccess (s : State) (sl : Slot) (i : Instr) (q : Word) (n : Nat) (need : Need) (acc : Access) (r : Refuses)
    (k : Seg → Loc → Bool → Out) : Out :=
  access s sl i q n need acc fun g loc priv =>
    match r.cause? g loc with
    | some c => trapOut s sl i c q
    | none => k g loc priv

/-- The access of a full/empty operation or atomic. On a HOMED word whose home is another core the context migrates there first
(R155), after the checks, stage 1 and the refusals that leave no effect (R135, log 36). -/
def homedAccess (s : State) (sl : Slot) (i : Instr) (q : Word) (n : Nat) (need : Need) (acc : Access) (r : Refuses)
    (k : Seg → Loc → Bool → Out) : Out :=
  syncAccess s sl i q n need acc r fun g loc priv =>
    match g.type, s.homeCore s.run.1 sl.line.vfid.toNat g (ptrOff q) with
    | .homed, some h => if h = s.run.1 then k g loc priv else migrate s sl i h q
    | _, _ => k g loc priv

/-- A probe at its place of execution: it waits in flight for the earlier accesses that R265 and R266 put before it; a
release at system scope writes the core's dirty words back first (R269). -/
def probe (s : State) (sl : Slot) (i : Instr) (loc : Loc) (n : Nat) (write : Bool) (release : Option (BitVec 3))
    (k : State → Out) : Out :=
  let c := s.run.1
  if !s.mayPerform c sl.who loc n release then hold s sl i
  else
    let s1 := if release = some 6 then s.systemRelease c sl.line.vfid.toNat else s
    match loc with
    | .paged v gpa => k (s1.touchLlc v gpa write false)
    | _ => k s1

/-- The word of a probe: a fault of its memory, or a poisoned word, ends it (R136, R145, R150). -/
def probeWord (s : State) (sl : Slot) (i : Instr) (q : Word) (loc : Loc) (write : Bool) (acc : Access)
    (k : Word8 → Out) : Out :=
  match s.word loc write sl.secure with
  | .error e => memFaultOut s sl i e loc q acc
  | .ok w => k w

/-- A failed condition: the context is registered and waits, or as a handler traps (R144, R145, R146). -/
def waitOn (s : State) (sl : Slot) (i : Instr) (q : Word) (kind : WaitKind) (arg : BitVec 28) (loc : Loc) (n : Nat)
    (poll : Option Nat) : Out :=
  if sl.line.handler then trapOut s sl i causeHandlerWait q
  else .next ((waitSlot s sl kind arg).register (Waiter.mk sl.who kind loc n poll))

/-- The linear address of a pointer, or its position on chip, as a wait argument holds it (R22). -/
def waitAddr (g : Seg) (q : Word) : BitVec 28 := argWord28 (g.base + ptrOff q)

/-! ## Full/empty operations (R144, R145) -/

/-- Whether a probe tests for full or for empty. -/
def feKind (full : Bool) : WaitKind := if full then .full else .empty

/-- ldfe, ldff and stef: one test and effect at the word's place. -/
def feProbe (s : State) (i : Instr) (p : Pre) (a b : BitVec 3) (need : Need) (acc : Access) (wantFull release : Bool)
    (effect : Line → Word8 → Line × Option Word8) : Out :=
  guarded s i p fun sl =>
    let q := dispPtr p (sl.line.reg a) b 8
    homedAccess s sl i q 8 need acc (.host causeFeUnsupp) fun g loc _ =>
      let sc := if release then some (homeScope g.type) else none
      probe s sl i loc 8 acc.writes sc fun s1 =>
        probeWord s1 sl i q loc acc.writes acc fun w =>
          if w.poison then trapOut s1 sl i causeMemUncorr q
          else if w.full != wantFull then waitOn s1 sl i q (feKind wantFull) (waitAddr g q) loc 8 none
          else
            match effect sl.line w with
            | (l, none) => complete s1 { sl with line := l } i latA
            | (l, some w') => complete (s1.ordinary sl.line.vfid.toNat loc 8 w w' sl.secure) { sl with line := l } i latA

/-- ldfe (R144). -/
def execLdfe (p : Pre) (d a b : BitVec 3) (s : State) : Out :=
  feProbe s (.ldfe p d a b) p a b needFeBoth .atomic true false fun l w =>
    (l.setReg d w.data, some { w with full := false })

/-- ldff (R144). -/
def execLdff (p : Pre) (d a b : BitVec 3) (s : State) : Out :=
  feProbe s (.ldff p d a b) p a b needFeRead .feRead true false fun l w => (l.setReg d w.data, none)

/-- stef (R144). -/
def execStef (p : Pre) (d a b : BitVec 3) (s : State) : Out :=
  feProbe s (.stef p d a b) p a b needFeBoth .atomic false true fun l w =>
    (l, some { w with data := l.reg d, full := true })

/-- stfe, fe.set and fe.clr: posted releases at the home scope. -/
def fePost (s : State) (i : Instr) (p : Pre) (a b : BitVec 3) (what : Post) (data : Line → Word) : Out :=
  guarded s i p fun sl =>
    let q := dispPtr p (sl.line.reg a) b 8
    homedAccess s sl i q 8 needFeWrite .feWrite (.host causeFeUnsupp) fun g loc priv =>
      post s sl i (Posted.mk sl.who sl.line.vfid.toNat loc 8 (data sl.line) what (some (homeScope g.type)) false g.type
        false false false priv sl.secure none 0)

/-- stfe (R144). -/
def execStfe (p : Pre) (d a b : BitVec 3) (s : State) : Out :=
  fePost s (.stfe p d a b) p a b .stfe fun l => l.reg d

/-- fe.set (R144). -/
def execFeSet (p : Pre) (a b : BitVec 3) (s : State) : Out := fePost s (.feSet p a b) p a b .feSet fun _ => 0

/-- fe.clr (R144). -/
def execFeClr (p : Pre) (a b : BitVec 3) (s : State) : Out := fePost s (.feClr p a b) p a b .feClr fun _ => 0

/-- fe.rd (R144, R145): the bit alone, of a poisoned word too. -/
def execFeRd (p : Pre) (d a b : BitVec 3) (s : State) : Out :=
  let i : Instr := .feRd p d a b
  guarded s i p fun sl =>
    let q := dispPtr p (sl.line.reg a) b 8
    homedAccess s sl i q 8 needFeRead .feRead (.host causeFeUnsupp) fun _ loc _ =>
      probe s sl i loc 8 false none fun s1 =>
        probeWord s1 sl i q loc false .feRead fun w =>
          complete s1 { sl with line := sl.line.setReg d (if w.full then 1 else 0) } i latA

/-! ## waddr (R146 to R149) -/

/-- Ticks between two polls of a host word (R149). -/
def pollTicks : Nat := 1024

/-- waddr (R146): host memory is polled. -/
def waddrOp (s : State) (i : Instr) (p : Pre) (a b : BitVec 3) (want : Word → Word → Bool) : Out :=
  guarded s i p fun sl =>
    let q := sl.line.reg a
    syncAccess s sl i q 8 needWait .read .nothing fun g loc _ =>
      probe s sl i loc 8 false none fun s1 =>
        probeWord s1 sl i q loc false .read fun w =>
          if w.poison then trapOut s1 sl i causeMemUncorr q
          else if want w.data (sl.line.reg b) then complete s1 sl i latA
          else waitOn s1 sl i q .addr (waitAddr g q) loc 8 (if loc.host then some (s1.tick + pollTicks) else none)

/-- waddr.eq (R146). -/
def execWaddrEq (p : Pre) (a b : BitVec 3) (s : State) : Out := waddrOp s (.waddrEq p a b) p a b fun x y => x == y

/-- waddr.ne (R146). -/
def execWaddrNe (p : Pre) (a b : BitVec 3) (s : State) : Out := waddrOp s (.waddrNe p a b) p a b fun x y => x != y

/-! ## Atomics (R150) -/

/-- The bytes of an atomic's size code. -/
def amoBytes (sz : BitVec 1) : Nat := if sz = 0 then 4 else 8

/-- An atomic (R150): `f` gives the new value from the old one, g[b] and g[d] cut to the size, or none when nothing is
written and the copies of the word go all the same (R358). `cxl` says whether the CXL path carries it to host memory. -/
def amoOp (s : State) (i : Instr) (p : Pre) (sz : BitVec 1) (d a b : BitVec 3) (cxl : Bool)
    (f : (w x y z : Nat) → Option Nat) : Out :=
  guarded s i p fun sl =>
    let l := sl.line
    let n := amoBytes sz
    let q := l.reg a
    let refuses := if cxl then Refuses.nothing else .host causeAtomicPath
    homedAccess s sl i q n needAtomic .atomic refuses fun _ loc _ =>
      probe s sl i loc n true (preRelease p) fun s1 =>
        probeWord s1 sl i q loc true .atomic fun w =>
          if w.poison then trapOut s1 sl i causeMemUncorr q
          else
            let x := w.bytes loc.off n
            let cut (r : BitVec 3) : Nat := (l.reg r).toNat % 2 ^ (8 * n)
            let s2 := match f (8 * n) x (cut b) (cut d) with
              | none => s1.recallWords loc n true sl.secure
              | some v => s1.ordinary l.vfid.toNat loc n w (w.withBytes loc.off n v) sl.secure
            complete s2 { sl with line := l.setReg d (sext64 x (8 * n)) } i latA

/-- A w-bit value as signed. -/
def signedOf (w x : Nat) : Int := (IntFmt.mk true w).decode x

/-- amo.add (R150). -/
def execAmoAdd (p : Pre) (sz : BitVec 1) (d a b : BitVec 3) (s : State) : Out :=
  amoOp s (.amoAdd p sz d a b) p sz d a b true fun w x y _ => some ((x + y) % 2 ^ w)

/-- amo.and (R150). -/
def execAmoAnd (p : Pre) (sz : BitVec 1) (d a b : BitVec 3) (s : State) : Out :=
  amoOp s (.amoAnd p sz d a b) p sz d a b false fun _ x y _ => some (x &&& y)

/-- amo.or (R150). -/
def execAmoOr (p : Pre) (sz : BitVec 1) (d a b : BitVec 3) (s : State) : Out :=
  amoOp s (.amoOr p sz d a b) p sz d a b false fun _ x y _ => some (x ||| y)

/-- amo.xor (R150). -/
def execAmoXor (p : Pre) (sz : BitVec 1) (d a b : BitVec 3) (s : State) : Out :=
  amoOp s (.amoXor p sz d a b) p sz d a b false fun _ x y _ => some (x ^^^ y)

/-- amo.min (R150). -/
def execAmoMin (p : Pre) (sz : BitVec 1) (d a b : BitVec 3) (s : State) : Out :=
  amoOp s (.amoMin p sz d a b) p sz d a b false fun w x y _ => some (if signedOf w y < signedOf w x then y else x)

/-- amo.max (R150). -/
def execAmoMax (p : Pre) (sz : BitVec 1) (d a b : BitVec 3) (s : State) : Out :=
  amoOp s (.amoMax p sz d a b) p sz d a b false fun w x y _ => some (if signedOf w x < signedOf w y then y else x)

/-- amo.minn (R150). -/
def execAmoMinn (p : Pre) (sz : BitVec 1) (d a b : BitVec 3) (s : State) : Out :=
  amoOp s (.amoMinn p sz d a b) p sz d a b false fun _ x y _ => some (Nat.min x y)

/-- amo.maxn (R150). -/
def execAmoMaxn (p : Pre) (sz : BitVec 1) (d a b : BitVec 3) (s : State) : Out :=
  amoOp s (.amoMaxn p sz d a b) p sz d a b false fun _ x y _ => some (Nat.max x y)

/-- amo.swap (R150). -/
def execAmoSwap (p : Pre) (sz : BitVec 1) (d a b : BitVec 3) (s : State) : Out :=
  amoOp s (.amoSwap p sz d a b) p sz d a b true fun _ _ y _ => some y

/-- amo.cas (R150). -/
def execAmoCas (p : Pre) (sz : BitVec 1) (d a b : BitVec 3) (s : State) : Out :=
  amoOp s (.amoCas p sz d a b) p sz d a b true fun _ x y z => if x = z then some y else none

/-! ## Reductions (R56, R151, R152) -/

/-- The word size of a reduction type. -/
def redBytes (ty : BitVec 2) : Nat := if ty = 3 then 8 else 4

/-- red.add (R151). -/
def execRedAdd (p : Pre) (ty : BitVec 2) (a b : BitVec 3) (s : State) : Out :=
  let i : Instr := .redAdd p ty a b
  guarded s i p fun sl =>
    let l := sl.line
    let q := l.reg a
    syncAccess s sl i q (redBytes ty) needAtomic .atomic (.hostAndCapacity causeAtomicPath) fun g loc priv =>
      post s sl i (Posted.mk sl.who l.vfid.toNat loc (redBytes ty) (l.reg b) (.redAdd ty l.rm l.fz) (preRelease p) false g.type
        false false false priv sl.secure none 0)

/-- The open slots of a type at a word, in logical core order. -/
def State.openSlots (s : State) (loc : Loc) (ty : BitVec 2) : List RedSlot :=
  (List.range Config.cores).flatMap fun c => s.reds.filter fun r => r.loc = loc && r.ty = ty && r.core = c

/-- One step of the fold of R56. -/
def foldSlot (ty : BitVec 2) (rm : Nat) (fz : Bool) (acc : Nat × BitVec 16) (r : RedSlot) : Nat × BitVec 16 :=
  if ty = 0 then
    let (v, f1) := FVal.add rm (f32.decode fz acc.1) (f32.decode fz r.value.toNat)
    let (bits, f2) := f32.deliver rm fz v
    (bits, acc.2 ||| r.flags ||| f1 ||| f2)
  else ((acc.1 + r.value.toNat) % 2 ^ (8 * redBytes ty), acc.2)

/-- red.rd (R56, R151, R152). -/
def execRedRd (p : Pre) (ty : BitVec 2) (d a : BitVec 3) (s : State) : Out :=
  let i : Instr := .redRd p ty d a
  guarded s i p fun sl =>
    let l := sl.line
    let n := redBytes ty
    let q := l.reg a
    syncAccess s sl i q n needAtomic .atomic (.hostAndCapacity causeAtomicPath) fun _ loc _ =>
      probe s sl i loc n true (preRelease p) fun s1 =>
        probeWord s1 sl i q loc true .atomic fun w =>
          let slots := s1.reds.filter fun r => r.loc = loc && r.ty = ty
          if w.poison || slots.any RedSlot.poison then trapOut s1 sl i causeMemUncorr q
          else
            let old := w.bytes loc.off n
            let (v, fl) := (s1.openSlots loc ty).foldl (foldSlot ty l.rm.toNat l.fz) (old, 0)
            let s2 : State :=
              if slots.isEmpty then s1.recallWords loc n false sl.secure
              else
                { s1.ordinary l.vfid.toNat loc n w (w.withBytes loc.off n v) sl.secure with
                  reds := s1.reds.filter fun r => !(r.loc = loc && r.ty = ty) }
            -- the bits above an f32 result are its sign's copies, as R151 has it (log 92)
            complete s2 { sl with line := (l.setReg d (sext64 v (8 * n))).raise fl } i latA

/-! ## Joins and barriers (R157 to R159) -/

/-- A posted release at the home scope on a join word or barrier object. -/
def syncPost (s : State) (i : Instr) (p : Pre) (a : BitVec 3) (n : Nat) (what : Post) : Out :=
  guarded s i p fun sl =>
    let q := sl.line.reg a
    syncAccess s sl i q n needAtomic .atomic (.host causeAtomicPath) fun g loc priv =>
      post s sl i (Posted.mk sl.who sl.line.vfid.toNat loc n 0 what (some (homeScope g.type)) false g.type false false false priv
        sl.secure none 0)

/-- bar.arrive (R159). -/
def execBarArrive (p : Pre) (a : BitVec 3) (s : State) : Out := syncPost s (.barArrive p a) p a 16 .barArrive

/-- join.dec (R157). -/
def execJoinDec (p : Pre) (a : BitVec 3) (s : State) : Out := syncPost s (.joinDec p a) p a 8 .joinDec

/-- bar.wait (R159): the slice recalls the object's words first (R358). -/
def execBarWait (p : Pre) (a b : BitVec 3) (s : State) : Out :=
  let i : Instr := .barWait p a b
  guarded s i p fun sl =>
    let q := sl.line.reg a
    syncAccess s sl i q 16 needWait .atomic (.host causeAtomicPath) fun _ loc _ =>
      probe s sl i loc 16 false none fun s1 =>
        probeWord s1 sl i q loc false .atomic fun w0 =>
          probeWord s1 sl i q (loc.plus 8) false .atomic fun w1 =>
            let s2 := s1.recallWords loc 16 false sl.secure
            if w0.poison || w1.poison then trapOut s2 sl i causeMemUncorr q
            else if w1.data != sl.line.reg b then complete s2 sl i latA
            else waitOn s2 sl i q .barrier 0 loc 16 none

/-- join.wait (R157). -/
def execJoinWait (p : Pre) (a : BitVec 3) (s : State) : Out :=
  let i : Instr := .joinWait p a
  guarded s i p fun sl =>
    let q := sl.line.reg a
    syncAccess s sl i q 8 needWait .atomic (.host causeAtomicPath) fun _ loc _ =>
      probe s sl i loc 8 false none fun s1 =>
        probeWord s1 sl i q loc false .atomic fun w =>
          if w.poison then trapOut s1 sl i causeMemUncorr q
          else if w.data = 0 then complete s1 sl i latA
          else waitOn s1 sl i q .join 0 loc 8 none

/-! ## Range walks (R160, R161) -/

/-- The region barrier that the issuing context's RCB names, 0 for none (R161, R202). -/
def State.regionBarrier (s : State) (sl : Slot) : Nat :=
  match s.rcb? sl.line.vfid.toNat sl.rcb with
  | none => 0
  | some r => r.rbar

/-- cflush and cinval (R160): the range passes R30 steps 1, 2 and 4 as one access; 8 walks at most are outstanding. -/
def walkOp (s : State) (i : Instr) (p : Pre) (a b : BitVec 3) (inval : Bool) : Out :=
  guarded s i p fun sl =>
    let q := sl.line.reg a
    let len := sl.line.reg b
    let v := sl.line.vfid.toNat
    let c := s.run.1
    if len.extractLsb' 40 24 != 0 then trapOut s sl i causeSegLimit q
    else
      match s.segCheck c v sl.segs q len.toNat (if inval then needStore else needLoad) false q with
      | .error t => trapInfoOut s sl i t
      | .ok (g, site) =>
        let k := s.core c
        if Config.walksPerCore ≤ k.walks || k.storesFull then .next s
        else
          let linear : Option Nat := match site with
            | .linear x => some x
            | .chip _ => none
          let chip := s.runsOf c v g (ptrOff q) len.toNat
          let loc : Loc := match site with
            | .linear x => .paged v x
            | .chip l => l
          let s1 := s.setCore c { k with walks := k.walks + 1 }
          post s1 sl i (Posted.mk sl.who v loc 0 0 (.walk inval linear chip len.toNat (s.regionBarrier sl)) (some 5) false g.type
            false false false false sl.secure none 0)

/-- cflush (R160). -/
def execCflush (p : Pre) (a b : BitVec 3) (s : State) : Out := walkOp s (.cflush p a b) p a b false

/-- cinval (R160). -/
def execCinval (p : Pre) (a b : BitVec 3) (s : State) : Out := walkOp s (.cinval p a b) p a b true

/-! ## fence, mig, spawn, exit -/

/-- Whether every earlier posted entry of a context is performed, its adaptive stores counted where asked (R106, R266). -/
def State.drained (s : State) (w : Who) (adaptive : Bool) : Bool :=
  s.cores.all fun e => e.2.stores.all fun x => x.who ≠ w || (x.adaptive && !adaptive)

/-- The order and scope of a fence: acq-rel at system scope without ORDER (R69, R106). -/
def fenceOrder (p : Pre) : BitVec 2 × BitVec 3 :=
  match p.order with
  | none => (ordAcqRel, 6)
  | some o => (o.ord, o.scope)

/-- fence (R106): an acquire adds nothing to R262; a release waits for the earlier accesses, at system scope with the
write-back of R269. -/
def execFence (p : Pre) (s : State) : Out :=
  let i : Instr := .fence p
  guarded s i p fun sl =>
    let (ord, scope) := fenceOrder p
    if ord = ordAcquire then complete s sl i latA
    else if !s.drained sl.who (waitsAdaptive scope) then hold s sl i
    else complete (if scope = 6 then s.systemRelease s.run.1 sl.line.vfid.toNat else s) sl i latA

/-- mig (R153, R154): at home it completes as fence.acqrel.pk would. -/
def execMig (p : Pre) (a : BitVec 3) (s : State) : Out :=
  let i : Instr := .mig p a
  guarded s i p fun sl =>
    let q := sl.line.reg a
    let v := sl.line.vfid.toNat
    let g := sl.seg (ptrSeg q)
    if !limitCheck g q 1 then trapOut s sl i causeSegLimit q
    else
      match s.homeCore s.run.1 v g (ptrOff q) with
      | none => trapOut s sl i causeMigrate q
      | some h =>
        if h ≠ s.run.1 then migrate s sl i h q
        else if !s.drained sl.who false then hold s sl i
        else
          -- as a fence, and the partial command of the owner is abandoned (R168)
          complete (s.abandon s.run.1 sl.who) sl i latA

/-- Latency of spawn (R156). -/
def latSpawn : Nat := 16

/-- The named RCB whose quota a spawn of this context draws on: admitted, with a reservation free. -/
def State.spawnFrom (s : State) (sl : Slot) : Option Rcb :=
  match s.rcb? sl.line.vfid.toNat sl.rcb with
  | none => none
  | some r => if r.state = .admitted && r.sused < r.squota then some r else none

/-- spawn (R156): a pool entry and P[d] = 1 when the quota has a reservation free, else P[d] = 0. -/
def execSpawn (p : Pre) (d a : BitVec 3) (s : State) : Out :=
  let i : Instr := .spawn p d a
  guarded s i p fun sl =>
    let q := sl.line.reg a
    let v := sl.line.vfid.toNat
    access s sl i q 256 needLoad .read fun g _ _ =>
      let t := d.setWidth 5
      match s.spawnFrom sl with
      | none => complete s { sl with line := sl.line.setPred t false } i latSpawn
      | some r =>
        let e := PoolEntry.mk v (g.base + ptrOff q) r.addr sl.who s.run.1 s.posted ((r.order, r.cbud) :: r.chain)
        let s1 := s.setSused r (r.sused + 1)
        complete { s1 with pool := s1.pool ++ [e] } { sl with line := sl.line.setPred t true } i latSpawn

/-- exit (R108): once the earlier accesses are performed at partition scope the context retires; ILLEGAL in a handler. -/
def execExit (p : Pre) (s : State) : Out :=
  let i : Instr := .exit p
  guarded s i p fun sl =>
    match sl.who with
    | .handler _ _ _ _ => trapOut s sl i causeIllegal i.packed
    | .ctx v k =>
      let s0 := s.abandon s.run.1 sl.who
      if !s0.drained sl.who true then hold s0 sl i
      else
        let line := { sl.line with pc := BitVec.ofNat 48 (sl.line.nextOff i) }
        .next ((s0.putCur { sl with line := line, held := none }).retire v k)

/-! ## Answers to held instructions (R106, R136, R137) -/

/-- The answer to an instruction in flight: it is performed now, waits, or traps; a page-0 load, a probe of page 5, and the
forms that drain. -/
def answer (s : State) (i : Instr) : Out :=
  match i with
  | .ldzB p d a b => execLdzB p d a b s
  | .ldsB p d a b => execLdsB p d a b s
  | .ldzH p d a b => execLdzH p d a b s
  | .ldsH p d a b => execLdsH p d a b s
  | .ldzW p d a b => execLdzW p d a b s
  | .ldsW p d a b => execLdsW p d a b s
  | .ldD p d a b => execLdD p d a b s
  | .ldfe p d a b => execLdfe p d a b s
  | .ldff p d a b => execLdff p d a b s
  | .stef p d a b => execStef p d a b s
  | .feRd p d a b => execFeRd p d a b s
  | .waddrEq p a b => execWaddrEq p a b s
  | .waddrNe p a b => execWaddrNe p a b s
  | .amoAdd p z d a b => execAmoAdd p z d a b s
  | .amoAnd p z d a b => execAmoAnd p z d a b s
  | .amoOr p z d a b => execAmoOr p z d a b s
  | .amoXor p z d a b => execAmoXor p z d a b s
  | .amoMin p z d a b => execAmoMin p z d a b s
  | .amoMax p z d a b => execAmoMax p z d a b s
  | .amoMinn p z d a b => execAmoMinn p z d a b s
  | .amoMaxn p z d a b => execAmoMaxn p z d a b s
  | .amoSwap p z d a b => execAmoSwap p z d a b s
  | .amoCas p z d a b => execAmoCas p z d a b s
  | .redRd p t d a => execRedRd p t d a s
  | .joinWait p a => execJoinWait p a s
  | .barWait p a b => execBarWait p a b s
  | .mig p a => execMig p a s
  | .fence p => execFence p s
  | .exit p => execExit p s
  | _ => .next s


end Sys2Proof.Machine
end

