-- ==== Sys2Proof/Machine/System.lean ====
section
/-! DEFINITION. System: pages 4 and 6 (07_isa_engines_system.md): push, pop and peek, rings, handles, messages, special
registers, resumption, other contexts' lines, translation and segments, slot tables, capabilities, Yarrow forms and cluster
flags; and the delivery of completions. -/
namespace Sys2Proof.Machine

/-! ## push (R167 to R170) -/

/-- tval of an ENGINE trap (R172). -/
def engineTval (reason : Nat) (port : BitVec 3) : Word := BitVec.ofNat 64 (reason + 256 * port.toNat)

/-- Commands of a context on a port, outstanding or unpopped: its reserved entries and its held completions. -/
def Core.outstanding (k : Core) (w : Who) (port : Nat) : Nat :=
  (k.reserved.filter fun e => e = (w, port)).length + (k.held.filter fun e => e.who = w && e.port = port).length

/-- The completion store has no free entry (R169). -/
def Core.storeFull (k : Core) : Bool := Config.completionStore ≤ k.held.length + k.reserved.length

/-- The scope that an ORDER prefix names for a push; cluster without one (R170). -/
def pushScope (p : Pre) : BitVec 3 :=
  match p.order with
  | none => 2
  | some o => if o.scope.toNat < 2 then 2 else o.scope

def widest (a b : BitVec 3) : BitVec 3 := if a.toNat < b.toNat then b else a

/-- The pushing core resolves the handle fields from its handle table (R174). -/
def Core.resolve (k : Core) (port : Nat) (dws : List Word) : List (Nat × (Word × Word)) :=
  (handleFields port dws).map fun h => (h, k.handle (BitVec.ofNat 8 h))

/-- The command that leaves with the last push. -/
def sentCommand (s : State) (sl : Slot) (port : Nat) (dws : List Word) (scope : BitVec 3) : Cmd :=
  let k := s.core s.run.1
  let cap := (dws.headD 0).toNat / 2 ^ 32
  let remote := port = portQn || port = portYw
    || (port = portMm && cap ≠ 0 && physicalCluster (s.nodeOf sl.line.vfid.toNat) (cap % 256) ≠ clusterOf s.run.1)
  Cmd.mk sl.who sl.line.vfid.toNat s.run.1 port dws (k.resolve port dws) sl.segs sl.line.supervisor sl.secure
    (if port = portMm then sourceOf s.run.1 cap else 0) s.posted (if remote then widest 5 scope else scope)
    none 0 none none none [] none 0 false

/-- The number that a command's array holds at a pointer now, as far as the core can see it. -/
def State.peekArray (s : State) (c : Cmd) (q : Word) : Nat :=
  let at_ (loc : Loc) : Nat :=
    match s.word loc false true with
    | .ok w => w.bytes loc.off 4
    | .error _ => 0
  match s.site c.core c.vf (c.seg q) (ptrOff q) with
  | .chip l => at_ l
  | .linear a => (s.linearToGpa c.vf a false).elim 0 fun g => at_ (.paged c.vf g)

/-- The arrays of QN.BAG (R184): the boundaries, the indices and weights that they cover, and the output. -/
def State.bagRanges (s : State) (c : Cmd) : List (Word × Nat) :=
  let bags := c.bits 5 0 32
  let bnd := c.dw 4
  let lo := s.peekArray c bnd
  let n := 4 * (s.peekArray c (ptrPlus bnd (4 * bags)) - lo)
  [(bnd, 4 * (bags + 1)), (ptrPlus (c.dw 2) (4 * lo), n), (c.dw 6, 4 * c.bits 5 32 16 * bags)]
    ++ (if c.flag 1 20 then [] else [(ptrPlus (c.dw 3) (4 * lo), n)])

/-- The memory of Yarrow's commands (R185): a program, an output object, a dump. -/
def Cmd.filterRanges (c : Cmd) : List (Word × Nat) :=
  match c.opcode with
  | 1 => [(c.dw 1, 4 * c.bits 2 3 7)]
  | 2 => if c.dw 2 = 0 then [] else [(c.dw 2, outputBytes)]
  | 4 => [(c.dw 2, c.bits 3 0 32)]
  | _ => []

/-- The cores that receive the rows of an MM.MUL (R243). -/
def State.receivers (s : State) (c : Cmd) : List Nat :=
  if c.flag 1 59 then
    let rows := (tileOf (c.handle (c.bits 1 24 8))).elim 0 Tile.rows
    ((List.range rows).map (c.receiver (s.execCluster c))).eraseDups
  else [c.core]

/-- What a command names on a core: bytes from a pointer, for a SCRATCH register in that core's scratchpad. -/
structure CmdRange where
  core : Nat
  ptr : Word
  n : Nat
  deriving DecidableEq, Repr

/-- A tile that a handle field names. -/
def Cmd.tileRange (c : Cmd) (core h : Nat) : List CmdRange :=
  ((tileOf (c.handle h)).map fun t => CmdRange.mk core t.base t.extent).toList

/-- The tiles, rows and rings of an MM.MUL: C, hi, hm and hr where the command reads them, D and hr on each receiving core
(R179, R243, R244). -/
def State.mulRanges (s : State) (c : Cmd) : List CmdRange :=
  let read := [c.bits 1 0 8, c.bits 1 8 8] ++ (if c.flag 1 58 then [c.bits 1 16 8] else [])
    ++ (if c.flag 1 56 then [c.bits 1 32 8] else []) ++ (if c.flag 1 57 then [c.bits 1 40 8] else [])
  read.flatMap (c.tileRange c.core)
    ++ (s.receivers c).flatMap fun core =>
      c.tileRange core (c.bits 1 24 8)
        ++ (if c.flag 1 60 then ((ringOf (s.mmRing c core)).map fun r => CmdRange.mk core r.base 16).toList else [])

/-- The ranges that a command reaches, its arrival word among them (R213, R247). -/
def State.cmdRanges (s : State) (c : Cmd) : List CmdRange :=
  let here (l : List (Word × Nat)) : List CmdRange := l.map fun e => CmdRange.mk c.core e.1 e.2
  let tiles := c.handles.flatMap fun e => c.tileRange c.core e.1
  let own : List CmdRange := match c.port with
    | 0 => if c.opcode = 2 then s.mulRanges c else []
    | 1 => tiles ++ here [(c.dw 2, c.bits 3 0 40 * c.bits 4 0 40)]
    | 2 => here ((c.dw 1, c.bits 3 0 32) :: (if c.opcode = 1 then [(c.dw 2, c.bits 3 0 32)] else []))
    | 4 => here (s.bagRanges c)
    | 5 => here c.filterRanges
    | _ => tiles
  own ++ here (c.arrival.toList.map fun a => (a.1, 8))

/-- Whether a command looks its ring up in the handle tables of the cores that receive its rows (R207, R244). -/
def Cmd.readsTable (c : Cmd) : Bool := c.port = portMm && c.opcode = 2 && c.flag 1 60

/-- Whether a command reaches an on-chip place. -/
def State.cmdTouches (s : State) (c : Cmd) (p : Loc → Bool) : Bool :=
  ((s.cmdRanges c).any fun e =>
    (c.seg e.ptr).type.onChip && (s.runsOf e.core c.vf (c.seg e.ptr) (ptrOff e.ptr) e.n).any fun r => p r.1)
    || (c.readsTable && (s.receivers c).any fun core => p (.scratch core handleTableFrom))

/-- Whether a command reaches a cluster memory that is still being filled (R213). -/
def State.cmdClearing (s : State) (c : Cmd) : Bool := s.cmdTouches c s.clearing

/-- A command goes to its engine's queue; a capability for a cluster outside the partition completes at the pusher with CAP
(R163, R231), after the accesses that its push releases (R272). -/
def State.enqueue (s : State) (c : Cmd) : State :=
  if c.port = portQn || c.port = portYw then
    let d := dieOf c.core
    let x := s.die d
    s.setDie d { x with queue := x.queue ++ [c] }
  else if c.port = portMm && c.cap ≠ 0 && nodeClusters (s.nodeOf c.vf) ≤ c.cap % 256 then
    { s with transit := s.transit ++ [Completion.mk c.who c.core c.port (completionDw0 c statusCap 0) 0 0 none
        (some (c.after, c.scope)) false] }
  else
    let cl := s.execCluster c
    let x := s.cluster cl
    s.setCluster cl { x with queues := x.queues ++ [c] }

/-- Two doublewords join a buffer; a full one leaves as a command, unless the cluster holds its send (R167, R396). -/
def pushWords (s : State) (sl : Slot) (i : Instr) (port : Nat) (b : Assembly) (x y : Word) (scope : BitVec 3) : Out :=
  let c := s.run.1
  let k := s.core c
  let b1 : Assembly := { b with dws := b.dws ++ [x, y], scope := widest b.scope scope }
  if b1.dws.length < b.need then complete (s.setCore c { k with buffers := k.buffers.set port b1 }) sl i latA
  else
    let cmd := sentCommand s sl port b1.dws b1.scope
    if (s.cluster (clusterOf c)).full || s.cmdClearing cmd then .next s
    else complete ((s.setCore c { k with buffers := k.buffers.erase port }).enqueue cmd) sl i latA

/-- push (R167 to R170); during a scrub it is not ready, whatever its guard (R209). -/
def execPush (p : Pre) (port a b : BitVec 3) (s : State) : Out :=
  let i : Instr := .push p port a b
  if s.scrubbing s.run.1 then .next s
  else guarded s i p fun sl =>
    let c := s.run.1
    let k := s.core c
    let n := port.toNat
    let x := sl.line.reg a
    let y := sl.line.reg b
    match k.buffers.find n with
    | some buf => if buf.owner ≠ sl.who then .next s else pushWords s sl i n buf x y (pushScope p)
    | none =>
      let len := x.toNat / 256 % 256
      if k.storeFull then .next s
      else if len ≠ 2 && len ≠ 4 && len ≠ 8 then trapOut s sl i causeEngine (engineTval 1 port)
      else if Config.commandsPerPort ≤ k.outstanding sl.who n then trapOut s sl i causeEngine (engineTval 2 port)
      else
        let s1 := s.setCore c { k with reserved := k.reserved ++ [(sl.who, n)] }
        match pushWords s1 sl i n (Assembly.mk sl.who len [] 2 s.cycle) x y (pushScope p) with
        | .next t => if t.slot? c s.run.2 = s.slot? c s.run.2 then .next s else .next t
        | o => o

/-! ## pop and peek (R171, R172) -/

/-- The oldest completion held for a context on a port. -/
def Core.heldFor (k : Core) (w : Who) (port : Nat) : Option Completion :=
  k.held.find? fun e => e.who = w && e.port = port

def Line.setPair (l : Line) (a b : BitVec 3) (x y : Word) : Line := (l.setReg a x).setReg b y

/-- pop (R171): the gathered flags of a Millstone command go into fcsr (R234). -/
def execPop (p : Pre) (port a b : BitVec 3) (s : State) : Out :=
  let i : Instr := .pop p port a b
  guarded s i p fun sl =>
    let c := s.run.1
    let k := s.core c
    let n := port.toNat
    match k.heldFor sl.who n with
    | some e =>
      complete (s.setCore c { k with held := k.held.erase e })
        { sl with line := (sl.line.setPair a b e.dw0 e.dw1).raise e.flags } i latA
    | none =>
      if !(k.reserved.contains (sl.who, n)) then trapOut s sl i causeEngine (engineTval 3 port)
      else if sl.line.handler then trapOut s sl i causeHandlerWait (port.setWidth 64)
      else
        let s1 := waitSlot s sl .pop (port.setWidth 28)
        -- the wait may have abandoned a partial command of this very port
        if ((s1.core c).heldFor sl.who n).isSome then .next { s1 with events := s1.events ++ [(sl.who, .wake .pop)] }
        else .next s1

/-- peek (R171). -/
def execPeek (p : Pre) (port a b : BitVec 3) (s : State) : Out :=
  let i : Instr := .peek p port a b
  guarded s i p fun sl =>
    let (x, y) := match (s.core s.run.1).heldFor sl.who port.toNat with
      | some e => (e.dw0, e.dw1)
      | none => (0, 0)
    complete s { sl with line := sl.line.setPair a b x y } i latA

/-! ## Completions (R173, R396) -/

/-- The cluster frees a replay record, and its keys leave the windows (R396, R398). -/
def State.freeRecord (s : State) (r : Option (Nat × Nat)) : State :=
  match r with
  | none => s
  | some (cl, n) =>
    let k := s.cluster cl
    let s1 : State := { s with windows := s.windows.map fun w =>
      if w.src = cl then { w with keys := w.keys.filter fun x => x.1 ≠ n } else w }
    s1.setCluster cl { k with replay := k.replay.filter fun x => x.seq ≠ n }

/-- The core whose completion store reserved an entry for a command of a context on a port. -/
def State.reservedAt (s : State) (w : Who) (port : Nat) : Option Nat :=
  (s.cores.find? fun e => e.2.reserved.contains (w, port)).map Prod.fst

/-- A completion enters a core's store: flags, event counts and the DONE event, and the wake of a POP waiter. -/
def State.holdCompletion (s : State) (c : Nat) (e : Completion) : State :=
  let k := s.core c
  let s1 := s.setCore c { k with
    held := k.held ++ [{ e with core := c, record := none }]
    reserved := dropReserved k.reserved e.who e.port }
  let s3 := (s1.freeRecord e.record).completionHeld c e
  match s3.whoLine e.who with
  | some l =>
    if l.wt = .pop && l.wtArg.toNat % 8 = e.port then { s3 with events := s3.events ++ [(e.who, .wake .pop)] } else s3
  | none => s3

/-- Ports whose completions of one context stay in the order of their commands (R173): all but Millstone's and Bolter's. -/
def inOrder (port : Nat) : Bool := port ≠ portMm && port ≠ portBo

/-- COMPLETION_DELIVERY (R173): to the store that reserved its entry; while the reservation travels it waits; with no
reservation left, or where its pusher has ended, it is discarded (R330). One that the push's release comes before waits for that, and at system scope for its
write-back (R269, R272). -/
def execCompletionDelivery (k : Nat) (s : State) : Out :=
  match s.transit[k]? with
  | none => .next s
  | some e =>
    let earlier := (s.transit.take k).any fun x => x.who = e.who && x.port = e.port
    if (inOrder e.port && earlier) || e.after.any fun a => !s.drainedBefore e.who a.1 (waitsAdaptive a.2) then .next s
    else
      let s0 := if e.after.any fun a => a.2 = 6 then s.systemRelease e.core e.who.vf else s
      let s1 : State := { s0 with transit := s.transit.eraseIdx k }
      match (s.reservedAt e.who e.port).filter fun _ => !e.orphan with
      | some c => .next (s1.holdCompletion c e)
      | none =>
        if !e.orphan && s.packets.any fun p => p.reserved.contains (e.who, e.port) then .next s else .next (s1.freeRecord e.record)

/-! ## Rings (R187, R188, R218 to R221) -/

/-- A ring's place and its header's doublewords, after the checks of R188 and R218, at the place of execution. DESIGN CHOICE
(log 101): R209 holds handle instructions back during a scrub, and the manual does not say whether a ring instruction, which reads
the handle table, is one when its ring lies outside the scratchpad; here every one is held, whatever its guard. -/
def ringOp (s : State) (i : Instr) (p : Pre) (n : BitVec 4) (h : BitVec 8) (adv : Bool)
    (k : State → Slot → Ring → Loc → Word → Word → Out) : Out :=
  if s.scrubbing s.run.1 then .next s
  else guarded s i p fun sl =>
    match ringOf ((s.core s.run.1).handle h) with
    | none => trapInfoOut s sl i (handleTrap h 1)
    | some r =>
      if !adv && r.slots < n.toNat + 1 then trapInfoOut s sl i (handleTrap h 6)
      else
        let need := if adv then needReadWrite else needLoad
        match s.segCheck s.run.1 sl.line.vfid.toNat sl.segs r.base 16 need false r.base with
        | .error t => trapInfoOut s sl i t
        | .ok (_, .linear _) => trapOut s sl i causeSegRights r.base
        | .ok (g, .chip loc) =>
          if s.clearing loc then .next s
          else
            probe s sl i loc 16 adv (if adv then some (homeScope g.type) else none) fun s1 =>
              match s1.headerPoison r.base loc with
              | some q => trapOut s1 sl i causeMemUncorr q
              | none => k s1 sl r loc (s1.header loc).1 (s1.header loc).2

/-- The argument of a RING wait (R22). -/
def ringArg (h : BitVec 8) (n : Nat) : BitVec 28 := BitVec.ofNat 28 (h.toNat + 256 * n)

/-- A wait on a ring's counts. -/
def ringWait (s : State) (i : Instr) (p : Pre) (n : BitVec 4) (h : BitVec 8) (ready : Ring → Nat → Bool) : Out :=
  ringOp s i p n h false fun s1 sl r loc w0 w1 =>
    if ready r (ringFilled w0 w1) then complete s1 sl i latA
    else if sl.line.handler then trapOut s1 sl i causeHandlerWait (h.setWidth 64)
    else .next ((waitSlot s1 sl .ring (ringArg h (n.toNat + 1))).register (Waiter.mk sl.who .ring loc 16 none))

/-- rwait.f (R187). -/
def execRwaitF (p : Pre) (n : BitVec 4) (h : BitVec 8) (s : State) : Out :=
  ringWait s (.rwaitF p n h) p n h fun _ filled => n.toNat + 1 ≤ filled

/-- rwait.e (R187). -/
def execRwaitE (p : Pre) (n : BitVec 4) (h : BitVec 8) (s : State) : Out :=
  ringWait s (.rwaitE p n h) p n h fun r filled => (n.toNat + 1) + filled ≤ r.slots

/-- radv.p (R187, R220). -/
def execRadvP (p : Pre) (n : BitVec 4) (h : BitVec 8) (s : State) : Out :=
  let i : Instr := .radvP p n h
  ringOp s i p n h true fun s1 sl r loc w0 w1 =>
    if r.slots < ringFilled w0 w1 + (n.toNat + 1) then trapInfoOut s1 sl i (handleTrap h 7)
    else complete (s1.putHeader sl.line.vfid.toNat loc 0 (ringMove w0 (n.toNat + 1) r.slots)) sl i latA

/-- radv.c (R187, R220). -/
def execRadvC (p : Pre) (n : BitVec 4) (h : BitVec 8) (s : State) : Out :=
  let i : Instr := .radvC p n h
  ringOp s i p n h true fun s1 sl r loc w0 w1 =>
    if ringFilled w0 w1 < n.toNat + 1 then trapInfoOut s1 sl i (handleTrap h 7)
    else complete (s1.putHeader sl.line.vfid.toNat loc 1 (ringMove w1 (n.toNat + 1) r.slots)) sl i latA

/-! ## Handles (R189, R215, R218, R219); during a scrub these forms are not ready, whatever their guard (R209) -/

/-- Whether hdef accepts a descriptor. -/
def descriptorOk (e : Word × Word) : Bool :=
  e.1.extractLsb' 0 2 == 0 || (tileOf e).isSome || (ringOf e).isSome

/-- A handle-table entry of a core is written. -/
def State.setHandle (s : State) (c : Nat) (h : BitVec 8) (e : Word × Word) : State :=
  s.setCore c ((s.core c).setHandle h e.1 e.2)

/-- hdef of a ring with init = 1: the header is written, a release at its home scope (R219). -/
def initRing (s : State) (sl : Slot) (i : Instr) (h : BitVec 8) (e : Word × Word) (r : Ring) : Out :=
  let v := sl.line.vfid.toNat
  match s.segCheck s.run.1 v sl.segs r.base 16 needStore false r.base with
  | .error t => trapInfoOut s sl i t
  | .ok (_, .linear _) => trapOut s sl i causeSegRights r.base
  | .ok (g, .chip loc) =>
    if s.clearing loc then .next s
    else
      probe s sl i loc 16 true (some (homeScope g.type)) fun s1 =>
        let p := ringDw r.p ((r.p + 65536 - r.c) % 65536 % r.slots)
        complete (((s1.putHeader v loc 0 p).putHeader v loc 1 (ringDw r.c 0)).setHandle s.run.1 h e) sl i latA

/-- hdef (R189, R215, R218). -/
def execHdef (p : Pre) (h : BitVec 8) (a b : BitVec 3) (s : State) : Out :=
  let i : Instr := .hdef p h a b
  if s.scrubbing s.run.1 then .next s
  else guarded s i p fun sl =>
    let e := (sl.line.reg a, sl.line.reg b)
    if !descriptorOk e then trapInfoOut s sl i (handleTrap h 8)
    else
      match ringOf e with
      | some r => if r.init then initRing s sl i h e r else complete (s.setHandle s.run.1 h e) sl i latA
      | none => complete (s.setHandle s.run.1 h e) sl i latA

/-- hrd (R189). -/
def execHrd (p : Pre) (h : BitVec 8) (a b : BitVec 3) (s : State) : Out :=
  let i : Instr := .hrd p h a b
  if s.scrubbing s.run.1 then .next s
  else guarded s i p fun sl =>
    let e := (s.core s.run.1).handle h
    complete s { sl with line := sl.line.setPair a b e.1 e.2 } i latA

/-- hmov (R189). -/
def execHmov (p : Pre) (hd ha : BitVec 8) (s : State) : Out :=
  let i : Instr := .hmov p hd ha
  if s.scrubbing s.run.1 then .next s
  else guarded s i p fun sl =>
    complete (s.setHandle s.run.1 hd ((s.core s.run.1).handle ha)) sl i latA

/-! ## Messages (R190 to R192) -/

/-- The line that a message gives its handler, but for ccore (R191). -/
def messageLine (sl : Slot) (pc : BitVec 48) (n : Nat) : Line :=
  let l := sl.line
  let payload (k : Nat) : Word := if 2 ≤ k && k < n + 2 then l.reg (BitVec.ofNat 3 k) else 0
  { Line.blank with
    pc := pc
    world := l.world
    supervisor := l.supervisor
    handler := true
    fcsr := l.fcsr &&& 0x0207
    vfid := l.vfid
    sset := l.sset
    prio := l.prio
    cls := l.cls
    g := Vector.ofFn fun k =>
      match k.val with
      | 0 => sl.who.idWord
      | 1 => BitVec.ofNat 64 n
      | m => payload m }

/-- send (R190): a message takes the next number of the posted entries, which orders a context's messages wherever it moves. -/
def execSend (p : Pre) (t h n : BitVec 3) (s : State) : Out :=
  let i : Instr := .send p t h n
  guarded s i p fun sl =>
    let c := s.run.1
    let k := s.core c
    let v := sl.line.vfid.toNat
    let q := sl.line.reg t
    let g := sl.seg (ptrSeg q)
    if Config.messageCredits ≤ k.outbound.length then .next s
    else if sl.reply then trapOut s sl i causeHandlerWait q
    else if !limitCheck g q 1 then trapOut s sl i causeSegLimit q
    else
      match s.homeCore c v g (ptrOff q) with
      | none => trapOut s sl i causeMigrate q
      | some dest =>
        match checkTarget (sl.line.reg h) with
        | some tr => trapInfoOut s sl i tr
        | none =>
          let pc := (sl.line.reg h).extractLsb' 0 48
          let payload := (List.range n.toNat).map fun j => sl.line.reg (BitVec.ofNat 3 (j + 2))
          let m := Msg.mk c v sl.line.handler pc (messageLine sl pc n.toNat) n.toNat payload sl.rcb sl.who s.posted
          complete { s.setCore c { k with outbound := k.outbound ++ [(dest, m)] } with posted := s.posted + 1 } sl i latA

/-- hret (R192, R304): outside a handler it traps ILLEGAL. -/
def execHret (p : Pre) (s : State) : Out :=
  let i : Instr := .hret p
  guarded s i p fun sl =>
    if !sl.line.handler then trapOut s sl i causeIllegal i.packed
    else .next ((s.abandon s.run.1 sl.who).freeHandler s.run.1 s.run.2 sl.who)

/-! ## Special registers (R194 to R196) -/

/-- Eight slot-table entries as a doubleword. -/
def slotGroup (l : List (BitVec 8)) (g : Nat) : Word :=
  BitVec.ofNat 64 ((List.range 8).foldl (fun acc k => acc + ((l[8 * g + k]?).getD 0).toNat * 256 ^ k) 0)

/-- coreinfo (R195). -/
def State.coreinfo (s : State) (v c : Nat) : Word :=
  let n := s.nodeOf v
  BitVec.ofNat 64 (s.lcore v c + logicalCluster n (clusterOf c) * 2 ^ 12 + c * 2 ^ 20 + nodeLeaves n * 2 ^ 32 + n * 2 ^ 39)

/-- A privileged special register (R195). -/
def State.specialReg (s : State) (v c n : Nat) : Word :=
  let x := s.vf v
  let k := s.core c
  match n with
  | 0 => k.cl1lim.setWidth 64
  | 1 => s.coreinfo v c
  | 2 => BitVec.ofNat 64 x.sstbase
  | 3 => BitVec.ofNat 64 x.sstlen
  | 4 => BitVec.ofNat 64 x.ctxbase
  | 5 => BitVec.ofNat 64 x.ctxlen
  | 6 => BitVec.ofNat 64 x.upcbase
  | 8 | 9 | 10 | 11 => slotGroup k.sltcur (n - 8)
  | 12 | 13 | 14 | 15 => slotGroup k.sltnew (n - 12)
  | _ => 0

/-- rdsr of a privileged register (R194). -/
def execRdsrPriv (p : Pre) (d : BitVec 3) (n : BitVec 6) (s : State) : Out :=
  let i : Instr := .rdsrPriv p d n
  privileged s i p fun sl =>
    complete s { sl with line := sl.line.setReg d (s.specialReg sl.line.vfid.toNat s.run.1 n.toNat) } i latA

/-- Bits [47:lo] of a value. -/
def baseBits (w : Word) (lo : Nat) : Nat := (w.toNat % 2 ^ 48) / 2 ^ lo * 2 ^ lo

/-- A VF's register as rdsr numbers it, written (R195). -/
def Vf.writeReg (x : Vf) (n : Nat) (w : Word) : Vf :=
  match n with
  | 2 => { x with sstbase := baseBits w 7 }
  | 3 => { x with sstlen := Nat.min (w.toNat % 2 ^ 17) 65536 }
  | 6 => { x with upcbase := baseBits w 13 }
  | _ => x

/-- wrsr of a privileged register (R194, R195): cl1lim refuses 0 and values above 64. -/
def execWrsrPriv (p : Pre) (a : BitVec 3) (n : BitVec 6) (s : State) : Out :=
  let i : Instr := .wrsrPriv p a n
  privileged s i p fun sl =>
    let w := sl.line.reg a
    let v := sl.line.vfid.toNat
    if n = 0 then
      let lim := w.extractLsb' 0 7
      if lim = 0 || 64 < lim.toNat then trapOut s sl i causeIllegal w
      else complete (s.setCore s.run.1 { s.core s.run.1 with cl1lim := lim }) sl i latA
    else complete (s.setVf v ((s.vf v).writeReg n.toNat w)) sl i latA

/-- rdtick (R196). -/
def execRdtick (p : Pre) (d : BitVec 3) (s : State) : Out :=
  let i : Instr := .rdtick p d
  guarded s i p fun sl => complete s { sl with line := sl.line.setReg d (BitVec.ofNat 64 s.tick) } i latA

/-! ## Resuming parked contexts (R197, R198) -/

/-- eret (R197): resumes the context of g0, parked by a trap delivery, and ends the handler. -/
def execEret (p : Pre) (s : State) : Out :=
  let i : Instr := .eret p
  privileged s i p fun sl =>
    let id := sl.line.reg 0
    if !sl.line.handler then trapOut s sl i causeIllegal i.packed
    else
      match s.namedCtx id with
      | none => trapOut s sl i causeIllegal id
      | some (v, k) =>
        if v ≠ sl.line.vfid.toNat || s.parkedSlot v k ≠ some 0 then trapOut s sl i causeIllegal id
        else .next (((s.resume v k).abandon s.run.1 sl.who).freeHandler s.run.1 s.run.2 sl.who)

/-- upret (R198, R291): resumes a context parked after a stage-1 fault, whose upcall slot is free again. A copy or a ring that
stage 2 does not reach is waited for (R292, log 24). -/
def execUpret (p : Pre) (a : BitVec 3) (s : State) : Out :=
  let i : Instr := .upret p a
  guarded s i p fun sl =>
    let id := sl.line.reg a
    match s.namedCtx id with
    | none => trapOut s sl i causeIllegal id
    | some (v, k) =>
      match (if v = sl.line.vfid.toNat then s.homeRefused v k true else none) with
      | some a => memFaultAt s sl i .stage2 (.paged v a) id .write a
      | none =>
        match s.parkedSlot v k, s.lineOf v k with
        | some slot, some l =>
          if v ≠ sl.line.vfid.toNat || slot < 2 then trapOut s sl i causeIllegal id
          else
            match s.stage2Refused v true [s.upcallRing v (s.ccoreOf v l) + 8 * (slot / 64)] with
            | some a => memFaultAt s sl i .stage2 (.paged v a) id .write a
            | none => complete ((s.clearUpcall v (s.ccoreOf v l) slot).resume v k) sl i latA
        | _, _ => trapOut s sl i causeIllegal id

/-! ## Other contexts' lines (R199) -/

/-- The context of the caller's VF that a register names, or the trap: PRIV for another VF's, ILLEGAL for none (R199, R201). DESIGN
CHOICE (log 94): the manual does not say which comes first for an id of another VF whose index lies beyond that VF's ctxlen;
here the VF does. -/
def State.ownCtx (s : State) (v : Nat) (w : Word) : Except TrapInfo Nat :=
  if w.extractLsb' 49 15 != 0 then .error (TrapInfo.mk causeIllegal w)
  else if (w.extractLsb' 40 9).toNat ≠ v then .error (TrapInfo.mk causePriv w)
  else if (s.vf v).ctxlen ≤ (w.extractLsb' 0 40).toNat then .error (TrapInfo.mk causeIllegal w)
  else .ok (w.extractLsb' 0 40).toNat

/-- The checks of cxld and cxst in order. -/
def lineChecks (s : State) (sl : Slot) (i : Instr) (a b : BitVec 3) (k : Nat → Nat → Out) : Out :=
  let sel := sl.line.reg b
  if sel.extractLsb' 4 60 != 0 then trapOut s sl i causeIllegal sel
  else
    match s.ownCtx sl.line.vfid.toNat (sl.line.reg a) with
    | .error t => trapInfoOut s sl i t
    | .ok ix => k ix (sel.extractLsb' 0 4).toNat

/-- A doubleword of a memory copy, a probe of its word in the caller's world (R199, R265, R407): a stage-2 fault waits for the
hypervisor with the guest-physical address in place of a linear one (log 90), a poisoned word traps. -/
def copyWord (s : State) (sl : Slot) (i : Instr) (q : Word) (gpa : Nat) (write : Bool) (k : State → Word8 → Out) : Out :=
  let loc : Loc := .paged sl.line.vfid.toNat gpa
  if !s.mayPerform s.run.1 sl.who loc 8 none then hold s sl i
  else
    match s.word loc write sl.secure with
    | .error e => memFaultAt s sl i e loc q (if write then .write else .read) gpa
    | .ok w =>
      let s1 := s.touchLlc sl.line.vfid.toNat gpa write false
      if w.poison then trapOut s1 sl i causeMemUncorr q else k s1 w

/-- cxld (R199): a line in a packet is waited for. -/
def execCxld (p : Pre) (d a b : BitVec 3) (s : State) : Out :=
  let i : Instr := .cxld p d a b
  privileged s i p fun sl =>
    lineChecks s sl i a b fun ix k =>
      let v := sl.line.vfid.toNat
      let done (s : State) (x : Word) : Out := complete s { sl with line := sl.line.setReg d x } i latA
      match s.placeOf v ix with
      | some .flight => hold s sl i
      | some (.l1 _ _) | some (.l2 _) | some (.buffer _) =>
        match s.lineOf v ix with
        | some l => done s (l.dw k)
        | none => hold s sl i
      | _ => copyWord s sl i (sl.line.reg a) (s.copyAddr v ix + 8 * k) false fun s1 w => done s1 w.data

/-- The traps of a written doubleword (R199): a pc that R15 refuses, a reserved rounding mode. -/
def lineDwBad (k : Nat) (w : Word) : Option TrapInfo :=
  if k = 0 && w.getLsbD 0 then some (TrapInfo.mk causeAlign ((w.extractLsb' 0 48).setWidth 64))
  else if k = 2 && 5 ≤ (w.extractLsb' 0 3).toNat then some (TrapInfo.mk causeIllegal w)
  else none

/-- A line in an L1 loads its segment registers again before it issues (R26, R201). -/
def State.staleSegs (s : State) (v ix : Nat) : State :=
  match s.placeOf v ix with
  | some (.l1 c w) =>
    match s.slot? c w with
    | some sl => s.putSlot c w { sl with segsLoaded := false }
    | none => s
  | _ => s

/-- The wait kind in a line's dw1 (R14). -/
def waitOfDw (w : Word) : WaitKind := WaitKind.ofCode (w.extractLsb' 60 4)

/-- cxst (R199): only to a line parked UPCALL, which a HOME context's copy says. A written sset takes effect when the target
resumes (R26). -/
def execCxst (p : Pre) (d a b : BitVec 3) (s : State) : Out :=
  let i : Instr := .cxst p d a b
  privileged s i p fun sl =>
    lineChecks s sl i a b fun ix k =>
      let v := sl.line.vfid.toNat
      let w := sl.line.reg d
      let q := sl.line.reg a
      let write (done : Out) : Out :=
        match lineDwBad k w with
        | some t => trapInfoOut s sl i t
        | none => done
      match s.placeOf v ix with
      | some .memory =>
        let gpa := s.copyAddr v ix
        copyWord s sl i q (gpa + 8) false fun s1 x =>
          if waitOfDw x.data ≠ .upcall then trapOut s1 sl i causeIllegal q
          else
            write <| copyWord s1 sl i q (gpa + 8 * k) true fun s2 x =>
              complete (s2.performWord (.paged v (gpa + 8 * k)) 8 x { x with data := copyDw k x.data w } sl.secure) sl i latA
      | _ =>
        match s.lineOf v ix with
        | none => trapOut s sl i causeIllegal q
        | some l =>
          if l.wt ≠ .upcall then trapOut s sl i causeIllegal q
          else
            let s1 := s.setLine v ix (l.writeDw k w)
            write <| complete (if k = 2 then s1.staleSegs v ix else s1) sl i latA

/-! ## Translation, segments and slots (R200 to R202) -/

/-- Whether an entry translates any byte of a linear range; length 0 stands for every one. -/
def TlbEntry.inRange (e : TlbEntry) (from_ len : Nat) : Bool :=
  len = 0 || (e.lpage * 4096 < from_ + len && from_ < (e.lpage + sizePages e.size) * 4096)

/-- The same of an entry of a walker cache. -/
def TableEntry.inRange (e : TableEntry) (from_ len : Nat) : Bool :=
  let size := 4096 * 2 ^ (9 * e.level)
  len = 0 || (e.range * size < from_ + len && from_ < (e.range + 1) * size)

/-- tlbinv (R200, R349). -/
def execTlbinv (p : Pre) (a b : BitVec 3) (s : State) : Out :=
  let i : Instr := .tlbinv p a b
  privileged s i p fun sl =>
    let v := sl.line.vfid.toNat
    let from_ := (sl.line.reg a).toNat
    let len := (sl.line.reg b).toNat
    let hit (x : Nat) : Bool := len = 0 || (x / 4096 * 4096 < from_ + len && from_ < (x / 4096 + 1) * 4096)
    complete { s with
      cores := s.cores.map fun e => (e.1, { e.2 with
        tlb := e.2.tlb.filter fun x => !(x.vf = v && x.inRange from_ len) })
      clusters := s.clusters.map fun e => (e.1, { e.2 with
        tables := e.2.tables.filter fun x => !(x.vf = v && x.inRange from_ len)
        walks := e.2.walks.map fun w => if w.vf = v && hit w.linear then { w with stale := true } else w }) } sl i latA

/-- A resident line's segment registers, loaded where their table is reached. -/
def State.reloadSegs (s : State) (sl : Slot) : Slot :=
  match s.loadSet sl.line.vfid.toNat sl.line.sset.toNat with
  | .ok l => { sl with segs := l, segsLoaded := true }
  | .error _ => sl

/-- The guest-physical address that a resident line's reload does not reach, if any line that a test selects has one. -/
def State.unreached (s : State) (which : Slot → Bool) : Option Nat :=
  s.cores.findSome? fun e => e.2.ways.findSome? fun x =>
    if which x.2 then
      match s.loadSet x.2.line.vfid.toNat x.2.line.sset.toNat with
      | .ok _ => none
      | .error a => some a
    else none

/-- Every resident line that a test selects reloads (R201), its reads counted. -/
def State.reloadAll (s : State) (which : Slot → Bool) : State :=
  let reload (x : Nat × Slot) : Nat × Slot := if which x.2 then (x.1, s.reloadSegs x.2) else x
  let read := ((s.cores.flatMap fun e => e.2.ways).filter fun x => which x.2).foldl (fun s x => s.readSet x.2) s
  { read with cores := read.cores.map fun e => (e.1, { e.2 with ways := e.2.ways.map reload }) }

/-- seginv (R201): it completes when every resident named context has reloaded; where a reload meets a page that stage 2 does
not reach, the issuing context waits for the hypervisor and executes it again. -/
def execSeginv (p : Pre) (a : BitVec 3) (s : State) : Out :=
  let i : Instr := .seginv p a
  privileged s i p fun sl =>
    let v := sl.line.vfid.toNat
    let w := sl.line.reg a
    let reload (which : Slot → Bool) : Out :=
      match s.unreached which with
      | some g => segsStage2 s sl g
      | none =>
        let s1 := s.reloadAll which
        match s1.cur? with
        | some sl1 => complete s1 { sl with segs := sl1.segs, segsLoaded := sl1.segsLoaded } i latA
        | none => .next s1
    if w = BitVec.allOnes 64 then reload fun x => x.line.vfid.toNat = v
    else
      match s.ownCtx v w with
      | .error t => trapInfoOut s sl i t
      | .ok ix => reload fun x => x.who = .ctx v ix

/-- An entry that slt.wr refuses (R202). -/
def slotEntryBad (e : BitVec 8) : Bool :=
  let cls := (e.extractLsb' 6 2).toNat
  cls = 3 || (cls ≠ 2 && e.extractLsb' 0 6 != 0)

/-- slt.wr (R202). -/
def execSltWr (p : Pre) (a b : BitVec 3) (s : State) : Out :=
  let i : Instr := .sltWr p a b
  privileged s i p fun sl =>
    let x := sl.line.reg a
    let y := sl.line.reg b
    let entry (k : Nat) : BitVec 8 := y.extractLsb' (8 * k) 8
    let rbar := s.regionBarrier sl
    if x.extractLsb' 2 62 != 0 || rbar = 0 then trapOut s sl i causeIllegal x
    else if (List.range 8).any fun k => slotEntryBad (entry k) then trapOut s sl i causeIllegal y
    else
      let c := s.core s.run.1
      let g := (x.extractLsb' 0 2).toNat
      let new := (List.range 32).map fun k => if k / 8 = g then entry (k % 8) else (c.sltnew[k]?).getD 0
      let me := (sl.line.vfid.toNat, rbar)
      complete (s.setCore s.run.1 { c with
        sltnew := new
        staged := if c.staged.contains me then c.staged else c.staged ++ [me] }) sl i latA

/-! ## Capabilities (R175, R176, R228) -/

/-- A new check code: the drawn one, but never 0 (R175), and never the code it replaces, whose token dies (R176, log 10). -/
def newCheck (n : Nat) (old : BitVec 20) : BitVec 20 :=
  let c := Config.capCheck n
  if c ≠ 0 ∧ c ≠ old then c else if old = 1 then 2 else 1

/-- A remote slot bound to a VF: an earlier token dies; the format fields stay for the same VF (R228). -/
def FmtCtx.bind (f : FmtCtx) (v : Nat) (check : BitVec 20) (expiry : Word) : FmtCtx :=
  FmtCtx.mk (if f.bound && f.vf = v then f.fmt else FmtCtx.reset.fmt) true v check expiry

/-- capmint (R176). -/
def execCapmint (p : Pre) (d a b : BitVec 3) (s : State) : Out :=
  let i : Instr := .capmint p d a b
  guarded s i p fun sl =>
    let v := sl.line.vfid.toNat
    let req := sl.line.reg a
    let expiry := sl.line.reg b
    let cl := (req.extractLsb' 0 8).toNat
    let slot := (req.extractLsb' 8 4).toNat
    let phys := physicalCluster (s.nodeOf v) cl
    let k := s.cluster phys
    let f := k.fmt (16 + slot)
    let done (s1 : State) (x : Word) : Out := complete s1 { sl with line := sl.line.setReg d x } i latA
    if req.extractLsb' 12 52 != 0 then trapOut s sl i causeIllegal req
    else if nodeClusters (s.nodeOf v) ≤ cl || expiry.toNat ≤ s.tick
        || (f.bound && f.vf ≠ v && s.tick < f.expiry.toNat) then done s 0
    else
      let check := newCheck s.draws f.check
      let s1 := s.drawn.setCluster phys { k with fmts := k.fmts.set (16 + slot) (f.bind v check expiry) }
      done s1 (BitVec.ofNat 64 (check.toNat * 2 ^ 12 + slot * 2 ^ 8 + cl))

/-! ## Yarrow forms and cluster flags (R203, R204) -/

/-- ymark (R203, R374). -/
def execYmark (p : Pre) (a : BitVec 3) (s : State) : Out :=
  let i : Instr := .ymark p a
  guarded s i p fun sl =>
    let v := sl.line.vfid.toNat
    let fields : List Word := [sl.line.reg a, sl.who.idWord, 0, BitVec.ofNat 64 s.tick]
    complete ((s.yEvent (dieOf s.run.1) v 0 0 fields).countOf v 0x60 1 (some sl.who)) sl i latA

/-- The fabric codes: a counter that selects one stays 0 (R381). -/
def fabricCode (code : BitVec 16) : Bool := 0x100 ≤ code.toNat && code.toNat ≤ 0x103

/-- A virtual counter as yrd shows it (R381). -/
def Counters.shown (x : Counters) (n : Nat) : BitVec 48 := if fabricCode ((x.codes[n]?).getD 0) then 0 else (x.counts[n]?).getD 0

/-- The die that holds the counters of a VF: that of the lowest leaf of its partition (R382). -/
def State.counterDie (s : State) (v : Nat) : Nat := firstLeaf (s.nodeOf v) / 16

/-- yrd (R203, R382), after the context's own earlier ymarks: a secure Yarrow of the counter die shows a non-secure VF 0 (R404). That
the counter die's world decides it, and not the issuing core's die's, is DESIGN CHOICE (log 102). -/
def execYrd (p : Pre) (d a : BitVec 3) (s : State) : Out :=
  let i : Instr := .yrd p d a
  guarded s i p fun sl =>
    let v := sl.line.vfid.toNat
    let n := (sl.line.reg a).toNat
    if 15 < n then trapOut s sl i causeIllegal (sl.line.reg a)
    else
      let s1 := s.applyMarks sl.who
      let x := if s.yarrowOpen (s.counterDie v) v then ((s1.vf v).counters.shown n).setWidth 64 else 0
      complete s1 { sl with line := sl.line.setReg d x } i latA

/-- What a yctl function does to the counters (R203); none for a reserved one. -/
def Counters.control (x : Counters) (f i : Nat) (w : Word) : Option Counters :=
  match f with
  | 0 =>
    let code := w.extractLsb' 0 16
    some { x with codes := x.codes.set i code, counts := if fabricCode code then x.counts.set i 0 else x.counts }
  | 1 => some { x with counts := x.counts.set i (if fabricCode ((x.codes[i]?).getD 0) then 0 else w.extractLsb' 0 48) }
  | 2 => some { x with enable := w.extractLsb' 0 16 }
  | 3 => some { x with run := w.extractLsb' 0 16 }
  | _ => none

/-- yctl (R203), after the context's own earlier ymarks (R382). -/
def execYctl (p : Pre) (a b : BitVec 3) (s : State) : Out :=
  let i : Instr := .yctl p a b
  privileged s i p fun sl =>
    let v := sl.line.vfid.toNat
    let x := sl.line.reg a
    let y := sl.line.reg b
    let f := (x.extractLsb' 0 8).toNat
    let s1 := s.applyMarks sl.who
    let vf := s1.vf v
    if x.extractLsb' 12 52 != 0 then trapOut s sl i causeIllegal x
    else
      match vf.counters.control f (x.extractLsb' 8 4).toNat y with
      | none => trapOut s sl i causeIllegal x
      | some k =>
        if f = 1 && y.extractLsb' 48 16 != 0 then trapOut s sl i causeIllegal y
        else complete (s1.setVf v { vf with counters := k }) sl i latA

/-- cfl.rd (R204): latency 20, and 4 for each doubling of the partition. -/
def execCflRd (p : Pre) (d : BitVec 3) (s : State) : Out :=
  let i : Instr := .cflRd p d
  guarded s i p fun sl =>
    let v := sl.line.vfid.toNat
    let n := s.nodeOf v
    let all := s.clusters.foldl (fun acc e => if inNode n e.1 then acc ||| e.2.flags.get v 0 else acc) (0#32)
    complete s { sl with line := sl.line.setReg d (all.setWidth 64) } i (20 + 4 * (6 - nodeDepth n))

/-- cfl.clr (R204). -/
def execCflClr (p : Pre) (a : BitVec 3) (s : State) : Out :=
  let i : Instr := .cflClr p a
  guarded s i p fun sl =>
    let v := sl.line.vfid.toNat
    let n := s.nodeOf v
    let m := (sl.line.reg a).extractLsb' 0 32
    let clear (e : Nat × Cluster) : Nat × Cluster :=
      if inNode n e.1 then (e.1, { e.2 with flags := e.2.flags.map fun f => if f.1 = v then (f.1, f.2 &&& ~~~m) else f })
      else e
    complete { s with clusters := s.clusters.map clear } sl i latA

end Sys2Proof.Machine
end

