-- ==== Sys2Proof/Machine/Events.lean ====
section
/-! DEFINITION. Events: what reaches a context from outside its own issue (R313): fills, wakes, answers to held instructions,
polls, WATCH, and the moves of its line (15_context_hierarchy.md); starts of handlers (R191, R282). -/
namespace Sys2Proof.Machine

/-! ## Context events (R313, R314) -/

/-- A wake at a line: it becomes READY if it still takes that wait; otherwise the wake is discarded (R314). -/
def State.applyWake (s : State) (w : Who) (l : Line) (kind : WaitKind) : State :=
  if l.wt ≠ kind then s
  else ({ s with waiters := s.waiters.filter fun x => x.who ≠ w }).readyWho w l

/-- The trap of a fatal page answer at a line that still waits for it (R292). -/
def State.applyTrap (s : State) (w : Who) (l : Line) (cause : BitVec 16) (tval : Word) (tinfo : BitVec 16) (acc : Nat) :
    State :=
  if l.wt ≠ .xlate then s else s.trapWho w { l with wt := .ready, wtArg := 0 } cause tval tinfo acc

/-- Waits that a WATCH ends (R293): all but FILL, XLATE and UPCALL. -/
def watchEnds (k : WaitKind) : Bool :=
  match k with
  | .ready | .fill | .xlate | .upcall | .migrate => false
  | _ => true

/-- A WATCH at a context (R293): it ends a wait, or is held for the next boundary; a second one is counted and discarded. -/
def State.applyWatch (s : State) (v i : Nat) (l : Line) (tval : Word) : State :=
  match s.ctx? v i with
  | none => s.dropWatch v tval
  | some x =>
    if x.watch.isSome then s.dropWatch v tval
    else if watchEnds l.wt then
      let s1 := ({ s with waiters := s.waiters.filter fun y => y.who ≠ Who.ctx v i }).setCtx v i { x with wake := none }
      s1.faultLine v i { l with wt := .ready, wtArg := 0 } causeWatch tval 0
    else s.setCtx v i { x with watch := some tval }

/-- One event at its addressee's line, wherever it lies. -/
def State.applyEvent (s : State) (w : Who) (e : Event) (l : Line) : State :=
  match e, w with
  | .wake kind, _ => s.applyWake w l kind
  | .trap cause tval tinfo acc, _ => s.applyTrap w l cause tval tinfo acc
  | .watch tval, .ctx v i => s.applyWatch v i l tval
  | .watch tval, .handler _ _ _ v => s.dropWatch v tval

/-- Whether an addressee's line is in a packet, where events are held (R313 step 5). -/
def State.inFlight (s : State) (w : Who) : Bool :=
  match w with
  | .ctx v i => s.placeOf v i = some .flight
  | .handler _ _ _ _ => false

/-- An event whose addressee no longer exists is discarded; a WATCH among them is counted (R293, R304). -/
def State.lostEvent (s : State) (w : Who) (e : Event) : State :=
  match e with
  | .watch tval => s.dropWatch w.vf tval
  | _ => s

/-- Where stage 2 does not reach the line of an event's addressee, a context that is HOME. -/
def State.whoRefused (s : State) (w : Who) : Option (Nat × Nat × Nat) :=
  match w with
  | .ctx v i => (s.homeRefused v i true).map fun a => (v, i, a)
  | .handler _ _ _ _ => none

/-- CONTEXT_EVENT (R313, R314): event `k`, after the earlier ones of its addressee; a WATCH for a line in flight is
discarded (R293), any other event waits for the arrival, and for a memory copy that stage 2 does not reach (R352, log 24). -/
def execContextEvent (k : Nat) (s : State) : Out :=
  match s.events[k]? with
  | none => .next s
  | some (w, e) =>
    let s1 : State := { s with events := s.events.eraseIdx k }
    if (s.events.take k).any fun x => x.1 = w then .next s
    else if s.inFlight w then
      match e with
      | .watch tval => .next (s1.dropWatch w.vf tval)
      | _ => .next s
    else
      match s.whoRefused w with
      | some (v, i, a) => .next (s.requestCopy v i a .write)
      | none =>
        match s1.whoLine w with
        | none => .next (s1.lostEvent w e)
        | some l => .next (s1.applyEvent w e l)

/-- FILL_RESPONSE (R23, R136, R138). -/
def execFillResponse (k : Nat) (s : State) : Out := .next (s.answerFill k)

/-- Sleeping contexts of a cluster, in the order of their ids. -/
def State.sleepers (s : State) (cl : Nat) : List (Nat × Nat) :=
  s.ctxs.filterMap fun e =>
    let v := e.1 / 2 ^ 40
    let i := e.1 % 2 ^ 40
    match e.2.wake, s.lineOf v i with
    | some _, some l => if clusterOf (s.ccoreOf v l) = cl then some (v, i) else none
    | _, _ => none

/-- SLEEP_WAKE (R109): the k-th sleeper of a cluster wakes once the tick has reached its wake tick. -/
def execSleepWake (cl k : Nat) (s : State) : Out :=
  match (s.sleepers cl)[k]? with
  | none => .next s
  | some (v, i) =>
    match s.ctx? v i, s.lineOf v i with
    | some x, some l =>
      if x.wake.any fun t => t ≤ s.tick then
        let s1 := s.setCtx v i { x with wake := none }
        .next (if l.wt = .sleep then s1.readyLine v i l else s1)
      else .next s
    | _, _ => .next s

/-- HOST_ADDR_POLL (R149): a context that waits ADDR on a host word re-executes its waddr. -/
def execHostAddrPoll (vf index : Nat) (s : State) : Out :=
  let due (w : Waiter) : Bool := w.who = .ctx vf index && w.kind = .addr && w.poll.any fun t => t ≤ s.tick
  match s.lineOf vf index with
  | none => .next s
  | some l => if s.waiters.any due then .next (s.applyWake (.ctx vf index) l .addr) else .next s

/-! ## Answers to held instructions (R106, R136) -/

/-- The answer to a probe, a load or a page-3 instruction held in flight. -/
def probeAnswered (s : State) (i : Instr) : Out :=
  match i with
  | .tadd p d a b => execTadd p d a b s
  | .tsub p d a b => execTsub p d a b s
  | .tmul p d a b => execTmul p d a b s
  | .tfma p d a b => execTfma p d a b s
  | .tmin p d a b => execTmin p d a b s
  | .tmax p d a b => execTmax p d a b s
  | .tsel p d a b => execTsel p d a b s
  | .tcvt p d a => execTcvt p d a s
  | .texp2 p d a => execTexp2 p d a s
  | .tlog2 p d a => execTlog2 p d a s
  | .trcp p d a => execTrcp p d a s
  | .tcopy p d a => execTcopy p d a s
  | .tredSum p d a => execTredSum p d a s
  | .tredMax p d a => execTredMax p d a s
  | .tscale p d a k => execTscale p d a k s
  | .tfill p d k => execTfill p d k s
  | .tmask p d a k => execTmask p d a k s
  | .rwaitF p n h => execRwaitF p n h s
  | .rwaitE p n h => execRwaitE p n h s
  | .radvP p n h => execRadvP p n h s
  | .radvC p n h => execRadvC p n h s
  | .hdef p h a b => execHdef p h a b s
  | .cxld p d a b => execCxld p d a b s
  | .cxst p d a b => execCxst p d a b s
  | .fence _ | .mig _ _ | .exit _ => .next s
  | _ => answer s i

/-- The answer to an instruction that waits for its context's earlier accesses. -/
def drainAnswered (s : State) (i : Instr) : Out :=
  match i with
  | .fence p => execFence p s
  | .mig p a => execMig p a s
  | .exit p => execExit p s
  | _ => .next s

/-- The held instruction of a way is answered; an ended context retires after it (R330). -/
def answerHeld (s : State) (core way : Nat) (f : State → Instr → Out) : Out :=
  match s.slot? core way with
  | none => .next s
  | some sl =>
    match sl.held with
    | none => .next s
    | some i =>
      match f { s with run := (core, way) } i, sl.who with
      | .next t, .ctx v k => .next (t.retireEnded v k)
      | o, _ => o

/-- PROBE_ANSWER (R136). -/
def execProbeAnswer (core way : Nat) (s : State) : Out := answerHeld s core way probeAnswered

/-- FENCE_DRAIN (R106). -/
def execFenceDrain (core way : Nat) (s : State) : Out := answerHeld s core way drainAnswered

/-- STORE_QUEUE_PERFORM (R265). -/
def execStoreQueuePerform (core k : Nat) (s : State) : Out := .next (s.performPosted core k)

/-- WATCH_DELIVERY (R293): the pending WATCH of a READY line between two instructions. -/
def execWatchDelivery (core way : Nat) (s : State) : Out :=
  match s.slot? core way with
  | none => .next s
  | some sl =>
    match sl.who with
    | .handler _ _ _ _ => .next s
    | .ctx v i =>
      match s.ctx? v i with
      | none => .next s
      | some x =>
        match x.watch with
        | none => .next s
        | some tval =>
          if sl.line.wt ≠ .ready || sl.held.isSome || s.vectorRuns core way then .next s
          else .next (s.takeWatch core way sl v i x tval)

/-! ## Moves of a line (R308 to R315) -/

/-- A line that the slot table may select and that leaves its way instead, since a VF switch runs and nothing pins it
(R339). -/
def State.switchesOut (s : State) (c w : Nat) : Bool :=
  match s.slot? c w with
  | none => false
  | some sl =>
    sl.line.wt = .ready && sl.readyAt ≤ s.coreCycle c && w < (s.core c).ordinary && !s.pinned c w sl
      && (s.core c).switchAt.isSome && (s.core c).resident ≠ some sl.line.vfid.toNat

/-- The first way beyond those that cl1lim leaves whose line nothing pins (R312). -/
def State.limitWay (s : State) (c : Nat) : Option Nat :=
  ((s.core c).ways.find? fun e => (s.core c).ordinary ≤ e.1 && e.1 < 60 && !s.pinned c e.1 e.2).map Prod.fst

/-- CONTEXT_EVICTION (R308): for a lowered cl1lim, one line a cycle in way order (R312), or for a VF switch (R339). -/
def execContextEviction (core way : Nat) (s : State) : Out :=
  let k := s.core core
  if s.switchesOut core way then .next (s.evict core way)
  else if s.limitWay core = some way && k.limitCycle ≤ s.cycle && s.evictable core way then
    .next ((s.setCore core { k with limitCycle := s.cycle + 1 }).evict core way)
  else .next s

/-- CONTEXT_PULL (R311). -/
def execContextPull (core : Nat) (s : State) : Out := .next (s.pull core)

/-- CONTEXT_WRITE_BACK (R309): the victim of a set, which a write-back buffer has held since its set took another line, reaches
its memory copy and is HOME. -/
def execContextWriteBack (cl set : Nat) (s : State) : Out :=
  match (s.cluster cl).outgoing.find? fun e => l2Set e.vf e.index = set with
  | some e => .next (s.writeBackLine cl e)
  | none => .next s

/-- An ended context whose last operation has completed retires, wherever it waits (R330). -/
def endedMove (v i : Nat) (s : State) : Out := .next (s.retireEnded v i)

/-- CONTEXT_FETCH (R308). -/
def execContextFetch (vf index : Nat) (s : State) : Out := .next (s.fetchHome vf index)

/-- Whether the accesses that a migrating context made on its old core are performed at package scope (R273). -/
def State.packetDrained (s : State) (p : Packet) : Bool :=
  p.launch || s.drainedBefore (.ctx p.vf p.index) s.posted false

/-- MIGRATION_ARRIVAL (R315). -/
def execMigrationArrival (k : Nat) (s : State) : Out :=
  match s.packets[k]? with
  | none => .next s
  | some p => if s.packetDrained p then .next (s.arrivePacket k) else .next s

/-- ARRIVAL_TO_CONTEXT_L2 (R315). -/
def execArrivalToContextL2 (k : Nat) (s : State) : Out := .next (s.arriveLate k)

/-- ARRIVAL_ACK (R396, R398): a packet that has been taken frees its record; of a command, the next element that its place has applied
is acknowledged. -/
def execArrivalAck (cl seq : Nat) (s : State) : Out :=
  let k := s.cluster cl
  let isPacket (r : Replay) : Bool := r.seq = seq && (match r.sent with
    | .packet _ => true
    | .command _ => false)
  if k.replay.any isPacket && !s.packets.any (fun p => p.cluster = cl && p.seq = seq) then
    .next (s.setCluster cl { k with replay := k.replay.filter fun r => !isPacket r })
  else
    match s.liveCmd cl seq with
    | some c =>
      if s.unacked c = 0 then .next s
      else .next ((s.mark c fun m => { m with acked := m.acked + 1 }).restartAck c)
    | none => .next s

/-- CONTEXT_LINE_LOST (R395). -/
def execContextLineLost (vf index : Nat) (s : State) : Out := .next (s.loseLine vf index)

/-- Whether an ordinary way has lost its turn for good while its line stays there: to a VF switch (R339), to a lowered cl1lim
(R312), or to a SPLIT that took its core (R368). That the last two are pre-emptions in the sense of R168 is DEDUCED (log 103). -/
def State.preempted (s : State) (core way : Nat) (v : Nat) : Bool :=
  let k := s.core core
  way < 60 && ((k.switchAt.isSome && k.resident ≠ some v) || k.ordinary ≤ way || !inNode (s.nodeOf v) (clusterOf core))

/-- PARTIAL_COMMAND_ABANDON (R168): a pre-emption that waits for a partial command ends it 1,024 cycles after its header
push. -/
def execPartialCommandAbandon (core way port : Nat) (s : State) : Out :=
  match s.slot? core way, (s.core core).buffers.find port with
  | some sl, some b =>
    if b.owner = sl.who && s.preempted core way sl.line.vfid.toNat && b.since + 1024 < s.cycle then .next (s.abandon core sl.who) else .next s
  | _, _ => .next s

/-! ## Messages and handlers (R190, R191, R282, R304) -/

/-- Whether a core's message queue has an entry for a class (R190): 8 of 32 are for replies alone. -/
def Core.messageRoom (k : Core) (reply : Bool) : Bool :=
  k.msgs.length < Config.messageQueue
    && (reply || (k.msgs.filter fun m => !m.reply).length < Config.messageQueue - Config.replyReserve)

/-- MESSAGE_ARRIVAL (R190): message `k` of a core's outbound buffer, once the sender's earlier accesses are performed at
partition scope and no earlier message of that context to that core waits, wherever the context sent it from. -/
def execMessageArrival (core k : Nat) (s : State) : Out :=
  match (s.core core).outbound[k]? with
  | none => .next s
  | some (dest, m) =>
    let earlier := s.cores.any fun x => x.2.outbound.any fun e => e.1 = dest && e.2.who = m.who && e.2.after < m.after
    if earlier || !s.drainedBefore m.who m.after true || !(s.core dest).messageRoom m.reply then .next s
    else
      let x := s.core core
      let s1 := s.setCore core { x with outbound := x.outbound.eraseIdx k }
      let y := s1.core dest
      .next (s1.setCore dest { y with msgs := y.msgs ++ [m] })

/-- The lowest free handler line of a core. -/
def Core.freeHandlerLine (k : Core) : Option Nat := [60, 61, 62, 63].find? fun w => (k.ways.find w).isNone

/-- A handler starts in a free handler line (R304). -/
def State.startHandler (s : State) (c w v : Nat) (l : Line) (reply : Bool) (rcb : Nat) : State :=
  let k := s.core c
  let n := (k.starts.get w 0 + 1) % 256
  let line := { l with ccore := BitVec.ofNat 12 (s.lcore v c) }
  let s1 := s.setCore c { k with starts := k.starts.set w n }
  s1.putSlot c w (Slot.mk line (.handler c (w - 60) n v) [] false (s.coreCycle c) s.cycle false 0 none reply rcb)

/-- The VF of a list entry. -/
def Delivery.vf : Delivery → Nat
  | .parked v _ => v
  | .report v _ _ => v

/-- The oldest entry of a trap-delivery list whose VF holds the core. -/
def Core.delivery? (k : Core) : Option (Nat × Delivery) :=
  match k.deliveries.findIdx? fun d => k.resident = some d.vf with
  | none => none
  | some n => (k.deliveries[n]?).map fun d => (n, d)

/-- The oldest message of a class whose VF holds the core. -/
def Core.message? (k : Core) (reply : Bool) : Option (Nat × Msg) :=
  match k.msgs.findIdx? fun m => m.reply = reply && k.resident = some m.vf with
  | none => none
  | some n => (k.msgs[n]?).map fun m => (n, m)

/-- The line of a fault-domain handler (R282). -/
def faultLineOf (l : Line) (pc : Nat) (id : Word) : Line :=
  { Line.blank with
    pc := BitVec.ofNat 48 pc
    world := l.world
    supervisor := true
    handler := true
    fcsr := l.fcsr &&& 0x0207
    vfid := l.vfid
    sset := l.sset
    prio := l.prio
    cls := l.cls
    g := Vector.ofFn fun k =>
      match k.val with
      | 0 => id
      | 1 => 3
      | 2 => (l.dw 6).setWidth 32 |>.setWidth 64
      | 3 => l.tval
      | 4 => l.pc.setWidth 64
      | _ => 0 }

/-- The fields of a line that an RCB gives (R319, R329). -/
def Rcb.line (r : Rcb) (sec : Bool) : Line :=
  { Line.blank with
    world := r.dw7.getLsbD 16 && sec
    supervisor := r.dw7.getLsbD 17
    fcsr := fcsrOf (r.dw7.extractLsb' 32 16)
    sset := r.dw7.extractLsb' 0 16
    cls := r.dw7.extractLsb' 24 8
    prio := BitVec.ofNat 8 r.prio
    vfid := BitVec.ofNat 9 r.vf }

/-- The report that a spawned child is malformed: a handler of the parent, with the values of R323. No context traps here, so world,
fcsr, sset, prio and cls are those that the spawner's RCB gives its contexts: DESIGN CHOICE (log 102). -/
def malformedLine (r : Rcb) (sec : Bool) (child : Nat) : Line :=
  { faultLineOf (r.line sec) r.fdh (BitVec.allOnes 64) with
    g := Vector.ofFn fun k =>
      match k.val with
      | 0 => BitVec.allOnes 64
      | 1 => 3
      | 2 => 1
      | 3 => BitVec.ofNat 64 child
      | _ => 0 }

/-- A delivery taken from the list starts its handler; one whose context is no longer parked so, or whose RCB names no
handler, starts none. -/
def State.startDelivery (s : State) (c w : Nat) (d : Delivery) : State :=
  match d with
  | .parked v i =>
    let rcb := (s.ctx? v i).elim 0 Ctx.rcb
    match s.lineOf v i with
    | none => s
    | some l =>
      if l.wt ≠ .upcall || l.wtArg.toNat % 256 ≠ 0 then s
      else if s.fdhOf v rcb = 0 then s.reportFault v rcb (ctxWord v i) l.tcause l.tinfo
      else s.startHandler c w v (faultLineOf l (s.fdhOf v rcb) (ctxWord v i)) false rcb
  | .report v rcb l => s.startHandler c w v l false rcb

/-- FAULT_HANDLER_START (R282): after the reply-class messages. -/
def execFaultHandlerStart (core : Nat) (s : State) : Out :=
  let k := s.core core
  match k.freeHandlerLine, k.delivery?, k.message? true with
  | some w, some (n, d), none =>
    let s1 := s.setCore core { k with deliveries := k.deliveries.eraseIdx n }
    .next (s1.startDelivery core w d)
  | _, _, _ => .next s

/-- A message starts its handler (R191). -/
def State.startMessage (s : State) (c w n : Nat) (m : Msg) : State :=
  let k := s.core c
  (s.setCore c { k with msgs := k.msgs.eraseIdx n }).startHandler c w m.vf m.line m.reply m.rcb

/-- MESSAGE_HANDLER_START (R191, R282): a reply-class message first; a request only when no trap delivery waits. -/
def execMessageHandlerStart (core : Nat) (s : State) : Out :=
  let k := s.core core
  match k.freeHandlerLine with
  | none => .next s
  | some w =>
    match k.message? true with
    | some (n, m) => .next (s.startMessage core w n m)
    | none =>
      match k.delivery?, k.message? false with
      | none, some (n, m) => .next (s.startMessage core w n m)
      | _, _ => .next s

end Sys2Proof.Machine
end

