-- ==== Sys2Proof/Machine/Device.lean ====
section
/-! DEFINITION. Device: the steps of the memory system: LLC misses and evictions (R350, R358, R370), the answers to page
requests (R352), the directory's requests (R357), host accesses (R269, R416), tailrace walks (R161, R364), frame commands
(R351, R354). -/
namespace Sys2Proof.Machine

/-! ## The LLC (R350, R358, R370) -/

/-- The slice evicts a line: it recalls every dirty word, invalidates every copy, and writes a dirty line back to its
recorded frame (event 0x0042 of the line's owner). -/
def State.evictLine (s : State) (v line : Nat) : State :=
  match s.llc? v line with
  | none => s
  | some l =>
    let (s1, l1) := s.recall l 0xFFFF true none
    let s2 : State := { s1 with llc := s1.llc.filter fun x => !(x.vf = v && x.line = line) }
    if l1.dirty then (s2.lineToMemory l1).count v 0x42 1 else s2

/-- The leaf and set in which an LLC line lies (R3, R366, R370): a line of HBM in the sets of the leaf that holds it, one of
the capacity tier in those of a leaf of its VF's partition. -/
def State.llcSetOf (s : State) (l : LlcLine) : Nat × Nat :=
  let hline := l.frame * 64 + l.line % 64
  let n := s.nodeOf l.vf
  let leaf := if l.frame * 4096 < hbmEnd then l.frame * 4096 / leafSpan else firstLeaf n + Config.llcLeaf hline % nodeLeaves n
  (leaf, Config.llcSet hline % Config.llcSets)

/-- The lines of a set in the ways that a mask selects. -/
def State.llcWays (s : State) (at_ : Nat × Nat) (mask : BitVec 16) : List LlcLine :=
  s.llc.filter fun x => x.place.any fun p => p.1 = at_.1 && p.2.1 = at_.2 && mask.getLsbD p.2.2

/-- A line takes the lowest way of its VF's mask that is free in its set. -/
def State.takeWay (s : State) (l : LlcLine) : Option State :=
  let at_ := s.llcSetOf l
  let mask := (s.vf l.vf).wmask
  let used := (s.llcWays at_ mask).filterMap fun x => x.place.map fun p => p.2.2
  ((List.range 16).find? fun w => mask.getLsbD w && !used.contains w).map fun w =>
    s.putLlc { l with place := some (at_.1, at_.2, w) }

/-- A line that a miss has brought takes its way (R370): a free one of its VF's mask, else that of a victim in one of those
ways, which the implementation chooses (log 12). -/
def State.placeLine (s : State) (l : LlcLine) : State :=
  match s.takeWay l with
  | some t => t
  | none =>
    let ways := s.llcWays (s.llcSetOf l) (s.vf l.vf).wmask
    match ways[Config.llcWay s.draws % ways.length]? with
    | none => s.evictLine l.vf l.line
    | some x => let s1 := s.drawn.evictLine x.vf x.line; (s1.takeWay l).getD s1

/-- The line that has come and has not taken its way yet does so. -/
def placeMove (s : State) : Out :=
  match s.llc.find? fun l => l.place.isNone with
  | none => .next s
  | some l => .next (s.placeLine l)

/-- LLC_MISS (R350, R370): a miss, or an upgrade of a line without the write grant, by a VF that may allocate; a victim that
the implementation chose makes room if it lies in a way that the VF's mask allows, of the line's set. Where stage 2, the frame
table or the world refuses, no line comes. -/
def execLlcMiss (vf line : Nat) (write : Bool) (victim : Option (Nat × Nat)) (s : State) : Out :=
  let present := (s.llc? vf line).any fun l => l.write || !write
  if hostHalf (line * 64) || present || !s.allocates vf then .next s
  else
    match s.lineView vf line write (s.vf vf).sec with
    | .error _ => .next s
    | .ok l =>
      if (s.llc? vf line).isSome then .next (s.keepLine l false)
      else
        let room := (s.llcWays (s.llcSetOf l) (s.vf vf).wmask).filter fun x => victim = some (x.vf, x.line)
        let s1 := (room.foldl (fun s x => s.evictLine x.vf x.line) s).touchLlc vf (line * 64) write false
        match s1.llc? vf line with
        | none => .next s1
        | some l1 => .next (s1.placeLine l1)

/-! ## Answers to page requests (R292, R352) -/

/-- Ends a request's hold on whatever waits for it; `fatal` is the pointer of a refused engine access. -/
def Cmd.answered (tag : Nat) (fatal : Option Word) (c : Cmd) : Cmd :=
  if c.request = some tag then { c with request := none, fatal := fatal } else c

def State.answerEngines (s : State) (tag : Nat) (fatal : Option Word) : State :=
  { s with
    clusters := s.clusters.map fun e => (e.1, { e.2 with queues := e.2.queues.map (Cmd.answered tag fatal) })
    dies := s.dies.map fun e => (e.1, { e.2 with
      queue := e.2.queue.map (Cmd.answered tag fatal)
      triggers := e.2.triggers.map fun t => { t with cmd := t.cmd.answered tag fatal } }) }

/-- A verdict of retry: the access is made again. -/
def State.retryRequest (s : State) (r : PageReq) : State :=
  let free (x : Option Nat) : Option Nat := if x = some r.tag then none else x
  match r.requester with
  | .fill _ => { s with fills := s.fills.map fun f => { f with request := free f.request } }
  | .wait w => { s with events := s.events ++ [(w, .wake .xlate)] }
  | .walk _ => { s with clusters := s.clusters.map fun e =>
      (e.1, { e.2 with walks := e.2.walks.map fun w => { w with request := free w.request } }) }
  | .posted _ => { s with cores := s.cores.map fun x =>
      (x.1, { x.2 with stores := x.2.stores.map fun e => { e with request := free e.request } }) }
  | .engine _ _ => s.answerEngines r.tag none
  | .copy _ => s

/-- A verdict of fatal: STAGE2 at the context, precise or late, with the kind of its own access where a walk asked for it (R289), a
posted write discarded and counted (R138), an engine command ended BAD. -/
def State.refuseRequest (s : State) (r : PageReq) : State :=
  let trap : Event := .trap causeStage2 r.tval r.tinfo r.access.code
  match r.requester with
  | .fill _ =>
    match s.fills.find? fun f => f.request = some r.tag with
    | none => s
    | some f => ({ s with fills := s.fills.filter fun x => x.request ≠ some r.tag }).lateTrap f causeStage2
  | .wait w => { s with events := s.events ++ [(w, trap)] }
  | .walk w =>
    let mine := (s.clusters.flatMap fun e => e.2.walks).find? fun x => x.request = some r.tag
    { s with
      clusters := s.clusters.map fun e =>
        (e.1, { e.2 with walks := e.2.walks.filter fun x => x.request ≠ some r.tag })
      events := s.events ++ [(w, .trap causeStage2 r.tval r.tinfo (mine.elim r.access Walk.access).code)] }
  | .posted _ =>
    let refused := (s.cores.flatMap fun x => x.2.stores).filter fun e => e.request = some r.tag
    let s1 : State := { s with cores := s.cores.map fun x =>
      (x.1, { x.2 with stores := x.2.stores.filter fun e => e.request ≠ some r.tag }) }
    refused.foldl (fun s e => s.countErr e.vf e.loc.pos 3) s1
  | .engine _ _ => s.answerEngines r.tag (some r.tval)
  | .copy (.ctx v i) => s.refuseCopy v i
  | .copy (.handler _ _ _ _) => s

/-- PAGE_RESPONSE (R352): applied when tag and gen match an outstanding request, else discarded and counted in the partition that
asked with the tag (log 62). -/
def execPageResponse (tag gen : Nat) (fatal : Bool) (s : State) : Out :=
  match s.requests.find? fun r => r.tag = tag && r.gen.toNat = gen with
  | some r =>
    let s1 : State := { s with requests := s.requests.erase r }
    .next (if fatal then s1.refuseRequest r else s1.retryRequest r)
  | none => .next (s.hyper (s.asked.get tag (s.partOf 0)) ctrStale)

/-! ## The directory's requests (R357) -/

/-- A physical core of the partition that a VF is bound to. -/
def State.coreOf (s : State) (v core : Nat) : Bool := core < Config.cores && inNode (s.nodeOf v) (clusterOf core)

/-- Whether a line is one of a granule that is private to its holder (R359, R362). -/
def State.privateLine (s : State) (v line : Nat) : Bool := (s.llc? v line).any fun l => l.dir.kind = 1

/-- A request of a core of the VF's partition for a line that is not private. -/
def dirRequest (s : State) (v line core : Nat) (f : Except MemFault State) : Out :=
  if !s.coreOf v core || hostHalf (line * 64) || s.privateLine v line || !s.allocates v then .next s
  else
    match f with
    | .ok t => .next t
    | .error _ => .next s

/-- DIR_LOAD_MISS (R357). -/
def execDirLoadMiss (vf line core : Nat) (m : BitVec 16) (s : State) : Out :=
  dirRequest s vf line core ((s.touchLlc vf (line * 64) false false).loadMiss core vf line m false (s.vf vf).sec true false)

/-- DIR_STORE_OWNERSHIP (R357). -/
def execDirStoreOwnership (vf line core : Nat) (m : BitVec 16) (s : State) : Out :=
  dirRequest s vf line core ((s.touchLlc vf (line * 64) true false).takeOwnership core vf line m (s.vf vf).sec false)

/-- DIR_WRITE_BACK (R357). -/
def execDirWriteBack (vf line core : Nat) (m : BitVec 16) (s : State) : Out := .next (s.writeBackWords core vf line m)

/-- DIR_CORE_EVICT (R357). -/
def execDirCoreEvict (vf line core : Nat) (s : State) : Out := .next (s.coreEvict core vf line)

/-! ## Hosts (R269, R358, R394, R407, R416) -/

/-- The world of a Neord port (R403). -/
def State.neordSecure (s : State) (port : Nat) : Bool := port < 8 && s.platform.sorrel.package.getLsbD (12 + port)

/-- The leaf of an HBM address. -/
def leafOfHpa (hpa : Nat) : Nat := hpa / leafSpan

/-- The partition whose coherent memory range holds an HBM address (R416). -/
def State.partOfHpa (s : State) (hpa : Nat) : Nat := s.partOf (clusterAt (leafOfHpa hpa) 0)

/-- Whether an access from outside reaches the module: of a host, through a port that is up and to which the partition's logical
device is bound; of a hub core or a linked device, all of module memory, which a secure Neord port carries only for a secure
VF (R263, R373, R404, R416 to R418). -/
def State.hostReaches (s : State) (by_ : Origin) (hpa : Nat) : Bool :=
  s.platform.power = .on && match by_ with
  | .host p => hpa < hbmEnd && !s.platform.portsDown.contains p && s.platform.bindings.contains (s.partOfHpa hpa, p)
  | .hub _ => moduleHpa hpa
  | .linked p secure => moduleHpa hpa && p < 8 && !s.platform.linksDown.contains (16 + p) && (secure || !s.neordSecure p)
  | .session _ | .provisioning => false

/-- Traffic that a secure Neord port discards counts in that link's counter (R401, R404). -/
def State.discarded (s : State) (by_ : Origin) : State :=
  match by_ with
  | .linked p false => if p < 8 && s.neordSecure p then s.hyper 1 (ctrRetries (16 + p)) else s
  | _ => s

/-- The VFs of a partition, in ascending number. -/
def State.vfsOf (s : State) (node : Nat) : List Nat := (s.vfs.filter fun e => e.2.node = node).map Prod.fst

/-- Whether a partition's logical device is bound to a port that is up (R373, R418). -/
def State.deviceUp (s : State) (node : Nat) : Bool :=
  s.platform.power = .on && s.platform.bindings.any fun b => b.1 = node && !s.platform.portsDown.contains b.2

/-- The number under which a VF appears on its partition's logical device, for the host to which that device is bound
(R373): its place among the partition's VFs. Doorbell pages and VF register windows are reached through it (R372). -/
def State.deviceVf? (s : State) (v : Nat) : Option Nat :=
  let node := s.nodeOf v
  if (s.vf v).st = 0 || !s.deviceUp node then none else (s.vfsOf node).findIdx? fun x => x = v

/-- A host access is secure only through a secure port (R402), a hub core's in the hub's secure mode (R409), a linked device's for
a secure VF through a secure port. -/
def State.hostSecure (s : State) (by_ : Origin) : Bool :=
  match by_ with
  | .host p => p < 4 && s.platform.sorrel.package.getLsbD (8 + p)
  | .hub secure => secure
  | .linked p secure => secure && s.neordSecure p
  | .session _ | .provisioning => false

/-- The LLC lines that record an address's 64 bytes. -/
def State.linesAt (s : State) (hpa : Nat) : List LlcLine :=
  s.llc.filter fun l => l.frame = hpa / 4096 && l.line % 64 = hpa % 4096 / 64

/-- The partition whose counters a host access counts in. -/
def State.countsAt (s : State) (hpa : Nat) : Nat := if hpa < hbmEnd then s.partOfHpa hpa else 1

/-- The guest-physical address at which a frame's owner writes it (R351). -/
def State.ownerAddr (s : State) (hpa : Nat) : Option (Nat × Nat) :=
  let f := s.frame (hpa / 4096)
  if f.state = 1 then some (f.vf, f.gfn * 4096 + hpa % 4096) else none

/-- A word as a host reads it: bits 0 and 1 of an occ word read 1, at the owner's address or another at which an LLC line holds it
(R288). -/
def State.hostShows (s : State) (hpa : Nat) (w : Word8) : Word8 :=
  let at_ := (s.ownerAddr hpa).toList ++ (s.linesAt hpa).map fun l => (l.vf, l.line * 64 + hpa % 64)
  at_.foldl (fun w e => s.shows e.1 e.2 w) w

/-- The word that a host reads: the LLC's, where some line records it, after the recall of R358, so that no word it reads is held dirty
in a core cache (R269, log 104); else memory's. -/
def State.hostWord (s : State) (hpa : Nat) : State × Word8 :=
  match s.linesAt hpa with
  | [] => (s, s.mem.word hpa)
  | ls =>
    match ls.find? (fun l => l.dirty || (s.heldAnywhere l.vf l.line)), ls.head? with
    | some l, _ | none, some l =>
      let (s1, l1) := s.recall l (wordsTouched (hpa % 64 / 8 * 8) 8) false none
      (s1.putLlc l1, l1.word l1.data hpa)
    | none, none => (s, s.mem.word hpa)

/-- HOST_READ (R269): the 8-byte word at a host-physical address; a rejected access changes nothing. -/
def execHostRead (by_ : Origin) (hpa : Nat) (s : State) : Out :=
  if !s.hostReaches by_ hpa then .next (s.discarded by_)
  else if frameReserved hpa then .next { s with hostPort := none }
  else if s.secureHpa hpa && !s.hostSecure by_ then
    .next ({ s with hostPort := none }.hyper (s.countsAt hpa) ctrHostWorld)
  else
    let (s1, w0) := s.hostWord hpa
    let w := s.hostShows hpa w0
    .next { s1 with hostPort := if w.poison then none else some w.data }

/-- The guest-physical pages of a frame that waiters watch. -/
def State.watchedPages (s : State) (frame : Nat) : List (Nat × Nat) :=
  (s.waiters.filterMap fun w =>
    match w.loc with
    | .paged v g => if (s.stage2 v (g / 4096) false false).any fun h => h.frame = frame then some (v, g / 4096) else none
    | _ => none).eraseDups

/-- Waiters on an address that a host writes wake, under whichever guest-physical page they watch it (R147). -/
def State.wakeHost (s : State) (hpa n : Nat) : State :=
  (s.watchedPages (hpa / 4096)).foldl (fun s p =>
    let loc := Loc.paged p.1 (p.2 * 4096 + hpa % 4096)
    s.wake loc n (wokenByWrite loc n false false)) s

/-- The words that a host write touches leave every core cache, dirty ones to the LLC (R269, R358). -/
def State.hostTake (s : State) (hpa : Nat) : State :=
  (s.linesAt hpa).foldl (fun s l =>
    let (s1, l1) := s.recall l (wordsTouched (hpa % 64 / 8 * 8) 8) true none
    s1.putLlc l1) s

/-- The word that module memory holds at an address: in the LLC line that records it, else in the frame. -/
def State.moduleWord (s : State) (hpa : Nat) : Word8 :=
  match s.linesAt hpa with
  | [] => s.mem.word hpa
  | l :: _ => l.word l.data hpa

/-- Writes it there. -/
def State.putModule (s : State) (hpa : Nat) (w : Word8) : State :=
  match s.linesAt hpa with
  | [] => { s with mem := s.mem.putWord hpa w }
  | ls => ls.foldl (fun s l => s.putLlc (l.putWord hpa w)) s

/-- A host write is performed once every device copy of its bytes is gone (R269): a write of part of a poisoned word is
discarded and counted; one to a context's memory copy is R307's. -/
def State.hostStore (s : State) (hpa n : Nat) (val : Word) : State :=
  let s1 := s.hostTake hpa
  let w := s1.moduleWord hpa
  if w.poison && n < 8 then s1.hyper (s.countsAt hpa) ctrPartial
  else
    let put (x : Nat) : State :=
      (s1.putModule hpa { w.withBytes (hpa % 8) n x with poison := false }).wakeHost hpa n
    match s.ownerAddr hpa with
    | none => put val.toNat
    | some (v, g) =>
      match s1.throughCopy v g n val.toNat with
      | none => s1.countErr v g 4
      | some x => put x

/-- HOST_WRITE (R269): `n` bytes of one 8-byte word. -/
def execHostWrite (by_ : Origin) (hpa n : Nat) (v : Word) (s : State) : Out :=
  if !s.hostReaches by_ hpa then .next (s.discarded by_)
  else if n = 0 || 8 < hpa % 8 + n then .next s
  else if frameReserved hpa then .next (s.hyper (s.countsAt hpa) ctrHostReserved)
  else if s.secureHpa hpa && !s.hostSecure by_ then .next (s.hyper (s.countsAt hpa) ctrHostWorld)
  else .next (s.hostStore hpa n v)

/-! ## Tailrace walks (R161, R364) -/

/-- The words of a line that lie in a guest-physical interval, rounded outward to 4-byte words. -/
def wordsIn (line lo hi : Nat) : BitVec 16 :=
  (List.range 16).foldl (fun acc i =>
    if line * 64 + 4 * i < hi && lo < line * 64 + 4 * i + 4 then acc ||| (1#16 <<< i) else acc) 0

/-- cinval at one core: the words leave its copy, dirty or not, and its owner mask (R364). -/
def State.dropWords (s : State) (c v line : Nat) (m : BitVec 16) : State :=
  match (s.core c).cacheLine? v line with
  | none => s
  | some x =>
    let s1 := s.setCore c ((s.core c).setCache { x with val := x.val &&& ~~~m, dirty := x.dirty &&& ~~~m })
    if x.val &&& ~~~m = 0 then s1.coreEvict c v line
    else
      match s1.llc? v line with
      | none => s1
      | some l =>
        let owners := l.dir.owners.map fun o => if o.1 = s.lcore v c then (o.1, o.2 &&& ~~~m) else o
        s1.putLlc { l with dir := { l.dir with owners := owners.filter fun o => o.2 ≠ 0 } }

/-- Whether fetched bytes lie in a guest-physical interval of a VF. -/
def FetchEntry.within (e : FetchEntry) (v lo hi : Nat) : Bool :=
  match e.loc with
  | .paged v' g => v' = v && g < hi && lo < g + e.n
  | _ => false

/-- A walk at one core's data cache and fetch buffer, over the words of one line that lie in a guest-physical interval. DESIGN CHOICE
(log 8): R62 lets a parcel be old or new until the context's own fence after the walk's arrival; here it is new from the walk's
visit on, and the fence has nothing left to do to fetch. -/
def State.walkCore (s : State) (c v line lo hi : Nat) (inval : Bool) : State :=
  let m := wordsIn line lo hi
  let s1 := if inval then s.dropWords c v line m else s.writeBackWords c v line m
  let k := s1.core c
  let from_ := Nat.max lo (line * 64)
  let to_ := Nat.min hi (line * 64 + 64)
  s1.setCore c { k with fetch := k.fetch.filter fun e => !e.within v from_ to_ }

/-- The same at every core of the VF's partition. -/
def State.walkLine (s : State) (v line lo hi : Nat) (inval : Bool) : State :=
  s.cores.foldl (fun s e => if s.coreOf v e.1 then s.walkCore e.1 v line lo hi inval else s) s

/-- The lines that some core of the partition holds, as data or as parcels, in a guest-physical interval. -/
def State.linesIn (s : State) (v lo hi : Nat) : List Nat :=
  s.cores.flatMap fun e =>
    if !s.coreOf v e.1 then []
    else
      ((e.2.cache.filter fun x => x.vf = v && x.line * 64 < hi && lo < x.line * 64 + 64).map CacheLine.line)
        ++ ((e.2.fetch.filter fun x => x.within v lo hi).map fun x => x.loc.pos / 64)

/-- The guest-physical address that a page of a walk's range lies at, as stage 1 translates it now; a walk is no access, and
needs no right of the page. -/
def State.walkGpa (s : State) (v page : Nat) : Option Nat :=
  if !(s.vf v).s1en then some (page * 4096)
  else
    match s.s1Walk v (s.vf v).s1root (page * 4096) 4 with
    | .leaf _ e level => some (((Pte.ofWord e).ppn + page % 2 ^ (9 * (level - 1))) * 4096)
    | _ => none

/-- The next line of a linear range that a cache of the partition holds, at or after linear line `cursor`, from a page on:
its linear line, its guest-physical line, and the guest-physical interval of the range in its page, rounded outward to
words. -/
def State.nextHeld (s : State) (v linear len cursor page : Nat) : Nat → Option (Nat × Nat × Nat × Nat)
  | 0 => none
  | n + 1 =>
    let lo := Nat.max (page * 4096) (linear / 4 * 4)
    let hi := Nat.min (page * 4096 + 4096) ((linear + len + 3) / 4 * 4)
    let found := (s.walkGpa v page).bind fun g =>
      let a := g + (lo - page * 4096)
      let b := g + (hi - page * 4096)
      (((s.linesIn v a b).filter fun x => cursor ≤ page * 64 + x % 64).min?).map fun x => (page * 64 + x % 64, x, a, b)
    match found with
    | some x => some x
    | none => s.nextHeld v linear len cursor (page + 1) n

/-- The next line of a walk; none when it has passed every line that a cache holds. -/
def State.walkNext (s : State) (w : RangeWalk) : Option (Nat × Nat × Nat × Nat) :=
  match w.linear with
  | none => none
  | some a =>
    if w.len = 0 then none
    else
      let first := Nat.max (a / 4096) (w.cursor / 64)
      s.nextHeld w.vf a w.len w.cursor first ((a + w.len - 1) / 4096 + 1 - first)

/-- Whether fetched bytes lie in a run of memory, rounded outward to 4-byte words (R161). -/
def FetchEntry.inRun (e : FetchEntry) (r : Loc × Nat) : Bool :=
  e.loc.unit = r.1.unit && r.2 ≠ 0 && e.loc.pos < (r.1.pos + r.2 + 3) / 4 * 4 && r.1.pos / 4 * 4 < e.loc.pos + e.n

/-- The parcels of runs of on-chip memory leave the fetch buffers (R161). -/
def State.dropParcels (s : State) (v : Nat) (rs : List (Loc × Nat)) : State :=
  { s with cores := s.cores.map fun e =>
      if s.coreOf v e.1 then
        (e.1, { e.2 with fetch := e.2.fetch.filter fun x => !rs.any x.inRun })
      else e }

/-- The arrival with which a walk ends, on the region barrier; one that is not reached is counted as a discarded posted
write. -/
def State.walkArrival (s : State) (v rbar : Nat) : State :=
  if rbar = 0 then s
  else
    match (s.barrierLoc v rbar).map fun loc => s.arrival v loc (s.vf v).sec with
    | some (.ok t) => t
    | _ => s.countErr v rbar 3

/-- TAILRACE_WALK (R161, R364): walk `k` acts on the next line of its range in every cache; when none is left it ends, with
its arrival. -/
def execTailraceWalk (k : Nat) (s : State) : Out :=
  match s.rangeWalks[k]? with
  | none => .next s
  | some w =>
    match s.walkNext w with
    | some (at_, line, lo, hi) =>
      .next ({ s with rangeWalks := s.rangeWalks.set k { w with cursor := at_ + 1 } }.walkLine w.vf line lo hi w.inval)
    | none =>
      let s1 : State := { s with rangeWalks := s.rangeWalks.eraseIdx k }
      let x := s1.core w.core
      let s2 := (s1.setCore w.core { x with walks := x.walks - 1 }).dropParcels w.vf w.chip
      .next (s2.walkArrival w.vf w.rbar)

/-! ## Frame commands (R351, R354, R415, R422) -/

/-- A frame that ASSIGN may take: of HBM or the capacity tier, not reserved, not on an unusable Quern chip. -/
def State.frameUsable (s : State) (frame : Nat) : Bool :=
  let hpa := frame * 4096
  moduleHpa hpa && !frameReserved hpa && !(hbmEnd ≤ hpa && s.platform.badQuern.contains (quernChip hpa))

def State.setFrame (s : State) (frame : Nat) (f : Frame) (st : CmdStatus) : State :=
  { s with frames := s.frames.set frame f, frameStatus := st }

/-- FRAME_ASSIGN (R351). -/
def execFrameAssign (frame vf gfn : Nat) (ro : Bool) (s : State) : Out :=
  if s.frameUsable frame && (s.frame frame).state = 0 then
    .next (s.setFrame frame (Frame.mk (vf % 512) 1 ro (gfn % 2 ^ 36)) .ok)
  else .next { s with frameStatus := .refused }

/-- FRAME_RELEASE (R351, R354 step 1): the scrub starts. -/
def execFrameRelease (frame : Nat) (s : State) : Out :=
  let f := s.frame frame
  if f.state = 1 then .next (s.setFrame frame { f with state := 2 } .busy) else .next { s with frameStatus := .refused }

/-- Every LLC line of a frame, every core copy of it, every fetched byte of it and every stage-2 cache entry that maps it goes; dirty
data is discarded (R354 step 2, R364, R365). -/
def State.dropFrame (s : State) (frame : Nat) : State :=
  let gone := (s.llc.filter fun l => l.frame = frame).map fun l => (l.vf, l.line)
  { s with
    llc := s.llc.filter fun l => l.frame ≠ frame
    cores := s.cores.map fun e => (e.1, { e.2 with
      cache := e.2.cache.filter fun x => !gone.contains (x.vf, x.line)
      fetch := e.2.fetch.filter fun x => x.frame ≠ some frame })
    dies := s.dies.map fun e => (e.1, { e.2 with s2 := e.2.s2.filter fun x => x.frame ≠ frame }) }

/-- FRAME_SCRUB_DONE (R354 steps 2 to 4). DESIGN CHOICE (log 101): R147 lets a scrub wake the watchers of a word and R353 calls
the lines of two aliases different; here, as a host write does, the scrub wakes watchers through every page that reaches the frame. -/
def execFrameScrubDone (frame : Nat) (s : State) : Out :=
  let f := s.frame frame
  if f.state = 2 then
    let s1 := s.dropFrame frame
    let s2 : State := { s1 with mem := s1.mem.zeroFill (frame * 4096) 4096 }
    let pages := ((f.vf, f.gfn) :: s.watchedPages frame).eraseDups
    let s3 := pages.foldl (fun s p =>
      let loc := Loc.paged p.1 (p.2 * 4096)
      s.wake loc 4096 (wokenByWrite loc 4096 true false)) s2
    .next (s3.setFrame frame (Frame.mk 0 0 false 0) .ok)
  else .next s

end Sys2Proof.Machine
end

