-- ==== Sys2Proof/Machine/Headrace.lean ====
section
/-! DEFINITION. Headrace: naming, admission, ranks, delivery and the ends of region control blocks (16_headrace.md, R318 to
R336), work queues (R325 to R328) and gang launches (R337). -/
namespace Sys2Proof.Machine

/-! ## An RCB's contents (R319, R320) -/

/-- The 32 doublewords of an RCB, if Headrace reaches them all; at an address that is not 256-byte aligned there is none. -/
def State.readRcb (s : State) (v addr : Nat) : Option (List Word) :=
  if addr % 256 ≠ 0 then none
  else
    (List.range 32).foldr (fun k acc =>
      match s.rcbWord v addr k, acc with
      | some w, some l => some (w :: l)
      | _, _ => none) (some [])

def rcbDw (d : List Word) (k : Nat) : Word := (d[k]?).getD 0

/-- The field group of a doubleword that a child may inherit. -/
def rcbGroup (k : Nat) : Option Nat :=
  match k with
  | 1 => some 0
  | 2 => some 1
  | 3 => some 2
  | 4 => some 3
  | 5 => some 4
  | 6 => some 5
  | 7 => some 6
  | 10 => some 7
  | 12 => some 8
  | 13 => some 9
  | _ => none

/-- Whether doubleword `k` is taken from the parent: its group's bit of ovr is 0. -/
def inherits (d : List Word) (k : Nat) : Bool := (rcbGroup k).any fun g => !(rcbDw d 31).getLsbD g

/-- A doubleword as it stands after inheritance from the parent's; of dw12 the quota alone. -/
def inheritDw (d : List Word) (parent : Option (List Word)) (k : Nat) : Word :=
  match parent with
  | none => rcbDw d k
  | some p =>
    if !inherits d k then rcbDw d k
    else if k = 12 then (rcbDw d 12).extractLsb' 32 32 ++ (rcbDw p 12).extractLsb' 0 32
    else rcbDw p k

def effective (d : List Word) (parent : Option (List Word)) : List Word :=
  (List.range 32).map fun k => inheritDw d parent k

/-- Bits of a doubleword that must be 0. -/
def rcbMbz (k : Nat) : Word :=
  match k with
  | 1 | 9 => 0xFFFFFFFF00000000
  | 3 => 0xFFFFFFFFFFFF00FC
  | 5 | 6 => 0xFFFF000000000000
  | 7 => 0xFFFFFC0000FC0000
  | 8 => 0xFFFFFF0000000000
  | 31 => 0xFFFFFFFFFFFFFC00
  | _ => if 18 ≤ k && k ≤ 30 then 0xFFFFFFFFFFFFFFFF else 0

/-- The fields of a record from an RCB's doublewords. -/
def Rcb.load (r : Rcb) (e : List Word) : Rcb :=
  let f (k lo n : Nat) : Nat := (rcbDw e k).toNat / 2 ^ lo % 2 ^ n
  { r with
    cls := f 3 0 2
    prio := f 3 8 8
    deadline := f 4 0 64
    cbud := f 1 0 32
    ybud := f 2 0 64
    fdh := f 5 0 48
    entry := f 6 0 48
    dw7 := rcbDw e 7
    arg := rcbDw e 10
    squota := f 12 0 32
    rbar := f 13 0 64
    ibase := f 8 0 40
    lcount := f 9 0 32 }

/-! ## Ranks (R333) -/

/-- A rank: its group, then a fraction; the lower the better. -/
structure Rank where
  group : Nat
  num : Int
  den : Nat
  deriving DecidableEq, Repr

def Rank.better (a b : Rank) : Bool := a.group < b.group || (a.group = b.group && a.num * b.den < b.num * a.den)

/-- A VF's weight; 0 is read as 1 (R334). -/
def Vf.share (x : Vf) : Nat := if x.weight = 0 then 1 else x.weight

def classDeadline : Nat := 0
def classPriority : Nat := 1
def classShare : Nat := 2

/-- The rank of an RCB. -/
def State.rankOf (s : State) (r : Rcb) : Rank :=
  if r.cls = classDeadline then Rank.mk 0 r.deadline 1
  else if r.cls = classPriority then Rank.mk 1 (-(r.prio : Int)) 1
  else Rank.mk 2 (s.vf r.vf).account (s.vf r.vf).share

/-- Whether `a` goes before `b` of the same VF: by rank, then in the order of naming. -/
def State.goesBefore (s : State) (a b : Rcb) : Bool :=
  (s.rankOf a).better (s.rankOf b) || (!(s.rankOf b).better (s.rankOf a) && a.order < b.order)

/-! ## Admission (R323, R324, R332) -/

/-- RCBs of a partition. -/
def State.rcbsAt (s : State) (node : Nat) : List Rcb := s.rcbs.filter fun r => s.nodeOf r.vf = node

/-- Contexts of a subtree that are delivered and not retired, those of ABORTED RCBs among them (R319, R324). -/
def State.liveUnder (s : State) (order : Nat) : Nat :=
  ((s.rcbs ++ s.ancestors).filter fun x => x.order = order || x.chain.any fun e => e.1 = order).foldl (fun n x => n + x.live) 0

/-- Reserved entries of a partition's pool: the quotas of its ADMITTED RCBs, and the pending spawns that outlast them (R326,
R332). -/
def State.poolUsed (s : State) (node : Nat) : Nat :=
  let here := s.rcbsAt node
  let quotas := (here.filter fun r => r.state = .admitted).foldl (fun n r => n + r.squota) 0
  let orphan (c : List (Nat × Nat)) : Bool := c.head?.any fun e => (s.rcbOf e.1).isNone
  quotas + (here.filter fun r => r.state = .pending && orphan r.chain).length
    + (s.pool.filter fun e => s.nodeOf e.vf = node && orphan e.chain).length

/-- The conditions of R324. -/
def State.admissible (s : State) (r : Rcb) : Bool :=
  let node := s.nodeOf r.vf
  ((r.order, r.cbud) :: r.chain).all (fun e => e.2 = 0 || s.liveUnder e.1 + r.lcount ≤ e.2)
    && s.poolUsed node + r.squota ≤ Config.poolPerLeaf * nodeLeaves node
    && ((s.rcbsAt node).filter fun x => x.state = .admitted).length < Config.admittedPerLeaf * nodeLeaves node

/-- Two index ranges that share an index. -/
def overlapping (a n b m : Nat) : Bool := n ≠ 0 && m ≠ 0 && a < b + m && b < a + n

/-- The reason why admission fails (R323): 1 malformed, 2 index overlap, 0 none; `d` as software wrote the RCB, `r` its
record after inheritance. -/
def State.whyNot (s : State) (r : Rcb) (d : List Word) : Nat :=
  if (List.range 32).any (fun k => rcbDw d k &&& rcbMbz k != 0) || r.cls = 3 || 5 ≤ (r.dw7.extractLsb' 32 3).toNat
      || r.entry % 2 = 1 || r.fdh % 2 = 1 || (rcbDw d 0).toNat ≠ r.parent || (s.vf r.vf).ctxlen < r.ibase + r.lcount then 1
  else if s.rcbs.any (fun x => x.vf = r.vf && x.state = .admitted && x.order ≠ r.order
      && overlapping r.ibase r.lcount x.ibase x.lcount) then 2
  else 0

/-! ## Work (R333, R335) -/

/-- An ADMITTED RCB that still delivers: a gang's only once it has started (R337). -/
def State.delivers (s : State) (r : Rcb) : Bool :=
  r.state = .admitted && r.next < r.lcount
    && (r.gang.isNone || s.gangs.any fun x => x.rcb = some r.order && x.started)

/-- An RCB that gives its VF work. -/
def State.working (s : State) (r : Rcb) : Bool :=
  match r.state with
  | .admitted => 0 < r.live || s.delivers r
  | .pending => s.admissible r

/-- The best of a list of RCBs. -/
def State.bestOf (s : State) (l : List Rcb) : Option Rcb :=
  l.foldl (fun best r =>
    match best with
    | none => some r
    | some b => if s.goesBefore r b then some r else some b) none

/-- A VF's rank in its partition, if it has work. -/
def State.vfRank (s : State) (v : Nat) : Option Rank :=
  (s.bestOf (s.rcbs.filter fun r => r.vf = v && s.working r)).map s.rankOf

/-- The VFs of a partition that have work, in ascending order. -/
def State.workers (s : State) (node : Nat) : List Nat :=
  (s.vfs.map Prod.fst).filter fun v => s.nodeOf v = node && (s.vfRank v).isSome

/-- The lowest account per weight among SHARE VFs of a list, but for one. -/
def State.lowestShare (s : State) (l : List Nat) (but : Nat) : Option Rank :=
  l.foldl (fun best v =>
    match s.vfRank v with
    | none => best
    | some r =>
      if v = but || r.group ≠ 2 then best
      else
        match best with
        | none => some r
        | some b => if r.better b then some r else some b) none

/-- A SHARE VF that gains work after having none: its account rises to the others' lowest, weighted (R335), in quarter cycles, rounded
down: DESIGN CHOICE (log 102). -/
def State.raise (s : State) (l : List Nat) (v : Nat) : State :=
  match s.vfRank v, s.lowestShare l v with
  | some r, some m =>
    let x := s.vf v
    let a := (x.share : Int) * m.num / (m.den : Int)
    if r.group = 2 && x.account < a then s.setVf v { x with account := a } else s
  | _, _ => s

/-- Notes which VFs of a partition have work now. -/
def State.noteWork (s : State) (node : Nat) : State :=
  match s.parts.find node with
  | none => s
  | some p =>
    let now := s.workers node
    let s1 := (now.filter fun v => !p.hadWork.contains v).foldl (fun s v => s.raise now v) s
    { s1 with parts := s1.parts.set node { p with hadWork := now } }

/-- Likewise for the partition of a VF. -/
def State.noteVf (s : State) (v : Nat) : State := s.noteWork (s.nodeOf v)

/-! ## Naming (R321) -/

/-- The record of a named RCB before its fields are read. -/
def Rcb.named (v addr parent order : Nat) (spawner : Option Nat) (chain : List (Nat × Nat)) (gang : Option Nat) : Rcb :=
  Rcb.mk v addr parent .pending spawner order chain 0 0 0 0 0 0 0 0 0 0 0 0 0 0 0 0 0 0 gang

/-- The parent's doublewords, from which a child inherits. -/
def State.parentDws (s : State) (v parent : Nat) : Option (List Word) := if parent = 0 then none else s.readRcb v parent

/-- An RCB that is NEW, and that Headrace does not hold named whatever software wrote to its state since (log 102), is named: it
becomes PENDING, its HW fields return to their reset values; none when the naming fails, the RCB left as it is. -/
def State.nameRcb (s : State) (v addr parent : Nat) (spawner : Option Nat) (chain : List (Nat × Nat)) (gang : Option Nat) :
    Option State :=
  match s.readRcb v addr with
  | none => none
  | some d =>
    if (rcbDw d 14).toNat % 16 ≠ stateNew || (s.rcb? v addr).isSome then none
    else
      let r := (Rcb.named v addr parent s.named spawner chain gang).load (effective d (s.parentDws v parent))
      let s0 := s.headraceMarks v addr false
      let s1 := { s0 with named := s.named + 1, rcbs := s.rcbs ++ [r] }
      some ((s1.clearHw v addr).rcbWrite v addr 14 (BitVec.ofNat 64 statePending))

/-- A report to the fault domain of a spawner's RCB, be it finished, on the spawner's core (R321, R323); with fdh = 0 there is
no handler. -/
def State.reportChild (s : State) (v : Nat) (chain : List (Nat × Nat)) (child core : Nat) : State :=
  match chain.head?.bind fun e => s.recordOf e.1 with
  | none => s
  | some p =>
    if p.fdh = 0 then s
    else
      let k := s.core core
      let rcb := if (s.rcbOf p.order).isSome then p.addr else 0
      s.setCore core { k with
        deliveries := k.deliveries ++ [.report v rcb (malformedLine p (s.vf v).sec child)] }

/-- Headrace reads a pool entry and names its child; a failed naming returns its reservation and is reported. -/
def State.nameEntry (s : State) (e : PoolEntry) : State :=
  let s1 : State := { s with pool := s.pool.erase e }
  match s1.nameRcb e.vf e.child e.parent (some e.core) e.chain none with
  | some t => t.noteVf e.vf
  | none => ((s1.reportChild e.vf e.chain e.child e.core).unreserve e.vf e.parent e.chain).prune

/-! ## RCB_ADMIT (R320, R323, R324) -/

/-- The groups that a child inherits are written into it, and ovr says that all are given. -/
def State.writeInherited (s : State) (r : Rcb) (d e : List Word) : State :=
  let s1 := (List.range 32).foldl (fun s k =>
    if inherits d k && r.parent ≠ 0 then
      (if k = 12 then s.rcbField r.vf r.addr 12 0 32 r.squota else s.rcbWrite r.vf r.addr k (rcbDw e k))
    else s) s
  s1.rcbWrite r.vf r.addr 31 0x3FF

/-- The slice of a partition ends at once. -/
def State.endSliceNow (s : State) (node : Nat) : State :=
  match s.parts.find node with
  | none => s
  | some p => { s with parts := s.parts.set node { p with sliceEnd := s.tick } }

/-- A DEADLINE RCB that is admitted ends the slice of a VF of lower rank (R333). -/
def State.preempt (s : State) (r : Rcb) : State :=
  let node := s.nodeOf r.vf
  match (s.parts.find node).bind Part.resident with
  | none => s
  | some v =>
    let lower := match s.vfRank v with
      | none => true
      | some k => (s.rankOf r).better k
    if r.cls = classDeadline && v ≠ r.vf && lower then s.endSliceNow node else s

/-- The RCB becomes ADMITTED, of which its gang takes note (R337); one that launches no context is DONE at once (R321). -/
def State.admitRcb (s : State) (r : Rcb) (d e : List Word) : State :=
  let a := { r with state := RcbState.admitted }
  let s0 : State := { s with gangs := s.gangs.map fun g => if g.rcb = some r.order then { g with admitted := true } else g }
  let s1 := ((s0.putRcb a).writeInherited a d e).rcbField r.vf r.addr 14 0 4 stateAdmitted
  let s2 := s1.preempt a
  if a.lcount = 0 then s2.finishRcb a stateDone 0 else s2

/-- Admission fails: ABORTED, and the parent's fault domain learns of it (R323). -/
def State.refuseRcb (s : State) (r : Rcb) (why : Nat) : State :=
  let s1 := match r.spawner with
    | none => s
    | some c => s.reportChild r.vf r.chain r.addr c
  s1.finishRcb r stateAborted why

/-- A PENDING RCB: refused, admitted in its turn, or left PENDING. -/
def State.tryAdmit (s : State) (r0 : Rcb) : State :=
  match s.readRcb r0.vf r0.addr with
  | none => s
  | some d =>
    let e := effective d (s.parentDws r0.vf r0.parent)
    let r := r0.load e
    let why := s.whyNot r d
    if why ≠ 0 then (s.refuseRcb r why).noteVf r.vf
    else
      let earlier := s.rcbs.any fun x =>
        x.vf = r.vf && x.state = .pending && x.order ≠ r.order && (s.readRcb x.vf x.addr).isSome && s.admissible x
          && s.goesBefore x r
      if !s.admissible r || earlier then s else (s.admitRcb r d e).noteVf r.vf

/-- RCB_ADMIT (R321, R324): a spawn that names the RCB is read first; else the next step of a PENDING one. -/
def execRcbAdmit (vf rcb : Nat) (s : State) : Out :=
  match s.pool.find? fun e => e.vf = vf && e.child = rcb && s.drainedBefore e.who e.after true with
  | some e => .next (s.nameEntry e)
  | none =>
    match s.rcb? vf rcb with
    | some r => if r.state = .pending && (s.vf vf).st ≠ 2 then .next (s.tryAdmit r) else .next s
    | none => .next s

/-! ## Ends (R326, R330, R336) -/

/-- An ADMITTED RCB whose contexts are all delivered and retired. -/
def State.finished (s : State) (r : Rcb) : Bool :=
  r.state = .admitted && r.live = 0 && r.lcount ≤ r.next && (s.vf r.vf).st ≠ 2

/-- RCB_FINISH (R326). -/
def execRcbFinish (vf rcb : Nat) (s : State) : Out :=
  match s.rcb? vf rcb with
  | none => .next s
  | some r => if s.finished r then .next ((s.finishRcb r stateDone 0).noteVf vf) else .next s

/-- Instructions issued by a subtree, its finished RCBs among them. -/
def State.issuedUnder (s : State) (r : Rcb) : Nat :=
  ((s.rcbs ++ s.ancestors).filter fun x => x.under r).foldl (fun n x => n + x.used + x.past) 0

/-- Whether a subtree has used up the cycle budget of the RCB at its head, ADMITTED or finished (R330). -/
def State.overBudget (s : State) (r : Rcb) : Bool :=
  r.state = .admitted && r.ybud ≠ 0 && r.ybud ≤ s.issuedUnder r && (s.rcbs.any (·.under r) || s.hasBelow r)

/-- CYCLE_BUDGET_ABORT (R330). -/
def execCycleBudgetAbort (vf rcb : Nat) (s : State) : Out :=
  match (s.rcbs ++ s.ancestors).find? fun r => r.vf = vf && r.addr = rcb && s.overBudget r with
  | none => .next s
  | some r => .next ((s.abortSubtree r 3).noteVf vf)

/-- DEADLINE_PASS (R336): late is set, of an RCB that is PENDING or ADMITTED; one already ABORTED, which Headrace no longer holds,
keeps late = 0: DESIGN CHOICE (log 102). -/
def execDeadlinePass (vf rcb : Nat) (s : State) : Out :=
  match s.rcb? vf rcb with
  | none => .next s
  | some r =>
    if r.cls = classDeadline && r.deadline < s.tick && !(s.rcbWord vf rcb 14).any (fun w => w.getLsbD 5) then
      .next (s.rcbField vf rcb 14 5 1 1)
    else .next s

/-! ## Delivery (R329) -/

/-- Free ordinary ways of a logical core, less the lines that are on their way there. -/
def State.freeWays (s : State) (v lc : Nat) : Int :=
  let k := s.core (s.pcore v lc)
  let taken := (k.ways.filter fun e => e.1 < k.ordinary).length
  let coming := (s.packets.filter fun p => s.pcore p.vf p.dst = s.pcore v lc).length
  (k.ordinary : Int) - taken - coming

/-- The logical core with the most free ordinary ways, the lowest of several. -/
def State.emptiest (s : State) (v : Nat) : Nat :=
  (List.range (nodeCores (s.nodeOf v))).foldl (fun best c => if s.freeWays v best < s.freeWays v c then c else best) 0

/-- The line of a new context. -/
def Rcb.launched (r : Rcb) (sec : Bool) (i lc : Nat) : Line :=
  let l := r.line sec
  { l with
    pc := BitVec.ofNat 48 r.entry
    ccore := BitVec.ofNat 12 lc
    g := (l.g.set 0 (BitVec.ofNat 64 i)).set 1 r.arg }

/-- A launch that reuses the index of a lost line overwrites its poisoned copy in full (R32, R395). -/
def State.renewCopy (s : State) (v i : Nat) (l : Line) : State :=
  if (List.range 16).any fun k => (s.gpaWord v (s.copyAddr v i + 8 * k)).any Word8.poison then s.writeCopy v i l else s

/-- The cluster of the core that an RCB's next context goes to, and whether that context's index is still in use. -/
def State.launchCluster (s : State) (r : Rcb) : Nat := clusterOf (s.pcore r.vf (s.emptiest r.vf))
def State.launchBusy (s : State) (r : Rcb) : Bool := (s.ctx? r.vf (r.ibase + r.next)).any fun c => c.place ≠ .retired

/-- Sends one context of an RCB to its core: the line travels as a launch delivery with a record of that core's cluster. -/
def State.launch (s : State) (r : Rcb) : State :=
  let v := r.vf
  let i := r.ibase + r.next
  let lc := s.emptiest v
  let cl := s.launchCluster r
  if s.launchBusy r || (s.cluster cl).full then s
  else
    let s1 := s.renewCopy v i (r.launched (s.vf v).sec i lc)
    let s2 := s1.sendPacket (Packet.mk true 0xFFF lc v i (r.launched (s.vf v).sec i lc) cl 0 none [] [])
    let s3 := (s2.setCtx v i (Ctx.mk .flight r.addr none false none false none)).putRcb { r with next := r.next + 1 }
    s3.setLive v r.addr (· + 1)

/-- Whether a VF holds its partition. -/
def State.holdsPart (s : State) (v : Nat) : Bool := ((s.parts.find (s.nodeOf v)).bind Part.resident) = some v

/-- Whether an RCB delivers next: in the rank order of its VF's RCBs, while the VF holds the partition (R329). -/
def State.mayLaunch (s : State) (r : Rcb) : Bool :=
  let earlier := s.rcbs.any fun x => x.vf = r.vf && x.order ≠ r.order && s.delivers x && s.goesBefore x r
  s.delivers r && s.holdsPart r.vf && (s.vf r.vf).st = 1 && !earlier

/-- LAUNCH_DELIVERY (R329): the next context of an RCB. -/
def execLaunchDelivery (vf rcb : Nat) (s : State) : Out :=
  match s.rcb? vf rcb with
  | none => .next s
  | some r => if s.mayLaunch r then .next (s.launch r) else .next s

/-! ## Work queues (R325, R327, R328) -/

def State.wq (s : State) (v q : Nat) : Wq := (s.vf v).queues.get q Wq.reset

def State.setWq (s : State) (v q : Nat) (w : Wq) : State :=
  let x := s.vf v
  s.setVf v { x with queues := x.queues.set q w }

/-- QTAIL_DOORBELL (R325), a write of the host to which the VF's logical device is bound (R373). -/
def execQtailDoorbell (vf q : Nat) (v : Word) (s : State) : Out :=
  if 256 ≤ q || Config.vfs ≤ vf || (s.deviceVf? vf).isNone then .next s
  else
    let w := s.wq vf q
    let n := v.toNat
    .next (s.setWq vf q { w with qtail := n, bells := if w.qtail < n then w.bells ++ [(n, s.tick)] else w.bells })

/-- A doubleword of the entry at qhead, with poison read as no match. -/
def State.entryDw (s : State) (v : Nat) (w : Wq) (k : Nat) : Option Word :=
  match s.gpaWord v (w.qbase + 64 * (w.qhead % 2 ^ w.lsize) + 8 * k) with
  | none => none
  | some x => if x.poison then none else some x.data

/-- A queue that Headrace reads: enabled, not stopped, of a bound VF that is not resetting, not empty. -/
def State.wqRuns (s : State) (v : Nat) (w : Wq) : Bool :=
  (s.vf v).st = 1 && 1 ≤ w.lsize && w.lsize ≤ 16 && !w.err && w.qhead < w.qtail

/-- seq of the entry at qhead is n + 1. -/
def State.seqMatches (s : State) (v : Nat) (w : Wq) : Bool := s.entryDw v w 7 = some (BitVec.ofNat 64 (w.qhead + 1))

/-- The doublewords of an entry whose seq matches; one that is poisoned or not reached reads as 0: DESIGN CHOICE (log 102). -/
def State.entry (s : State) (v : Nat) (w : Wq) : List Word := (List.range 8).map fun k => (s.entryDw v w k).getD 0

def kindLaunch : Nat := 1
def kindGang : Nat := 2

/-- An entry that passes R327; a GANG entry names this device among its members. -/
def State.entryOk (s : State) (d : List Word) : Bool :=
  let kind := (rcbDw d 0).toNat
  (kind = kindLaunch || kind = kindGang) && rcbDw d 5 == 0 && rcbDw d 6 == 0 && (rcbDw d 3).toNat < 2 ^ 32
    && (kind ≠ kindLaunch || rcbDw d 2 == 0) && (kind ≠ kindGang || (rcbDw d 4).getLsbD s.platform.device)

/-- The queue stops with err, qhead at the entry. -/
def State.wqStop (s : State) (v q : Nat) (w : Wq) : State := s.setWq v q { w with err := true, poll := none }

/-- The entry is taken. -/
def State.wqTaken (s : State) (v q : Nat) (w : Wq) : State :=
  s.setWq v q { w with qhead := w.qhead + 1, poll := none, bells := w.bells.filter fun b => w.qhead + 1 < b.1 }

/-- The first read of an entry at qhead: taken when it matches, by the step of its kind; one that does not match is read
again 64 ticks later. An entry that is neither kind belongs to the LAUNCH step. -/
def wqRead (vf q : Nat) (s : State) (gang : Bool) (take : Wq → List Word → State) : Out :=
  let w := s.wq vf q
  if !s.wqRuns vf w || w.poll.isSome then .next s
  else if !s.seqMatches vf w then .next (s.setWq vf q { w with poll := some (s.tick + 64) })
  else
    let d := s.entry vf w
    if decide ((rcbDw d 0).toNat % 256 = kindGang) != gang then .next s
    else if s.entryOk d then .next (take w d)
    else .next (s.wqStop vf q w)

/-- WQ_LAUNCH (R327, R328): the root RCB is named; a naming that fails stops the queue (R321). -/
def execWqLaunch (vf q : Nat) (s : State) : Out :=
  wqRead vf q s false fun w d =>
    match s.nameRcb vf (rcbDw d 1).toNat 0 none [] none with
    | none => s.wqStop vf q w
    | some t => (t.wqTaken vf q w).noteVf vf

/-- WQ_ENTRY_POLL (R328): the entry is read again. -/
def execWqEntryPoll (vf q : Nat) (s : State) : Out :=
  let w := s.wq vf q
  match w.poll with
  | none => .next s
  | some t =>
    if s.tick < t || !s.wqRuns vf w then .next s
    else .next (s.setWq vf q { w with poll := if s.seqMatches vf w then none else some (t + 64) })

/-- WQ_ENTRY_TIMEOUT (R328): 4,096 ticks after the doorbell that first covered the entry. -/
def execWqEntryTimeout (vf q : Nat) (s : State) : Out :=
  let w := s.wq vf q
  match w.bells.find? fun b => w.qhead < b.1 with
  | none => .next s
  | some (_, t) => if s.wqRuns vf w && t + 4096 ≤ s.tick && !s.seqMatches vf w then .next (s.wqStop vf q w) else .next s

/-- ERR_CLEAR (R325, R328): the queue resumes at qhead. -/
def execErrClear (vf q : Nat) (s : State) : Out :=
  let w := s.wq vf q
  if w.err && (s.deviceVf? vf).isSome then .next (s.setWq vf q { w with err := false, poll := none }) else .next s

/-! ## Gang launch (R337) -/

/-- The gang of an id that has not started; an id may be used again once its gang has (log 67). -/
def State.gang? (s : State) (id : Nat) : Option Gang := s.gangs.find? fun g => g.id = id && !g.started

/-- A gang of which this device has seen a message or its entry. -/
def State.gang (s : State) (id : Nat) : Gang := (s.gang? id).getD (Gang.mk id none 0 0 [] false false false false)

def State.setGang (s : State) (g : Gang) : State :=
  { s with gangs := (s.gangs.filter fun x => x.id ≠ g.id || x.started) ++ [g] }

/-- The record of a gang's RCB. -/
def State.gangRcb (s : State) (g : Gang) : Option Rcb := g.rcb.bind s.rcbOf

/-- The started gang of an id whose RCB is still ADMITTED, the last one to start (log 67). -/
def State.startedGang (s : State) (id : Nat) : Option Gang :=
  s.gangs.reverse.find? fun g => g.id = id && g.started && (s.gangRcb g).isSome

/-- The RCB of a gang becomes ABORTED with its subtree, why = 4. -/
def State.abortGang (s : State) (g : Gang) : State :=
  match s.gangRcb g with
  | none => s
  | some r => (s.abortSubtree r 4).noteVf r.vf

/-- Ticks within which a gang message arrives, or its link is declared down (R337). -/
def gangTicks : Nat := 256

/-- This device sends READY or ABORT to every member, itself among them; messages sent 256 ticks ago have arrived. -/
def State.sendGang (s : State) (g : Gang) (abort : Bool) : State :=
  let to_ := (List.range 64).filter fun k => g.members.getLsbD k
  let recent := s.gangSends.filter fun m => s.tick < m.sent + gangTicks
  let s1 : State := { s with gangSends := recent ++ to_.map fun k => GangSend.mk g.id k abort s.tick }
  match s.gangRcb g with
  | none => s1
  | some r => to_.foldl (fun s _ => s.hyper (s.nodeOf r.vf) (ctrFabric 1)) s1

/-- WQ_GANG (R327, R337): the RCB is named with its delivery held; with less than 2,048 ticks left the gang is aborted. A gang
of the same id that has not started ends ABORTED (log 67). -/
def execWqGang (vf q : Nat) (s : State) : Out :=
  wqRead vf q s true fun w d =>
    let id := (rcbDw d 3).toNat
    let start := (rcbDw d 2).toNat
    match s.nameRcb vf (rcbDw d 1).toNat 0 none [] (some id) with
    | none => s.wqStop vf q w
    | some t =>
      let g0 := t.gang id
      let g1 := if g0.rcb.isSome then Gang.mk id none 0 0 [] false false false false else g0
      let g := { g1 with rcb := some s.named, start := start, members := rcbDw d 4 }
      let t1 := ((t.abortGang g0).wqTaken vf q w).noteVf vf
      if start < t.tick + 2048 then ((t1.setGang { g with aborted := true, sent := true }).sendGang g true).abortGang g
      else t1.setGang g

/-- Whether this device sends READY: its RCB has been admitted, and it is synchronised (R337, R423). -/
def State.sendsReady (s : State) (g : Gang) : Bool := !s.platform.unsync && g.admitted

/-- GANG_READY (R337): a member's READY arrives; this device's own when it sends it. -/
def execGangReady (gang member : Nat) (s : State) : Out :=
  let g := s.gang gang
  let own := decide (member = s.platform.device)
  if g.ready.contains member || (own && !s.sendsReady g) then .next s
  else
    let s1 := s.setGang { g with ready := g.ready ++ [member] }
    .next (if own then s1.sendGang g false else s1)

/-- GANG_ABORT (R337): a launch that has started ends here; otherwise the gang will not start. -/
def execGangAbort (gang _member : Nat) (s : State) : Out :=
  match s.gang? gang, s.startedGang gang with
  | none, some g => .next (s.abortGang g)
  | _, _ => .next (s.setGang { s.gang gang with aborted := true })

/-- READY is here from every member. -/
def Gang.complete (g : Gang) : Bool := (List.range 64).all fun k => !g.members.getLsbD k || g.ready.contains k

/-- GANG_READY_DEADLINE (R337): at T − 1,024 a member that lacks a READY sends ABORT, once, whether or not one has reached it. -/
def execGangReadyDeadline (gang : Nat) (s : State) : Out :=
  match s.gang? gang with
  | none => .next s
  | some g =>
    if g.rcb.isSome && !g.sent && !g.started && g.start ≤ s.tick + 1024 && !g.complete then
      .next ((s.setGang { g with aborted := true, sent := true }).sendGang g true)
    else .next s

/-- GANG_START (R337): at T delivery starts, or the RCB is ABORTED. Gangs of the id that started before deliver on. -/
def execGangStart (gang : Nat) (s : State) : Out :=
  match s.gang? gang with
  | none => .next s
  | some g =>
    if g.rcb.isNone || g.started || s.tick < g.start then .next s
    else if g.complete && !g.aborted then
      let live := s.gangs.filter fun x => x.id ≠ gang || (x.started && (s.gangRcb x).isSome)
      let s1 : State := { s with gangs := live }.setGang { g with started := true }
      .next (match s.gangRcb g with
        | some r => s1.noteVf r.vf
        | none => s1)
    else .next (({ s with gangs := s.gangs.filter fun x => x.id ≠ gang || x.started }).abortGang g)

end Sys2Proof.Machine
end

