-- ==== Sys2Proof/Machine/Integer.lean ====
section
/-! DEFINITION. Integer: the register operations of 04_isa_scalar_control.md, R88 to R94. -/
namespace Sys2Proof.Machine

/-- g[d] ← f(g[a], g[b]) (R88). -/
def aluOp (s : State) (i : Instr) (p : Pre) (d a b : BitVec 3) (lat : Nat) (f : Word → Word → Word) : Out :=
  lineOp s i p lat fun l => l.setReg d (f (l.reg a) (l.reg b))

/-- P[t] ← cond(g[a], g[b]) (R91). -/
def cmpOp (s : State) (i : Instr) (p : Pre) (t : BitVec 5) (a b : BitVec 3) (cond : Word → Word → Bool) : Out :=
  lineOp s i p latA fun l => l.setPred t (cond (l.reg a) (l.reg b))

/-- The predicate of a page-0 and of a page-2 compare. -/
def lowPred (d : BitVec 3) : BitVec 5 := d.setWidth 5
def anyPred (q : BitVec 2) (d : BitVec 3) : BitVec 5 := q ++ d

/-- g[d] ← f(g[a]) (R89, R90). -/
def unaryOp (s : State) (i : Instr) (p : Pre) (d a : BitVec 3) (f : Word → Word) : Out :=
  lineOp s i p latA fun l => l.setReg d (f (l.reg a))

/-- The shift amount of R90. -/
def shiftAmount (p : Pre) (sh : BitVec 4) : Nat := (p.immU sh % 64).toNat

/-- add (R88). -/
def execAdd (p : Pre) (d a b : BitVec 3) (s : State) : Out :=
  aluOp s (.add p d a b) p d a b latA fun x y => x + y

/-- sub (R88). -/
def execSub (p : Pre) (d a b : BitVec 3) (s : State) : Out :=
  aluOp s (.sub p d a b) p d a b latA fun x y => x - y

/-- and (R88). -/
def execAnd (p : Pre) (d a b : BitVec 3) (s : State) : Out :=
  aluOp s (.and p d a b) p d a b latA fun x y => x &&& y

/-- or (R88). -/
def execOr (p : Pre) (d a b : BitVec 3) (s : State) : Out :=
  aluOp s (.or p d a b) p d a b latA fun x y => x ||| y

/-- xor (R88). -/
def execXor (p : Pre) (d a b : BitVec 3) (s : State) : Out :=
  aluOp s (.xor p d a b) p d a b latA fun x y => x ^^^ y

/-- shl (R88). -/
def execShl (p : Pre) (d a b : BitVec 3) (s : State) : Out :=
  aluOp s (.shl p d a b) p d a b latA fun x y => x <<< (y.toNat % 64)

/-- shr (R88). -/
def execShr (p : Pre) (d a b : BitVec 3) (s : State) : Out :=
  aluOp s (.shr p d a b) p d a b latA fun x y => x >>> (y.toNat % 64)

/-- sar (R88). -/
def execSar (p : Pre) (d a b : BitVec 3) (s : State) : Out :=
  aluOp s (.sar p d a b) p d a b latA fun x y => x.sshiftRight (y.toNat % 64)

/-- mul (R88). -/
def execMul (p : Pre) (d a b : BitVec 3) (s : State) : Out :=
  aluOp s (.mul p d a b) p d a b latM fun x y => x * y

/-- mulh (R88). -/
def execMulh (p : Pre) (d a b : BitVec 3) (s : State) : Out :=
  aluOp s (.mulh p d a b) p d a b latM fun x y => BitVec.ofInt 64 (x.toInt * y.toInt / 2 ^ 64)

/-- mulhn (R88). -/
def execMulhn (p : Pre) (d a b : BitVec 3) (s : State) : Out :=
  aluOp s (.mulhn p d a b) p d a b latM fun x y => BitVec.ofNat 64 (x.toNat * y.toNat / 2 ^ 64)

/-- min (R88). -/
def execMin (p : Pre) (d a b : BitVec 3) (s : State) : Out :=
  aluOp s (.min p d a b) p d a b latA fun x y => if x.slt y then x else y

/-- max (R88). -/
def execMax (p : Pre) (d a b : BitVec 3) (s : State) : Out :=
  aluOp s (.max p d a b) p d a b latA fun x y => if x.slt y then y else x

/-- minn (R88). -/
def execMinn (p : Pre) (d a b : BitVec 3) (s : State) : Out :=
  aluOp s (.minn p d a b) p d a b latA fun x y => if x.ult y then x else y

/-- maxn (R88). -/
def execMaxn (p : Pre) (d a b : BitVec 3) (s : State) : Out :=
  aluOp s (.maxn p d a b) p d a b latA fun x y => if x.ult y then y else x

/-- andn (R88). -/
def execAndn (p : Pre) (d a b : BitVec 3) (s : State) : Out :=
  aluOp s (.andn p d a b) p d a b latA fun x y => x &&& ~~~y

/-- addi (R89). -/
def execAddi (p : Pre) (d a : BitVec 3) (imm : BitVec 6) (s : State) : Out :=
  unaryOp s (.addi p d a imm) p d a fun x => x + BitVec.ofInt 64 (p.imm imm)

/-- movi (R89). -/
def execMovi (p : Pre) (d : BitVec 3) (imm : BitVec 9) (s : State) : Out :=
  lineOp s (.movi p d imm) p latA fun l => l.setReg d (BitVec.ofInt 64 (p.imm imm))

/-- andi (R89). -/
def execAndi (p : Pre) (d a : BitVec 3) (imm : BitVec 6) (s : State) : Out :=
  unaryOp s (.andi p d a imm) p d a fun x => x &&& BitVec.ofInt 64 (p.imm imm)

/-- shli (R90). -/
def execShli (p : Pre) (d a : BitVec 3) (sh : BitVec 4) (s : State) : Out :=
  unaryOp s (.shli p d a sh) p d a fun x => x <<< shiftAmount p sh

/-- shri (R90). -/
def execShri (p : Pre) (d a : BitVec 3) (sh : BitVec 4) (s : State) : Out :=
  unaryOp s (.shri p d a sh) p d a fun x => x >>> shiftAmount p sh

/-- sari (R90). -/
def execSari (p : Pre) (d a : BitVec 3) (sh : BitVec 4) (s : State) : Out :=
  unaryOp s (.sari p d a sh) p d a fun x => x.sshiftRight (shiftAmount p sh)

/-- rori (R90). -/
def execRori (p : Pre) (d a : BitVec 3) (sh : BitVec 4) (s : State) : Out :=
  unaryOp s (.rori p d a sh) p d a fun x => x.rotateRight (shiftAmount p sh)

/-- cmp.eq (R91). -/
def execCmpEq (p : Pre) (d a b : BitVec 3) (s : State) : Out :=
  cmpOp s (.cmpEq p d a b) p (lowPred d) a b fun x y => x == y

/-- cmp.ne (R91). -/
def execCmpNe (p : Pre) (d a b : BitVec 3) (s : State) : Out :=
  cmpOp s (.cmpNe p d a b) p (lowPred d) a b fun x y => x != y

/-- cmp.lt (R91). -/
def execCmpLt (p : Pre) (d a b : BitVec 3) (s : State) : Out :=
  cmpOp s (.cmpLt p d a b) p (lowPred d) a b fun x y => x.slt y

/-- cmp.ge (R91). -/
def execCmpGe (p : Pre) (d a b : BitVec 3) (s : State) : Out :=
  cmpOp s (.cmpGe p d a b) p (lowPred d) a b fun x y => !x.slt y

/-- cmp.lo (R91). -/
def execCmpLo (p : Pre) (d a b : BitVec 3) (s : State) : Out :=
  cmpOp s (.cmpLo p d a b) p (lowPred d) a b fun x y => x.ult y

/-- cmp.hs (R91). -/
def execCmpHs (p : Pre) (d a b : BitVec 3) (s : State) : Out :=
  cmpOp s (.cmpHs p d a b) p (lowPred d) a b fun x y => !x.ult y

/-- cmp.tst (R91). -/
def execCmpTst (p : Pre) (d a b : BitVec 3) (s : State) : Out :=
  cmpOp s (.cmpTst p d a b) p (lowPred d) a b fun x y => (x &&& y) != 0

/-- cmp.ntst (R91). -/
def execCmpNtst (p : Pre) (d a b : BitVec 3) (s : State) : Out :=
  cmpOp s (.cmpNtst p d a b) p (lowPred d) a b fun x y => (x &&& y) == 0

/-- cmp.eq on page 2 (R91). -/
def execCmpxEq (p : Pre) (q : BitVec 2) (d a b : BitVec 3) (s : State) : Out :=
  cmpOp s (.cmpxEq p q d a b) p (anyPred q d) a b fun x y => x == y

/-- cmp.ne on page 2 (R91). -/
def execCmpxNe (p : Pre) (q : BitVec 2) (d a b : BitVec 3) (s : State) : Out :=
  cmpOp s (.cmpxNe p q d a b) p (anyPred q d) a b fun x y => x != y

/-- cmp.lt on page 2 (R91). -/
def execCmpxLt (p : Pre) (q : BitVec 2) (d a b : BitVec 3) (s : State) : Out :=
  cmpOp s (.cmpxLt p q d a b) p (anyPred q d) a b fun x y => x.slt y

/-- cmp.ge on page 2 (R91). -/
def execCmpxGe (p : Pre) (q : BitVec 2) (d a b : BitVec 3) (s : State) : Out :=
  cmpOp s (.cmpxGe p q d a b) p (anyPred q d) a b fun x y => !x.slt y

/-- cmp.lo on page 2 (R91). -/
def execCmpxLo (p : Pre) (q : BitVec 2) (d a b : BitVec 3) (s : State) : Out :=
  cmpOp s (.cmpxLo p q d a b) p (anyPred q d) a b fun x y => x.ult y

/-- cmp.hs on page 2 (R91). -/
def execCmpxHs (p : Pre) (q : BitVec 2) (d a b : BitVec 3) (s : State) : Out :=
  cmpOp s (.cmpxHs p q d a b) p (anyPred q d) a b fun x y => !x.ult y

/-- cmp.tst on page 2 (R91). -/
def execCmpxTst (p : Pre) (q : BitVec 2) (d a b : BitVec 3) (s : State) : Out :=
  cmpOp s (.cmpxTst p q d a b) p (anyPred q d) a b fun x y => (x &&& y) != 0

/-- cmp.ntst on page 2 (R91). -/
def execCmpxNtst (p : Pre) (q : BitVec 2) (d a b : BitVec 3) (s : State) : Out :=
  cmpOp s (.cmpxNtst p q d a b) p (anyPred q d) a b fun x y => (x &&& y) == 0

/-- mov (R93). -/
def execMov (p : Pre) (d a : BitVec 3) (s : State) : Out := unaryOp s (.mov p d a) p d a fun x => x

/-- rdp (R92): bit 0 reads 1. -/
def execRdp (p : Pre) (d : BitVec 3) (s : State) : Out :=
  lineOp s (.rdp p d) p latA fun l => l.setReg d ((l.pw ||| 1).setWidth 64)

/-- wrp (R92). -/
def execWrp (p : Pre) (a : BitVec 3) (s : State) : Out :=
  lineOp s (.wrp p a) p latA fun l => l.setPw ((l.reg a).setWidth 32)

/-- sel (R94): GUARD names the selector, and sel is never guarded off. -/
def execSel (p : Pre) (d a b : BitVec 3) (s : State) : Out :=
  withCur s fun sl =>
    let l := sl.line
    complete s { sl with line := l.setReg d (if guardHolds p l then l.reg a else l.reg b) } (.sel p d a b) latA

end Sys2Proof.Machine
end

