-- ==== Sys2Proof/Machine/Switch.lean ====
section
/-! DEFINITION. Switch: slices and VF switches (R333 to R335, R339), the scratchpad scrub and the cluster-memory fill (R209,
R213, R247), and the effect of a SPLIT at a slice end (R368). -/
namespace Sys2Proof.Machine

/-! ## SPLIT (R368) -/

/-- What a core holds for a context goes to another core: completions, reservations, trap deliveries, and its place in the pull
queue (R173). -/
def State.moveBeside (s : State) (v i from_ to_ : Nat) : State :=
  let w := Who.ctx v i
  let k := s.core from_
  let pulled (q : Nat × Nat × Nat) : Bool := q.1 = v && q.2.1 = i
  let s1 := s.setCore from_ { k with
    held := k.held.filter fun e => e.who ≠ w
    reserved := k.reserved.filter fun e => e.1 ≠ w
    deliveries := k.deliveries.filter fun d => d ≠ .parked v i
    pulls := k.pulls.filter fun q => !pulled q }
  let k2 := s1.core to_
  s1.setCore to_ { k2 with
    held := k2.held ++ (k.held.filter fun e => e.who = w).map fun e => { e with core := to_ }
    reserved := k2.reserved ++ k.reserved.filter fun e => e.1 = w
    deliveries := k2.deliveries ++ k.deliveries.filter fun d => d = .parked v i
    pulls := k2.pulls ++ k.pulls.filter pulled }

/-- Whether a line may move now: the context L2 that takes it has room or a free write-back buffer (R309), and no operation of
its context is in flight (R130, R310). -/
def State.mayMove (s : State) (v i to_ : Nat) : Bool :=
  s.l2Admits (clusterOf to_) (l2Set v i) && match s.placeOf v i with
    | some (.l1 c w) => !s.inOperation c w
    | _ => true

/-- A context's line moves to another core's cluster and waits there in the context L2, what its core held for it follows, and
its partial command is abandoned; one that may not move yet stays. A line in its memory copy, or on its way there, is redirected
when it is next fetched. -/
def State.moveLine (s : State) (v i from_ to_ : Nat) : State :=
  match s.placeOf v i, s.lineOf v i with
  | some (.l1 _ _), some l | some (.l2 _), some l =>
    if !s.mayMove v i to_ then s
    else
      let s1 := ((s.abandon from_ (.ctx v i)).removeLine v i).unqueue from_ v i
      ((s1.moveBeside v i from_ to_).enterL2 (clusterOf to_) v i (s.redirected v to_ l)).count v 0x21 1
  | _, _ => s.moveBeside v i from_ to_

/-- The lines that a SPLIT has left in an L1 or L2 of the departed half, each with that core and the one it belongs to. -/
def State.strays (s : State) : List (Nat × Nat × Nat × Nat) :=
  s.ctxs.filterMap fun e =>
    let v := e.1 / 2 ^ 40
    let i := e.1 % 2 ^ 40
    match e.2.place, s.lineOf v i with
    | .l1 _ _, some l | .l2 _, some l =>
      if s.pcore v l.ccore.toNat ≠ s.ccoreOf v l then some (v, i, s.pcore v l.ccore.toNat, s.ccoreOf v l) else none
    | _, _ => none

/-- The first of them that may move now moves. -/
def strayMove (s : State) : Out :=
  match s.strays.find? fun e => s.mayMove e.1 e.2.1 e.2.2.2 with
  | none => .next s
  | some (v, i, from_, to_) => .next (s.moveLine v i from_ to_)

/-- The contexts of a partition's VFs whose line is not in a packet and has ccore in the upper half: their logical number less
the half. -/
def State.leaving (s : State) (n : Nat) : List (Nat × Nat × Nat) :=
  let half := nodeCores n / 2
  s.ctxs.filterMap fun e =>
    let v := e.1 / 2 ^ 40
    let i := e.1 % 2 ^ 40
    match e.2.place, s.lineOf v i with
    | .flight, _ | .retired, _ | _, none => none
    | _, some l => if s.nodeOf v = n && half ≤ l.ccore.toNat then some (v, i, l.ccore.toNat - half) else none

/-- A partition splits: its VFs stay in child 2n, every line of the departing half moves, or, where an operation of its context is
in flight or no L2 can take it, moves later and issues nothing meanwhile; packets on their way there are redirected; child 2n + 1
starts with no VF. -/
def State.applySplit (s : State) (n : Nat) (p : Part) : State :=
  let half := nodeCores n / 2
  let moved := (s.leaving n).foldl (fun s e =>
    s.moveLine e.1 e.2.1 (physicalCore n (e.2.2 + half)) (physicalCore n e.2.2)) s
  { moved with
    packets := moved.packets.map fun q =>
      if s.nodeOf q.vf = n && half ≤ q.dst then { q with dst := q.dst - half } else q
    vfs := moved.vfs.map fun e => if e.2.node = n then (e.1, { e.2 with node := 2 * n }) else e
    parts := ((moved.parts.erase n).set (2 * n) { p with split := false }).set (2 * n + 1) Part.idle
    platform := { moved.platform with bindings := moved.platform.bindings.filter fun b => b.1 ≠ n } }

/-! ## The end of a slice (R333, R335, R339) -/

/-- Slice length in ticks; 0 is read as 1,000,000 (R334). -/
def Vf.sliceLen (x : Vf) : Nat := if x.slice = 0 then 1000000 else x.slice

/-- The VF that takes the next slice: the first in rank among those with work, the lowest number of several. -/
def State.firstRank (s : State) (node : Nat) : Option Nat :=
  (s.workers node).foldl (fun best v =>
    match best with
    | none => some v
    | some b =>
      match s.vfRank v, s.vfRank b with
      | some x, some y => if x.better y then some v else some b
      | _, _ => some b) none

/-- The walks of a core's contexts under way when another VF takes it (R349). -/
def State.switchWalks (s : State) (c : Nat) : State :=
  let cl := clusterOf c
  let k := s.cluster cl
  if k.walks.all fun w => w.core ≠ c then s
  else s.setCluster cl { k with walks := k.walks.map fun w => if w.core = c then { w with switched := true } else w }

/-- A VF takes a core: where another VF held it a switch begins, and the micro-TLB entries of every way go (R348). -/
def State.takeCore (s : State) (v c : Nat) : State :=
  let k := s.core c
  if k.resident = some v then s
  else if k.resident.isNone then s.setCore c { k with resident := some v }
  else (s.switchWalks c).setCore c { k with
    resident := some v, switchAt := some s.cycle, scrubDue := true, scrubUntil := none, tlb := [] }

/-- A VF takes a cluster: its cores, and the fill of its memory where one of them switches. -/
def State.takeCluster (s : State) (v cl : Nat) : State :=
  let cores := (List.range 16).map fun j => 16 * cl + j
  let switches := cores.any fun c => (s.core c).resident.any fun x => x ≠ v
  let s1 := cores.foldl (fun s c => s.takeCore v c) s
  if switches then
    let k := s1.cluster cl
    s1.setCluster cl { k with fillDue := true, fillUntil := none }
  else s1

/-- A VF takes a partition for a slice. -/
def State.giveSlice (s : State) (node v : Nat) (p : Part) : State :=
  let s1 := if p.resident = some v then s
    else (List.range (nodeClusters node)).foldl (fun s k => s.takeCluster v (physicalCluster node k)) s
  { s1 with parts := s1.parts.set node { p with
      resident := some v, sliceEnd := s.tick + (s.vf v).sliceLen, gained := 0 } }

/-- The account of the VF that held the slice grows by the cycles it delivered. -/
def State.creditSlice (s : State) (p : Part) : State :=
  match p.resident with
  | none => s
  | some v => s.setVf v { s.vf v with account := (s.vf v).account + p.gained }

/-- The next slice of a partition: of the first in rank, else of the VF that holds it. -/
def State.nextSlice (s : State) (node : Nat) : State :=
  match s.parts.find node with
  | none => s
  | some p =>
    match s.firstRank node, p.resident with
    | some v, _ => s.giveSlice node v p
    | none, some v => s.giveSlice node v p
    | none, none => s

/-- Whether a partition's slice ends now: its tick has come, or no VF holds it and one has work, or a SPLIT waits. -/
def State.sliceDue (s : State) (node : Nat) (p : Part) : Bool :=
  match p.resident with
  | some _ => p.sliceEnd ≤ s.tick
  | none => p.split || !(s.workers node).isEmpty

/-- SLICE_END (R333, R335, R339, R368, R383). -/
def execSliceEnd (node : Nat) (s : State) : Out :=
  match s.parts.find node with
  | none => .next s
  | some p =>
    if !s.sliceDue node p then .next s
    else
      let s1 := (s.creditSlice p).noteWork node
      let p1 := { (s1.parts.get node p) with gained := 0 }
      let s2 : State := { s1 with parts := s1.parts.set node p1 }
      .next (if p1.split then (s2.applySplit node p1).nextSlice (2 * node) else s2.nextSlice node)

/-! ## The switch on a core (R339) -/

/-- The outgoing lines of a core, handlers among them. -/
def State.outgoing (s : State) (c : Nat) : List (Nat × Slot) :=
  let k := s.core c
  k.ways.filter fun e => k.resident ≠ some e.2.line.vfid.toNat

/-- VF_SWITCH_SWEEP (R339 step 2): from the 32nd cycle on, the first outgoing line in way order that is not pinned. -/
def execVfSwitchSweep (core : Nat) (s : State) : Out :=
  match (s.core core).switchAt with
  | none => .next s
  | some t =>
    if s.cycle < t + 32 then .next s
    else
      match (s.outgoing core).find? fun e => e.1 < 60 && !s.pinned core e.1 e.2 with
      | none => .next s
      | some (w, _) => .next (s.evict core w)

/-- The commands that Millstones have accepted and not completed (R230, R244). -/
def State.accepted (s : State) : List Cmd :=
  s.clusters.flatMap fun e =>
    e.2.held.map RowHold.cmd ++ e.2.queues.filter fun c => c.port = portMm && c.seq.isSome

/-- Whether the advance that a held command waits to make is of a ring at a place (R244). -/
def State.heldRing (s : State) (h : RowHold) (p : Loc → Bool) : Bool :=
  h.waits && ((ringOf h.ring).bind fun r => s.ringPlace h.cmd (h.cmd.receiver (s.execCluster h.cmd) h.row) r).any p

/-- Whether a command that a Millstone has accepted for an outgoing VF, any but the incoming `v`, reads or writes a place (R247). Where
`v` takes the core back while a clearing from its own leaving is still due, that clearing does not wait for the commands of `v`: DESIGN
CHOICE (log 102). -/
def State.heldTouches (s : State) (v : Nat) (p : Loc → Bool) : Bool :=
  (s.accepted.any fun c => c.vf ≠ v && s.cmdTouches c p)
    || s.clusters.any fun e => e.2.held.any fun h => h.cmd.vf ≠ v && s.heldRing h p

/-- Whether a posted write or a fill of an outgoing VF is still on its way to a place. -/
def State.writesComing (s : State) (v : Nat) (p : Loc → Bool) : Bool :=
  (s.cores.any fun e => e.2.stores.any fun x => x.vf ≠ v && p x.loc) || s.fills.any fun f => f.who.vf ≠ v && p f.loc

def inScratch (c : Nat) : Loc → Bool
  | .scratch k _ => k = c
  | _ => false

def inCluster (cl : Nat) : Loc → Bool
  | .cluster k _ => k = cl
  | _ => false

/-- The data part of a scratchpad is cleared, the handle table undefined, and the core's local format context reset (R207,
R209, R228). -/
def State.scrubCore (s : State) (c : Nat) : State :=
  let cl := clusterOf c
  let k := s.core c
  let x := s.cluster cl
  let s1 := s.setCore c { k with
    handles := [], scrubDue := false, switchAt := none, scrubUntil := some (s.cycle + 128) }
  let s2 := s1.setCluster cl { x with fmts := x.fmts.erase (c % 16) }
  let s3 : State := { s2 with mem := s2.mem.zeroFill (scratchKey c 0) handleTableFrom }
  s3.wake (.scratch c 0) handleTableFrom (wokenByWrite (.scratch c 0) handleTableFrom true false)

/-- SCRATCHPAD_SCRUB (R209, R247): once the last outgoing line has left and nothing of the outgoing VF still reaches it. -/
def execScratchpadScrub (core : Nat) (s : State) : Out :=
  match (s.core core).resident with
  | none => .next s
  | some v =>
    if (s.core core).scrubDue && (s.outgoing core).isEmpty && !s.writesComing v (inScratch core)
        && !s.heldTouches v (inScratch core) then .next (s.scrubCore core)
    else .next s

/-- SCRATCHPAD_SCRUB_END (R209). -/
def execScratchpadScrubEnd (core : Nat) (s : State) : Out :=
  let k := s.core core
  if k.scrubUntil.any fun t => t ≤ s.cycle then .next (s.setCore core { k with scrubUntil := none }) else .next s

/-! ## The cluster-memory fill (R211 to R213) -/

/-- Bytes of a bank. -/
def bankBytes : Nat := 65536

/-- A bank of a cluster's memory is zero-filled, with FE full. -/
def State.fillBank (s : State) (cl b : Nat) : State :=
  let s1 : State := { s with mem := s.mem.zeroFill (clusterKey cl (bankBytes * b)) bankBytes }
  let loc := Loc.cluster cl (bankBytes * b)
  s1.wake loc bankBytes (wokenByWrite loc bankBytes true false)

/-- The banks of a cluster that some VF keeps. -/
def Cluster.kept (k : Cluster) : BitVec 32 := k.banks.foldl (fun m e => m ||| e.2) 0

/-- Every bank that is not kept. -/
def State.fillShared (s : State) (cl : Nat) : State :=
  (List.range 32).foldl (fun s b => if (s.cluster cl).kept.getLsbD b then s else s.fillBank cl b) s

/-- CLUSTER_MEMORY_FILL (R213, R247): once no outgoing line is left in the cluster's context L1s and nothing of an outgoing
VF still reaches its memory. -/
def execClusterMemoryFill (cl : Nat) (s : State) : Out :=
  let k := s.cluster cl
  let cores := (List.range 16).map fun j => 16 * cl + j
  match (s.core (16 * cl)).resident with
  | none => .next s
  | some v =>
    if k.fillDue && cores.all (fun c => (s.outgoing c).isEmpty) && !s.writesComing v (inCluster cl)
        && !s.heldTouches v (inCluster cl) then
      let s1 := s.fillShared cl
      .next (s1.setCluster cl { s1.cluster cl with
        fillDue := false, fillUntil := if k.kept = BitVec.allOnes 32 then none else some (s.cycle + 1024) })
    else .next s

/-- CLUSTER_MEMORY_FILL_END (R213). -/
def execClusterMemoryFillEnd (cl : Nat) (s : State) : Out :=
  let k := s.cluster cl
  if k.fillUntil.any fun t => t ≤ s.cycle then .next (s.setCluster cl { k with fillUntil := none }) else .next s

end Sys2Proof.Machine
end

