-- ==== Sys2Proof/Machine/Partitions.lean ====
section
/-! DEFINITION. Partitions: the hypervisor's commands on the partition tree and on VFs (R12, R211, R366 to R373), the VF reset
with its report (R371, R399), and the error block's capture (R400). -/
namespace Sys2Proof.Machine

/-! ## Idle VFs -/

/-- A VF with a context that is not Retired, or an RCB that is ADMITTED or PENDING, unread spawns included (R12, R369). -/
def State.active (s : State) (v : Nat) : Bool :=
  s.ctxs.any (fun e => e.1 / 2 ^ 40 = v && e.2.place ≠ .retired) || s.rcbs.any (fun r => r.vf = v) || s.pool.any (fun e => e.vf = v)

/-- Whether an engine queue holds a command of a VF. -/
def State.queuedFor (s : State) (v : Nat) : Bool :=
  s.clusters.any (fun e => e.2.queues.any (fun c => c.vf = v) || e.2.held.any (fun h => h.cmd.vf = v))
    || s.dies.any fun e => e.2.queue.any fun c => c.vf = v

def State.isPart (s : State) (node : Nat) : Bool := (s.parts.find node).isSome

/-! ## SPLIT and MERGE (R368) -/

/-- A VF owns a frame behind a pseudo-channel of a node. -/
def State.ownsFrameIn (s : State) (v node : Nat) : Bool :=
  s.frames.any fun e =>
    let leaf := channelLeaf (pseudoChannel (e.1 * 4096))
    e.2.vf = v && e.2.state ≠ 0 && e.1 * 4096 < hbmEnd && firstLeaf node ≤ leaf && leaf < firstLeaf node + nodeLeaves node

/-- A VF keeps a bank in a cluster of a node. -/
def State.keepsBankIn (s : State) (v node : Nat) : Bool :=
  s.clusters.any fun e => inNode node e.1 && e.2.banks.get v 0 != 0

def State.splittable (s : State) (n : Nat) : Bool :=
  s.isPart n && 1 < nodeLeaves n && (s.vfsOf n).all fun v => !s.ownsFrameIn v (2 * n + 1) && !s.keepsBankIn v (2 * n + 1)

/-- SPLIT (R368): takes effect at the partition's next slice end. -/
def execSplit (node : Nat) (s : State) : Out :=
  match s.parts.find node with
  | none => .next { s with partStatus := .refused }
  | some p =>
    if s.splittable node then
      .next { s with parts := s.parts.set node { p with split := true }, partStatus := .ok }
    else .next { s with partStatus := .refused }

def State.idlePart (s : State) (node : Nat) : Bool := s.isPart node && (s.vfsOf node).all fun v => !s.active v && !s.queuedFor v

/-- MERGE (R368). -/
def execMerge (node : Nat) (s : State) : Out :=
  if 1 ≤ node && s.idlePart (2 * node) && s.idlePart (2 * node + 1) then
    .next { s with
      vfs := s.vfs.map fun e =>
        if e.2.node = 2 * node || e.2.node = 2 * node + 1 then (e.1, { e.2 with node := node }) else e
      parts := ((s.parts.erase (2 * node)).erase (2 * node + 1)).set node Part.idle
      platform := { s.platform with bindings := s.platform.bindings.filter fun b => b.1 ≠ 2 * node && b.1 ≠ 2 * node + 1 }
      partStatus := .ok }
  else .next { s with partStatus := .refused }

/-! ## VF control blocks (R12, R211, R369, R404) -/

/-- Every cores bit of a partition equals a VF's sec. -/
def State.worldFits (s : State) (v node : Nat) : Bool :=
  (List.range (nodeClusters node)).all fun k =>
    (s.platform.sorrel.worlds.get (physicalCluster node k) 0).getLsbD 0 == (s.vf v).sec

/-- VF_NODE_WRITE (R369): binds or unbinds a VF, or is refused with nothing changed. -/
def execVfNodeWrite (vf node : Nat) (s : State) : Out :=
  let x := s.vf vf
  if Config.vfs ≤ vf || s.active vf || x.st = 2 || (node ≠ 0 && !(s.isPart node && s.worldFits vf node)) then .next s
  else
    let left := s.parts.map fun e => if e.2.resident = some vf && e.1 ≠ node then (e.1, { e.2 with resident := none }) else e
    .next ({ s with parts := left }.setVf vf { x with node := node, st := if node = 0 then 0 else 1 })

/-- CTX_SEGMENT_WRITE (R12). DESIGN CHOICE (log 96): the manual gives ctxlen the range 0 to 2^40 and says nothing of a greater
value; here the register keeps its low 41 bits as they are written. -/
def execCtxSegmentWrite (vf : Nat) (len : Bool) (v : Word) (s : State) : Out :=
  let x := s.vf vf
  if Config.vfs ≤ vf || s.active vf then .next s
  else if len then .next (s.setVf vf { x with ctxlen := if hostHalf x.ctxbase then 0 else v.toNat % 2 ^ 41 })
  else
    let b := baseBits v 12
    .next (s.setVf vf { x with ctxbase := b, ctxlen := if hostHalf b then 0 else x.ctxlen })

/-- BANK_MASK_WRITE (R211, R212): a write that would take another VF's bank is ignored in full; a cleared bit zero-fills its
bank. -/
def execBankMaskWrite (vf lcluster : Nat) (keep : Word) (s : State) : Out :=
  let node := (s.vf vf).node
  if node = 0 || nodeClusters node ≤ lcluster then .next s
  else
    let cl := physicalCluster node lcluster
    let k := s.cluster cl
    let m := keep.extractLsb' 0 32
    if k.banks.any fun e => e.1 ≠ vf && (e.2 &&& m) != 0 then .next s
    else
      let gone := k.banks.get vf 0 &&& ~~~m
      let s1 := (List.range 32).foldl (fun s b => if gone.getLsbD b then s.fillBank cl b else s) s
      .next (s1.setCluster cl { s1.cluster cl with banks := k.banks.set vf m })

/-- FV_CLEAR (R400), a write of a host to the VF's register window (R373). -/
def execFvClear (vf : Nat) (s : State) : Out :=
  let x := s.vf vf
  if x.errs.fv && (s.deviceVf? vf).isSome then .next (s.setVf vf { x with errs := { x.errs with fv := false } }) else .next s

/-! ## Logical devices (R372, R373, R404) -/

/-- A secure port carries only partitions whose VFs are all secure. -/
def State.portFits (s : State) (node port : Nat) : Bool :=
  !s.platform.sorrel.package.getLsbD (8 + port) || (s.vfsOf node).all fun v => (s.vf v).sec

/-- FM_BIND (R373): a partition's logical device appears on a port, 16 at most. -/
def execFmBind (node port : Nat) (s : State) : Out :=
  let b := s.platform.bindings
  if 4 ≤ port || !s.isPart node || b.any (fun e => e.1 = node) || 16 ≤ (b.filter fun e => e.2 = port).length
      || !s.portFits node port then .next s
  else .next { s with platform := { s.platform with bindings := b ++ [(node, port)] } }

/-- FM_UNBIND (R373). -/
def execFmUnbind (node : Nat) (s : State) : Out :=
  .next { s with platform := { s.platform with bindings := s.platform.bindings.filter fun e => e.1 ≠ node } }

/-! ## VF reset (R371, R399) -/

/-- One entry of a partition's reset report ring; a full ring drops and counts it. -/
def State.report (s : State) (r : ResetReport) : State :=
  let node := s.nodeOf r.vf
  let ring := s.platform.reports.get node []
  if ring.length < Config.resetReports then
    { s with platform := { s.platform with reports := s.platform.reports.set node (ring ++ [r]) } }
  else s.hyper node ctrReports

/-- Whether element `e` of an aborted SL.SCATADD counts as applied (R399): it is acknowledged, or its place of execution holds
its key. -/
def State.elementApplied (s : State) (c : Cmd) (e : Nat) : Bool :=
  e + s.unacked c < c.sent || c.seq.any fun n => e < c.sent && s.applied (clusterOf c.core) n e

/-- The count of an aborted command (R399): of SL.SCATADD the elements before the first that is not applied, else the units
performed. -/
def State.performed (s : State) (c : Cmd) : Nat :=
  if c.port = portSl && c.opcode = 3 then ((List.range c.sent).takeWhile (s.elementApplied c)).length else c.done

/-- The mask of an aborted command (R399): of SL.SCATADD the elements applied among the 64 from its count on. -/
def State.appliedMask (s : State) (c : Cmd) : Word :=
  if c.port = portSl && c.opcode = 3 then
    BitVec.ofNat 64 (((List.range keysKept).map fun i =>
      if s.elementApplied c (s.performed c + i) then 2 ^ i else 0).sum)
  else 0

def State.reportCmd (s : State) (c : Cmd) : State :=
  s.report (ResetReport.mk c.vf (s.vf c.vf).gen 0 c.port c.opcode c.who.idWord c.sequence (s.performed c) (s.appliedMask c))

/-- The header of a command whose last push is a context's next instruction: the header pushed before, or that push's own word. -/
def State.lastPush (s : State) (c w : Nat) (sl : Slot) : Option (Nat × Word) :=
  match s.fetchInstr c w sl with
  | .instr (.push _ port a _) _ =>
    match (s.core c).buffers.find port.toNat with
    | some b => if b.owner = sl.who && b.dws.length + 2 = b.need then some (port.toNat, b.dws.headD 0) else none
    | none => if (sl.line.reg a).toNat / 256 % 256 = 2 then some (port.toNat, sl.line.reg a) else none
  | _ => none

/-- The commands of a VF that a full replay store holds at their source, one push from complete, are reported (R371, R396). -/
def State.reportHeldSends (s : State) (v : Nat) : State :=
  let held := s.cores.flatMap fun e => e.2.ways.filterMap fun x =>
    if x.2.who.vf = v && (s.cluster (clusterOf e.1)).blocked.contains x.2.who then
      (s.lastPush e.1 x.1 x.2).map fun h => (x.2.who, h)
    else none
  held.foldl (fun s b =>
    let h := b.2.2.toNat
    s.report (ResetReport.mk v (s.vf v).gen 0 b.2.1 (h % 256) b.1.idWord (h / 2 ^ 16 % 2 ^ 16) 0 0)) s

def State.reportPacket (s : State) (p : Packet) : State :=
  s.report (ResetReport.mk p.vf (s.vf p.vf).gen (if p.launch then 2 else 1) 0 0 (ctxWord p.vf p.index) 0 0 0)

/-- Every RCB of a VF, and every spawn not read, ends with a reason. -/
def State.abortVf (s : State) (v why : Nat) : State :=
  let s1 := (s.pool.filter fun e => e.vf = v).foldl (fun s e => s.abortEntry e why)
    { s with pool := s.pool.filter fun e => e.vf ≠ v }
  ((s1.rcbs.filter fun r => r.vf = v).reverse.foldl (fun s r => s.abortOne r why) s1).prune

/-- A context in a packet ends where the packet arrives; its pending WATCH is counted (R293). -/
def State.endPacket (s : State) (p : Packet) : State :=
  match s.ctx? p.vf p.index with
  | none => s
  | some c =>
    let s1 := (s.reportPacket p).writeCopy p.vf p.index p.line
    ((c.watch.elim s1 (s1.dropWatch p.vf)).setCtx p.vf p.index (Ctx.mk .retired c.rcb none false none false none)).unlive p.vf c

/-- The posted writes of a context on its core are performed, oldest first, as far as R265 lets them go. -/
def State.drainStores (s : State) (c : Nat) (who : Who) : Nat → State
  | 0 => s
  | n + 1 =>
    match ((s.core c).stores.zipIdx.find? fun e => e.1.who = who && s.postedReady c e.2 e.1) with
    | some e => (s.performPosted c e.2).drainStores c who n
    | none => s

/-- The pinned operation of a way completes (R330): a probe, a load, a page-3 instruction, or what waits for the context's earlier
writes, which are performed first. -/
def State.finishPinned (s : State) (c w : Nat) : State :=
  match s.slot? c w with
  | none => s
  | some sl =>
    if sl.held.isNone then s
    else
      match answerHeld (s.drainStores c sl.who (s.core c).stores.length) c w fun s i =>
          match i with
          | .fence _ | .mig _ _ | .exit _ => drainAnswered s i
          | _ => probeAnswered s i with
      | .next t => t
      | _ => s

/-- The pinned operations of every context and handler of a VF complete. -/
def State.finishAll (s : State) (v : Nat) : State :=
  (s.cores.flatMap fun e => (e.2.ways.filter fun x => x.2.who.vf = v).map fun x => (e.1, x.1)).foldl
    (fun s x => s.finishPinned x.1 x.2) s

/-- Retires a context at once, where its pinned operation has completed or cannot (R352). -/
def State.retireNow (s : State) (v i : Nat) : State :=
  match s.placeOf v i with
  | some .retired | none => s
  | _ => s.retire v i

/-- Step 2: every context and handler of the VF ends as R330 says, its pinned operation completed, with what the device holds for
it; fills still in flight find their lines ended. -/
def State.endContexts (s0 : State) (v : Nat) : State :=
  let s := s0.finishAll v
  let s1 := (s.packets.filter fun p => p.vf = v).foldl (fun s p => s.endPacket p)
    { s with packets := s.packets.filter fun p => p.vf ≠ v }
  let mine := s1.ctxs.filterMap fun e => if e.1 / 2 ^ 40 = v then some (e.1 % 2 ^ 40) else none
  let s2 := mine.foldl (fun s i => ((s.forgetAll (.ctx v i)).dropEvents v i).retireNow v i) s1
  let s3 := s2.cores.foldl (fun s e =>
    e.2.ways.foldl (fun s x =>
      match x.2.who with
      | .handler _ _ _ hv => if hv = v then s.freeHandler e.1 x.1 x.2.who else s
      | .ctx _ _ => s) s) s2
  let s4 := (s3.fills.filter fun f => f.who.vf = v).foldl (fun s f => s.discardFill f)
    { s3 with fills := s3.fills.filter fun f => f.who.vf ≠ v }
  { s4 with
    waiters := s4.waiters.filter fun w => w.who.vf ≠ v
    events := s4.events.filter fun e => e.1.vf ≠ v
    cores := s4.cores.map fun e => (e.1, { e.2 with
      deliveries := e.2.deliveries.filter fun d => d.vf ≠ v
      msgs := e.2.msgs.filter fun m => m.vf ≠ v
      outbound := e.2.outbound.filter fun m => m.2.vf ≠ v }) }

/-- The keys whose records are gone leave the windows (R398). -/
def State.trimWindows (s : State) : State :=
  { s with windows := s.windows.map fun w =>
      { w with keys := w.keys.filter fun x => (s.cluster w.src).replay.any fun r => r.seq = x.1 } }

/-- Step 3: every engine command of the VF finishes ABORTED and is reported, its completion discarded; page requests,
walks and replay records go, and the records' keys with them. -/
def State.abortCommands (s : State) (v : Nat) : State :=
  let queued := s.clusters.flatMap fun e =>
    (e.2.queues.filter fun c => c.vf = v) ++ (e.2.held.filter fun h => h.cmd.vf = v).map RowHold.cmd
  let onDies := s.dies.flatMap fun e => e.2.queue.filter fun c => c.vf = v
  let s1 := (queued ++ onDies).foldl (fun s c => s.reportCmd c) s
  State.trimWindows { s1 with
    clusters := s1.clusters.map fun e => (e.1, { e.2 with
      queues := e.2.queues.filter fun c => c.vf ≠ v
      held := e.2.held.filter fun h => h.cmd.vf ≠ v
      walks := e.2.walks.filter fun w => w.vf ≠ v
      reclass := e.2.reclass.filter fun r => r.vf ≠ v
      replay := e.2.replay.filter fun r => r.vf ≠ v })
    dies := s1.dies.map fun e => (e.1, { e.2 with
      queue := e.2.queue.filter fun c => c.vf ≠ v
      triggers := e.2.triggers.filter fun t => t.cmd.vf ≠ v })
    transit := s1.transit.filter fun c => c.who.vf ≠ v
    requests := s1.requests.filter fun r => r.vf ≠ v
    cores := s1.cores.map fun e => (e.1, { e.2 with
      stores := e.2.stores.filter fun x => x.vf ≠ v || x.request.isNone }) }

/-- Step 4: the VF's kept banks are zero-filled, and the format contexts that it wrote last or is bound to are reset. -/
def State.resetBanks (s : State) (v : Nat) : State :=
  let s1 := s.clusters.foldl (fun s e =>
    (List.range 32).foldl (fun s b => if (e.2.banks.get v 0).getLsbD b then s.fillBank e.1 b else s) s) s
  { s1 with clusters := s1.clusters.map fun e =>
      (e.1, { e.2 with fmts := e.2.fmts.filter fun f => f.2.vf ≠ v }) }

/-- Step 5: every LLC and core line of the VF is discarded, dirty ones too, fetch buffers and walks in progress with them. -/
def State.discardLines (s : State) (v : Nat) : State :=
  let mine (l : Loc) : Bool := match l with
    | .paged x _ => x = v
    | _ => false
  { s with
    llc := s.llc.filter fun l => l.vf ≠ v
    reds := s.reds.filter fun r => !mine r.loc
    cores := s.cores.map fun e => (e.1, { e.2 with
      cache := e.2.cache.filter fun x => x.vf ≠ v
      fetch := e.2.fetch.filter fun x => !mine x.loc
      walks := e.2.walks - (s.rangeWalks.filter fun w => w.vf = v && w.core = e.1).length })
    rangeWalks := s.rangeWalks.filter fun w => w.vf ≠ v }

/-- A VF reset in the order of R371; a VF that is not bound stays so. -/
def State.resetVf (s : State) (v : Nat) : State :=
  let s1 := s.setVf v { s.vf v with st := if (s.vf v).st = 0 then 0 else 2 }
  let s2 := ((s1.reportHeldSends v).abortVf v 5).endContexts v
  let s3 := s2.abortCommands v
  let s4 := s3.setVf v { s3.vf v with gen := (s3.vf v).gen + 1 }
  let s5 := (s4.resetBanks v).discardLines v
  s5.setVf v { s5.vf v with st := if (s5.vf v).st = 0 then 0 else 1, errs := ErrBlock.reset }

/-- VF_RESET (R371). -/
def execVfReset (vf : Nat) (s : State) : Out := if Config.vfs ≤ vf then .next s else .next (s.resetVf vf)

end Sys2Proof.Machine
end

