-- ==== Sys2Proof/Machine/Yarrow.lean ====
section
/-! DEFINITION. Yarrow: the slot commands (R185, R375), filter programs (R376, R377), outputs and triggers (R378, R379),
budgets (R380) and the virtual counters (R381 to R384). -/
namespace Sys2Proof.Machine

/-! ## Slots -/

/-- A filter slot that nothing was loaded into. -/
def Filter.reset : Filter := Filter.mk false [] false 0 0 none [] 0 0 0 0

def State.filter (s : State) (d v slot : Nat) : Filter := (s.die d).filters.get (8 * v + slot) Filter.reset

def State.setFilter (s : State) (d v slot : Nat) (f : Filter) : State :=
  let x := s.die d
  s.setDie d { x with filters := x.filters.set (8 * v + slot) f }

/-- The die whose Yarrow a command goes to, and the cluster that stands for it. -/
def Cmd.die (c : Cmd) : Nat := dieOf c.core

/-! ## Filter instructions (R376) -/

def yfOp (w : BitVec 32) : Nat := (w.extractLsb' 28 4).toNat
def yfD (w : BitVec 32) : Nat := (w.extractLsb' 25 3).toNat
def yfA (w : BitVec 32) : Nat := (w.extractLsb' 22 3).toNat
def yfB (w : BitVec 32) : Nat := (w.extractLsb' 19 3).toNat
def yfImm (w : BitVec 32) : Nat := (w.extractLsb' 0 19).toNat

/-- Whether the fields that a form does not use are 0: which of d, a, b and imm it uses. -/
def yfUnused (w : BitVec 32) : Bool :=
  let d := yfD w = 0
  let a := yfA w = 0
  let b := yfB w = 0
  let i := yfImm w = 0
  match yfOp w with
  | 0 => true
  | 1 => i
  | 2 | 3 | 4 | 6 | 7 => b
  | 5 => b && i
  | 8 | 10 | 11 | 13 | 14 => d
  | 9 => d && b
  | 12 => a && b
  | _ => d && a && b && i

/-- A word at index `i` of a program of `n` that YW.LOAD accepts (R377, R379). -/
def yfOk (n i : Nat) (w : BitVec 32) : Bool :=
  yfUnused w
    && (!(yfOp w = 10 || yfOp w = 11) || (yfImm w ≠ 0 && i + 1 + yfImm w ≤ n))
    && (yfOp w ≠ 14 || yfImm w < 64)

/-- A program that YW.LOAD accepts. -/
def programOk (p : List (BitVec 32)) : Bool :=
  1 ≤ p.length && p.length ≤ 64 && (List.range p.length).all fun i => yfOk p.length i ((p[i]?).getD 0)

/-- A trigger that a run fires: action, k, and the values of ya and yb. -/
structure Trigger where
  action : Nat
  k : Nat
  ya : Word
  yb : Word
  deriving DecidableEq, Repr

/-- A run: its registers, the slot's store, the triggers fired and the instructions executed so far. -/
structure FilterRun where
  y : List Word
  store : Tab Word
  fired : List Trigger
  steps : Nat
  deriving DecidableEq, Repr

def FilterRun.reg (r : FilterRun) (k : Nat) : Word := (r.y[k]?).getD 0
def FilterRun.setReg (r : FilterRun) (k : Nat) (w : Word) : FilterRun := { r with y := r.y.set k w }

/-- A store word, its index taken modulo 512. -/
def storeIx (a : Word) (imm : Nat) : Nat := (a.toNat + imm) % 512
def FilterRun.load (r : FilterRun) (k : Nat) : Word := r.store.get k 0
def FilterRun.save (r : FilterRun) (k : Nat) (w : Nat) : FilterRun :=
  { r with store := if w = 0 then r.store.erase k else r.store.set k (BitVec.ofNat 64 w) }

/-- Saturation at 2^32 − 1. -/
def sat32 (n : Nat) : Nat := Nat.min n (2 ^ 32 - 1)

/-- floor(log2 n) + 1 for n > 0, 0 for 0: the length of its binary form. -/
def bitLength (w : Word) : Nat := (List.range 64).foldl (fun n k => if w.getLsbD k then k + 1 else n) 0

/-- One filter instruction at index `i`: the run after it, and the next index; none ends the run. -/
def FilterRun.step (r0 : FilterRun) (i : Nat) (w : BitVec 32) : FilterRun × Option Nat :=
  let r := { r0 with steps := r0.steps + 1 }
  let d := yfD w
  let a := r.reg (yfA w)
  let b := r.reg (yfB w)
  let imm := yfImm w
  let simm : Word := (w.extractLsb' 0 19).signExtend 64
  let go (x : FilterRun) : FilterRun × Option Nat := (x, some (i + 1))
  match yfOp w with
  | 0 => go (r.setReg d (a + b + simm))
  | 1 => go (r.setReg d (a - b))
  | 2 => go (r.setReg d (a &&& BitVec.ofNat 64 imm))
  | 3 => go (r.setReg d (a >>> (imm % 64)))
  | 4 => go (r.setReg d (((a ^^^ BitVec.ofNat 64 imm) * 0x9E3779B97F4A7C15) >>> 32))
  | 5 => go (r.setReg d (BitVec.ofNat 64 (bitLength a)))
  | 6 => go (r.setReg d (if a.toNat < imm then a else BitVec.ofNat 64 imm))
  | 7 => go (r.setReg d (r.load (storeIx a imm)))
  | 8 => go (r.save (storeIx a imm) (b.toNat % 2 ^ 32))
  | 9 => go (r.save (storeIx a imm) (sat32 ((r.load (storeIx a imm)).toNat + 1)))
  | 10 => (r, some (if a = b then i + 1 + imm else i + 1))
  | 11 => (r, some (if a.toNat < b.toNat then i + 1 + imm else i + 1))
  | 12 => go (r.setReg d simm)
  | 13 => go (r.save (storeIx a imm) (sat32 ((r.load (storeIx a imm)).toNat + b.toNat % 2 ^ 32)))
  | 14 => go { r with fired := r.fired ++ [Trigger.mk (imm % 4) (imm / 4 % 16) a b] }
  | _ => (r, none)

/-- A run from index `i`: it ends at END, or when the next index is the instruction count. -/
def FilterRun.runFrom (p : List (BitVec 32)) (r : FilterRun) (i : Nat) : Nat → FilterRun
  | 0 => r
  | n + 1 =>
    match p[i]? with
    | none => r
    | some w =>
      match r.step i w with
      | (r1, none) => r1
      | (r1, some j) => r1.runFrom p j n

/-! ## Slot commands (R185, R375) -/

/-- Bits of the slot field, and must-be-0 bits above it. -/
def Cmd.slot (c : Cmd) (k : Nat) : Nat := c.bits k 0 3

/-- YW.LOAD (R377). -/
def ywLoadBody (d : Nat) (c : Cmd) : Eng (Word × BitVec 16) := do
  let q := c.dw 1
  let n := c.bits 2 3 7
  engAccept c (64 * d) [BitVec.ofNat 64 (c.bits 2 10 54), c.dw 3] [q] (1 ≤ n && n ≤ 64) true
  Eng.need (ptrOff q % 4 = 0) (badWith q)
  let v ← engReadN c (64 * d) q (4 * n) needLoad .read (4 * n)
  let p := (List.range n).map fun k => BitVec.ofNat 32 (v / 2 ^ (32 * k))
  Eng.need (programOk p) badField
  let s ← Eng.state
  Eng.put (s.setFilter d c.vf (c.slot 2) { Filter.reset with loaded := true, program := p })
  Eng.count n
  return (0, 0)

/-- A selector within the limits of its class (R374). -/
def selectorOk (cls sel : Nat) : Bool :=
  match cls with
  | 0 => true
  | 1 | 3 => sel < 16
  | 2 => sel < 64
  | 4 => 1024 ≤ sel
  | _ => false

/-- YW.ATTACH (R374, R375). -/
def ywAttachBody (d : Nat) (c : Cmd) : Eng (Word × BitVec 16) := do
  let cls := c.bits 1 8 8
  let sel := c.bits 1 16 32
  let q := c.dw 2
  engAccept c (64 * d) [BitVec.ofNat 64 (c.bits 1 3 5), BitVec.ofNat 64 (c.bits 1 48 16), c.dw 3]
    (if q = 0 then [] else [q]) (selectorOk cls sel) true
  let s ← Eng.state
  let f := s.filter d c.vf (c.slot 1)
  Eng.need f.loaded badField
  Eng.put (s.setFilter d c.vf (c.slot 1) { f with
    attached := true, cls := cls, sel := sel, out := if q = 0 then none else some c, seen := 0, nextTick := s.tick + sel })
  Eng.count 1
  return (0, 0)

/-- YW.DETACH (R375). -/
def ywDetachBody (d : Nat) (c : Cmd) : Eng (Word × BitVec 16) := do
  engAccept c (64 * d) [BitVec.ofNat 64 (c.bits 1 3 61), c.dw 2, c.dw 3] [] true true
  let s ← Eng.state
  Eng.put (s.setFilter d c.vf (c.slot 1) { s.filter d c.vf (c.slot 1) with attached := false })
  Eng.count 1
  return (0, 0)

/-- The bytes of a slot's output image: the store, then runs and drops (R378). -/
def Filter.image (f : Filter) (n : Nat) : List Byte :=
  (List.range n).map fun j =>
    let w : Nat := if j < 2048 then (f.store.get (j / 4) 0).toNat else if j < 2052 then f.runs else f.drops
    BitVec.ofNat 8 (w / 256 ^ (j % 4))

/-- YW.DUMP (R378). -/
def ywDumpBody (d : Nat) (c : Cmd) : Eng (Word × BitVec 16) := do
  let n := c.bits 3 0 32
  engAccept c (64 * d) [BitVec.ofNat 64 (c.bits 1 3 61), BitVec.ofNat 64 (c.bits 3 32 32)] [c.dw 2]
    (n % 4 = 0 && 4 ≤ n && n ≤ 2056) true
  let f := (← Eng.state).filter d c.vf (c.slot 1)
  flWrite c (64 * d) (ptrPlus (c.dw 2) c.done) n ((f.image n).drop c.done)
  return (0, 0)

/-- YW_LOAD (R185); an opcode that Yarrow does not list is BAD (R186). -/
def execYwLoad (die : Nat) (s : State) : Out :=
  dieEngine s die portYw (fun o => o ≠ 2 && o ≠ 3 && o ≠ 4) (ywLoadBody die)

/-- YW_ATTACH (R185). -/
def execYwAttach (die : Nat) (s : State) : Out := dieEngine s die portYw (fun o => o = 2) (ywAttachBody die)

/-- YW_DETACH (R185). -/
def execYwDetach (die : Nat) (s : State) : Out := dieEngine s die portYw (fun o => o = 3) (ywDetachBody die)

/-- YW_DUMP (R185). -/
def execYwDump (die : Nat) (s : State) : Out := dieEngine s die portYw (fun o => o = 4) (ywDumpBody die)

/-! ## Triggers (R379) -/

/-- Action 1: a WATCH on a context of the VF; another id is a dropped event. -/
def State.fireWatch (s : State) (d v slot : Nat) (id : Word) : State :=
  match s.namedCtx id with
  | some (v', i) =>
    if v' = v then { s with events := s.events ++ [(.ctx v i, .watch (BitVec.ofNat 64 (slot + 8 * d)))] }
    else s.dropEvent d v slot
  | none => s.dropEvent d v slot

/-- Action 2: bit 16 + k of the VF's flag word in every cluster of its partition on this die. -/
def State.fireFlag (s : State) (d v k : Nat) : State :=
  (List.range 64).foldl (fun s j =>
    if inNode (s.nodeOf v) (64 * d + j) then s.setFlag (64 * d + j) v (16 + k) else s) s

/-- Action 3: a queued write of the output object; a full queue drops and counts it. -/
def State.fireWrite (s : State) (d v : Nat) (out : Option Cmd) (val : Word) : State :=
  match out with
  | none => s
  | some c =>
    let x := s.die d
    if x.triggers.length < Config.triggerQueue then s.setDie d { x with triggers := x.triggers ++ [TrigWrite.mk c val] }
    else s.count v 0x70 1

def State.fire (s : State) (d v slot : Nat) (out : Option Cmd) (t : Trigger) : State :=
  match t.action with
  | 0 => s.interrupt v 2
  | 1 => s.fireWatch d v slot t.ya
  | 2 => s.fireFlag d v t.k
  | _ => s.fireWrite d v out t.yb

/-! ## Runs and budgets (R374, R380) -/

/-- Filter instructions left to a VF in this window. -/
def Die.budget (x : Die) (v : Nat) : Int := x.left.get v (x.ibud.get v 4096 : Nat)

/-- A slot's run over an event: its store and run count, the instructions charged, and its triggers. -/
def State.runFilter (s : State) (d : Nat) (e : YEvent) (f : Filter) : State :=
  let r := (FilterRun.mk (e.fields ++ List.replicate 4 0) f.store [] 0).runFrom f.program 0 64
  let s1 := s.setFilter d e.vf e.slot { f with store := r.store, runs := bump f.runs }
  let x := s1.die d
  let s2 := s1.setDie d { x with left := x.left.set e.vf (x.budget e.vf - r.steps) }
  r.fired.foldl (fun s t => s.fire d e.vf e.slot f.out t) s2

/-- FILTER_RUN (R374, R380): event `k` of a die's queue, after the earlier ones of its slot; with no budget left, or with its
slot detached since, it is dropped. -/
def execFilterRun (die k : Nat) (s : State) : Out :=
  let x := s.die die
  match x.events[k]? with
  | none => .next s
  | some e =>
    if (x.events.take k).any fun y => y.vf = e.vf && y.slot = e.slot then .next s
    else
      let s1 := s.setDie die { x with events := x.events.eraseIdx k }
      let f := s.filter die e.vf e.slot
      if f.attached && 0 < x.budget e.vf then .next (s1.runFilter die e f) else .next (s1.dropEvent die e.vf e.slot)

/-- YARROW_TICK_EVENT (R374): one event to a TICK slot, while its VF holds the partition. -/
def execYarrowTickEvent (die vf slot : Nat) (s : State) : Out :=
  let f := s.filter die vf slot
  if slot < 8 && f.loaded && f.attached && f.cls = 4 && f.nextTick ≤ s.tick then
    let s1 := s.setFilter die vf slot { f with nextTick := f.nextTick + f.sel, seen := f.seen + 1 }
    let x := s1.die die
    if !s.holdsPart vf then .next s1
    else if s.yarrowOpen die vf && x.events.length < Config.yarrowQueue then
      .next (s1.setDie die { x with events := x.events ++ [YEvent.mk vf slot [BitVec.ofNat 64 s.tick, 0, 0, 0]] })
    else .next (s1.dropEvent die vf slot)
  else .next s

/-- YARROW_BUDGET_WINDOW (R380): every 1,024 ticks each VF's budget is renewed, less its debt. -/
def execYarrowBudgetWindow (die : Nat) (s : State) : Out :=
  let x := s.die die
  if x.windowEnd ≤ s.tick then
    let renewed := x.left.map fun e => (e.1, ((x.ibud.get e.1 4096 : Nat) : Int) + (if e.2 < 0 then e.2 else 0))
    .next (s.setDie die { x with left := renewed, windowEnd := (s.tick / 1024 + 1) * 1024 })
  else .next s

/-- TRIGGER_WRITE (R379): the oldest queued write that waits for no page request; one that its rights, its translation or
the hypervisor refuse is dropped and counted. -/
def execTriggerWrite (die : Nat) (s : State) : Out :=
  let x := s.die die
  match x.triggers.findIdx? fun t => t.cmd.request.isNone with
  | none => .next s
  | some k =>
    match x.triggers[k]? with
    | none => .next s
    | some t =>
      let rest := s.setDie die { x with triggers := x.triggers.eraseIdx k }
      if t.cmd.fatal.isSome then .next (rest.count t.cmd.vf 0x70 1)
      else
        match (engWriteN t.cmd (64 * die) (t.cmd.dw 2) 8 t.value.toNat needStore .write 8).run (Run.mk rest 0) with
        | .ok _ r => .next r.s
        | .error (.status _ _) r => .next (r.s.count t.cmd.vf 0x70 1)
        | .error (.stage2 q g acc) r =>
          let y := r.s.die die
          let kept := r.s.setDie die { y with
            triggers := y.triggers ++ [{ t with cmd := { t.cmd with request := some r.s.nextTag } }] }
          .next (kept.request t.cmd.vf g acc (.engine t.cmd.who t.cmd.port) q 0)
        | .error .hold _ => .next s

/-! ## Virtual counters (R381 to R384) -/

/-- COUNTER_INCREMENT (R382 to R384): increment `k` reaches the counter die. -/
def execCounterIncrement (k : Nat) (s : State) : Out :=
  match s.increments[k]? with
  | none => .next s
  | some e => .next ({ s with increments := s.increments.eraseIdx k }.applyIncrement e)

end Sys2Proof.Machine
end

