-- ==== Sys2Proof/Machine/Integrity.lean ====
section
/-! DEFINITION. Integrity: what the device does about errors: replays, links that retrain or go down, lost replay records
(R396 to R398), retries (R392) and the patrol scrub (R401). -/
namespace Sys2Proof.Machine

/-! ## Replays (R397, R398) -/

/-- A replay of a VF's work: it repeats no effect that has happened, and a row or another payload that it writes again with its old
value took its place in the order when it was first performed (R248, R275, R398), so what is left of it is its count. -/
def State.countReplay (s : State) (v : Nat) : State := s.hyper (s.nodeOf v) ctrReplays

/-- A command is replayed: the elements that are not acknowledged are sent again, and those whose keys their places hold are not
applied but count as duplicates; they are acknowledged again (R398, R401). -/
def State.replayCmd (s : State) (c : Cmd) : State :=
  let sentFrom := c.sent - s.unacked c
  let known := (List.range (s.unacked c)).filter fun e => c.seq.any fun n => s.applied (clusterOf c.core) n (sentFrom + e)
  known.foldl (fun s _ => s.hyper (s.nodeOf c.vf) ctrDupKeys) (s.countReplay c.vf)

/-- The commands that an engine has in progress: accepted ones, of a die's engine the first whose operands it may read. -/
def State.inProgress (s : State) (cl port : Nat) : List Cmd :=
  if port = portQn || port = portYw then
    (((headOf (s.die (dieOfCluster cl)).queue port 0).map Prod.snd).filter s.released).toList
  else
    let k := s.cluster cl
    (k.queues.filter fun c => c.port = port && c.seq.isSome) ++ if port = portMm then k.held.map RowHold.cmd else []

/-- PARITY_ERROR (R248, R397): the commands that an engine has in progress are replayed. -/
def execParityError (cl port : Nat) (s : State) : Out := .next ((s.inProgress cl port).foldl State.replayCmd s)

/-! ## Links (R392, R397) -/

/-- The dies that a package link joins: link 4a + b joins dies a < b. -/
def linkDies (link : Nat) : Option (Nat × Nat) :=
  if link < 16 && link / 4 < link % 4 then some (link / 4, link % 4) else none

/-- Eight Neord links have the numbers from 16 (R419). -/
def neordLink (link : Nat) : Bool := 16 ≤ link && link < 24

/-- Whether a node has leaves of a die. -/
def spansDie (n d : Nat) : Bool := firstLeaf n < 16 * d + 16 && 16 * d < firstLeaf n + nodeLeaves n

/-- The partitions that a link serves: those with a part of a die that it joins, Neord port p being on die p / 2 (R2), and of a CXL
port those whose logical devices it carries. -/
def State.serves (s : State) (link node : Nat) : Bool :=
  match linkDies link with
  | some (a, b) => spansDie node a || spansDie node b
  | none => if neordLink link then spansDie node ((link - 16) / 2) else s.platform.bindings.contains (node, link - 24)

/-- The partitions in whose counters a link's retries and retrains count (R401): DESIGN CHOICE, each that it serves (log 75). -/
def State.linkParts (s : State) (link : Nat) : List Nat := ((s.parts.map Prod.fst).filter (s.serves link)).eraseDups

/-- One more in a counter of several partitions. -/
def State.hyperAll (s : State) (nodes : List Nat) (name : Nat) : State := nodes.foldl (fun s n => s.hyper n name) s

/-- A module error that Sorrel records (R397). -/
def State.moduleError (s : State) (what : Nat) : State :=
  { s with platform := { s.platform with moduleErrors := s.platform.moduleErrors ++ [BitVec.ofNat 64 what] } }

/-- The VFs of the partitions that span two dies. -/
def State.vfsAcross (s : State) (a b : Nat) : List Nat :=
  (s.vfs.filter fun e => e.2.node ≠ 0 && spansDie e.2.node a && spansDie e.2.node b).map Prod.fst

/-- A link is declared down: every partition across it is reset, with why = 5, and Sorrel records a module error; a Neord
link resets nothing (R397). -/
def State.linkDown (s : State) (link : Nat) : State :=
  let s1 := ({ s with platform := { s.platform with
    linksDown := insertNat s.platform.linksDown link
    linkFails := s.platform.linkFails.set link [] } }).moduleError link
  match linkDies link with
  | some (a, b) => (s1.vfsAcross a b).foldl State.resetVf s1
  | none => s1

/-- The die of a place on chip. -/
def onDie (d : Nat) : Loc → Bool
  | .scratch c _ => dieOf c = d
  | .cluster k _ => dieOfCluster k = d
  | .paged _ _ => false

/-- Whether one of `n` pages of a linear range of a command, as stage 1 and stage 2 take it now, is memory that a die serves. -/
def State.pagesOn (s : State) (c : Cmd) (d page : Nat) : Nat → Bool
  | 0 => false
  | n + 1 =>
    ((s.walkGpa c.vf page).bind fun g => s.frameOf? c.vf (g / 4096) false false).any (fun f => dieServing (f * 4096) = d)
      || s.pagesOn c d (page + 1) n

/-- Whether a command reaches memory of a die: on chip, or module memory. -/
def State.cmdReaches (s : State) (c : Cmd) (d : Nat) : Bool :=
  s.cmdTouches c (onDie d) || (s.cmdRanges c).any fun e =>
    let g := c.seg e.ptr
    let a := g.base + ptrOff e.ptr
    let n := Nat.min e.n (g.limit - ptrOff e.ptr)
    !g.type.onChip && s.pagesOn c d (a / 4096) ((a + n + 4095) / 4096 - a / 4096)

/-- Whether an accepted command has traffic on the link between two dies: sent by one, it runs on the other, or it runs on one
and reaches memory of the other. -/
def State.crosses (s : State) (c : Cmd) (a b : Nat) : Bool :=
  let runsOn := dieOfCluster (s.execCluster c)
  let from_ (x y : Nat) : Bool := (dieOf c.core = x && runsOn = y) || (runsOn = x && s.cmdReaches c y)
  c.seq.isSome && (from_ a b || from_ b a)

/-- The package link between two dies. -/
def linkBetween (x y : Nat) : Option Nat := if x < y then some (4 * x + y) else if y < x then some (4 * y + x) else none

/-- Whether the traffic of a record of a cluster goes over a package link: a packet's way, be its line placed and the
acknowledgement alone missing, or a command's. -/
def State.recordOn (s : State) (cl : Nat) (r : Replay) (link : Nat) : Bool :=
  match r.sent with
  | .packet p => linkBetween (dieOfCluster cl) (dieOf (s.pcore p.vf p.dst)) = some link
  | .command c => (linkDies link).any fun d => s.crosses ((s.liveCmd cl r.seq).getD c) d.1 d.2

/-- The records whose traffic is outstanding on a package link, each with its cluster. -/
def State.outstandingOn (s : State) (link : Nat) : List (Nat × Replay) :=
  s.clusters.flatMap fun e => (e.2.replay.filter fun r => s.recordOn e.1 r link).map fun r => (e.1, r)

/-- A replayed packet whose line has arrived already is acknowledged again, discarded and counted (R398, R401). -/
def State.countDuplicate (s : State) (v cl seq : Nat) : State :=
  if s.packets.any fun p => p.cluster = cl && p.seq = seq then s else s.hyper (s.nodeOf v) ctrDupPackets

/-- A record is replayed. -/
def State.replayRecord (s : State) (e : Nat × Replay) : State :=
  match e.2.sent with
  | .packet _ => (s.countReplay e.2.vf).countDuplicate e.2.vf e.1 e.2.seq
  | .command c => s.replayCmd ((s.liveCmd e.1 e.2.seq).getD c)

/-- Ticks of 1 ms (R397, R423). -/
def retrainWindow : Nat := 1000000

/-- A retrain is counted, be it that it succeeds or fails; one of a Neord link as a fabric event too (R381, R401). -/
def State.retrained (s : State) (link : Nat) : State :=
  let s1 := s.hyperAll (s.linkParts link) (ctrRetrains link)
  if neordLink link then s1.hyperAll (s.linkParts link) (ctrFabric 2) else s1

/-- LINK_RETRAIN (R397, R401): one that succeeds replays what was outstanding on the link; the third that fails within 1 ms
declares the link down. A CXL port's retry is the standard's, and its retrains are counted alone. -/
def execLinkRetrain (link : Nat) (ok : Bool) (s : State) : Out :=
  if 24 ≤ link && link < 28 then .next (s.retrained link)
  else if ((linkDies link).isNone && !neordLink link) || s.platform.linksDown.contains link then .next s
  else
    let s1 := s.retrained link
    if ok then .next ((s.outstandingOn link).foldl State.replayRecord s1)
    else
      let fails := (s.platform.linkFails.get link []).filter (fun t => s.tick < t + retrainWindow) ++ [s.tick]
      if 3 ≤ fails.length then .next (s1.linkDown link)
      else .next { s1 with platform := { s1.platform with linkFails := s1.platform.linkFails.set link fails } }

/-- An LLC line with one word poisoned; it is dirty, so that the poison is written back with it. -/
def LlcLine.poisonWord (l : LlcLine) (hpa : Nat) : LlcLine :=
  { l with poison := setBit8 l.poison (wordIx hpa) true, dirty := true }

/-- A flit is retransmitted and counted: on a link of a package link's or a Neord port's number, on CXL port p for 24 + p, on the
mesh at cluster c for 32 + c. -/
def State.retryFlit (s : State) (where_ : Nat) : State :=
  if 32 ≤ where_ then
    let n := s.partOf (where_ - 32)
    if where_ < 32 + Config.clusters then (s.hyper n ctrMesh).hyper n (ctrFabric 0) else s
  else if (linkDies where_).isSome then s.hyperAll (s.linkParts where_) (ctrRetries where_)
  else if 16 ≤ where_ && where_ < 28 then
    (s.hyperAll (s.linkParts where_) (ctrRetries where_)).hyperAll (s.linkParts where_) (ctrFabric (if where_ < 24 then 1 else 3))
  else s

/-- The word at a place is stored as poisoned. -/
def State.poisonPlace (s : State) (w : WordPlace) : State :=
  match w with
  | .scratch c pos => { s with mem := s.mem.setPoison (scratchKey c (pos % 2 ^ 17)) true }
  | .cluster k pos => { s with mem := s.mem.setPoison (clusterKey k (pos % 2 ^ 21)) true }
  | .module hpa =>
    if (s.linesAt hpa).isEmpty then { s with mem := s.mem.setPoison hpa true }
    else (s.linesAt hpa).foldl (fun s l => s.putLlc (l.poisonWord hpa)) s

/-- LINK_RETRY (R392, R393): a flit is retransmitted, or a hand-off finds an error of the data: both count, a correction or an
uncorrectable error against the domain that sends. The domains have the order of R392: 0 HBM, 1 LLC, 2 scratchpad, 3 cluster
memory, 4 context L1 and L2, 5 engine queues, 6 replay store, 7 capacity tier. A context line or a replay record that cannot be corrected is
lost, not poisoned: CONTEXT_LINE_LOST and REPLAY_RECORD_ERROR count it (R395, R396). -/
def execLinkRetry (found : HandOff) (s : State) : Out :=
  match found with
  | .flit where_ => .next (s.retryFlit where_)
  | .corrected node domain => if domain < 8 then .next (s.hyper node (ctrCorrected domain)) else .next s
  | .uncorrectable node domain w =>
    if domain < 8 && domain ≠ 4 && domain ≠ 6 then .next ((s.hyper node (ctrUncorrectable domain)).poisonPlace w) else .next s

/-! ## Records of the replay store (R396, R397) -/

/-- The package link that a record's traffic crosses, if it leaves its die: the lowest. -/
def State.recordLink (s : State) (cl : Nat) (r : Replay) : Option Nat := (List.range 16).find? (s.recordOn cl r)

/-- A fifth timeout: the link is down; on one die Sorrel records a module error alone (log 22). -/
def State.recordLost (s : State) (cl : Nat) (r : Replay) : State :=
  match s.recordLink cl r with
  | some l => s.linkDown l
  | none => s.moduleError (256 + cl)

/-- Whether a record waits for an acknowledgement: a packet's does, a command's while elements of it are not acknowledged (R398). -/
def State.awaitsAck (s : State) (cl : Nat) (r : Replay) : Bool :=
  match r.sent with
  | .packet _ => true
  | .command _ => (s.liveCmd cl r.seq).any fun c => 0 < s.unacked c

/-- REPLAY_TIMEOUT (R397): a record that nobody has acknowledged in 65,536 cycles is replayed, four times at most; a fifth timeout
declares the link down. -/
def execReplayTimeout (cl seq : Nat) (s : State) : Out :=
  let k := s.cluster cl
  match k.replay.find? fun r => r.seq = seq with
  | none => .next s
  | some r =>
    if !s.awaitsAck cl r || s.cycle < r.deadline then .next s
    else
      let s1 := s.hyper (s.nodeOf r.vf) ctrTimeouts
      let r' := { r with timeouts := r.timeouts + 1, deadline := s.cycle + ackCycles }
      let s2 := s1.setCluster cl { k with replay := k.replay.map fun x => if x.seq = seq then r' else x }
      if r.timeouts < 4 then .next (s2.replayRecord (cl, r')) else .next (s2.recordLost cl r')

/-- REPLAY_RECORD_ERROR (R393, R396): a record that its check cannot correct counts against the replay store and resets its VF. -/
def execReplayRecordError (cl seq : Nat) (s : State) : Out :=
  match (s.cluster cl).replay.find? fun r => r.seq = seq with
  | none => .next s
  | some r => .next ((s.hyper (s.nodeOf r.vf) (ctrUncorrectable 6)).resetVf r.vf)

/-! ## Patrol scrub (R392, R394, R401) -/

/-- PATROL_SCRUB (R401): the word at a host-physical address in an LLC line that records it, or in HBM, under such a line too; the
domains are 1 and 0 as R392 lists them. -/
def execPatrolScrub (place : ScrubPlace) (v : ScrubVerdict) (s : State) : Out :=
  let found (hpa d : Nat) (poisoned : State → State) : Out :=
    match v with
    | .clean => .next s
    | .corrected => .next (s.hyper (s.countsAt hpa) (ctrCorrected d))
    | .uncorrectable => .next (poisoned (s.hyper (s.countsAt hpa) (ctrUncorrectable d)))
  match place with
  | .llc hpa => if (s.linesAt hpa).isEmpty then .next s else found hpa 1 fun s => s.poisonPlace (.module hpa)
  | .hbm hpa => if hbmEnd ≤ hpa then .next s else found hpa 0 fun s => { s with mem := s.mem.setPoison hpa true }

end Sys2Proof.Machine
end

