-- ==== Sys2Proof/Machine/Packed.lean ====
section
/-! DEFINITION. Packed: packed SIMD on general registers (04_isa_scalar_control.md, R110 to R112). -/
namespace Sys2Proof.Machine

/-- The lane width of xop[1:0]. -/
def laneWidth (w : BitVec 2) : Nat := if w = 0 then 8 else if w = 1 then 16 else 32

/-- The lanes of a register, lane 0 first, and a register made of lanes. -/
def lanes (w : Nat) (x : Word) : List Nat := (List.range (64 / w)).map fun i => x.toNat / 2 ^ (w * i) % 2 ^ w
def ofLanes (w : Nat) (l : List Nat) : Word := BitVec.ofNat 64 (l.foldr (fun v acc => v % 2 ^ w + 2 ^ w * acc) 0)

/-- A lane read as signed; an exact value written to a lane, wrapped or clamped, and whether it clamped. -/
def laneInt (w v : Nat) : Int := (IntFmt.mk true w).decode v
def wrapLane (w : Nat) (v : Int) : Nat × Bool := ((v % 2 ^ w).toNat, false)
def clampS (w : Nat) (v : Int) : Nat × Bool :=
  let (r, f) := (IntFmt.mk true w).deliverInt v
  (r, f != 0)
def clampN (w : Nat) (v : Int) : Nat × Bool :=
  let (r, f) := (IntFmt.mk false w).deliverInt v
  (r, f != 0)
def plainLane (v : Nat) : Nat × Bool := (v, false)

/-- A packed instruction on lists of lanes: SAT is set once if any lane clamps (R110). -/
def packedLists (s : State) (i : Instr) (p : Pre) (lat : Nat) (d a b : BitVec 3) (w out : Nat)
    (f : List Nat → List Nat → List (Nat × Bool)) : Out :=
  lineOp s i p lat fun l =>
    let r := f (lanes w (l.reg a)) (lanes w (l.reg b))
    (l.setReg d (ofLanes out (r.map Prod.fst))).raise (flagIf (r.any Prod.snd) flagSAT)

/-- A packed instruction lane by lane. -/
def packedOp (s : State) (i : Instr) (p : Pre) (lat : Nat) (d a b : BitVec 3) (w : Nat)
    (f : Nat → Nat → Nat × Bool) : Out :=
  packedLists s i p lat d a b w w fun x y => List.zipWith f x y

/-- All ones of a lane, or 0. -/
def maskLane (w : Nat) (b : Bool) : Nat × Bool := plainLane (if b then 2 ^ w - 1 else 0)

/-- The lane functions of R110 at width w. -/
def laneAdd (w x y : Nat) : Nat × Bool := wrapLane w ((x : Int) + y)
def laneSub (w x y : Nat) : Nat × Bool := wrapLane w ((x : Int) - y)
def laneAdds (w x y : Nat) : Nat × Bool := clampS w (laneInt w x + laneInt w y)
def laneSubs (w x y : Nat) : Nat × Bool := clampS w (laneInt w x - laneInt w y)
def laneAddn (w x y : Nat) : Nat × Bool := clampN w ((x : Int) + y)
def laneSubn (w x y : Nat) : Nat × Bool := clampN w ((x : Int) - y)
def laneAvg (_w x y : Nat) : Nat × Bool := plainLane ((x + y + 1) / 2)
def laneMul (w x y : Nat) : Nat × Bool := wrapLane w ((x : Int) * y)
def laneMulh (w x y : Nat) : Nat × Bool := wrapLane w (laneInt w x * laneInt w y / 2 ^ w)
def laneMin (w x y : Nat) : Nat × Bool := plainLane (if laneInt w x < laneInt w y then x else y)
def laneMax (w x y : Nat) : Nat × Bool := plainLane (if laneInt w x < laneInt w y then y else x)
def laneMinn (_w x y : Nat) : Nat × Bool := plainLane (if x < y then x else y)
def laneMaxn (_w x y : Nat) : Nat × Bool := plainLane (if x < y then y else x)
def laneSll (w x y : Nat) : Nat × Bool := plainLane (if w ≤ y then 0 else x * 2 ^ y % 2 ^ w)
def laneSrl (w x y : Nat) : Nat × Bool := plainLane (if w ≤ y then 0 else x / 2 ^ y)
def laneSra (w x y : Nat) : Nat × Bool := wrapLane w (laneInt w x / 2 ^ Nat.min y w)
def laneCmpeq (w x y : Nat) : Nat × Bool := maskLane w (x == y)
def laneCmpgt (w x y : Nat) : Nat × Bool := maskLane w (laneInt w y < laneInt w x)

/-- padd (R110). -/
def execPadd (p : Pre) (w : BitVec 2) (d a b : BitVec 3) (s : State) : Out :=
  packedOp s (.padd p w d a b) p latA d a b (laneWidth w) (laneAdd (laneWidth w))

/-- psub (R110). -/
def execPsub (p : Pre) (w : BitVec 2) (d a b : BitVec 3) (s : State) : Out :=
  packedOp s (.psub p w d a b) p latA d a b (laneWidth w) (laneSub (laneWidth w))

/-- padds (R110). -/
def execPadds (p : Pre) (w : BitVec 2) (d a b : BitVec 3) (s : State) : Out :=
  packedOp s (.padds p w d a b) p latA d a b (laneWidth w) (laneAdds (laneWidth w))

/-- psubs (R110). -/
def execPsubs (p : Pre) (w : BitVec 2) (d a b : BitVec 3) (s : State) : Out :=
  packedOp s (.psubs p w d a b) p latA d a b (laneWidth w) (laneSubs (laneWidth w))

/-- paddn (R110). -/
def execPaddn (p : Pre) (w : BitVec 2) (d a b : BitVec 3) (s : State) : Out :=
  packedOp s (.paddn p w d a b) p latA d a b (laneWidth w) (laneAddn (laneWidth w))

/-- psubn (R110). -/
def execPsubn (p : Pre) (w : BitVec 2) (d a b : BitVec 3) (s : State) : Out :=
  packedOp s (.psubn p w d a b) p latA d a b (laneWidth w) (laneSubn (laneWidth w))

/-- pavg (R110). -/
def execPavg (p : Pre) (w : BitVec 2) (d a b : BitVec 3) (s : State) : Out :=
  packedOp s (.pavg p w d a b) p latA d a b (laneWidth w) (laneAvg (laneWidth w))

/-- pmul (R110). -/
def execPmul (p : Pre) (w : BitVec 2) (d a b : BitVec 3) (s : State) : Out :=
  packedOp s (.pmul p w d a b) p latM d a b (laneWidth w) (laneMul (laneWidth w))

/-- pmulh (R110). -/
def execPmulh (p : Pre) (w : BitVec 2) (d a b : BitVec 3) (s : State) : Out :=
  packedOp s (.pmulh p w d a b) p latM d a b (laneWidth w) (laneMulh (laneWidth w))

/-- pmin (R110). -/
def execPmin (p : Pre) (w : BitVec 2) (d a b : BitVec 3) (s : State) : Out :=
  packedOp s (.pmin p w d a b) p latA d a b (laneWidth w) (laneMin (laneWidth w))

/-- pmax (R110). -/
def execPmax (p : Pre) (w : BitVec 2) (d a b : BitVec 3) (s : State) : Out :=
  packedOp s (.pmax p w d a b) p latA d a b (laneWidth w) (laneMax (laneWidth w))

/-- pminn (R110). -/
def execPminn (p : Pre) (w : BitVec 2) (d a b : BitVec 3) (s : State) : Out :=
  packedOp s (.pminn p w d a b) p latA d a b (laneWidth w) (laneMinn (laneWidth w))

/-- pmaxn (R110). -/
def execPmaxn (p : Pre) (w : BitVec 2) (d a b : BitVec 3) (s : State) : Out :=
  packedOp s (.pmaxn p w d a b) p latA d a b (laneWidth w) (laneMaxn (laneWidth w))

/-- psll (R110). -/
def execPsll (p : Pre) (w : BitVec 2) (d a b : BitVec 3) (s : State) : Out :=
  packedOp s (.psll p w d a b) p latA d a b (laneWidth w) (laneSll (laneWidth w))

/-- psrl (R110). -/
def execPsrl (p : Pre) (w : BitVec 2) (d a b : BitVec 3) (s : State) : Out :=
  packedOp s (.psrl p w d a b) p latA d a b (laneWidth w) (laneSrl (laneWidth w))

/-- psra (R110). -/
def execPsra (p : Pre) (w : BitVec 2) (d a b : BitVec 3) (s : State) : Out :=
  packedOp s (.psra p w d a b) p latA d a b (laneWidth w) (laneSra (laneWidth w))

/-- pcmpeq (R110). -/
def execPcmpeq (p : Pre) (w : BitVec 2) (d a b : BitVec 3) (s : State) : Out :=
  packedOp s (.pcmpeq p w d a b) p latA d a b (laneWidth w) (laneCmpeq (laneWidth w))

/-- pcmpgt (R110). -/
def execPcmpgt (p : Pre) (w : BitVec 2) (d a b : BitVec 3) (s : State) : Out :=
  packedOp s (.pcmpgt p w d a b) p latA d a b (laneWidth w) (laneCmpgt (laneWidth w))

/-- pabs (R110). -/
def execPabs (p : Pre) (w : BitVec 2) (d a : BitVec 3) (s : State) : Out :=
  packedOp s (.pabs p w d a) p latA d a a (laneWidth w) fun x _ => clampS (laneWidth w) (laneInt (laneWidth w) x).natAbs

/-- pdot (R110): the only packed form that reads g[d]. -/
def execPdot (p : Pre) (w : BitVec 2) (d a b : BitVec 3) (s : State) : Out :=
  lineOp s (.pdot p w d a b) p latM fun l =>
    let n := laneWidth w
    let dot := (List.zipWith (fun x y => laneInt n x * laneInt n y) (lanes n (l.reg a)) (lanes n (l.reg b))).foldl (· + ·) 0
    l.setReg d (l.reg d + BitVec.ofInt 64 dot)

/-- pshuf (R110). -/
def execPshuf (p : Pre) (w : BitVec 2) (d a b : BitVec 3) (s : State) : Out :=
  let n := laneWidth w
  packedLists s (.pshuf p w d a b) p latA d a b n n fun x y =>
    y.map fun k => plainLane ((x[k % x.length]?).getD 0)

/-- ppack (R110): the lanes of g[a], then those of g[b], each clamped to half the width. -/
def execPpack (p : Pre) (w : BitVec 2) (d a b : BitVec 3) (s : State) : Out :=
  let n := laneWidth w
  packedLists s (.ppack p w d a b) p latA d a b n (n / 2) fun x y => (x ++ y).map fun v => clampS (n / 2) (laneInt n v)

/-- The low halves of two lists of lanes, interleaved. -/
def interleave : List Nat → List Nat → List (Nat × Bool)
  | x :: xs, y :: ys => plainLane x :: plainLane y :: interleave xs ys
  | _, _ => []

/-- punpk (R110). -/
def execPunpk (p : Pre) (w : BitVec 2) (d a b : BitVec 3) (s : State) : Out :=
  let n := laneWidth w
  packedLists s (.punpk p w d a b) p latA d a b n n fun x y => interleave (x.take (32 / n)) (y.take (32 / n))

/-- padd.h on page 0 (R112). -/
def execPaddH (p : Pre) (d a b : BitVec 3) (s : State) : Out :=
  packedOp s (.paddH p d a b) p latA d a b 16 (laneAdd 16)

/-- psub.h on page 0 (R112). -/
def execPsubH (p : Pre) (d a b : BitVec 3) (s : State) : Out :=
  packedOp s (.psubH p d a b) p latA d a b 16 (laneSub 16)

/-- padds.h on page 0 (R112). -/
def execPaddsH (p : Pre) (d a b : BitVec 3) (s : State) : Out :=
  packedOp s (.paddsH p d a b) p latA d a b 16 (laneAdds 16)

/-- psubs.h on page 0 (R112). -/
def execPsubsH (p : Pre) (d a b : BitVec 3) (s : State) : Out :=
  packedOp s (.psubsH p d a b) p latA d a b 16 (laneSubs 16)

/-- pmin.h on page 0 (R112). -/
def execPminH (p : Pre) (d a b : BitVec 3) (s : State) : Out :=
  packedOp s (.pminH p d a b) p latA d a b 16 (laneMin 16)

/-- pmax.h on page 0 (R112). -/
def execPmaxH (p : Pre) (d a b : BitVec 3) (s : State) : Out :=
  packedOp s (.pmaxH p d a b) p latA d a b 16 (laneMax 16)

/-- pmul.h on page 0 (R112). -/
def execPmulH (p : Pre) (d a b : BitVec 3) (s : State) : Out :=
  packedOp s (.pmulH p d a b) p latM d a b 16 (laneMul 16)

/-- pavg.h on page 0 (R112). -/
def execPavgH (p : Pre) (d a b : BitVec 3) (s : State) : Out :=
  packedOp s (.pavgH p d a b) p latA d a b 16 (laneAvg 16)

end Sys2Proof.Machine
end

