-- ==== Sys2Proof/Machine/Sorrel.lean ====
section
/-! DEFINITION. Sorrel: the mailbox and its commands (R403 to R413). A command runs from the write of go to its own row, as
one step, so that no other command is between (R413). -/
namespace Sys2Proof.Machine

/-! ## The mailbox (R409, R411) -/

def State.setSorrel (s : State) (x : Sorrel) : State := { s with platform := { s.platform with sorrel := x } }

/-- The codes of st (R409). -/
def stOk : Word := 0
def stRefused : Word := 1
def stBadArg : Word := 2
def stVerify : Word := 3
def stBusy : Word := 4

/-- The command codes (R409). -/
def cmdWassign : Nat := 1
def cmdSetw : Nat := 2
def cmdStage : Nat := 3
def cmdCommit : Nat := 4
def cmdAttest : Nat := 5
def cmdSetsec : Nat := 6

/-- The running command ends with a status. -/
def State.mboxEnd (s : State) (st : Word) : State :=
  s.setSorrel { s.platform.sorrel with go := false, st := st, latched := [] }

/-- The hub die runs: it is released at step 2 of the bring-up (R411, R421). -/
def State.hubRuns (s : State) : Bool :=
  s.platform.power = .on || (s.platform.power = .heldInReset && 2 < s.platform.resetStep)

/-- The flash image is invalid: the module stays in reset at step 1, for a recovery session (R411). -/
def State.recovers (s : State) : Bool := s.platform.power = .heldInReset && s.platform.resetStep = 1

/-- The mailbox is open to the hub die's secure mode and to an open session on the management port (R409). -/
def State.mboxOpen (s : State) (by_ : Origin) : Bool :=
  match by_ with
  | .hub secure => secure && s.hubRuns
  | .session cert => s.platform.power ≠ .off && s.platform.sorrel.sessions.contains cert
  | _ => false

/-- A write of go with bit 0 set, while no command runs: the command starts; an unlisted code ends with st = 2, and in a
recovery session all but STAGE and COMMIT with st = 1. -/
def State.mboxStart (s : State) : State :=
  let x := s.platform.sorrel
  let c := x.cmd.toNat
  let st := if s.recovers && c ≠ cmdStage && c ≠ cmdCommit then some stRefused
    else if c = 0 || 6 < c then some stBadArg else none
  match st with
  | some e => s.setSorrel { x with st := e }
  | none => s.setSorrel { x with go := true, latched := x.args }

/-- A write of cmd or go while a command runs ends with st = 4 (R409). -/
def State.mboxBusy (s : State) : State := s.setSorrel { s.platform.sorrel with st := stBusy }

/-- An argument of the running command. -/
def Sorrel.arg (x : Sorrel) (k : Nat) : Nat := ((x.latched[k]?).getD 0).toNat

/-- The row of a mailbox command: nothing unless that command runs. -/
def mailbox (s : State) (code : Nat) (f : Sorrel → State) : Out :=
  let x := s.platform.sorrel
  if x.go && x.cmd.toNat = code then .next (f x) else .next s

/-! ## WASSIGN (R403, R405) -/

/-- Whether a bit of a cluster's world register may change: of its cores, no VF bound to its partition; of an engine,
nothing queued or running in it. -/
def State.clusterBitIdle (s : State) (cl bit : Nat) : Bool :=
  if bit = 0 then (s.vfsOf (s.partOf cl)).isEmpty
  else (s.cluster cl).queues.all (fun c => c.port ≠ bit - 1) && (bit ≠ 1 || (s.cluster cl).held.isEmpty)

/-- A gang message is on its way through a Neord port. -/
def State.neordBusy (s : State) (port : Nat) : Bool :=
  s.gangSends.any fun m =>
    m.member ≠ s.platform.device && Config.neordPort m.member % 8 = port && s.tick < m.sent + gangTicks

/-- Whether a bit of the package register may change: of a Neord port, no link traffic pending on it. -/
def State.packageBitIdle (s : State) (bit : Nat) : Bool :=
  if bit < 8 then s.dies.all fun e => e.2.queue.all fun c => c.port ≠ portQn
  else if bit < 12 then s.platform.bindings.all fun b => b.2 ≠ bit - 8
  else if bit < 20 then !s.neordBusy (bit - 12)
  else (s.die (bit - 20)).queue.all fun c => c.port ≠ portYw

/-- Every changed bit of a register is idle. -/
def bitsIdle (n : Nat) (old new : Nat) (idle : Nat → Bool) : Bool :=
  (List.range n).all fun b => old.testBit b == new.testBit b || idle b

/-- WASSIGN: a world-assignment register takes a value, or keeps its own. -/
def State.wassign (s : State) (x : Sorrel) : State :=
  let r := x.arg 0
  let v := x.arg 1
  if r < 256 then
    if bitsIdle 5 (x.worlds.get r 0).toNat v (s.clusterBitIdle r) then
      (s.setSorrel { x with worlds := x.worlds.set r (BitVec.ofNat 5 v) }).mboxEnd stOk
    else s.mboxEnd stRefused
  else if r = 256 then
    if bitsIdle 24 x.package.toNat v s.packageBitIdle then
      (s.setSorrel { x with package := BitVec.ofNat 24 v }).mboxEnd stOk
    else s.mboxEnd stRefused
  else s.mboxEnd stBadArg

def execWassign (s : State) : Out := mailbox s cmdWassign s.wassign

/-! ## SETW (R406, R408) -/

/-- Granules of the region world table. -/
def granules : Nat := 1245184

/-- SETW: every bit of a run changes or none does; a granule changes only when all its 4 KiB frames are FREE. -/
def State.setWorlds (s : State) (x : Sorrel) : State :=
  let first := x.arg 0
  let n := x.arg 1
  let world := (x.arg 2).testBit 0
  if granules < first + n then s.mboxEnd stBadArg
  else
    let inRun (g : Nat) : Bool := first ≤ g && g < first + n
    let changes (g : Nat) : Bool := inRun g && x.regions.contains g != world
    if s.frames.any fun e => e.2.state ≠ 0 && changes (e.1 / 512) then s.mboxEnd stRefused
    else
      let regions := if world then (List.range n).foldl (fun l k => insertNat l (first + k)) x.regions
        else x.regions.filter fun g => !inRun g
      (s.setSorrel { x with regions := regions }).mboxEnd stOk

def execSetw (s : State) : Out := mailbox s cmdSetw s.setWorlds

/-! ## Images (R410 to R412) -/

/-- `n` bytes of an image from `k`, little-endian. -/
def imageField (b : List Byte) (k n : Nat) : Nat :=
  ((b.drop k).take n).foldr (fun x acc => x.toNat + 256 * acc) 0

def imageMagic : Nat := 0x4C524F53
def imageMax : Nat := 32 * 2 ^ 20

/-- D of an image (R410). -/
def imageDigest (b : List Byte) : BitVec 512 := Config.sha512 (b.take 64 ++ b.drop 128)

/-- The five conditions of R410. -/
def Sorrel.imageOk (x : Sorrel) (b : List Byte) : Bool :=
  let key := imageField b 12 1
  128 ≤ b.length && b.length ≤ imageMax && imageField b 0 4 = imageMagic && imageField b 8 4 + 128 = b.length
    && imageField b 13 51 = 0 && key < 4 && !x.revoked.contains key && x.minVersion ≤ imageField b 4 4
    && Config.sigOk key (imageDigest b) (BitVec.ofNat 512 (imageField b 64 64))

/-- A range of bytes that an argument may name: module memory in secure granules (R409). -/
def State.argRange (s : State) (a n : Nat) : Bool :=
  a + n ≤ capacityEnd
    && (List.range ((a + n + 2 ^ 21 - 1) / 2 ^ 21 - a / 2 ^ 21)).all fun k => s.secureHpa ((a / 2 ^ 21 + k) * 2 ^ 21)

/-- A byte of module memory as Sorrel reads it: the LLC's, with the core caches' dirty words, where a line records it. -/
def State.moduleByte (s : State) (hpa : Nat) : Byte :=
  match s.linesAt hpa with
  | [] => s.mem.get hpa
  | l :: _ => BitVec.ofNat 8 ((l.word (s.overlay l) hpa).bytes (hpa % 8) 1)

def State.moduleBytes (s : State) (hpa n : Nat) : List Byte := (List.range n).map fun k => s.moduleByte (hpa + k)

/-- An image in the staging buffer, checked. -/
def State.stageImage (s : State) (x : Sorrel) (b : List Byte) : State :=
  let ok := x.imageOk b
  (s.setSorrel { x with staging := b, staged := ok }).mboxEnd (if ok then stOk else stVerify)

/-- STAGE (R412): from memory, or in a recovery session from the session (R411, R420). -/
def execStage (image : List Byte) (s : State) : Out :=
  mailbox s cmdStage fun x =>
    if s.recovers then
      if image.length ≤ imageMax then s.stageImage x image else s.mboxEnd stBadArg
    else if x.arg 1 ≤ imageMax && s.argRange (x.arg 0) (x.arg 1) then s.stageImage x (s.moduleBytes (x.arg 0) (x.arg 1))
    else s.mboxEnd stBadArg

/-- COMMIT (R412): flash takes the staged image, which is read back and checked; the fused minimum version rises. -/
def execCommit (s : State) : Out :=
  mailbox s cmdCommit fun x =>
    if !x.staged then s.mboxEnd stRefused
    else
      let ok := x.imageOk x.staging
      let min := if ok then Nat.max x.minVersion (imageField x.staging 4 4) else x.minVersion
      (s.setSorrel { x with flash := x.staging, flashValid := ok, minVersion := min }).mboxEnd
        (if ok then stOk else stVerify)

/-! ## ATTEST (R413) -/

/-- `n` bytes of a number, least significant first. -/
def bytesOf (n v : Nat) : List Byte := (List.range n).map fun k => BitVec.ofNat 8 (v / 256 ^ k)

/-- The 256 cluster registers and the package register of R403, as doublewords in index order. -/
def Sorrel.worldBytes (x : Sorrel) : List Byte :=
  (List.range 256).flatMap (fun k => bytesOf 8 (x.worlds.get k 0).toNat) ++ bytesOf 8 x.package.toNat

/-- The region world table, in doubleword order: eight granules to a byte. -/
def Sorrel.regionBytes (x : Sorrel) : List Byte :=
  (List.range (granules / 8)).map fun k =>
    BitVec.ofNat 8 ((List.range 8).foldl (fun acc b => if x.regions.contains (8 * k + b) then acc + 2 ^ b else acc) 0)

/-- Bytes 0 to 447 of a quote. -/
def Sorrel.quoteBody (x : Sorrel) (nonce : List Byte) : List Byte :=
  nonce ++ bytesOf 64 (x.measured.getD Config.bootDigest).toNat ++ bytesOf 64 Config.hubMeasure.toNat
    ++ bytesOf 4 x.version ++ bytesOf 4 x.minVersion ++ bytesOf 64 (Config.sha512 x.worldBytes).toNat
    ++ bytesOf 64 (Config.sha512 x.regionBytes).toNat ++ List.replicate 152 0

/-- A quote: its body and the signature over the body's digest. -/
def Sorrel.quote (x : Sorrel) (nonce : List Byte) : List Byte :=
  x.quoteBody nonce ++ bytesOf 64 (Config.deviceSign (Config.sha512 (x.quoteBody nonce))).toNat

/-- Sorrel writes bytes to module memory as a host's writes go, one byte at a time. -/
def State.writeModule (s : State) (hpa : Nat) (b : List Byte) : State :=
  ((List.range b.length).zip b).foldl (fun s e => s.hostStore (hpa + e.1) 1 (e.2.setWidth 64)) s

/-- The words of a range lose their poison: a quote writes them whole. -/
def State.clearPoison (s : State) (hpa n : Nat) : State :=
  (List.range (n / 8)).foldl (fun s k => s.hostStore (hpa + 8 * k) 8 0) s

/-- ATTEST (R413): a quote, or with a zero nonce address the device's certified public key. -/
def execAttest (s : State) : Out :=
  mailbox s cmdAttest fun x =>
    let nonce := x.arg 0
    let out := x.arg 1
    if !s.argRange out 512 || (nonce ≠ 0 && !s.argRange nonce 32) then s.mboxEnd stBadArg
    else
      let b := if nonce = 0 then bytesOf 512 Config.devicePublic.toNat else x.quote (s.moduleBytes nonce 32)
      let s1 := if out % 8 = 0 then s.clearPoison out 512 else s
      (s1.writeModule out b).mboxEnd stOk

/-! ## SETSEC (R369, R409) -/

/-- SETSEC: sec of an unbound VF. -/
def execSetsec (s : State) : Out :=
  mailbox s cmdSetsec fun x =>
    let v := x.arg 0
    if Config.vfs ≤ v then s.mboxEnd stBadArg
    else if (s.vf v).node ≠ 0 || (s.vf v).st ≠ 0 then s.mboxEnd stRefused
    else (s.setVf v { s.vf v with sec := (x.arg 1).testBit 0 }).mboxEnd stOk

end Sys2Proof.Machine
end

