-- ==== Sys2Proof/Machine/Platform.lean ====
section
/-! DEFINITION. Platform: reset and power (R411, R412, R421, R422), the management port (R420), the power cap and throttling
(R424, R425), the global tick (R423), CXL ports that go down (R418), and writes of registers that have no row (R6). -/
namespace Sys2Proof.Machine

/-! ## Reset and power -/

/-- What of Sorrel survives a reset: flash, its fuses and its one-time-programmable store. -/
def Sorrel.kept (x : Sorrel) : Sorrel :=
  { Sorrel.reset with
    flash := x.flash
    flashValid := x.flashValid
    minVersion := x.minVersion
    revoked := x.revoked
    version := x.version
    measured := x.measured
    anchor := x.anchor }

/-- Sorrel once it runs the image in flash (R410, R412); manufacture's own image is never read back. -/
def Sorrel.started (x : Sorrel) : Sorrel :=
  if x.flash.isEmpty then x else { x with version := imageField x.flash 4 4, measured := some (imageDigest x.flash) }

/-- Host memory alone: a reset writes HBM and the capacity tier, not what lies behind the CXL ports (R421, R428). -/
def Memory.hostPart (m : Memory) : Memory :=
  let host (a : Nat) : Bool := 2 ^ 47 ≤ a && a < 2 ^ 48
  Memory.mk (m.cells.filter fun e => host e.1) (m.empty.filter fun w => host (8 * w)) (m.poison.filter fun w => host (8 * w))

/-- The module with nothing running and nothing in its memory: what the outside has yet to do, host memory, the device number
and what the next bring-up finds stay. -/
def State.cleared (s : State) (p : Power) (step : Nat) (x : Sorrel) : State :=
  { State.reset with
    agenda := s.agenda
    draws := s.draws
    mem := s.mem.hostPart
    platform := { Platform.reset with
      power := p, resetStep := step, device := s.platform.device, sorrel := x, chips := s.platform.chips } }

/-- The most that the other end of a CXL port accepts of what the device does, which is everything up to its own most (R418). -/
def trainedTo (most : Nat) (other : List Nat) : Nat := (other.filter (· ≤ most)).foldl Nat.max 0

/-- What the steps 3 to 8 of a bring-up leave, when all end (R418, R419, R421 to R423). -/
def State.trained (s : State) (b : BringUp) : State :=
  { s with
    tick := b.joins.getD 0
    platform := { s.platform with
      badQuern := b.quern
      device := b.device % 64
      linked := b.linked
      heard := b.joins.getD 0
      slewed := b.joins.getD 0
      cxlTrained := (List.range 4).map fun p =>
        let other := b.cxl.getD p ([], [])
        (trainedTo 16 other.1, trainedTo 64 other.2)
      neordRates := (List.range 8).map fun p => if b.neord.getD p true then 224 else 112 } }

/-- The bring-up sequence (R421, R422): it ends at the step that fails, which holds the module; the first fails with an invalid
image (R411). -/
def State.bringUp (s : State) : State :=
  let x := s.platform.sorrel.kept
  let b := s.platform.chips
  if !x.flashValid then s.cleared .heldInReset 1 x
  else
    match b.fails with
    | none => (s.cleared .on 8 x.started).trained b
    | some n => s.cleared .heldInReset (Nat.min 8 (Nat.max 2 n)) x.started

/-- MODULE_RESET (R421). -/
def execModuleReset (s : State) : Out := .next s.bringUp

/-- POWER_LOSS (R412): a COMMIT in progress leaves flash invalid. -/
def execPowerLoss (s : State) : Out :=
  let x := s.platform.sorrel
  let writing := x.go && x.cmd.toNat = cmdCommit && x.staged
  .next (s.cleared .off 0 { x.kept with flashValid := x.flashValid && !writing })

/-! ## The management port (R411, R420) -/

/-- MGMT_SESSION (R420): a peer whose certificate chains to the operator trust anchor opens a session. -/
def execMgmtSession (cert : Nat) (s : State) : Out :=
  let x := s.platform.sorrel
  if s.platform.power ≠ .off && Config.chains x.anchor cert then
    .next (s.setSorrel { x with sessions := insertNat x.sessions cert })
  else .next s

/-! ## Power and throttling (R424, R425) -/

/-- The cap that a written value gives. -/
def clampCap (v : Word) : Nat := Nat.min 2400 (Nat.max 800 (v.toNat % 4096))

/-- Who writes the power cap: the hypervisor, and a session where a valid image runs (R420, R425). -/
def State.writesCap (s : State) (by_ : Origin) : Bool :=
  match by_ with
  | .hub _ => s.hubRuns
  | .session _ => s.mboxOpen by_ && !s.recovers
  | _ => false

/-- POWER_CAP_WRITE (R425). -/
def execPowerCapWrite (w : CapWrite) (s : State) : Out :=
  if s.writesCap w.by_ then .next { s with platform := { s.platform with powerCap := clampCap w.value } } else .next s

/-- The conditions of R424's table on a reading, with a power cap. -/
def powerOver (r : Reading) (cap : Nat) : Bool := cap < r.power && 1 ≤ r.heldMs
def powerFarOver (r : Reading) (cap : Nat) : Bool := cap * 105 < r.power * 100 && 1 ≤ r.heldMs
def entersOne (r : Reading) (cap : Nat) : Bool := 95 ≤ r.temp || powerOver r cap
def entersTwo (r : Reading) (cap : Nat) : Bool := 100 ≤ r.temp || powerFarOver r cap || r.flow < 20
def leavesOne (r : Reading) (cap : Nat) : Bool := r.temp < 90 && r.power < cap && 10 ≤ r.heldMs
def leavesTwo (r : Reading) (cap : Nat) : Bool := r.temp < 95 && r.power < cap && 20 ≤ r.flow && 10 ≤ r.heldMs
def tripReading (r : Reading) : Bool := 110 ≤ r.temp || r.flow < 10

/-- The level after a reading: level 2 is left for level 1, or for level 0 when level 1's own condition holds too. -/
def nextLevel (level : Nat) (r : Reading) (cap : Nat) : Nat :=
  if entersTwo r cap then 2
  else if level = 2 then (if !(leavesTwo r cap) then 2 else if leavesOne r cap then 0 else 1)
  else if entersOne r cap then 1
  else if level = 1 then (if leavesOne r cap then 0 else 1)
  else level

/-- The readings that a session reads (R420). -/
def State.sensed (s : State) (die : Nat) (r : Reading) : State :=
  { s with platform := { s.platform with temps := s.platform.temps.set die r.temp, draw := r.power, flow := r.flow } }

/-- THROTTLE_LEVEL_CHANGE (R424): the die takes the level of the reading at the next tick boundary. -/
def execThrottleLevelChange (die : Nat) (r : Reading) (s : State) : Out :=
  if Config.dies ≤ die then .next s
  else
    let d := s.die die
    .next ((s.sensed die r).setDie die { d with pending := some (nextLevel (d.pending.getD d.throttle) r s.platform.powerCap) })

/-- THERMAL_TRIP (R424): the module stops and is reset. -/
def execThermalTrip (r : Reading) (s : State) : Out :=
  if tripReading r then .next s.bringUp else .next s

/-! ## The global tick (R335, R381, R423) -/

/-- Quarter cycles of a tick at a throttle level (R424). -/
def quarterCycles (level : Nat) : Nat := if level = 1 then 9 else if level = 2 then 6 else 12

/-- Every linked device has a higher number: this one is the tick master (R423). -/
def State.tickMaster (s : State) : Bool := s.platform.linked.all fun d => s.platform.device ≤ d

/-- Ticks by which the count moves: one, and one less or more in the tick of 1,000 in which it slews toward the master. -/
def State.tickStep (s : State) : Nat :=
  if s.platform.lead = 0 || s.tick < s.platform.slewed + 1000 then 1 else if 0 < s.platform.lead then 0 else 2

/-- The lead over the master after a tick in which this count moves by `n`: the master's moves by one, and by one more or less where
the references have run apart, but the two stay within 2 ticks (R423). -/
def State.leadAfter (s : State) (n : Nat) : Int :=
  let even := s.platform.lead + n - 1
  let apart := even + 1 - (Config.masterDrift s.draws).val
  if apart.natAbs ≤ 2 then apart else even

/-- The count of a device that is not the master moves; it may hear the master in that tick, and then is synchronised, while one that
has heard none for 1 ms is not. -/
def State.followMaster (s : State) : State :=
  let n := s.tickStep
  let p := s.platform
  let hears := Config.masterHeard s.draws
  let late := decide (p.heard + retrainWindow ≤ s.tick + n)
  { s.drawn with
    tick := s.tick + n
    platform := { p with
      lead := s.leadAfter n
      slewed := if n = 1 then p.slewed else s.tick + n
      heard := if hears then s.tick + n else p.heard
      unsync := (p.unsync || late) && !hears } }

/-- The count moves (R423). -/
def State.advanceTick (s : State) : State :=
  if s.tickMaster then { s with tick := s.tick + 1, platform := { s.platform with lead := 0, unsync := false } } else s.followMaster

/-- Every die takes the throttle level that waits for the tick boundary (R424). -/
def State.takeLevels (s : State) : State :=
  { s with dies := s.dies.map fun e => (e.1, { e.2 with throttle := e.2.pending.getD e.2.throttle, pending := none }) }

/-- A partition's tick: its slice delivers cycles, and its resident VF counts event 0x0001. -/
def State.tickPart (s : State) (node : Nat) (p : Part) : State :=
  match p.resident with
  | none => s
  | some v =>
    let d := firstLeaf node / 16
    let s1 : State := { s with parts := s.parts.set node { p with gained := p.gained + quarterCycles (s.die d).throttle } }
    s1.count v 0x01 1

/-- GLOBAL_TICK (R423): the tick that ends is accounted at the levels it ran at. -/
def execGlobalTick (s : State) : Out :=
  let s1 := s.advanceTick
  let s2 := s1.parts.foldl (fun s e => s.tickPart e.1 e.2) s1
  .next (s2.parts.foldl (fun s e => s.noteWork e.1) s2.takeLevels)

/-- TICK_UNSYNCHRONISED (R423): a device that has heard no master for 1 ms. -/
def execTickUnsynchronised (s : State) : Out :=
  if s.tickMaster || s.tick < s.platform.heard + retrainWindow then .next s
  else .next { s with platform := { s.platform with unsync := true } }

/-! ## CXL ports (R394, R418) -/

/-- Whether a fill reads host memory through a CXL port. -/
def State.fillThrough (s : State) (f : Fill) (port : Nat) : Bool :=
  f.loc.host && s.platform.bindings.contains (s.nodeOf f.who.vf, port)

/-- CXL_PORT_DOWN (R418): every access in flight through the port ends with the poison indication; the logical devices stay
bound. -/
def execCxlPortDown (port : Nat) (s : State) : Out :=
  if 4 ≤ port then .next s
  else
    let hit := s.fills.filter fun f => s.fillThrough f port
    let s1 : State := { s with
      fills := s.fills.filter fun f => !s.fillThrough f port
      platform := { s.platform with portsDown := insertNat s.platform.portsDown port } }
    .next (hit.foldl (fun s f => s.lateTrap f causeMemUncorr) s1)

/-! ## Registers without a row (R6) -/

/-- A write of one field group of a VF. -/
def State.writeVf (s : State) (v : Nat) (f : Vf → Vf) : State := if v < Config.vfs then s.setVf v (f (s.vf v)) else s

/-- Who reaches a VF's register window and doorbell page: the host to whose port, which is up, its logical device is bound, and
the hub (R341, R369, R372, R373). -/
def State.reachesWindow (s : State) (by_ : Origin) (v : Nat) : Bool :=
  match by_ with
  | .host p => (s.deviceVf? v).isSome && s.platform.bindings.contains (s.nodeOf v, p) && !s.platform.portsDown.contains p
  | .hub _ => s.hubRuns
  | _ => false

def State.writeWindow (s : State) (by_ : Origin) (v : Nat) (f : Vf → Vf) : State :=
  if s.reachesWindow by_ v then s.writeVf v f else s

/-- A write in the control space, which only the hub's cores reach (R369, R414, R417). -/
def State.writeControl (s : State) (by_ : Origin) (f : State → State) : State :=
  match by_ with
  | .hub _ => if s.hubRuns then f s else s
  | _ => s

/-- A write of a work queue's qbase or lsize, ignored while the queue holds entries (R325). -/
def State.writeWq (s : State) (by_ : Origin) (v q : Nat) (f : Wq → Wq) : State :=
  let w := (s.vf v).queues.get q Wq.reset
  if 256 ≤ q || w.qhead ≠ w.qtail then s
  else s.writeWindow by_ v fun x => { x with queues := x.queues.set q (f w) }

/-- A write of a mailbox register by one to whom the mailbox is open. -/
def State.writeMbox (s : State) (by_ : Origin) (r : CtlReg) (v : Word) : State :=
  let x := s.platform.sorrel
  if !s.mboxOpen by_ then s
  else
    match r with
    | .mboxCmd => if x.go then s.mboxBusy else s.setSorrel { x with cmd := v.extractLsb' 0 8 |>.setWidth 64 }
    | .mboxGo => if x.go then s.mboxBusy else if v.getLsbD 0 then s.mboxStart else s
    | .mboxArg k => if k < 5 then s.setSorrel { x with args := x.args.set k v } else s
    | _ => s

/-- The operator trust anchor is written once, when the module is provisioned (R420). -/
def State.writeAnchor (s : State) (by_ : Origin) (key : BitVec 256) : State :=
  let x := s.platform.sorrel
  if by_ = .provisioning && x.anchor.isNone then s.setSorrel { x with anchor := some key } else s

/-- REGISTER_WRITE (R6, R195, R325, R334, R341, R369, R380, R384, R409, R420): the fields that the writer may write take their
bits; the others keep theirs. -/
def execRegisterWrite (r : RegAccess) (v : Word) (s : State) : Out :=
  let by_ := r.by_
  match r.reg with
  | .sstbase vf => .next (s.writeWindow by_ vf fun x => x.writeReg 2 v)
  | .sstlen vf => .next (s.writeWindow by_ vf fun x => x.writeReg 3 v)
  | .upcbase vf => .next (s.writeWindow by_ vf fun x => x.writeReg 6 v)
  | .s1root vf => .next (s.writeWindow by_ vf fun x => { x with s1root := baseBits v 12 })
  | .s1en vf => .next (s.writeWindow by_ vf fun x => { x with s1en := v.getLsbD 0 })
  | .qbase vf q => .next (s.writeWq by_ vf q fun w => { w with qbase := v.toNat / 64 * 64 })
  | .lsize vf q => .next (s.writeWq by_ vf q fun w => { w with lsize := v.toNat % 32 })
  | .ovf vf => .next (s.writeWindow by_ vf fun x =>
      { x with counters := { x.counters with ovf := x.counters.ovf &&& ~~~(v.extractLsb' 0 16) } })
  | .s2root vf => .next (s.writeControl by_ fun s => s.writeVf vf fun x => { x with s2root := baseBits v 12 })
  | .schedule vf => .next (s.writeControl by_ fun s => s.writeVf vf fun x =>
      { x with slice := v.toNat % 2 ^ 32, weight := v.toNat / 2 ^ 32 % 2 ^ 16 })
  | .vfDw0 vf => .next (s.writeControl by_ fun s => s.writeVf vf fun x => { x with wmask := v.extractLsb' 16 16 })
  | .vfDw1 vf => .next (s.writeControl by_ fun s => s.writeVf vf fun x =>
      { x with qdbase := baseBits v 6, qdlen := v.toNat / 2 ^ 48 })
  | .ibud die vf => .next (s.writeControl by_ fun s =>
      if die < Config.dies && vf < Config.vfs then
        s.setDie die { s.die die with ibud := (s.die die).ibud.set vf (v.toNat % 2 ^ 24) }
      else s)
  | .mboxCmd => .next (s.writeMbox by_ .mboxCmd v)
  | .mboxGo => .next (s.writeMbox by_ .mboxGo v)
  | .mboxArg k => .next (s.writeMbox by_ (.mboxArg k) v)
  | .anchor key => .next (s.writeAnchor by_ key)
  | .mboxSt | .readOnly => .next s

end Sys2Proof.Machine
end

