-- ==== Sys2Proof/Machine/Dispatch.lean ====
section
/-! DEFINITION. Dispatch: one arm per operation of the opcode table, each a direct call of its meaning. -/
namespace Sys2Proof.Machine

def exec (i : Instr) (s : State) : Host.Outcome State Fault Refusal :=
  match i with
  | .add p d a b => Sys2Proof.Machine.execAdd p d a b s
  | .sub p d a b => Sys2Proof.Machine.execSub p d a b s
  | .and p d a b => Sys2Proof.Machine.execAnd p d a b s
  | .or p d a b => Sys2Proof.Machine.execOr p d a b s
  | .xor p d a b => Sys2Proof.Machine.execXor p d a b s
  | .shl p d a b => Sys2Proof.Machine.execShl p d a b s
  | .shr p d a b => Sys2Proof.Machine.execShr p d a b s
  | .sar p d a b => Sys2Proof.Machine.execSar p d a b s
  | .mul p d a b => Sys2Proof.Machine.execMul p d a b s
  | .mulh p d a b => Sys2Proof.Machine.execMulh p d a b s
  | .mulhn p d a b => Sys2Proof.Machine.execMulhn p d a b s
  | .min p d a b => Sys2Proof.Machine.execMin p d a b s
  | .max p d a b => Sys2Proof.Machine.execMax p d a b s
  | .minn p d a b => Sys2Proof.Machine.execMinn p d a b s
  | .maxn p d a b => Sys2Proof.Machine.execMaxn p d a b s
  | .andn p d a b => Sys2Proof.Machine.execAndn p d a b s
  | .paddH p d a b => Sys2Proof.Machine.execPaddH p d a b s
  | .psubH p d a b => Sys2Proof.Machine.execPsubH p d a b s
  | .paddsH p d a b => Sys2Proof.Machine.execPaddsH p d a b s
  | .psubsH p d a b => Sys2Proof.Machine.execPsubsH p d a b s
  | .pminH p d a b => Sys2Proof.Machine.execPminH p d a b s
  | .pmaxH p d a b => Sys2Proof.Machine.execPmaxH p d a b s
  | .pmulH p d a b => Sys2Proof.Machine.execPmulH p d a b s
  | .pavgH p d a b => Sys2Proof.Machine.execPavgH p d a b s
  | .addi p d a imm => Sys2Proof.Machine.execAddi p d a imm s
  | .andi p d a imm => Sys2Proof.Machine.execAndi p d a imm s
  | .movi p d imm => Sys2Proof.Machine.execMovi p d imm s
  | .shli p d a sh => Sys2Proof.Machine.execShli p d a sh s
  | .shri p d a sh => Sys2Proof.Machine.execShri p d a sh s
  | .sari p d a sh => Sys2Proof.Machine.execSari p d a sh s
  | .rori p d a sh => Sys2Proof.Machine.execRori p d a sh s
  | .cmpEq p d a b => Sys2Proof.Machine.execCmpEq p d a b s
  | .cmpNe p d a b => Sys2Proof.Machine.execCmpNe p d a b s
  | .cmpLt p d a b => Sys2Proof.Machine.execCmpLt p d a b s
  | .cmpGe p d a b => Sys2Proof.Machine.execCmpGe p d a b s
  | .cmpLo p d a b => Sys2Proof.Machine.execCmpLo p d a b s
  | .cmpHs p d a b => Sys2Proof.Machine.execCmpHs p d a b s
  | .cmpTst p d a b => Sys2Proof.Machine.execCmpTst p d a b s
  | .cmpNtst p d a b => Sys2Proof.Machine.execCmpNtst p d a b s
  | .ldzB p d a b => Sys2Proof.Machine.execLdzB p d a b s
  | .ldsB p d a b => Sys2Proof.Machine.execLdsB p d a b s
  | .ldzH p d a b => Sys2Proof.Machine.execLdzH p d a b s
  | .ldsH p d a b => Sys2Proof.Machine.execLdsH p d a b s
  | .ldzW p d a b => Sys2Proof.Machine.execLdzW p d a b s
  | .ldsW p d a b => Sys2Proof.Machine.execLdsW p d a b s
  | .ldD p d a b => Sys2Proof.Machine.execLdD p d a b s
  | .stB p d a b => Sys2Proof.Machine.execStB p d a b s
  | .stH p d a b => Sys2Proof.Machine.execStH p d a b s
  | .stW p d a b => Sys2Proof.Machine.execStW p d a b s
  | .stD p d a b => Sys2Proof.Machine.execStD p d a b s
  | .br p pr sense off => Sys2Proof.Machine.execBr p pr sense off s
  | .jmp p off => Sys2Proof.Machine.execJmp p off s
  | .call p off => Sys2Proof.Machine.execCall p off s
  | .loop p l c len => Sys2Proof.Machine.execLoop p l c len s
  | .mov p d a => Sys2Proof.Machine.execMov p d a s
  | .rdp p d => Sys2Proof.Machine.execRdp p d s
  | .wrp p a => Sys2Proof.Machine.execWrp p a s
  | .jr p a => Sys2Proof.Machine.execJr p a s
  | .rdsr p d sr => Sys2Proof.Machine.execRdsr p d sr s
  | .wrsr p a sr => Sys2Proof.Machine.execWrsr p a sr s
  | .sel p d a b => Sys2Proof.Machine.execSel p d a b s
  | .ret p => Sys2Proof.Machine.execRet p s
  | .nop p => Sys2Proof.Machine.execNop p s
  | .yield p => Sys2Proof.Machine.execYield p s
  | .fence p => Sys2Proof.Machine.execFence p s
  | .exit p => Sys2Proof.Machine.execExit p s
  | .hret p => Sys2Proof.Machine.execHret p s
  | .eret p => Sys2Proof.Machine.execEret p s
  | .trap p code => Sys2Proof.Machine.execTrap p code s
  | .brk p code => Sys2Proof.Machine.execBrk p code s
  | .sleep p a => Sys2Proof.Machine.execSleep p a s
  | .fadd p f d a b => Sys2Proof.Machine.execFadd p f d a b s
  | .fsub p f d a b => Sys2Proof.Machine.execFsub p f d a b s
  | .fmul p f d a b => Sys2Proof.Machine.execFmul p f d a b s
  | .fdiv p f d a b => Sys2Proof.Machine.execFdiv p f d a b s
  | .fmin p f d a b => Sys2Proof.Machine.execFmin p f d a b s
  | .fmax p f d a b => Sys2Proof.Machine.execFmax p f d a b s
  | .fma p f d a b => Sys2Proof.Machine.execFma p f d a b s
  | .fsqrt p f d a => Sys2Proof.Machine.execFsqrt p f d a s
  | .fabs p f d a => Sys2Proof.Machine.execFabs p f d a s
  | .fneg p f d a => Sys2Proof.Machine.execFneg p f d a s
  | .exp2 p f d a => Sys2Proof.Machine.execExp2 p f d a s
  | .log2 p f d a => Sys2Proof.Machine.execLog2 p f d a s
  | .rcp p f d a => Sys2Proof.Machine.execRcp p f d a s
  | .rsqrt p f d a => Sys2Proof.Machine.execRsqrt p f d a s
  | .fclass p f d a => Sys2Proof.Machine.execFclass p f d a s
  | .fcmpEq p q f d a b => Sys2Proof.Machine.execFcmpEq p q f d a b s
  | .fcmpLt p q f d a b => Sys2Proof.Machine.execFcmpLt p q f d a b s
  | .fcmpLe p q f d a b => Sys2Proof.Machine.execFcmpLe p q f d a b s
  | .fcmpUn p q f d a b => Sys2Proof.Machine.execFcmpUn p q f d a b s
  | .fcvt p src d a dst => Sys2Proof.Machine.execFcvt p src d a dst s
  | .padd p w d a b => Sys2Proof.Machine.execPadd p w d a b s
  | .psub p w d a b => Sys2Proof.Machine.execPsub p w d a b s
  | .padds p w d a b => Sys2Proof.Machine.execPadds p w d a b s
  | .psubs p w d a b => Sys2Proof.Machine.execPsubs p w d a b s
  | .paddn p w d a b => Sys2Proof.Machine.execPaddn p w d a b s
  | .psubn p w d a b => Sys2Proof.Machine.execPsubn p w d a b s
  | .pavg p w d a b => Sys2Proof.Machine.execPavg p w d a b s
  | .pmul p w d a b => Sys2Proof.Machine.execPmul p w d a b s
  | .pmulh p w d a b => Sys2Proof.Machine.execPmulh p w d a b s
  | .pmin p w d a b => Sys2Proof.Machine.execPmin p w d a b s
  | .pmax p w d a b => Sys2Proof.Machine.execPmax p w d a b s
  | .pminn p w d a b => Sys2Proof.Machine.execPminn p w d a b s
  | .pmaxn p w d a b => Sys2Proof.Machine.execPmaxn p w d a b s
  | .pdot p w d a b => Sys2Proof.Machine.execPdot p w d a b s
  | .psll p w d a b => Sys2Proof.Machine.execPsll p w d a b s
  | .psrl p w d a b => Sys2Proof.Machine.execPsrl p w d a b s
  | .psra p w d a b => Sys2Proof.Machine.execPsra p w d a b s
  | .pshuf p w d a b => Sys2Proof.Machine.execPshuf p w d a b s
  | .ppack p w d a b => Sys2Proof.Machine.execPpack p w d a b s
  | .punpk p w d a b => Sys2Proof.Machine.execPunpk p w d a b s
  | .pcmpeq p w d a b => Sys2Proof.Machine.execPcmpeq p w d a b s
  | .pcmpgt p w d a b => Sys2Proof.Machine.execPcmpgt p w d a b s
  | .pabs p w d a => Sys2Proof.Machine.execPabs p w d a s
  | .cmpxEq p q d a b => Sys2Proof.Machine.execCmpxEq p q d a b s
  | .cmpxNe p q d a b => Sys2Proof.Machine.execCmpxNe p q d a b s
  | .cmpxLt p q d a b => Sys2Proof.Machine.execCmpxLt p q d a b s
  | .cmpxGe p q d a b => Sys2Proof.Machine.execCmpxGe p q d a b s
  | .cmpxLo p q d a b => Sys2Proof.Machine.execCmpxLo p q d a b s
  | .cmpxHs p q d a b => Sys2Proof.Machine.execCmpxHs p q d a b s
  | .cmpxTst p q d a b => Sys2Proof.Machine.execCmpxTst p q d a b s
  | .cmpxNtst p q d a b => Sys2Proof.Machine.execCmpxNtst p q d a b s
  | .tadd p hd ha hb => Sys2Proof.Machine.execTadd p hd ha hb s
  | .tsub p hd ha hb => Sys2Proof.Machine.execTsub p hd ha hb s
  | .tmul p hd ha hb => Sys2Proof.Machine.execTmul p hd ha hb s
  | .tfma p hd ha hb => Sys2Proof.Machine.execTfma p hd ha hb s
  | .tmin p hd ha hb => Sys2Proof.Machine.execTmin p hd ha hb s
  | .tmax p hd ha hb => Sys2Proof.Machine.execTmax p hd ha hb s
  | .tsel p hd ha hb => Sys2Proof.Machine.execTsel p hd ha hb s
  | .tcvt p hd ha => Sys2Proof.Machine.execTcvt p hd ha s
  | .texp2 p hd ha => Sys2Proof.Machine.execTexp2 p hd ha s
  | .tlog2 p hd ha => Sys2Proof.Machine.execTlog2 p hd ha s
  | .trcp p hd ha => Sys2Proof.Machine.execTrcp p hd ha s
  | .tcopy p hd ha => Sys2Proof.Machine.execTcopy p hd ha s
  | .tredSum p hd ha => Sys2Proof.Machine.execTredSum p hd ha s
  | .tredMax p hd ha => Sys2Proof.Machine.execTredMax p hd ha s
  | .tscale p hd ha k => Sys2Proof.Machine.execTscale p hd ha k s
  | .tmask p hd ha k => Sys2Proof.Machine.execTmask p hd ha k s
  | .tfill p hd k => Sys2Proof.Machine.execTfill p hd k s
  | .push p port a b => Sys2Proof.Machine.execPush p port a b s
  | .pop p port a b => Sys2Proof.Machine.execPop p port a b s
  | .peek p port a b => Sys2Proof.Machine.execPeek p port a b s
  | .rwaitF p n h => Sys2Proof.Machine.execRwaitF p n h s
  | .rwaitE p n h => Sys2Proof.Machine.execRwaitE p n h s
  | .radvP p n h => Sys2Proof.Machine.execRadvP p n h s
  | .radvC p n h => Sys2Proof.Machine.execRadvC p n h s
  | .hdef p h a b => Sys2Proof.Machine.execHdef p h a b s
  | .hrd p h a b => Sys2Proof.Machine.execHrd p h a b s
  | .hmov p hd ha => Sys2Proof.Machine.execHmov p hd ha s
  | .send p t h n => Sys2Proof.Machine.execSend p t h n s
  | .ldfe p d a b => Sys2Proof.Machine.execLdfe p d a b s
  | .ldff p d a b => Sys2Proof.Machine.execLdff p d a b s
  | .stfe p d a b => Sys2Proof.Machine.execStfe p d a b s
  | .stef p d a b => Sys2Proof.Machine.execStef p d a b s
  | .feRd p d a b => Sys2Proof.Machine.execFeRd p d a b s
  | .feSet p a b => Sys2Proof.Machine.execFeSet p a b s
  | .feClr p a b => Sys2Proof.Machine.execFeClr p a b s
  | .waddrEq p a b => Sys2Proof.Machine.execWaddrEq p a b s
  | .waddrNe p a b => Sys2Proof.Machine.execWaddrNe p a b s
  | .barWait p a b => Sys2Proof.Machine.execBarWait p a b s
  | .cflush p a b => Sys2Proof.Machine.execCflush p a b s
  | .cinval p a b => Sys2Proof.Machine.execCinval p a b s
  | .barArrive p a => Sys2Proof.Machine.execBarArrive p a s
  | .joinDec p a => Sys2Proof.Machine.execJoinDec p a s
  | .joinWait p a => Sys2Proof.Machine.execJoinWait p a s
  | .mig p a => Sys2Proof.Machine.execMig p a s
  | .amoAdd p sz d a b => Sys2Proof.Machine.execAmoAdd p sz d a b s
  | .amoAnd p sz d a b => Sys2Proof.Machine.execAmoAnd p sz d a b s
  | .amoOr p sz d a b => Sys2Proof.Machine.execAmoOr p sz d a b s
  | .amoXor p sz d a b => Sys2Proof.Machine.execAmoXor p sz d a b s
  | .amoMin p sz d a b => Sys2Proof.Machine.execAmoMin p sz d a b s
  | .amoMax p sz d a b => Sys2Proof.Machine.execAmoMax p sz d a b s
  | .amoMinn p sz d a b => Sys2Proof.Machine.execAmoMinn p sz d a b s
  | .amoMaxn p sz d a b => Sys2Proof.Machine.execAmoMaxn p sz d a b s
  | .amoSwap p sz d a b => Sys2Proof.Machine.execAmoSwap p sz d a b s
  | .amoCas p sz d a b => Sys2Proof.Machine.execAmoCas p sz d a b s
  | .redAdd p ty a b => Sys2Proof.Machine.execRedAdd p ty a b s
  | .redRd p ty d a => Sys2Proof.Machine.execRedRd p ty d a s
  | .spawn p d a => Sys2Proof.Machine.execSpawn p d a s
  | .rdsrPriv p d n => Sys2Proof.Machine.execRdsrPriv p d n s
  | .wrsrPriv p a n => Sys2Proof.Machine.execWrsrPriv p a n s
  | .upret p a => Sys2Proof.Machine.execUpret p a s
  | .seginv p a => Sys2Proof.Machine.execSeginv p a s
  | .ymark p a => Sys2Proof.Machine.execYmark p a s
  | .cflClr p a => Sys2Proof.Machine.execCflClr p a s
  | .tlbinv p a b => Sys2Proof.Machine.execTlbinv p a b s
  | .sltWr p a b => Sys2Proof.Machine.execSltWr p a b s
  | .yctl p a b => Sys2Proof.Machine.execYctl p a b s
  | .capmint p d a b => Sys2Proof.Machine.execCapmint p d a b s
  | .cxld p d a b => Sys2Proof.Machine.execCxld p d a b s
  | .cxst p d a b => Sys2Proof.Machine.execCxst p d a b s
  | .rdtick p d => Sys2Proof.Machine.execRdtick p d s
  | .cflRd p d => Sys2Proof.Machine.execCflRd p d s
  | .yrd p d a => Sys2Proof.Machine.execYrd p d a s
  | .mmFmt cl src => Sys2Proof.Machine.execMmFmt cl src s
  | .mmMul cl src => Sys2Proof.Machine.execMmMul cl src s
  | .mmRowAdvance cl k => Sys2Proof.Machine.execMmRowAdvance cl k s
  | .slGather cl => Sys2Proof.Machine.execSlGather cl s
  | .slScatter cl => Sys2Proof.Machine.execSlScatter cl s
  | .slScatadd cl => Sys2Proof.Machine.execSlScatadd cl s
  | .flCopy cl => Sys2Proof.Machine.execFlCopy cl s
  | .flFill cl => Sys2Proof.Machine.execFlFill cl s
  | .boTopk cl => Sys2Proof.Machine.execBoTopk cl s
  | .boMerge cl => Sys2Proof.Machine.execBoMerge cl s
  | .clusterMemoryFill cl => Sys2Proof.Machine.execClusterMemoryFill cl s
  | .clusterMemoryFillEnd cl => Sys2Proof.Machine.execClusterMemoryFillEnd cl s
  | .qnBag die => Sys2Proof.Machine.execQnBag die s
  | .ywLoad die => Sys2Proof.Machine.execYwLoad die s
  | .ywAttach die => Sys2Proof.Machine.execYwAttach die s
  | .ywDetach die => Sys2Proof.Machine.execYwDetach die s
  | .ywDump die => Sys2Proof.Machine.execYwDump die s
  | .yarrowBudgetWindow die => Sys2Proof.Machine.execYarrowBudgetWindow die s
  | .triggerWrite die => Sys2Proof.Machine.execTriggerWrite die s
  | .completionDelivery k => Sys2Proof.Machine.execCompletionDelivery k s
  | .fillResponse k => Sys2Proof.Machine.execFillResponse k s
  | .contextEvent k => Sys2Proof.Machine.execContextEvent k s
  | .tailraceWalk k => Sys2Proof.Machine.execTailraceWalk k s
  | .reclass k => Sys2Proof.Machine.execReclass k s
  | .migrationArrival k => Sys2Proof.Machine.execMigrationArrival k s
  | .arrivalToContextL2 k => Sys2Proof.Machine.execArrivalToContextL2 k s
  | .counterIncrement k => Sys2Proof.Machine.execCounterIncrement k s
  | .sleepWake cl k => Sys2Proof.Machine.execSleepWake cl k s
  | .hostAddrPoll vf index => Sys2Proof.Machine.execHostAddrPoll vf index s
  | .contextFetch vf index => Sys2Proof.Machine.execContextFetch vf index s
  | .contextLineLost vf index => Sys2Proof.Machine.execContextLineLost vf index s
  | .probeAnswer core way => Sys2Proof.Machine.execProbeAnswer core way s
  | .fenceDrain core way => Sys2Proof.Machine.execFenceDrain core way s
  | .contextEviction core way => Sys2Proof.Machine.execContextEviction core way s
  | .watchDelivery core way => Sys2Proof.Machine.execWatchDelivery core way s
  | .storeQueuePerform core k => Sys2Proof.Machine.execStoreQueuePerform core k s
  | .stage1Walk cl k => Sys2Proof.Machine.execStage1Walk cl k s
  | .llcMiss vf line write victim => Sys2Proof.Machine.execLlcMiss vf line write victim s
  | .pageResponse tag gen fatal => Sys2Proof.Machine.execPageResponse tag gen fatal s
  | .dirLoadMiss vf line core m => Sys2Proof.Machine.execDirLoadMiss vf line core m s
  | .dirStoreOwnership vf line core m => Sys2Proof.Machine.execDirStoreOwnership vf line core m s
  | .dirWriteBack vf line core m => Sys2Proof.Machine.execDirWriteBack vf line core m s
  | .dirCoreEvict vf line core => Sys2Proof.Machine.execDirCoreEvict vf line core s
  | .hostRead by_ hpa => Sys2Proof.Machine.execHostRead by_ hpa s
  | .hostWrite by_ hpa n v => Sys2Proof.Machine.execHostWrite by_ hpa n v s
  | .frameAssign frame vf gfn ro => Sys2Proof.Machine.execFrameAssign frame vf gfn ro s
  | .frameRelease frame => Sys2Proof.Machine.execFrameRelease frame s
  | .frameScrubDone frame => Sys2Proof.Machine.execFrameScrubDone frame s
  | .contextPull core => Sys2Proof.Machine.execContextPull core s
  | .faultHandlerStart core => Sys2Proof.Machine.execFaultHandlerStart core s
  | .messageHandlerStart core => Sys2Proof.Machine.execMessageHandlerStart core s
  | .vfSwitchSweep core => Sys2Proof.Machine.execVfSwitchSweep core s
  | .scratchpadScrub core => Sys2Proof.Machine.execScratchpadScrub core s
  | .scratchpadScrubEnd core => Sys2Proof.Machine.execScratchpadScrubEnd core s
  | .contextWriteBack cl set => Sys2Proof.Machine.execContextWriteBack cl set s
  | .arrivalAck cl seq => Sys2Proof.Machine.execArrivalAck cl seq s
  | .replayTimeout cl seq => Sys2Proof.Machine.execReplayTimeout cl seq s
  | .replayRecordError cl seq => Sys2Proof.Machine.execReplayRecordError cl seq s
  | .launchDelivery vf rcb => Sys2Proof.Machine.execLaunchDelivery vf rcb s
  | .rcbAdmit vf rcb => Sys2Proof.Machine.execRcbAdmit vf rcb s
  | .rcbFinish vf rcb => Sys2Proof.Machine.execRcbFinish vf rcb s
  | .cycleBudgetAbort vf rcb => Sys2Proof.Machine.execCycleBudgetAbort vf rcb s
  | .deadlinePass vf rcb => Sys2Proof.Machine.execDeadlinePass vf rcb s
  | .messageArrival core k => Sys2Proof.Machine.execMessageArrival core k s
  | .qtailDoorbell vf q v => Sys2Proof.Machine.execQtailDoorbell vf q v s
  | .wqLaunch vf q => Sys2Proof.Machine.execWqLaunch vf q s
  | .wqGang vf q => Sys2Proof.Machine.execWqGang vf q s
  | .wqEntryPoll vf q => Sys2Proof.Machine.execWqEntryPoll vf q s
  | .wqEntryTimeout vf q => Sys2Proof.Machine.execWqEntryTimeout vf q s
  | .errClear vf q => Sys2Proof.Machine.execErrClear vf q s
  | .sliceEnd node => Sys2Proof.Machine.execSliceEnd node s
  | .split node => Sys2Proof.Machine.execSplit node s
  | .merge node => Sys2Proof.Machine.execMerge node s
  | .fmUnbind node => Sys2Proof.Machine.execFmUnbind node s
  | .gangReady gang member => Sys2Proof.Machine.execGangReady gang member s
  | .gangAbort gang member => Sys2Proof.Machine.execGangAbort gang member s
  | .gangReadyDeadline gang => Sys2Proof.Machine.execGangReadyDeadline gang s
  | .gangStart gang => Sys2Proof.Machine.execGangStart gang s
  | .filterRun die k => Sys2Proof.Machine.execFilterRun die k s
  | .yarrowTickEvent die vf slot => Sys2Proof.Machine.execYarrowTickEvent die vf slot s
  | .vfNodeWrite vf node => Sys2Proof.Machine.execVfNodeWrite vf node s
  | .ctxSegmentWrite vf len v => Sys2Proof.Machine.execCtxSegmentWrite vf len v s
  | .bankMaskWrite vf lcluster keep => Sys2Proof.Machine.execBankMaskWrite vf lcluster keep s
  | .vfReset vf => Sys2Proof.Machine.execVfReset vf s
  | .fvClear vf => Sys2Proof.Machine.execFvClear vf s
  | .fmBind node port => Sys2Proof.Machine.execFmBind node port s
  | .parityError cl port => Sys2Proof.Machine.execParityError cl port s
  | .linkRetrain link ok => Sys2Proof.Machine.execLinkRetrain link ok s
  | .patrolScrub place v => Sys2Proof.Machine.execPatrolScrub place v s
  | .wassign => Sys2Proof.Machine.execWassign s
  | .setw => Sys2Proof.Machine.execSetw s
  | .stage image => Sys2Proof.Machine.execStage image s
  | .commit => Sys2Proof.Machine.execCommit s
  | .attest => Sys2Proof.Machine.execAttest s
  | .setsec => Sys2Proof.Machine.execSetsec s
  | .moduleReset => Sys2Proof.Machine.execModuleReset s
  | .powerLoss => Sys2Proof.Machine.execPowerLoss s
  | .globalTick => Sys2Proof.Machine.execGlobalTick s
  | .tickUnsynchronised => Sys2Proof.Machine.execTickUnsynchronised s
  | .mgmtSession cert => Sys2Proof.Machine.execMgmtSession cert s
  | .powerCapWrite w => Sys2Proof.Machine.execPowerCapWrite w s
  | .throttleLevelChange die r => Sys2Proof.Machine.execThrottleLevelChange die r s
  | .thermalTrip r => Sys2Proof.Machine.execThermalTrip r s
  | .cxlPortDown port => Sys2Proof.Machine.execCxlPortDown port s
  | .registerWrite r v => Sys2Proof.Machine.execRegisterWrite r v s
  | .illegalEncoding f => Sys2Proof.Machine.execIllegalEncoding f s
  | .partialCommandAbandon core way port => Sys2Proof.Machine.execPartialCommandAbandon core way port s
  | .linkRetry found => Sys2Proof.Machine.execLinkRetry found s

end Sys2Proof.Machine
end

