-- ==== Sys2Proof/Machine/Turn.lean ====
section
/-! DEFINITION. Turn: the next instruction of a context, the selection of the slot table (R338, R105), and the machine's
own choice of who moves next where R429 leaves it open (log 1). -/
namespace Sys2Proof.Machine

/-! ## One context's next instruction -/

/-- The pointer through which an instruction of a line accesses memory; none for one that accesses none, or on-chip memory
alone. -/
def accessPointer (l : Line) : Instr → Option Word
  | .ldzB p _ a b | .ldsB p _ a b | .stB p _ a b => some (dispPtr p (l.reg a) b 1)
  | .ldzH p _ a b | .ldsH p _ a b | .stH p _ a b => some (dispPtr p (l.reg a) b 2)
  | .ldzW p _ a b | .ldsW p _ a b | .stW p _ a b => some (dispPtr p (l.reg a) b 4)
  | .ldD p _ a b | .stD p _ a b => some (dispPtr p (l.reg a) b 8)
  | .ldfe p _ a b | .ldff p _ a b | .stfe p _ a b | .stef p _ a b | .feRd p _ a b => some (dispPtr p (l.reg a) b 8)
  | .feSet p a b | .feClr p a b => some (dispPtr p (l.reg a) b 8)
  | .waddrEq _ a _ | .waddrNe _ a _ | .barArrive _ a | .barWait _ a _ | .joinDec _ a | .joinWait _ a => some (l.reg a)
  | .amoAdd _ _ _ a _ | .amoAnd _ _ _ a _ | .amoOr _ _ _ a _ | .amoXor _ _ _ a _ | .amoMin _ _ _ a _
  | .amoMax _ _ _ a _ | .amoMinn _ _ _ a _ | .amoMaxn _ _ _ a _ | .amoSwap _ _ _ a _ | .amoCas _ _ _ a _ => some (l.reg a)
  | .redAdd _ _ a _ | .redRd _ _ _ a => some (l.reg a)
  | _ => none

/-- The micro-TLB entry that an instruction's access used becomes its core's most recently used one (R346). -/
def State.usedData (s : State) (c w : Nat) (sl : Slot) (i : Instr) : State :=
  match accessPointer sl.line i with
  | none => s
  | some q =>
    let g := sl.seg (ptrSeg q)
    if g.type.onChip || (s.core c).tlb.isEmpty || !(i.use.all fun u => guardHolds u.1 sl.line) then s
    else s.usedTlb c w sl.line.vfid.toNat (g.base + ptrOff q)

/-- An instruction issues: it counts and has its effect, and the context's next one is no earlier than a class A latency on, be it
that this one waits or traps (R86); none where a core's resource holds it back (R128, R137, R160,
R169, R190, R209, R213, R396), so that its slot is the same after as before. -/
def issueInstr (s : State) (c w : Nat) (sl : Slot) (i : Instr) : Option Out :=
  let s1 := s.prepare c w sl
  match exec i s1 with
  | .next t =>
    if t.slot? c w = s1.slot? c w then none
    else some (.next ((t.notBefore c w sl.who (s.coreCycle c + latA)).usedData c w sl i))
  | o => some o

/-- The context in a way takes its turn: its boundary, its segment registers, the fetch of its instruction, and the
instruction, with whether an instruction issued; none when it is not issuable or is held back. -/
def runContext (s : State) (c w : Nat) : Option (Bool × Out) :=
  match s.slot? c w with
  | none => none
  | some sl0 =>
    if !s.issuable c w sl0 then none
    else
      let s0 : State := { s with run := (c, w) }
      match s0.boundary c w sl0 with
      | some s1 => some (false, .next s1)
      | none =>
        match s0.loadSegs sl0 with
        | .error a => some (false, segsStage2 s0 sl0 a)
        | .ok sl =>
          let s1 := (s0.touchSet sl0).putSlot c w sl
          match s1.fetchInstr c w sl with
          | .instr i s2 => (issueInstr s2 c w sl i).map fun o => (true, o)
          | .bad f s2 => some (false, execIllegalEncoding f s2)
          | .miss a off got s2 => some (false, fetchMiss s2 sl a off got)
          | .stage2 loc off got s2 => some (false, fetchStage2 s2 sl loc off got)

/-! ## The slot table (R202, R338, R339) -/

/-- Selectable ways of a core, least recently issued first: a way with its slot. -/
def insertWay (e : Nat × Slot) : List (Nat × Slot) → List (Nat × Slot)
  | [] => [e]
  | f :: t => if e.2.lastIssue < f.2.lastIssue then e :: f :: t else f :: insertWay e t

def State.selectableWays (s : State) (c : Nat) : List (Nat × Slot) :=
  ((s.core c).ways.filter fun e => s.issuable c e.1 e.2 || s.switchesOut c e.1).foldl (fun acc e => insertWay e acc) []

/-- The ways that the entry of this cycle of the core would select, in order of preference: a yielding context only after
every other one (R105). -/
def State.slotOrder (s : State) (c : Nat) : List Nat :=
  let now := s.coreCycle c
  let all := s.selectableWays c
  let awake := all.filter fun e => e.2.yieldUntil ≤ now
  let asleep := all.filter fun e => now < e.2.yieldUntil
  let any := (awake ++ asleep).map Prod.fst
  let hnd := (awake.map Prod.fst).filter fun w => 60 ≤ w
  let e := ((s.core c).sltcur[now % 32]?).getD 0
  let way := (e.extractLsb' 0 6).toNat
  match (e.extractLsb' 6 2).toNat with
  | 0 => any
  | 1 => hnd ++ any
  | _ => if 60 ≤ way then hnd ++ any else ((awake.map Prod.fst).filter fun w => w = way) ++ any

/-- A cycle in which cores of a partition issue nothing counts event 0x0011 for the VF that holds them (R381). -/
def State.bubble (s : State) (c : Nat) : State :=
  match (s.core c).resident with
  | some v => s.count v 0x11 1
  | none => s

/-- The selected way takes its turn: its line leaves, or its context runs. -/
def takeTurn (s : State) (c w : Nat) : Option Out :=
  if s.switchesOut c w then some (.next ((s.evict c w).bubble c))
  else
    match runContext s c w with
    | none => none
    | some (false, .next t) => some (.next (t.bubble c))
    | some (_, o) => some o

/-- A core's issue slot in a cycle is taken. -/
def State.slotTaken (s : State) (c : Nat) : State := s.setCore c { s.core c with slotCycle := s.cycle + 1 }

/-- What a core's issue slot comes to: the first way in the order of its entry that nothing holds back, and its turn. -/
def coreSlot (s : State) (c : Nat) : Option (Nat × Out) :=
  (s.slotOrder c).findSome? fun w => (takeTurn s c w).map fun o => (w, o)

/-- A core's turn in a cycle. -/
def coreTurn (s : State) (c : Nat) : Out :=
  match coreSlot (s.slotTaken c) c with
  | some (_, o) => o
  | none => .next ((s.slotTaken c).bubble c)

/-- Whether a die's cores have a cycle in this nominal one: three of four at level 1, one of two at level 2 (R424). -/
def State.clocked (s : State) (d : Nat) : Bool :=
  match (s.die d).throttle with
  | 1 => s.cycle % 4 ≠ 3
  | 2 => s.cycle % 2 = 0
  | _ => true

/-- A core whose die has this cycle and that has not had its issue slot in it. -/
def State.hasSlot (s : State) (c : Nat) : Bool := (s.core c).slotCycle ≤ s.cycle && s.clocked (dieOf c)

/-- The turn that the agenda gives a way: its core's issue slot, if that is still to come in this cycle and the way is the one
that it selects (R86, R338). -/
def issueTurn (s : State) (c w : Nat) : Out :=
  if s.platform.power ≠ .on || !s.hasSlot c then .next s
  else
    match coreSlot (s.slotTaken c) c with
    | some (w', o) => if w' = w then o else .next s
    | none => .next s

/-- The first core that holds a line and has not had its issue slot in this cycle. -/
def State.nextCore (s : State) : Option Nat := (s.cores.find? fun e => !e.2.ways.isEmpty && s.hasSlot e.1).map Prod.fst

/-- Cores of a node that had no turn in this cycle. -/
def State.idleCores (s : State) (node : Nat) : Nat :=
  let all := ((List.range 4).filter s.clocked).foldl (fun n d =>
    let lo := Nat.max (firstLeaf node) (16 * d)
    let hi := Nat.min (firstLeaf node + nodeLeaves node) (16 * d + 16)
    n + 64 * (hi - lo)) 0
  all - (s.cores.filter fun e => s.cycle < e.2.slotCycle && inNode node (clusterOf e.1)).length

/-- Cycles of a tick at the nominal clock (R423, R424). -/
def cyclesPerTick : Nat := 3

/-- The cycles that the dies' throttle levels skip. -/
def State.skipped (s : State) : State :=
  { s with dies := s.dies.map fun e => if s.clocked e.1 then e else (e.1, { e.2 with skipped := e.2.skipped + 1 }) }

/-- The end of a cycle; every third one advances the tick. -/
def endCycle (s : State) : Out :=
  let s1 := s.parts.foldl (fun s e =>
    match e.2.resident with
    | some v => s.count v 0x11 (s.idleCores e.1)
    | none => s) s
  let s2 : State := { s1.skipped with cycle := s1.cycle + 1 }
  if s2.cycle % cyclesPerTick = 0 then execGlobalTick s2 else .next s2

/-! ## Moves that nothing outside asks for (log 1) -/

/-- A step of the device that may be due. -/
abbrev Move := State → Out

/-- Moves of contexts and of the memory system. -/
def State.contextMoves (s : State) : List Move :=
  (List.range s.events.length).map execContextEvent
    ++ (List.range s.fills.length).map execFillResponse
    ++ s.cores.flatMap (fun e => (List.range e.2.stores.length).map (execStoreQueuePerform e.1))
    ++ s.cores.flatMap (fun e => e.2.ways.flatMap fun x =>
        [execProbeAnswer e.1 x.1, execFenceDrain e.1 x.1, execWatchDelivery e.1 x.1]
          ++ match x.2.who with
            | .ctx v i => [endedMove v i]
            | .handler _ _ _ _ => [])
    ++ s.clusters.flatMap (fun e =>
        (List.range e.2.walks.length).map (execStage1Walk e.1))
    ++ [execReclass 0, placeMove, strayMove]
    ++ (List.range s.rangeWalks.length).map execTailraceWalk
    ++ (s.cores.map fun e => clusterOf e.1).eraseDups.flatMap (fun cl =>
        (List.range (s.sleepers cl).length).map (execSleepWake cl))
    ++ s.waiters.filterMap (fun w => match w.who, w.poll with
        | .ctx v i, some _ => some (execHostAddrPoll v i)
        | _, _ => none)

/-- Moves of lines between cores, clusters and memory, and the starts of handlers. -/
def State.lineMoves (s : State) : List Move :=
  s.cores.flatMap (fun e =>
      (e.2.ways.filter fun x => e.2.ordinary ≤ x.1).map (fun x => execContextEviction e.1 x.1)
        ++ (List.range e.2.outbound.length).map (execMessageArrival e.1)
        ++ [execFaultHandlerStart e.1, execMessageHandlerStart e.1, execContextPull e.1]
        ++ e.2.pulls.map (fun q => execContextFetch q.1 q.2.1)
        ++ e.2.buffers.flatMap (fun b => e.2.ways.map fun x => execPartialCommandAbandon e.1 x.1 b.1)
        ++ [execVfSwitchSweep e.1, execScratchpadScrub e.1, execScratchpadScrubEnd e.1])
    ++ (List.range s.packets.length).flatMap (fun k => [execMigrationArrival k, execArrivalToContextL2 k])
    ++ s.clusters.flatMap (fun e =>
        [lineWriteBack e.1, execClusterMemoryFill e.1, execClusterMemoryFillEnd e.1]
          ++ e.2.replay.flatMap fun r => [execArrivalAck e.1 r.seq, execReplayTimeout e.1 r.seq])

/-- Moves of the engines, their completions, Yarrow and the counters. -/
def State.engineMoves (s : State) : List Move :=
  s.clusters.flatMap (fun e =>
      (List.range e.2.held.length).map (execMmRowAdvance e.1)
        ++ ((e.2.queues.filter fun c => c.port = portMm).map Cmd.src).eraseDups.flatMap (fun src =>
            [execMmFmt e.1 src, execMmMul e.1 src])
        ++ [execSlGather e.1, execSlScatter e.1, execSlScatadd e.1, execFlCopy e.1, execFlFill e.1, execBoTopk e.1,
            execBoMerge e.1])
    ++ (List.range s.transit.length).map execCompletionDelivery
    ++ s.dies.flatMap (fun e =>
        [execQnBag e.1, execYwLoad e.1, execYwAttach e.1, execYwDetach e.1, execYwDump e.1, execTriggerWrite e.1,
          execYarrowBudgetWindow e.1]
          ++ (List.range e.2.events.length).map (execFilterRun e.1)
          ++ e.2.filters.map fun f => execYarrowTickEvent e.1 (f.1 / 8) (f.1 % 8))
    ++ (List.range s.increments.length).map execCounterIncrement

/-- Moves of Headrace and of a slice's end. -/
def State.headraceMoves (s : State) : List Move :=
  s.pool.map (fun e => execRcbAdmit e.vf e.child)
    ++ s.rcbs.flatMap (fun r => [execRcbAdmit r.vf r.addr, execRcbFinish r.vf r.addr, execCycleBudgetAbort r.vf r.addr,
        execDeadlinePass r.vf r.addr, execLaunchDelivery r.vf r.addr])
    ++ s.ancestors.map (fun r => execCycleBudgetAbort r.vf r.addr)
    ++ s.vfs.flatMap (fun e => e.2.queues.flatMap fun q =>
        [execWqEntryTimeout e.1 q.1, execWqEntryPoll e.1 q.1, execWqLaunch e.1 q.1, execWqGang e.1 q.1])
    ++ s.gangs.flatMap (fun g => [execGangReady g.id s.platform.device, execGangReadyDeadline g.id, execGangStart g.id])
    ++ s.parts.map (fun e => execSliceEnd e.1)

/-- The contexts of a cluster whose next instruction a full replay store holds back: it would issue with a record free
(R396). -/
def State.heldSends (s : State) (cl : Nat) : List Who :=
  let k := s.cluster cl
  if !k.full then []
  else
    let free := s.setCluster cl { k with replay := [] }
    s.cores.flatMap fun e =>
      if clusterOf e.1 ≠ cl then []
      else e.2.ways.filterMap fun x =>
        if (runContext s e.1 x.1).isNone && (runContext free e.1 x.1).isSome then some x.2.who else none

/-- The contexts of a cluster whose launch delivery a full replay store holds (R396). -/
def State.heldLaunches (s : State) (cl : Nat) : List Who :=
  if !(s.cluster cl).full then []
  else (s.rcbs.filter fun r => s.mayLaunch r && s.launchCluster r = cl && !s.launchBusy r).map fun r => .ctx r.vf (r.ibase + r.next)

/-- A send newly held at a full replay store counts (R401). -/
def noteHeldSends (cl : Nat) (s : State) : Out :=
  let k := s.cluster cl
  let now := s.heldSends cl ++ s.heldLaunches cl
  let s1 := s.setCluster cl { k with blocked := now }
  if now = k.blocked then .next s
  else .next ((now.filter fun w => !k.blocked.contains w).foldl (fun s w => s.hyper (s.nodeOf w.vf) ctrHeld) s1)

/-- Moves of the frame table's scrubs, of the mailbox and of the count of held sends. -/
def State.platformMoves (s : State) : List Move :=
  (s.frames.filter fun e => e.2.state = 2).map (fun e => execFrameScrubDone e.1)
    ++ [execWassign, execSetw, execStage [], execCommit, execAttest, execSetsec]
    ++ s.clusters.map fun e => noteHeldSends e.1

/-- The first move that changes the machine. -/
def firstMove (s : State) : List Move → Option Out
  | [] => none
  | m :: ms =>
    match m s with
    | .next t => if t = s then firstMove s ms else some (.next t)
    | o => some o

/-- The operations that reach a module held in reset: its reset, its sensors, and the ways into Sorrel (R411, R420, R422). -/
def reachesHeld : Instr → Bool
  | .moduleReset | .powerLoss | .thermalTrip _ | .throttleLevelChange _ _ | .mgmtSession _ | .powerCapWrite _
  | .registerWrite _ _ | .wassign | .setw | .stage _ | .commit | .attest | .setsec => true
  | _ => false

/-- Whether an operation of the agenda takes place: an encoded instruction runs in its context's issue slot alone (R86); in a
module held in reset, Sorrel alone acts, and one without power is switched on or stays as it is (R411, R422, R424). -/
def State.takes (s : State) (i : Instr) : Bool :=
  let outside := i.use.isNone && !(i matches .illegalEncoding _)
  match s.platform.power with
  | .on => outside
  | .heldInReset => reachesHeld i
  | .off => i matches .moduleReset

/-- What the device does on its own in this cycle, in a fixed order. -/
def State.dueMove (s : State) : Option Out :=
  firstMove s (s.contextMoves ++ s.lineMoves ++ s.engineMoves ++ s.headraceMoves ++ s.platformMoves)

end Sys2Proof.Machine
end

