-- ==== Sys2Proof/Machine/Step.lean ====
section
/-! DEFINITION. Step: one step of the machine, and the state in which the next step runs a given instruction. -/
namespace Sys2Proof.Machine

/-- The machine's own move with no turn waiting: a move of the device that is due, else a core's issue slot, else the end of
the cycle. A module held in reset waits; one without power does not move. -/
def ownTurn (s : State) : Out :=
  match s.platform.power with
  | .off => .fault .noPower
  | .heldInReset => .next s
  | .on =>
    match s.dueMove with
    | some o => o
    | none =>
      match s.nextCore with
      | some c => coreTurn s c
      | none => endCycle s

/-- One step: the first turn of the agenda, else the machine's own move. -/
def step (s : State) : Host.Outcome State Fault Refusal :=
  match s.agenda with
  | .op i :: t => if s.takes i then exec i { s with agenda := t } else .next { s with agenda := t }
  | .issue c w :: t => issueTurn { s with agenda := t } c w
  | .chips b :: t => .next { s with agenda := t, platform := { s.platform with chips := b } }
  | [] => ownTurn s

/-- The segment register that a placed instruction is fetched through: CODE, base 0, limit 2^48, x. -/
def placedCode : Seg := Seg.mk true 0 (2 ^ 48) false false true false false .code

/-- The context of a placed instruction: VF 0, index 0, a fresh line, pc 0. -/
def placedSlot : Slot :=
  Slot.mk Line.blank (.ctx 0 0) (placedCode :: List.replicate 7 Seg.invalid) true 0 0 false 0 none false 0

/-- Parcels of a word of the opcode table, padded with zeros to the longest instruction. -/
def placedParcels (nbits w : Nat) : List Parcel := parcelsOfNat 5 (w % 2 ^ nbits)

/-- `s` with an instruction in the code of context 0 of VF 0, in way 0 of core 0, which has no other line, and whose turn is next (log 16). -/
def State.withFetchWord (s : State) (nbits w : Nat) : State :=
  let data := (placedParcels nbits w).foldr (fun p acc => p.toNat + 65536 * acc) 0
  let line := LlcLine.mk 0 0 (BitVec.ofNat 512 data) 0xFF 0 0 false false Dir.empty none
  let k := s.core 0
  { s with
    agenda := [.issue 0 0]
    cores := s.cores.set 0 { k with
      ways := [(0, placedSlot)], cl1lim := 64, fetch := [], resident := some 0, switchAt := none, slotCycle := 0 }
    dies := s.dies.map fun e => (e.1, { e.2 with throttle := 0 })
    vfs := s.vfs.set 0 { s.vf 0 with node := 1, st := 1, s1en := false }
    ctxs := s.ctxs.set 0 (Ctx.mk (.l1 0 0) 0 none false none false none)
    llc := [line]
    platform := { s.platform with power := .on } }

end Sys2Proof.Machine
end

