-- ==== Sys2Proof/Safety.lean ====
section
/-! DEFINITION. Safety: what a sound state of the machine is, in the terms that the statements use. -/
namespace Sys2Proof.Machine

/-- A context line as every writer leaves it: p0 is 1 (R14), bits [15:10] of fcsr are 0 (R14, R95), bit 0 of the loop
offsets is 0 (R96), and the wait kind is one that R22 assigns. -/
def Line.legal (l : Line) : Prop :=
  l.pw.getLsbD 0 = true ∧ l.fcsr.extractLsb' 10 6 = 0 ∧ l.lb0.getLsbD 0 = false ∧ l.le0.getLsbD 0 = false
    ∧ l.lb1.getLsbD 0 = false ∧ l.le1.getLsbD 0 = false
    ∧ l.wt ≠ .reserved13 ∧ l.wt ≠ .reserved14 ∧ l.wt ≠ .reserved15

/-- The module is without power: the only state in which a step stops. -/
def State.dark (s : State) : Prop := s.platform.power = .off

/-- A step that stops: it answers a fault or a refusal. -/
def Stops (s : State) : Prop := ∀ t, step s ≠ .next t

end Sys2Proof.Machine
end

