-- ==== Sys2Proof/Certificates/Slice0/Obligations.lean ====
section
/-! DEFINITION. The statements for the provers. `Claims` holds what they share: the conditions under which an instruction
runs, the state that a completed instruction leaves, and the values that the manual's tables give, written again from
those tables and not taken from the meanings. -/
namespace Sys2Proof.Claims
open Sys2Proof.Machine

/-! ## Completion -/

/-- A context issues: its line is in the issuing way, its guard holds (R68), and single-step is off (R16). -/
structure Ready (s : State) (sl : Slot) (p : Pre) : Prop where
  here : s.cur? = some sl
  guard : guardHolds p sl.line = true
  free : sl.line.step = false

/-- The state after an instruction that completes without a branch and leaves `l` in the line: pc and loop counts move
by R101, the context may issue again `lat` cycles later, and nothing else of the machine changes. -/
def after (s : State) (sl : Slot) (i : Instr) (l : Line) (lat : Nat) : State :=
  s.putCur { sl with line := l.fire i, readyAt := s.coreCycle s.run.1 + lat, held := none }

/-- The state after a taken branch that leaves `l` in the line, pc already at its target. -/
def branched (s : State) (sl : Slot) (l : Line) (lat : Nat) : State :=
  s.putCur { sl with line := l, readyAt := s.coreCycle s.run.1 + lat, held := none }

/-- The state after the context traps at an instruction, pc at it (R278). -/
def trapped (s : State) (sl : Slot) (i : Instr) (cause : BitVec 16) (tval : Word) : State :=
  s.takeTrap s.run.1 s.run.2 sl cause tval i.tinfo (accCode i)

/-- The state after the context takes a wait, pc at the instruction (R21). -/
def waiting (s : State) (sl : Slot) (kind : WaitKind) (arg : BitVec 28) : State :=
  (s.abandon s.run.1 sl.who).putCur { sl with line := { sl.line with wt := kind, wtArg := arg }, held := none }

/-! ## Integer arithmetic (R88 to R94) -/

/-- What R88 gives for each form: destination, sources, the number that g[d] takes modulo 2^64, and the latency. -/
def intForm (i : Instr) : Option (Pre × BitVec 3 × BitVec 3 × BitVec 3 × (Word → Word → Int) × Nat) :=
  match i with
  | .add p d a b => some (p, d, a, b, fun x y => x.toNat + y.toNat, 8)
  | .sub p d a b => some (p, d, a, b, fun x y => (x.toNat : Int) - y.toNat, 8)
  | .and p d a b => some (p, d, a, b, fun x y => (x.toNat &&& y.toNat : Nat), 8)
  | .or p d a b => some (p, d, a, b, fun x y => (x.toNat ||| y.toNat : Nat), 8)
  | .xor p d a b => some (p, d, a, b, fun x y => (x.toNat ^^^ y.toNat : Nat), 8)
  | .shl p d a b => some (p, d, a, b, fun x y => (x.toNat * 2 ^ (y.toNat % 64) : Nat), 8)
  | .shr p d a b => some (p, d, a, b, fun x y => (x.toNat / 2 ^ (y.toNat % 64) : Nat), 8)
  | .sar p d a b => some (p, d, a, b, fun x y => x.toInt / 2 ^ (y.toNat % 64), 8)
  | .mul p d a b => some (p, d, a, b, fun x y => x.toInt * y.toInt, 11)
  | .mulh p d a b => some (p, d, a, b, fun x y => x.toInt * y.toInt / 2 ^ 64, 11)
  | .mulhn p d a b => some (p, d, a, b, fun x y => (x.toNat : Int) * y.toNat / 2 ^ 64, 11)
  | .min p d a b => some (p, d, a, b, fun x y => Min.min x.toInt y.toInt, 8)
  | .max p d a b => some (p, d, a, b, fun x y => Max.max x.toInt y.toInt, 8)
  | .minn p d a b => some (p, d, a, b, fun x y => Min.min (x.toNat : Int) y.toNat, 8)
  | .maxn p d a b => some (p, d, a, b, fun x y => Max.max (x.toNat : Int) y.toNat, 8)
  | .andn p d a b => some (p, d, a, b, fun x y => (x.toNat &&& (2 ^ 64 - 1 - y.toNat) : Nat), 8)
  | _ => none

/-- What R89, R90 and R92 to R94 give for each form: destination, and the number it takes modulo 2^64. -/
def moveForm (i : Instr) (l : Line) : Option (Pre × BitVec 3 × Int) :=
  match i with
  | .addi p d a imm => some (p, d, (l.reg a).toNat + p.imm imm)
  | .movi p d imm => some (p, d, p.imm imm)
  | .andi p d a imm => some (p, d, ((l.reg a).toNat &&& (p.imm imm % 2 ^ 64).toNat : Nat))
  | .shli p d a sh => some (p, d, (l.reg a).toNat * 2 ^ (p.immU sh % 64).toNat)
  | .shri p d a sh => some (p, d, (l.reg a).toNat / 2 ^ (p.immU sh % 64).toNat)
  | .sari p d a sh => some (p, d, (l.reg a).toInt / 2 ^ (p.immU sh % 64).toNat)
  | .rori p d a sh =>
    let k := (p.immU sh % 64).toNat
    some (p, d, (l.reg a).toNat / 2 ^ k + (l.reg a).toNat * 2 ^ (64 - k))
  | .mov p d a => some (p, d, (l.reg a).toNat)
  | .rdp p d => some (p, d, (l.pw.toNat ||| 1 : Nat))
  | _ => none

/-- What R91 gives for each compare: predicate, sources and condition. -/
def cmpForm (i : Instr) : Option (Pre × Nat × BitVec 3 × BitVec 3 × (Word → Word → Bool)) :=
  match i with
  | .cmpEq p d a b => some (p, d.toNat, a, b, fun x y => x.toNat = y.toNat)
  | .cmpNe p d a b => some (p, d.toNat, a, b, fun x y => x.toNat ≠ y.toNat)
  | .cmpLt p d a b => some (p, d.toNat, a, b, fun x y => x.toInt < y.toInt)
  | .cmpGe p d a b => some (p, d.toNat, a, b, fun x y => y.toInt ≤ x.toInt)
  | .cmpLo p d a b => some (p, d.toNat, a, b, fun x y => x.toNat < y.toNat)
  | .cmpHs p d a b => some (p, d.toNat, a, b, fun x y => y.toNat ≤ x.toNat)
  | .cmpTst p d a b => some (p, d.toNat, a, b, fun x y => x.toNat &&& y.toNat ≠ 0)
  | .cmpNtst p d a b => some (p, d.toNat, a, b, fun x y => x.toNat &&& y.toNat = 0)
  | .cmpxEq p q d a b => some (p, q.toNat * 8 + d.toNat, a, b, fun x y => x.toNat = y.toNat)
  | .cmpxNe p q d a b => some (p, q.toNat * 8 + d.toNat, a, b, fun x y => x.toNat ≠ y.toNat)
  | .cmpxLt p q d a b => some (p, q.toNat * 8 + d.toNat, a, b, fun x y => x.toInt < y.toInt)
  | .cmpxGe p q d a b => some (p, q.toNat * 8 + d.toNat, a, b, fun x y => y.toInt ≤ x.toInt)
  | .cmpxLo p q d a b => some (p, q.toNat * 8 + d.toNat, a, b, fun x y => x.toNat < y.toNat)
  | .cmpxHs p q d a b => some (p, q.toNat * 8 + d.toNat, a, b, fun x y => y.toNat ≤ x.toNat)
  | .cmpxTst p q d a b => some (p, q.toNat * 8 + d.toNat, a, b, fun x y => x.toNat &&& y.toNat ≠ 0)
  | .cmpxNtst p q d a b => some (p, q.toNat * 8 + d.toNat, a, b, fun x y => x.toNat &&& y.toNat = 0)
  | _ => none

/-! ## Packed lanes (R110 to R112) -/

/-- Lane `k` of a register, unsigned and signed. -/
def laneN (w k : Nat) (x : Word) : Nat := x.toNat / 2 ^ (w * k) % 2 ^ w
def laneS (w k : Nat) (x : Word) : Int :=
  if laneN w k x < 2 ^ (w - 1) then (laneN w k x : Int) else (laneN w k x : Int) - 2 ^ w

/-- The lane width of a page-2 form (R110). -/
def widthOf (w : BitVec 2) : Nat := 8 * 2 ^ w.toNat

/-- A value clamped to a range (R34). -/
def clampTo (lo hi v : Int) : Int := Max.max lo (Min.min hi v)

/-- A value clamped to signed and to unsigned lanes. -/
def clampedS (w : Nat) (v : Int) : Int := clampTo (-2 ^ (w - 1)) (2 ^ (w - 1) - 1) v
def clampedN (w : Nat) (v : Int) : Int := clampTo 0 (2 ^ w - 1) v

/-- The lane-wise forms of R110: latency, registers, width, the exact lane result of lanes `x` and `y` (unsigned values
`n`, signed values `z`), and the value it is clamped to, where the form clamps. -/
structure LaneForm where
  pre : Pre
  lat : Nat
  d : BitVec 3
  a : BitVec 3
  b : BitVec 3
  w : Nat
  exact : (xn yn : Nat) → (xs ys : Int) → Int
  clamp : Option (Int → Int)

/-- The results of R110, by operation. -/
def laneForm (i : Instr) : Option LaneForm :=
  let pa (p : Pre) (d a b : BitVec 3) (w : Nat) := LaneForm.mk p 8 d a b w (fun x y _ _ => x + y) none
  let ps (p : Pre) (d a b : BitVec 3) (w : Nat) := LaneForm.mk p 8 d a b w (fun x y _ _ => (x : Int) - y) none
  let pas (p : Pre) (d a b : BitVec 3) (w : Nat) := LaneForm.mk p 8 d a b w (fun _ _ x y => x + y) (some (clampedS w))
  let pss (p : Pre) (d a b : BitVec 3) (w : Nat) := LaneForm.mk p 8 d a b w (fun _ _ x y => x - y) (some (clampedS w))
  let pav (p : Pre) (d a b : BitVec 3) (w : Nat) := LaneForm.mk p 8 d a b w (fun x y _ _ => (x + y + 1 : Int) / 2) none
  let pml (p : Pre) (d a b : BitVec 3) (w : Nat) := LaneForm.mk p 11 d a b w (fun x y _ _ => (x : Int) * y) none
  let pmn (p : Pre) (d a b : BitVec 3) (w : Nat) := LaneForm.mk p 8 d a b w (fun _ _ x y => Min.min x y) none
  let pmx (p : Pre) (d a b : BitVec 3) (w : Nat) := LaneForm.mk p 8 d a b w (fun _ _ x y => Max.max x y) none
  match i with
  | .paddH p d a b => some (pa p d a b 16)
  | .psubH p d a b => some (ps p d a b 16)
  | .paddsH p d a b => some (pas p d a b 16)
  | .psubsH p d a b => some (pss p d a b 16)
  | .pminH p d a b => some (pmn p d a b 16)
  | .pmaxH p d a b => some (pmx p d a b 16)
  | .pmulH p d a b => some (pml p d a b 16)
  | .pavgH p d a b => some (pav p d a b 16)
  | .padd p w d a b => some (pa p d a b (widthOf w))
  | .psub p w d a b => some (ps p d a b (widthOf w))
  | .padds p w d a b => some (pas p d a b (widthOf w))
  | .psubs p w d a b => some (pss p d a b (widthOf w))
  | .pavg p w d a b => some (pav p d a b (widthOf w))
  | .pmul p w d a b => some (pml p d a b (widthOf w))
  | .pmin p w d a b => some (pmn p d a b (widthOf w))
  | .pmax p w d a b => some (pmx p d a b (widthOf w))
  | .paddn p w d a b =>
    some (LaneForm.mk p 8 d a b (widthOf w) (fun x y _ _ => x + y) (some (clampedN (widthOf w))))
  | .psubn p w d a b =>
    some (LaneForm.mk p 8 d a b (widthOf w) (fun x y _ _ => (x : Int) - y) (some (clampedN (widthOf w))))
  | .pabs p w d a => some (LaneForm.mk p 8 d a a (widthOf w) (fun _ _ x _ => |x|) (some (clampedS (widthOf w))))
  | .pmulh p w d a b => some (LaneForm.mk p 11 d a b (widthOf w) (fun _ _ x y => x * y / 2 ^ widthOf w) none)
  | .pminn p w d a b => some (LaneForm.mk p 8 d a b (widthOf w) (fun x y _ _ => Min.min (x : Int) y) none)
  | .pmaxn p w d a b => some (LaneForm.mk p 8 d a b (widthOf w) (fun x y _ _ => Max.max (x : Int) y) none)
  | .psll p w d a b => some (LaneForm.mk p 8 d a b (widthOf w) (fun x y _ _ => (x : Int) * 2 ^ y) none)
  | .psrl p w d a b => some (LaneForm.mk p 8 d a b (widthOf w) (fun x y _ _ => (x / 2 ^ y : Nat)) none)
  | .psra p w d a b => some (LaneForm.mk p 8 d a b (widthOf w) (fun _ y x _ => x / 2 ^ y) none)
  | .pcmpeq p w d a b => some (LaneForm.mk p 8 d a b (widthOf w) (fun x y _ _ => if x = y then -1 else 0) none)
  | .pcmpgt p w d a b => some (LaneForm.mk p 8 d a b (widthOf w) (fun _ _ x y => if y < x then -1 else 0) none)
  | _ => none

/-- Whether any lane of a form clamps. -/
def LaneForm.sat (f : LaneForm) (x y : Word) : Prop :=
  ∃ c, f.clamp = some c ∧ ∃ k, k < 64 / f.w ∧
    c (f.exact (laneN f.w k x) (laneN f.w k y) (laneS f.w k x) (laneS f.w k y))
      ≠ f.exact (laneN f.w k x) (laneN f.w k y) (laneS f.w k x) (laneS f.w k y)

end Sys2Proof.Claims
open Sys2Proof Sys2Proof.Machine Sys2Proof.Claims

/-- R88 to R90, R92 to R94: the integer forms, with registers or an immediate, and the moves complete with the value of
their row, modulo 2^64, in g[d] and the latency of their class. -/
def Obligations.IntegerFormsWriteTheirResult : Prop :=
  (∀ (i : Instr) (p : Pre) (d a b : BitVec 3) (f : Word → Word → Int) (lat : Nat) (s : State) (sl : Slot),
    intForm i = some (p, d, a, b, f, lat) → Ready s sl p →
      exec i s = .next (after s sl i (sl.line.setReg d (BitVec.ofInt 64 (f (sl.line.reg a) (sl.line.reg b)))) lat)) ∧
  ((∀ (i : Instr) (p : Pre) (d : BitVec 3) (v : Int) (s : State) (sl : Slot),
    moveForm i sl.line = some (p, d, v) → Ready s sl p →
      exec i s = .next (after s sl i (sl.line.setReg d (BitVec.ofInt 64 v)) 8)) ∧
  (∀ (p : Pre) (a : BitVec 3) (s : State) (sl : Slot), Ready s sl p →
    exec (.wrp p a) s = .next (after s sl (.wrp p a) { sl.line with pw := (sl.line.reg a).setWidth 32 ||| 1 } 8)) ∧
  (∀ (p : Pre) (s : State) (sl : Slot), Ready s sl p → exec (.nop p) s = .next (after s sl (.nop p) sl.line 8)) ∧
  (∀ (o : Option Order) (imms : List (BitVec 10)) (g : Guard) (d a b : BitVec 3) (s : State) (sl : Slot),
    s.cur? = some sl → sl.line.step = false →
      exec (.sel (Pre.mk (some g) o imms) d a b) s =
        .next (after s sl (.sel (Pre.mk (some g) o imms) d a b)
          (sl.line.setReg d (if sl.line.pred g.idx = decide (g.sense = 0) then sl.line.reg a else sl.line.reg b)) 8) ∧
      exec (.sel (Pre.mk none o imms) d a b) s =
        .next (after s sl (.sel (Pre.mk none o imms) d a b) (sl.line.setReg d (sl.line.reg a)) 8)))

namespace Sys2Proof.Claims
open Sys2Proof.Machine

/-! ## The other packed forms (R110) -/

/-- The sum of the signed lane products of two registers (pdot). -/
def dotLanes (w : Nat) (x y : Word) : Int := ((List.range (64 / w)).map fun k => laneS w k x * laneS w k y).sum

/-- A lane of ppack: lane `k` of its 2N source lanes, clamped signed to half the width. -/
def packSource (w k : Nat) (x y : Word) : Int := if k < 64 / w then laneS w k x else laneS w (k - 64 / w) y

/-! ## Floating point (R113 to R121) -/

/-- The bits of a source register in a format, and its exact value with FZ applied (R113). -/
def srcBits (f : BitVec 2) (w : Word) : Nat := if f = 0 then w.toNat % 2 ^ 32 else w.toNat % 2 ^ 16
def srcVal (f : BitVec 2) (l : Line) (r : BitVec 3) : FVal := (fmtOf f).decode l.fz (srcBits f (l.reg r))

/-- Width of a format (R36). -/
def fmtWidth (f : BitVec 2) : Nat := if f = 0 then 32 else 16

/-- The class bit of R119. -/
def classBit (neg : Bool) (top : Bool) (expZero fracZero quiet : Bool) : Nat :=
  match top, expZero, fracZero with
  | true, _, true => if neg then 0 else 7
  | true, _, false => if quiet then 9 else 8
  | false, true, true => if neg then 3 else 4
  | false, true, false => if neg then 2 else 5
  | false, false, _ => if neg then 1 else 6

/-- The class bit of a pattern. -/
def classOf (f : BitVec 2) (x : Nat) : Nat :=
  let g := fmtOf f
  classBit (g.sign x) (g.expField x = 2 ^ g.ew - 1) (g.expField x = 0) (g.frac x = 0) (2 ^ (g.fw - 1) ≤ g.frac x)

/-- One rounding of an exact sum or product, with the flags of an invalid operation (R116). -/
def rounded (f : BitVec 2) (l : Line) (v : FVal × BitVec 16) : Nat × BitVec 16 :=
  let r := (fmtOf f).deliver l.rm.toNat l.fz v.1
  (r.1, v.2 ||| r.2)

/-- What R116 to R119 give for each form: the destination, the bits it takes, the flags, the latency of R115. -/
def floatForm (i : Instr) (l : Line) : Option (Pre × BitVec 3 × (Nat × BitVec 16) × Nat) :=
  match i with
  | .fadd p f d a b => some (p, d, rounded f l (FVal.add l.rm.toNat (srcVal f l a) (srcVal f l b)), 12)
  | .fsub p f d a b => some (p, d, rounded f l (FVal.add l.rm.toNat (srcVal f l a) (srcVal f l b).neg), 12)
  | .fmul p f d a b => some (p, d, rounded f l (FVal.mul (srcVal f l a) (srcVal f l b)), 12)
  | .fma p f d a b =>
    let m := FVal.mul (srcVal f l a) (srcVal f l b)
    let t := FVal.add l.rm.toNat m.1 (srcVal f l d)
    some (p, d, rounded f l (t.1, m.2 ||| t.2), 12)
  | .fdiv p f d a b => some (p, d, (fmtOf f).divOp l.rm.toNat l.fz (srcVal f l a) (srcVal f l b), 28)
  | .fmin p f d a b => some (p, d, rounded f l (minMax false (srcVal f l a) (srcVal f l b)), 12)
  | .fmax p f d a b => some (p, d, rounded f l (minMax true (srcVal f l a) (srcVal f l b)), 12)
  | .fsqrt p f d a => some (p, d, viaF32 (fmtOf f) l.rm.toNat l.fz (sqrt32 l.rm.toNat l.fz) (srcBits f (l.reg a)), 28)
  | .exp2 p f d a => some (p, d, viaF32 (fmtOf f) l.rm.toNat l.fz (exp2_32 l.rm.toNat l.fz) (srcBits f (l.reg a)), 20)
  | .log2 p f d a => some (p, d, viaF32 (fmtOf f) l.rm.toNat l.fz (log2_32 l.rm.toNat l.fz) (srcBits f (l.reg a)), 20)
  | .rcp p f d a => some (p, d, viaF32 (fmtOf f) l.rm.toNat l.fz (rcp32 l.rm.toNat l.fz) (srcBits f (l.reg a)), 20)
  | .rsqrt p f d a =>
    some (p, d, viaF32 (fmtOf f) l.rm.toNat l.fz (rsqrt32 l.rm.toNat l.fz) (srcBits f (l.reg a)), 20)
  | .fabs p f d a => some (p, d, (srcBits f (l.reg a) % 2 ^ (fmtWidth f - 1), 0), 8)
  | .fneg p f d a =>
    let x := srcBits f (l.reg a)
    let top := 2 ^ (fmtWidth f - 1)
    some (p, d, (if x < top then x + top else x - top, 0), 8)
  | .fclass p f d a => some (p, d, (2 ^ classOf f (srcBits f (l.reg a)), 0), 8)
  | .fcvt p src d a dst =>
    let r := convert (tagFmt src) (tagFmt dst) l.rm.toNat l.fz (fcvtScale p) (l.reg a).toNat
    some (p, d, (r.1.toNat, r.2), 12)
  | _ => none

/-- What R120 gives for each compare: the predicate, the condition and whether NV is set. -/
def fcmpForm (i : Instr) (l : Line) : Option (Pre × Nat × Bool × Bool) :=
  let go (p : Pre) (q f : BitVec 2) (d a b : BitVec 3) (quiet : Bool) (c : FVal → FVal → Bool) :=
    let x := srcVal f l a
    let y := srcVal f l b
    some (p, q.toNat * 8 + d.toNat, c x y, if quiet then x.signals || y.signals else x.isNaN || y.isNaN)
  match i with
  | .fcmpEq p q f d a b => go p q f d a b true fun x y => !x.isNaN && !y.isNaN && x.eqv y
  | .fcmpLt p q f d a b => go p q f d a b false fun x y => !x.isNaN && !y.isNaN && x.lt y
  | .fcmpLe p q f d a b => go p q f d a b false fun x y => !x.isNaN && !y.isNaN && !y.lt x
  | .fcmpUn p q f d a b => go p q f d a b true fun x y => x.isNaN || y.isNaN
  | _ => none

/-! ## Special registers (R95) -/

/-- What rdsr gives. -/
def srValue (sl : Slot) (sr : BitVec 3) : Nat :=
  match sr.toNat with
  | 0 => sl.line.fcsr.toNat % 1024
  | 1 => sl.line.lb0.toNat / 2 * 2
  | 2 => sl.line.le0.toNat / 2 * 2
  | 3 => sl.line.lc0.toNat
  | 4 => sl.line.lb1.toNat / 2 * 2
  | 5 => sl.line.le1.toNat / 2 * 2
  | 6 => sl.line.lc1.toNat
  | _ => match sl.who with
    | .ctx v i => v * 2 ^ 40 + i
    | .handler _ _ _ _ => 2 ^ 64 - 1

/-- The line that wrsr leaves before the loop check. -/
def srWritten (l : Line) (sr : BitVec 3) (w : Word) : Line :=
  let half : BitVec 32 := BitVec.ofNat 32 (w.toNat % 2 ^ 32)
  let even : BitVec 32 := BitVec.ofNat 32 (w.toNat % 2 ^ 32 / 2 * 2)
  match sr.toNat with
  | 0 => { l with fcsr := BitVec.ofNat 16 (w.toNat % 1024) }
  | 1 => { l with lb0 := even }
  | 2 => { l with le0 := even }
  | 3 => { l with lc0 := half }
  | 4 => { l with lb1 := even }
  | 5 => { l with le1 := even }
  | 6 => { l with lc1 := half }
  | _ => l

/-! ## Control transfers (R15, R97 to R101) -/

/-- The first check of R15 that a target fails. -/
def targetCause (t : Word) : Option (BitVec 16) :=
  if 2 ^ 61 ≤ t.toNat then some 0x04 else if 2 ^ 48 ≤ t.toNat then some 0x03
  else if t.toNat % 2 = 1 then some 0x05 else none

/-- The offset of the parcel after an instruction at pc. -/
def nextPc (l : Line) (i : Instr) : Nat := l.pc.toNat + 2 * i.parcels

/-- What R97 to R99 give for each form: whether the branch is taken, its target, and what else it writes. -/
def jumpForm (i : Instr) (l : Line) : Option (Pre × Bool × Word × (Line → Line)) :=
  match i with
  | .br p pr sense off =>
    some (p, l.pred (pr.setWidth 5) == decide (sense = 0), BitVec.ofInt 64 (nextPc l i + 2 * p.imm off), id)
  | .jmp p off => some (p, true, BitVec.ofInt 64 (nextPc l i + 2 * p.imm off), id)
  | .call p off =>
    some (p, true, BitVec.ofInt 64 (nextPc l i + 2 * p.imm off),
      fun x => x.setReg 7 (BitVec.ofNat 64 (nextPc l i % 2 ^ 48)))
  | .ret p => some (p, true, l.reg 7, id)
  | .jr p a => some (p, true, l.reg a, id)
  | _ => none

/-- Loop firing as R101 writes it, for an instruction whose base parcel is at `b` and whose next parcel is at `n`: the
next pc and the counts of loops 1 and 0. `opens k` says that the instruction is a loop k instruction. -/
def firing (l : Line) (b n : Nat) (opens : BitVec 1 → Bool) : Nat × BitVec 32 × BitVec 32 :=
  let at1 := decide (b = l.le1.toNat) && decide (1 ≤ l.lc1.toNat) && !opens 1
  let at0 := decide (b = l.le0.toNat) && decide (1 ≤ l.lc0.toNat) && !opens 0
  if at1 && decide (1 < l.lc1.toNat) then (l.lb1.toNat, l.lc1 - 1, l.lc0)
  else
    let c1 := if at1 then 0 else l.lc1
    if at0 then (if 1 < l.lc0.toNat then (l.lb0.toNat, c1, l.lc0 - 1) else (n, c1, 0)) else (n, c1, l.lc0)

end Sys2Proof.Claims
open Sys2Proof Sys2Proof.Machine Sys2Proof.Claims

/-- R110 to R112: a lane-wise form completes with its exact lane result, wrapped or clamped, and sets sat exactly when a
lane clamps; pdot adds its exact signed dot product to g[d]; pshuf takes lanes of g[a] by the lanes of g[b]; ppack
clamps both sources to half width; punpk interleaves the low halves. -/
def Obligations.PackedFormsWorkLaneByLane : Prop :=
  (∀ (i : Instr) (f : LaneForm) (s : State) (sl : Slot), laneForm i = some f → i.wellFormed = true → Ready s sl f.pre →
    ∃ (v : Word) (fl : BitVec 16),
      exec i s = .next (after s sl i { sl.line.setReg f.d v with fcsr := sl.line.fcsr ||| fl } f.lat) ∧
      (∀ k, k < 64 / f.w →
        (laneN f.w k v : Int) =
          (f.clamp.getD id (f.exact (laneN f.w k (sl.line.reg f.a)) (laneN f.w k (sl.line.reg f.b))
            (laneS f.w k (sl.line.reg f.a)) (laneS f.w k (sl.line.reg f.b)))) % 2 ^ f.w) ∧
      (f.sat (sl.line.reg f.a) (sl.line.reg f.b) → fl = 0x100) ∧
      (¬ f.sat (sl.line.reg f.a) (sl.line.reg f.b) → fl = 0)) ∧
  ((∀ (p : Pre) (w : BitVec 2) (d a b : BitVec 3) (s : State) (sl : Slot), w ≠ 3 → Ready s sl p →
    exec (.pdot p w d a b) s = .next (after s sl (.pdot p w d a b) (sl.line.setReg d
      (sl.line.reg d + BitVec.ofInt 64 (dotLanes (widthOf w) (sl.line.reg a) (sl.line.reg b)))) 11)) ∧
  (∀ (p : Pre) (w : BitVec 2) (d a b : BitVec 3) (s : State) (sl : Slot), w ≠ 3 → Ready s sl p →
    ∃ v, exec (.pshuf p w d a b) s = .next (after s sl (.pshuf p w d a b) (sl.line.setReg d v) 8) ∧
      ∀ k, k < 64 / widthOf w → laneN (widthOf w) k v =
        laneN (widthOf w) (laneN (widthOf w) k (sl.line.reg b) % (64 / widthOf w)) (sl.line.reg a)) ∧
  (∀ (p : Pre) (w : BitVec 2) (d a b : BitVec 3) (s : State) (sl : Slot), w = 1 ∨ w = 2 → Ready s sl p →
    ∃ v fl, exec (.ppack p w d a b) s
        = .next (after s sl (.ppack p w d a b) { sl.line.setReg d v with fcsr := sl.line.fcsr ||| fl } 8) ∧
      (∀ k, k < 128 / widthOf w → (laneN (widthOf w / 2) k v : Int) =
        clampedS (widthOf w / 2) (packSource (widthOf w) k (sl.line.reg a) (sl.line.reg b)) % 2 ^ (widthOf w / 2)) ∧
      fl = if (List.range (128 / widthOf w)).any (fun k =>
        clampedS (widthOf w / 2) (packSource (widthOf w) k (sl.line.reg a) (sl.line.reg b))
          ≠ packSource (widthOf w) k (sl.line.reg a) (sl.line.reg b)) then 0x100 else 0) ∧
  (∀ (p : Pre) (w : BitVec 2) (d a b : BitVec 3) (s : State) (sl : Slot), w ≠ 3 → Ready s sl p →
    ∃ v, exec (.punpk p w d a b) s = .next (after s sl (.punpk p w d a b) (sl.line.setReg d v) 8) ∧
      ∀ k, k < 32 / widthOf w →
        laneN (widthOf w) (2 * k) v = laneN (widthOf w) k (sl.line.reg a) ∧
        laneN (widthOf w) (2 * k + 1) v = laneN (widthOf w) k (sl.line.reg b)))

/-- R113 to R121: every page-1 form that writes a register completes in the class of R115, writes the result of its row with zeros
above it, and ORs its flags into fcsr. fadd, fsub, fmul, fma and an f32 fdiv or fsqrt round the exact value once; the 16-bit fdiv,
fsqrt and special functions go through f32 (R59). An inexact exp2, log2, rcp or rsqrt is the model's free value inside the bound of
R57 and R58 (log 7). -/
def Obligations.FloatFormsWriteTheirResult : Prop :=
  ∀ (i : Instr) (p : Pre) (d : BitVec 3) (r : Nat × BitVec 16) (lat : Nat) (s : State) (sl : Slot),
    floatForm i sl.line = some (p, d, r, lat) → Ready s sl p →
      exec i s = .next (after s sl i { sl.line.setReg d (BitVec.ofNat 64 r.1) with fcsr := sl.line.fcsr ||| r.2 } lat)

/-- R91, R120: an integer or float compare completes with its condition in its predicate; a float compare also sets NV
by the NaNs it sees. -/
def Obligations.ComparesWriteOnePredicate : Prop :=
  (∀ (i : Instr) (p : Pre) (t : Nat) (a b : BitVec 3) (c : Word → Word → Bool) (s : State) (sl : Slot),
    cmpForm i = some (p, t, a, b, c) → Ready s sl p →
      ∃ pw : BitVec 32, exec i s = .next (after s sl i { sl.line with pw := pw } 8) ∧
        ∀ k : BitVec 5, Line.pred { sl.line with pw := pw } k =
          if k.toNat = t ∧ k ≠ 0 then c (sl.line.reg a) (sl.line.reg b) else sl.line.pred k) ∧
  (∀ (i : Instr) (p : Pre) (t : Nat) (c nv : Bool) (s : State) (sl : Slot),
    fcmpForm i sl.line = some (p, t, c, nv) → Ready s sl p →
      ∃ pw : BitVec 32,
        exec i s = .next (after s sl i
          { sl.line with pw := pw, fcsr := sl.line.fcsr ||| (if nv then 0x080 else 0) } 8) ∧
        ∀ k : BitVec 5, Line.pred { sl.line with pw := pw } k = if k.toNat = t ∧ k ≠ 0 then c else sl.line.pred k)

/-- R41: a magnitude of `m` parts, 2^k parts to a unit in the last place, rounds in each of the five modes to the unit
that the mode names. R40 and R39: a finite result whose magnitude is 2^(bias + 1) or more is delivered as infinity or as
the largest finite value, as the mode and the sign say, and sets OF and NX. R38, R116: a NaN operand of fadd, fsub,
fmul, fdiv or fma gives the canonical NaN of R36's table, and a signalling one sets NV. -/
def Obligations.RoundingFollowsTheMode : Prop :=
  (∀ (m k : Nat) (e : Int) (neg : Bool), 0 < k →
    let qc := quantise m e (e + k) false
    let r (rm : Nat) : Nat := (qc.1 + if roundsUp rm neg qc.1 qc.2 then 1 else 0) * 2 ^ k
    let down := r 1 ≤ m ∧ m < r 1 + 2 ^ k
    let up (x : Nat) := m ≤ x ∧ x < m + 2 ^ k
    down ∧ (r 2 = r 1 ∨ neg = true) ∧ (neg = true → up (r 2)) ∧ (r 3 = r 1 ∨ neg = false) ∧ (neg = false → up (r 3)) ∧
    (2 * r 0 ≤ 2 * m + 2 ^ k ∧ 2 * m ≤ 2 * r 0 + 2 ^ k ∧
      (2 * r 0 = 2 * m + 2 ^ k ∨ 2 * m = 2 * r 0 + 2 ^ k → r 0 / 2 ^ k % 2 = 0)) ∧
    (2 * r 4 ≤ 2 * m + 2 ^ k ∧ 2 * m < 2 * r 4 + 2 ^ k)) ∧
  (∀ (f : BitVec 2) (rm : Nat) (fz neg : Bool) (m : Nat) (e : Int), f ≠ 3 → rm < 5 → 0 < m →
    ((fmtOf f).bias : Int) + 1 ≤ (Nat.log2 m : Int) + e →
      (fmtOf f).deliver rm fz (.num neg m e) =
        (if rm = 0 ∨ rm = 4 ∨ (rm = 2 ∧ neg = true) ∨ (rm = 3 ∧ neg = false) then (fmtOf f).infBits neg
          else (fmtOf f).infBits neg - 1, 0x028)) ∧
  (∀ (f : BitVec 2) (rm : Nat) (fz : Bool) (x y z : FVal), f ≠ 3 →
    let canon := if f = 0 then 0x7FC00000 else if f = 1 then 0x7E00 else 0x7FC0
    (x.isNaN = true ∨ y.isNaN = true →
      ∀ r ∈ [(fmtOf f).addOp rm fz x y, (fmtOf f).subOp rm fz x y, (fmtOf f).mulOp rm fz x y, (fmtOf f).divOp rm fz x y],
        r.1 = canon ∧ (r.2 = if x.signals || y.signals then 0x080 else 0)) ∧
    (x.isNaN = true ∨ y.isNaN = true ∨ z.isNaN = true →
      ((fmtOf f).fmaOp rm fz x y z).1 = canon ∧
      (x.signals = true ∨ y.signals = true ∨ z.signals = true → ((fmtOf f).fmaOp rm fz x y z).2 = 0x080)))

/-- R95, R96, R17: rdsr reads each page-0 special register; wrsr writes it, bit 0 of a loop offset as 0; wrsr of fcsr with a
rounding mode of 5 to 7 traps ILLEGAL with the value and leaves fcsr as it was. -/
def Obligations.SpecialRegistersReadAndWrite : Prop :=
  (∀ (p : Pre) (d sr : BitVec 3) (s : State) (sl : Slot), Ready s sl p →
    exec (.rdsr p d sr) s = .next (after s sl (.rdsr p d sr) (sl.line.setReg d (BitVec.ofNat 64 (srValue sl sr))) 8)) ∧
  (∀ (p : Pre) (a sr : BitVec 3) (s : State) (sl : Slot), sr ≠ 7 → Ready s sl p →
    (sr ≠ 0 ∨ (sl.line.reg a).toNat % 8 < 5 →
      exec (.wrsr p a sr) s = .next (after s sl (.wrsr p a sr) (srWritten sl.line sr (sl.line.reg a)) 8)) ∧
    (sr = 0 ∧ 5 ≤ (sl.line.reg a).toNat % 8 →
      exec (.wrsr p a sr) s = .next (trapped s sl (.wrsr p a sr) 0x01 (sl.line.reg a))))

/-- R97 to R99, R15: a taken branch sets pc to its target (call also g7) when the target passes R15, and traps with the
first check that fails, tval the target and pc and registers as they were; an untaken br completes. -/
def Obligations.BranchesCheckTheirTarget : Prop :=
  ∀ (i : Instr) (p : Pre) (taken : Bool) (t : Word) (f : Line → Line) (s : State) (sl : Slot),
    jumpForm i sl.line = some (p, taken, t, f) → Ready s sl p →
      (taken = true → targetCause t = none →
        exec i s = .next (branched s sl { f sl.line with pc := BitVec.ofNat 48 t.toNat } 8)) ∧
      (∀ c, taken = true → targetCause t = some c → exec i s = .next (trapped s sl i c t)) ∧
      (taken = false → exec i s = .next (after s sl i sl.line 8))

/-- R100: loop writes its three fields, even for a count of 0; a count of 0 branches past the body; an end at or beyond
2^32 traps LOOP with the loop's own offset. R101: the function that every completing form applies to its line
(Line.fire: the statements of the forms say so through `after`) moves pc and the loop counts as the rule's own program
does, and changes nothing else of the line. -/
def Obligations.LoopsOpenAndFire : Prop :=
  (∀ (p : Pre) (k : BitVec 1) (c : BitVec 3) (len : BitVec 8) (L : Nat) (s : State) (sl : Slot),
    p.immU len = L → Ready s sl p →
      let i : Instr := .loop p k c len
      let lb := nextPc sl.line i
      let n : BitVec 32 := BitVec.ofNat 32 (sl.line.reg c).toNat
      let opened : Line :=
        if k = 0 then { sl.line with lb0 := BitVec.ofNat 32 lb, le0 := BitVec.ofInt 32 (lb + 2 * L - 2 : Int), lc0 := n }
        else { sl.line with lb1 := BitVec.ofNat 32 lb, le1 := BitVec.ofInt 32 (lb + 2 * L - 2 : Int), lc1 := n }
      (2 ^ 32 ≤ lb + 2 * L → exec i s = .next (trapped s sl i 0x0D (BitVec.ofNat 64 sl.line.pc.toNat))) ∧
      (lb + 2 * L < 2 ^ 32 → n ≠ 0 → exec i s = .next (after s sl i opened 8)) ∧
      (lb + 2 * L < 2 ^ 32 → n = 0 → (lb + 2 * L) % 2 = 0 →
        exec i s = .next (branched s sl { opened with pc := BitVec.ofNat 48 (lb + 2 * L) } 8))) ∧
  (∀ (l : Line) (i : Instr),
    let r := firing l (l.pc.toNat + 2 * (i.parcels - 1)) (nextPc l i)
      fun k => match i with
        | .loop _ j _ _ => j == k
        | _ => false
    l.fire i = { l with pc := BitVec.ofNat 48 r.1, lc1 := r.2.1, lc0 := r.2.2 })

/-- R105, R109: yield completes in 8 cycles and passes its context over for 32 (in a handler it is a nop); sleep
completes once the tick has come, and otherwise waits SLEEP with its tick recorded, or traps HANDLER_WAIT in a handler.
R107: trap and brk complete first, so pc and the loop counts have moved, and then trap with the code and the offset of
the first parcel in tval. R16: with ps.step set, an integer form of R88 completes, with its register written and pc
moved, and then traps BRK with tval the new pc. -/
def Obligations.ControlFormsYieldSleepTrapAndStep : Prop :=
  ((∀ (p : Pre) (s : State) (sl : Slot), Ready s sl p →
    exec (.yield p) s = .next (after s (if sl.line.handler then sl else { sl with yieldUntil := s.coreCycle s.run.1 + 32 })
      (.yield p) sl.line 8)) ∧
  (∀ (p : Pre) (a : BitVec 3) (s : State) (sl : Slot), Ready s sl p →
    ((sl.line.reg a).toNat ≤ s.tick → exec (.sleep p a) s = .next (after s sl (.sleep p a) sl.line 8)) ∧
    (s.tick < (sl.line.reg a).toNat →
      (∀ c w n v, sl.who = .handler c w n v →
        exec (.sleep p a) s = .next (trapped s sl (.sleep p a) 0x0C (sl.line.reg a))) ∧
      (∀ v k x, sl.who = .ctx v k → s.ctx? v k = some x →
        ∃ t, exec (.sleep p a) s = .next t ∧
          t.ctx? v k = some { x with wake := some (sl.line.reg a).toNat } ∧
          t.cur? = some { sl with line := { sl.line with wt := .sleep, wtArg := 0 }, held := none } ∧ t.mem = s.mem)))) ∧
  (∀ (p : Pre) (code : BitVec 6) (k : Nat) (s : State) (sl : Slot), p.immU code = k → k < 2 ^ 16 → Ready s sl p →
    ∀ i cause, (i, cause) ∈ [(Instr.trap p code, 0x0F#16), (Instr.brk p code, 0x0E#16)] →
      exec i s = .next (s.takeTrap s.run.1 s.run.2 { sl with line := sl.line.fire i, readyAt := s.coreCycle s.run.1 + 8 } cause
        (BitVec.ofNat 64 (sl.line.pc.toNat * 2 ^ 16 + k)) i.tinfo 0)) ∧
  (∀ (i : Instr) (p : Pre) (d a b : BitVec 3) (f : Word → Word → Int) (lat : Nat) (s : State) (sl : Slot),
    intForm i = some (p, d, a, b, f, lat) → s.cur? = some sl → guardHolds p sl.line = true → sl.line.step = true →
    (s.core s.run.1).partialPort sl.who = none →
      let l := (sl.line.setReg d (BitVec.ofInt 64 (f (sl.line.reg a) (sl.line.reg b)))).fire i
      let x := { sl with line := l, readyAt := s.coreCycle s.run.1 + lat, held := none }
      exec i s = .next ((s.putCur x).takeTrap s.run.1 s.run.2 x 0x0E (BitVec.ofNat 64 l.pc.toNat) i.tinfo 0))

namespace Sys2Proof.Claims
open Sys2Proof.Machine

/-! ## Accesses (R29, R30, R135, R139) -/

/-- The loads of R139: registers, width in bytes, signedness. -/
def loadForm (i : Instr) : Option (Pre × BitVec 3 × BitVec 3 × BitVec 3 × Nat × Bool) :=
  match i with
  | .ldzB p d a b => some (p, d, a, b, 1, false)
  | .ldsB p d a b => some (p, d, a, b, 1, true)
  | .ldzH p d a b => some (p, d, a, b, 2, false)
  | .ldsH p d a b => some (p, d, a, b, 2, true)
  | .ldzW p d a b => some (p, d, a, b, 4, false)
  | .ldsW p d a b => some (p, d, a, b, 4, true)
  | .ldD p d a b => some (p, d, a, b, 8, false)
  | _ => none

/-- The loads and stores of R139: prefix, pointer register and displacement, width, rights. -/
def plainForm (i : Instr) : Option (Pre × BitVec 3 × BitVec 3 × Nat × Need) :=
  match i with
  | .stB p _ a b => some (p, a, b, 1, needStore)
  | .stH p _ a b => some (p, a, b, 2, needStore)
  | .stW p _ a b => some (p, a, b, 4, needStore)
  | .stD p _ a b => some (p, a, b, 8, needStore)
  | i => (loadForm i).map fun (p, _, a, b, n, _) => (p, a, b, n, needLoad)

/-- A pointer with a displacement in units of the access (R139, R144). -/
def pointer (p : Pre) (l : Line) (a b : BitVec 3) (n : Nat) : Word :=
  BitVec.ofInt 64 ((l.reg a).toNat + p.immU b * n)

/-- A value of `n` bytes extended to a register (R8). -/
def extended (n : Nat) (signed : Bool) (x : Nat) : Int :=
  if signed = true ∧ 2 ^ (8 * n - 1) ≤ x then (x : Int) - 2 ^ (8 * n) else x

/-- The key of a byte of on-chip memory. -/
def chipKey (loc : Loc) : Option Nat :=
  match loc with
  | .scratch c p => some (scratchKey c p)
  | .cluster k p => some (clusterKey k p)
  | .paged _ _ => none

/-- Where a site lies in its memory. -/
def siteOffset (site : Site) : Nat :=
  match site with
  | .chip l => l.pos
  | .linear a => a

/-- The first check of R30 and R135 that an access of `n` bytes through `q` fails. -/
def refusedBy (s : State) (sl : Slot) (q : Word) (n : Nat) (need : Need) : Option (BitVec 16) :=
  let g := sl.seg (q.toNat / 2 ^ 61)
  let off := q.toNat % 2 ^ 48
  let v := sl.line.vfid.toNat
  let site := s.site s.run.1 v g off
  if q.toNat / 2 ^ 48 % 2 ^ 13 ≠ 0 then some 0x03
  else if g.valid = false ∨ g.limit < off + n then some 0x03
  else if need.f = true ∧ g.type = .capacity then some 0x0A
  else if (need.r = true ∧ g.r = false) ∨ (need.w = true ∧ g.w = false) ∨ (need.x = true ∧ g.x = false)
      ∨ (need.a = true ∧ g.a = false) ∨ (need.f = true ∧ g.f = false) ∨ s.runsRefused v (s.runsOf s.run.1 v g off n) = true then some 0x04
  else if off % n ≠ 0 ∨ siteOffset site % n ≠ 0 then some 0x05
  else none

/-- An access passes the checks and translation and reaches a place that is not being cleared. -/
structure Reaches (s : State) (sl : Slot) (q : Word) (n : Nat) (need : Need) (acc : Access) (g : Seg) (loc : Loc)
    (priv : Bool) : Prop where
  there : s.reach s.run.1 s.run.2 sl q n need acc true q = .ok g loc priv
  kept : s.clearing loc = false

/-! ## Posted forms (R136, R137) -/

/-- What a posted form sends to its place: prefixes, pointer, bytes, rights, access, whether it goes home first (R155),
which places it refuses (R143), data, what it does there, whether it is a release at its home scope, or at the scope of its
prefixes. -/
structure PostForm where
  pre : Pre
  q : Word
  n : Nat
  need : Need
  acc : Access
  homed : Bool
  host : Option (BitVec 16)
  capacity : Bool
  data : Nat
  post : Post
  home : Bool

/-- The posted forms. -/
def postForm (i : Instr) (l : Line) : Option PostForm :=
  let st (p : Pre) (d a b : BitVec 3) (n : Nat) :=
    some (PostForm.mk p (pointer p l a b n) n needStore .write false none true ((l.reg d).toNat % 2 ^ (8 * n)) .store false)
  let fe (p : Pre) (a b : BitVec 3) (x : Nat) (w : Post) :=
    some (PostForm.mk p (pointer p l a b 8) 8 needFeWrite .feWrite true (some 0x0A) true x w true)
  match i with
  | .stB p d a b => st p d a b 1
  | .stH p d a b => st p d a b 2
  | .stW p d a b => st p d a b 4
  | .stD p d a b => st p d a b 8
  | .stfe p d a b => fe p a b (l.reg d).toNat .stfe
  | .feSet p a b => fe p a b 0 .feSet
  | .feClr p a b => fe p a b 0 .feClr
  | .redAdd p ty a b =>
    let n := if ty = 3 then 8 else 4
    some (PostForm.mk p (l.reg a) n needAtomic .atomic false (some 0x09) false (l.reg b).toNat (.redAdd ty l.rm l.fz) false)
  | .joinDec p a => some (PostForm.mk p (l.reg a) 8 needAtomic .atomic false (some 0x09) true 0 .joinDec true)
  | .barArrive p a => some (PostForm.mk p (l.reg a) 16 needAtomic .atomic false (some 0x09) true 0 .barArrive true)
  | _ => none

/-! ## Probes of one word (R136, R144 to R157) -/

/-- What a probe of one word does at its place: `result` gives, from the word and the place of its bytes in it, the line
and the word that it leaves, or none when its condition fails; `wait` is the wait it then takes, with its argument. -/
structure ProbeForm where
  pre : Pre
  q : Word
  n : Nat
  need : Need
  acc : Access
  homed : Bool
  host : Option (BitVec 16)
  write : Bool
  release : Seg → Option (BitVec 3)
  result : Word8 → Nat → Option (Line × Option Word8)
  wait : Option (WaitKind × (Seg → BitVec 28))

/-- The new value of an atomic from the old one `x`, g[b] `y` and g[d] `z`, all of `w` bits (R150); none writes nothing. -/
def atomicForm (i : Instr) : Option (Pre × BitVec 1 × BitVec 3 × BitVec 3 × BitVec 3 × Bool × ((w x y z : Nat) → Option Nat)) :=
  let sgn (w x : Nat) : Int := if x < 2 ^ (w - 1) then (x : Int) else (x : Int) - 2 ^ w
  match i with
  | .amoAdd p sz d a b => some (p, sz, d, a, b, true, fun w x y _ => some ((x + y) % 2 ^ w))
  | .amoAnd p sz d a b => some (p, sz, d, a, b, false, fun _ x y _ => some (x &&& y))
  | .amoOr p sz d a b => some (p, sz, d, a, b, false, fun _ x y _ => some (x ||| y))
  | .amoXor p sz d a b => some (p, sz, d, a, b, false, fun _ x y _ => some (x ^^^ y))
  | .amoMin p sz d a b => some (p, sz, d, a, b, false, fun w x y _ => some (if sgn w x ≤ sgn w y then x else y))
  | .amoMax p sz d a b => some (p, sz, d, a, b, false, fun w x y _ => some (if sgn w x ≤ sgn w y then y else x))
  | .amoMinn p sz d a b => some (p, sz, d, a, b, false, fun _ x y _ => some (if x ≤ y then x else y))
  | .amoMaxn p sz d a b => some (p, sz, d, a, b, false, fun _ x y _ => some (if x ≤ y then y else x))
  | .amoSwap p sz d a b => some (p, sz, d, a, b, true, fun _ _ y _ => some y)
  | .amoCas p sz d a b => some (p, sz, d, a, b, true, fun _ x y z => if x = z then some y else none)
  | _ => none

/-- The argument of a wait on a word (R22). -/
def wordArg (q : Word) (g : Seg) : BitVec 28 := BitVec.ofNat 28 ((g.base + q.toNat % 2 ^ 48) / 8)

/-- The probes. -/
def probeForm (i : Instr) (l : Line) : Option ProbeForm :=
  match i with
  | .ldfe p d a b =>
    let q := pointer p l a b 8
    some (ProbeForm.mk p q 8 needFeBoth .atomic true (some 0x0A) true (fun _ => none)
      (fun w _ => if w.full then some (l.setReg d w.data, some { w with full := false }) else none)
      (some (.full, wordArg q)))
  | .ldff p d a b =>
    let q := pointer p l a b 8
    some (ProbeForm.mk p q 8 needFeRead .feRead true (some 0x0A) false (fun _ => none)
      (fun w _ => if w.full then some (l.setReg d w.data, none) else none) (some (.full, wordArg q)))
  | .stef p d a b =>
    let q := pointer p l a b 8
    some (ProbeForm.mk p q 8 needFeBoth .atomic true (some 0x0A) true (fun g => some (homeScope g.type))
      (fun w _ => if w.full then none else some (l, some { w with data := l.reg d, full := true }))
      (some (.empty, wordArg q)))
  | .waddrEq p a b =>
    some (ProbeForm.mk p (l.reg a) 8 needWait .read false none false (fun _ => none)
      (fun w _ => if w.data = l.reg b then some (l, none) else none) (some (.addr, wordArg (l.reg a))))
  | .waddrNe p a b =>
    some (ProbeForm.mk p (l.reg a) 8 needWait .read false none false (fun _ => none)
      (fun w _ => if w.data = l.reg b then none else some (l, none)) (some (.addr, wordArg (l.reg a))))
  | .joinWait p a =>
    some (ProbeForm.mk p (l.reg a) 8 needWait .atomic false (some 0x09) false (fun _ => none)
      (fun w _ => if w.data = 0 then some (l, none) else none) (some (.join, fun _ => 0)))
  | i =>
    match atomicForm i with
    | none => none
    | some (p, sz, d, a, b, cxl, f) =>
      let n := if sz = 0 then 4 else 8
      let cut (r : BitVec 3) := (l.reg r).toNat % 2 ^ (8 * n)
      some (ProbeForm.mk p (l.reg a) n needAtomic .atomic true (if cxl then none else some 0x09) true
        (fun _ => match p.order with
          | none => none
          | some o => if o.ord = 2 ∨ o.ord = 3 then some o.scope else none)
        (fun w off =>
          let x := w.data.toNat / 2 ^ (8 * off) % 2 ^ (8 * n)
          some (l.setReg d (BitVec.ofInt 64 (extended n true x)),
            (f (8 * n) x (cut b) (cut d)).map fun v => w.withBytes off n v))
        none)

/-- The state in which a probe tests its word: a release at system scope has written the core's dirty words back, and those
that its context left on another core (R269), and the LLC slice has counted the access. -/
def probing (s : State) (v : Nat) (loc : Loc) (write : Bool) (release : Option (BitVec 3)) : State :=
  let s1 := if release = some 6 then s.systemRelease s.run.1 v else s
  match loc with
  | .paged v gpa => s1.touchLlc v gpa write false
  | _ => s1

/-- The state after a probe has written its word, if it writes it, as an ordinary write (R288, R307); of an atomic that writes nothing,
the copies of the word have gone all the same (R358). -/
def wrote (s : State) (v : Nat) (loc : Loc) (n : Nat) (w : Word8) (new : Option Word8) (write secure : Bool) : State :=
  match new with
  | none => if write then s.recallWords loc n true secure else s
  | some w' => s.ordinary v loc n w w' secure

/-- A homed word is probed at its home (R155). -/
def AtHome (s : State) (sl : Slot) (homed : Bool) (g : Seg) (q : Word) : Prop :=
  homed = true → g.type = .homed → s.homeCore s.run.1 sl.line.vfid.toNat g (ptrOff q) = some s.run.1

end Sys2Proof.Claims
open Sys2Proof Sys2Proof.Machine Sys2Proof.Claims

/-- R30, R135, R28: a load or store traps by the first check of its pointer that fails (limit, rights, alignment), tval the
pointer, with no effect of its own. -/
def Obligations.LoadsAndStoresCheckTheirPointer : Prop :=
  ∀ (i : Instr) (p : Pre) (a b : BitVec 3) (n : Nat) (need : Need) (cause : BitVec 16) (s : State) (sl : Slot),
    plainForm i = some (p, a, b, n, need) →
    Ready s sl p → refusedBy s sl (pointer p sl.line a b n) n need = some cause →
      exec i s = .next (trapped s sl i cause (pointer p sl.line a b n))

/-- R136, R137, R139: a load that finds its bytes in its own queued stores, in the scratchpad or in the data cache completes
in class L with the bytes extended, and changes no memory; from elsewhere it completes at issue as a fill and waits FILL. -/
def Obligations.LoadsWriteTheirRegisterOrFill : Prop :=
  ∀ (i : Instr) (p : Pre) (d a b : BitVec 3) (n : Nat) (sg : Bool) (s : State) (sl : Slot) (g : Seg) (loc : Loc)
    (priv : Bool), loadForm i = some (p, d, a, b, n, sg) → Ready s sl p →
    Reaches s sl (pointer p sl.line a b n) n needLoad .read g loc priv →
      (∀ x, s.forward s.run.1 sl.who loc n = .value x →
        exec i s = .next (after s sl i (sl.line.setReg d (BitVec.ofInt 64 (extended n sg x))) 10)) ∧
      (∀ c pos, loc = .scratch c pos → s.forward s.run.1 sl.who loc n = .none →
        s.mayPerform s.run.1 sl.who loc n none = true → s.mem.poisoned (scratchKey c pos) = false →
        exec i s = .next (after s sl i
          (sl.line.setReg d (BitVec.ofInt 64 (extended n sg (s.mem.read (scratchKey c pos) n)))) 10)) ∧
      (∀ v gpa x, loc = .paged v gpa → s.forward s.run.1 sl.who loc n = .none → s.cacheHit s.run.1 loc n = some x →
        s.mayPerform s.run.1 sl.who loc n none = true → (hostHalf gpa = true ∨ s.lineView v (gpa / 64) false sl.secure ≠ .error .world) →
        exec i s = .next (after (s.touchCopy s.run.1 v (gpa / 64)) sl i
          (sl.line.setReg d (BitVec.ofInt 64 (extended n sg x))) 10)) ∧
      (s.forward s.run.1 sl.who loc n = .none → (∀ c pos, loc ≠ .scratch c pos) → s.cacheHit s.run.1 loc n = none →
        ∃ t f, exec i s = .next t ∧ t.fills = s.fills ++ [f] ∧ f.who = sl.who ∧ f.core = s.run.1 ∧ f.reg = d ∧ f.loc = loc
          ∧ f.n = n ∧ f.signed = sg ∧ f.q = pointer p sl.line a b n ∧ t.mem = s.mem ∧
          t.cur? = some { sl with
            line := { sl.line.fire i with
              wt := .fill, wtArg := BitVec.ofNat 28 (d.toNat + 8 * ((s.vf sl.line.vfid.toNat).gen.toNat % 256)) }
            readyAt := s.coreCycle s.run.1 + 10
            held := none })

/-- R136, R137, R266: a store, stfe, fe.set, fe.clr, red.add, join.dec or bar.arrive takes the next entry of its core's
store queue, with its place, bytes, data and release, and completes in class A; with the queue full nothing happens. -/
def Obligations.PostedFormsTakeAQueueEntry : Prop :=
  ∀ (i : Instr) (f : PostForm) (s : State) (sl : Slot) (g : Seg) (loc : Loc) (priv : Bool),
    postForm i sl.line = some f → Ready s sl f.pre → Reaches s sl f.q f.n f.need f.acc g loc priv →
    (f.host ≠ none → loc.host = false) → (f.capacity = false → g.type ≠ .capacity) → AtHome s sl f.homed g f.q →
      ((s.core s.run.1).stores.length < 32 →
        ∃ e : Posted, exec i s = .next (after
            { s.setCore s.run.1 { s.core s.run.1 with stores := (s.core s.run.1).stores ++ [e] } with
              posted := s.posted + 1 } sl i sl.line 8) ∧
          e.who = sl.who ∧ e.vf = sl.line.vfid.toNat ∧ e.loc = loc ∧ e.n = f.n ∧ e.data = BitVec.ofNat 64 f.data ∧
          e.post = f.post ∧ e.secure = sl.line.world ∧ e.priv = priv ∧ e.age = s.posted ∧
          (f.home = true → e.release = some (homeScope g.type)) ∧
          (f.home = false → e.release = match f.pre.order with
            | none => none
            | some o => if o.ord = 2 ∨ o.ord = 3 then some o.scope else none)) ∧
      (32 ≤ (s.core s.run.1).stores.length → exec i s = .next s)

/-- R144 to R147, R150, R157: ldfe, ldff, stef, waddr, join.wait and the atomics test and change their word in one unit:
with the condition met they complete in class A, the word and the register as their rows say, in the state that their place
of execution sees; with it not met they are registered and wait, a handler trapping HANDLER_WAIT; a poisoned word traps
MEM_UNCORR. The argument of a wait on chip is the model's reading (log 37), and so is the effect of a probe or atomic on a context's
memory copy (log 89). -/
def Obligations.ProbesTestAndChangeTheirWord : Prop :=
  ∀ (i : Instr) (f : ProbeForm) (s : State) (sl : Slot) (g : Seg) (loc : Loc) (priv : Bool) (w : Word8),
    probeForm i sl.line = some f → Ready s sl f.pre → Reaches s sl f.q f.n f.need f.acc g loc priv →
    (f.host ≠ none → loc.host = false) → AtHome s sl f.homed g f.q →
    s.mayPerform s.run.1 sl.who loc f.n (f.release g) = true →
    (probing s sl.line.vfid.toNat loc f.write (f.release g)).word loc f.write sl.line.world = .ok w →
      let s1 := probing s sl.line.vfid.toNat loc f.write (f.release g)
      (w.poison = true → exec i s = .next (trapped s1 sl i 0x08 f.q)) ∧
      (∀ l new, w.poison = false → f.result w loc.off = some (l, new) →
        exec i s = .next (after (wrote s1 sl.line.vfid.toNat loc f.n w new f.write sl.line.world) sl i l 8)) ∧
      (∀ kind arg, w.poison = false → f.result w loc.off = none → f.wait = some (kind, arg) →
        (sl.line.handler = true → exec i s = .next (trapped s1 sl i 0x0C f.q)) ∧
        (sl.line.handler = false →
          exec i s = .next ((waiting s1 sl kind (arg g)).register (Waiter.mk sl.who kind loc 8
            (if kind = .addr ∧ loc.host = true then some (s1.tick + 1024) else none)))))

/-- R144, R145: fe.rd reads the bit alone, of a poisoned word too. R158, R159: bar.wait, once the object's dirty words
are recalled (R358), completes when the phase doubleword differs from g[b] and waits BARRIER otherwise, a handler
trapping HANDLER_WAIT. R56, R151, R152: red.rd folds the open contributions of its type into the word in logical core
order, closes them, and writes the register; that an f32 result is sign-extended there is the model's choice between R35
and R151 (log 92). R160, R161: cflush and cinval whose range passes R30 post one tailrace walk of that range, to arrive
on the region barrier, and complete; a length of 2^40 or more traps SEG_LIMIT. -/
def Obligations.BitReadsReductionsAndWalks : Prop :=
  ((∀ (p : Pre) (d a b : BitVec 3) (s : State) (sl : Slot) (g : Seg) (loc : Loc) (priv : Bool) (w : Word8),
    let q := pointer p sl.line a b 8
    Ready s sl p → Reaches s sl q 8 needFeRead .feRead g loc priv → loc.host = false → AtHome s sl true g q →
    s.mayPerform s.run.1 sl.who loc 8 none = true → (probing s sl.line.vfid.toNat loc false none).word loc false sl.line.world = .ok w →
      exec (.feRd p d a b) s = .next (after (probing s sl.line.vfid.toNat loc false none) sl (.feRd p d a b)
        (sl.line.setReg d (if w.full then 1 else 0)) 8)) ∧
  (∀ (p : Pre) (a b : BitVec 3) (s : State) (sl : Slot) (g : Seg) (loc : Loc) (priv : Bool) (w0 w1 : Word8),
    let q := sl.line.reg a
    let s1 := probing s sl.line.vfid.toNat loc false none
    Ready s sl p → Reaches s sl q 16 needWait .atomic g loc priv → loc.host = false →
    s.mayPerform s.run.1 sl.who loc 16 none = true → s1.word loc false sl.line.world = .ok w0 →
    s1.word (loc.plus 8) false sl.line.world = .ok w1 → w0.poison = false → w1.poison = false →
      let s2 := s1.recallWords loc 16 false sl.line.world
      (w1.data ≠ sl.line.reg b → exec (.barWait p a b) s = .next (after s2 sl (.barWait p a b) sl.line 8)) ∧
      (w1.data = sl.line.reg b → sl.line.handler = true →
        exec (.barWait p a b) s = .next (trapped s2 sl (.barWait p a b) 0x0C q)) ∧
      (w1.data = sl.line.reg b → sl.line.handler = false →
        exec (.barWait p a b) s
          = .next ((waiting s2 sl .barrier 0).register (Waiter.mk sl.who .barrier loc 16 none)))) ∧
  (∀ (p : Pre) (ty : BitVec 2) (d a : BitVec 3) (s : State) (sl : Slot) (g : Seg) (loc : Loc) (priv : Bool) (w : Word8),
    let q := sl.line.reg a
    let n := if ty = 3 then 8 else 4
    let rel := match p.order with
      | none => none
      | some o => if o.ord = 2 ∨ o.ord = 3 then some o.scope else none
    let s1 := probing s sl.line.vfid.toNat loc true rel
    let mine := s1.reds.filter fun r => r.loc = loc && r.ty = ty
    Ready s sl p → Reaches s sl q n needAtomic .atomic g loc priv → loc.host = false → g.type ≠ .capacity →
    s.mayPerform s.run.1 sl.who loc n rel = true → s1.word loc true sl.line.world = .ok w → w.poison = false →
    (∀ r ∈ mine, r.poison = false) →
      let r := ((List.range 4096).flatMap fun c => mine.filter fun x => x.core = c).foldl
        (foldSlot ty sl.line.rm.toNat sl.line.fz) (w.data.toNat / 2 ^ (8 * loc.off) % 2 ^ (8 * n), 0)
      ∃ t, exec (.redRd p ty d a) s = .next (after t sl (.redRd p ty d a)
          { sl.line.setReg d (BitVec.ofInt 64 (extended n true r.1)) with fcsr := sl.line.fcsr ||| r.2 } 8) ∧
        (mine = [] → t = s1.recallWords loc n false sl.line.world) ∧
        (mine ≠ [] → t = { s1.ordinary sl.line.vfid.toNat loc n w (w.withBytes loc.off n r.1) sl.line.world with
          reds := s1.reds.filter fun x => !(x.loc = loc && x.ty = ty) }))) ∧
  (∀ (p : Pre) (a b : BitVec 3) (s : State) (sl : Slot) (inval : Bool),
    let i : Instr := if inval then .cinval p a b else .cflush p a b
    let q := sl.line.reg a
    let len := sl.line.reg b
    Ready s sl p →
      (2 ^ 40 ≤ len.toNat → exec i s = .next (trapped s sl i 0x03 q)) ∧
      (∀ g site, len.toNat < 2 ^ 40 →
        s.segCheck s.run.1 sl.line.vfid.toNat sl.segs q len.toNat (if inval then needStore else needLoad) false q
          = .ok (g, site) →
        (s.core s.run.1).walks < 8 → (s.core s.run.1).stores.length < 32 →
        ∃ t e lin, exec i s = .next t ∧ (t.core s.run.1).walks = (s.core s.run.1).walks + 1 ∧
          (t.core s.run.1).stores = (s.core s.run.1).stores ++ [e] ∧
          e.post = .walk inval lin (s.runsOf s.run.1 sl.line.vfid.toNat g (ptrOff q) len.toNat) len.toNat (s.regionBarrier sl) ∧ e.release = some 5 ∧ t.mem = s.mem ∧
          (∀ x, site = .linear x → lin = some x) ∧ (∀ l, site = .chip l → lin = none) ∧
          t.cur? = some { sl with line := sl.line.fire i, readyAt := s.coreCycle s.run.1 + 8, held := none }))

/-- R265, R137: an entry that may leave the store queue is performed at its on-chip place and leaves it: a store writes
its bytes there and no other byte; stfe writes its word and sets the bit full; fe.set and fe.clr change the bit alone.
R141, R142, R261, R358: a word performed at its place reads back there as written, with its full/empty bit; on chip, no
byte outside the word changes. For module memory this is stated of a line that the LLC holds with the write grant; bits
0 and 1 of an upcall ring's occ word read 1 (R288). -/
def Obligations.PerformedStoresReadBack : Prop :=
  (∀ (c k : Nat) (s : State) (e : Posted) (key : Nat), s.mem.wf = true →
    (s.core c).stores[k]? = some e → s.postedReady c k e = true → e.release ≠ some 6 → chipKey e.loc = some key →
    s.mem.poisoned key = false →
      ∃ t, exec (.storeQueuePerform c k) s = .next t ∧ (t.core c).stores = (s.core c).stores.eraseIdx k ∧
        (e.post = .store → e.n ∈ [1, 2, 4, 8] → key % e.n = 0 →
          t.mem.read key e.n = e.data.toNat % 2 ^ (8 * e.n) ∧
          (∀ j, j < key ∨ key + e.n ≤ j → t.mem.get j = s.mem.get j) ∧ (∀ j, t.mem.full j = s.mem.full j)) ∧
        (e.post = .stfe → key % 8 = 0 →
          t.mem.read key 8 = e.data.toNat ∧ t.mem.full key = true ∧
          (∀ j, j < key ∨ key + 8 ≤ j → t.mem.get j = s.mem.get j ∧ t.mem.full j = s.mem.full j)) ∧
        (e.post = .feSet ∨ e.post = .feClr → key % 8 = 0 →
          t.mem.full key = decide (e.post = .feSet) ∧ (∀ j, t.mem.get j = s.mem.get j) ∧
          (∀ j, j < key ∨ key + 8 ≤ j → t.mem.full j = s.mem.full j))) ∧
  ((∀ (s : State) (loc : Loc) (key : Nat) (w : Word8) (secure : Bool), s.mem.wf = true → chipKey loc = some key →
    key % 8 = 0 →
      (s.putWord loc w secure).word loc false secure = .ok w ∧
      ∀ j, j < key ∨ key + 8 ≤ j → (s.putWord loc w secure).mem.get j = s.mem.get j) ∧
  (∀ (s : State) (v gpa : Nat) (l : LlcLine) (w : Word8) (secure : Bool), hostHalf gpa = false → gpa % 8 = 0 →
    s.llc? v (gpa / 64) = some l → l.write = true → (s.secureHpa (l.frame * 4096) = false ∨ secure = true) →
      (s.putWord (.paged v gpa) w secure).word (.paged v gpa) false secure = .ok (s.shows v gpa w)))

namespace Sys2Proof.Claims
open Sys2Proof.Machine

/-! ## Tiles (R123 to R133) -/

/-- A page-3 form: its operands, whether hD is a source, whether it is a special function, its shape rule. -/
structure TileForm where
  pre : Pre
  a : Option (BitVec 8)
  b : Option (BitVec 8)
  d : BitVec 8
  readsD : Bool
  special : Bool
  shape : TileShape

def tileForm (i : Instr) : Option TileForm :=
  let bin (p : Pre) (d a b : BitVec 8) (c : Bool) := some (TileForm.mk p (some a) (some b) d c false .same)
  let un (p : Pre) (d a : BitVec 8) (sp : Bool) (sh : TileShape) := some (TileForm.mk p (some a) none d false sp sh)
  match i with
  | .tadd p d a b => bin p d a b false
  | .tsub p d a b => bin p d a b false
  | .tmul p d a b => bin p d a b false
  | .tmin p d a b => bin p d a b false
  | .tmax p d a b => bin p d a b false
  | .tfma p d a b => bin p d a b true
  | .tsel p d a b => bin p d a b true
  | .tcvt p d a => un p d a false .same
  | .texp2 p d a => un p d a true .same
  | .tlog2 p d a => un p d a true .same
  | .trcp p d a => un p d a true .same
  | .tcopy p d a => un p d a false .copy
  | .tredSum p d a => un p d a false .reduce
  | .tredMax p d a => un p d a false .reduce
  | .tscale p d a _ => un p d a false .same
  | .tmask p d a _ => un p d a false .same
  | .tfill p d _ => some (TileForm.mk p none none d false false .same)
  | _ => none

/-- The first check of R124 steps 1 to 4 that fails, in the order hA, hB, hD: the handle, its access kind (0 for a source,
1 for hD, R289) and its reason. -/
def handleFault (k : Core) (f : TileForm) : Option (BitVec 8 × Nat × Nat) :=
  let hs := (f.a.toList ++ f.b.toList).map (fun h => (h, 0)) ++ [(f.d, 1)]
  let first (bad : Tile → Bool) (r : Nat) : Option (BitVec 8 × Nat × Nat) :=
    (hs.find? fun h => (tileOf (k.handle h.1)).any bad).map fun h => (h.1, h.2, r)
  let tile (h : Option (BitVec 8)) : Option Tile := h.bind fun x => tileOf (k.handle x)
  let isD (p : Tile → Bool) : Bool := (tileOf (k.handle f.d)).any p
  let shapes : Option (BitVec 8 × Nat × Nat) :=
    match f.shape, f.a, f.b with
    | .reduce, _, _ => if isD fun d => (tile f.a).any fun a => d.rows * d.cols ≠ a.rows then some (f.d, 1, 2) else none
    | .copy, some a, _ =>
      if isD fun d => (tile f.a).any fun x => x.rows * x.cols ≠ d.rows * d.cols then some (a, 0, 2) else none
    | .same, some a, b =>
      if isD fun d => (tile f.a).any fun x => x.rows ≠ d.rows || x.cols ≠ d.cols then some (a, 0, 2)
      else
        match b with
        | none => none
        | some b =>
          if isD fun d => (tile f.b).any fun x =>
            !((x.rows = d.rows && x.cols = d.cols) || (x.rows = 1 && x.cols = d.cols) || (x.rows = 1 && x.cols = 1))
          then some (b, 0, 2) else none
    | _, none, _ => none
  match hs.find? fun h => (tileOf (k.handle h.1)).isNone with
  | some h => some (h.1, h.2, 1)
  | none =>
    (first (fun t => 8 < t.fmt || (f.shape = .copy && (tile f.a).any fun x => x.fmt ≠ t.fmt)) 3).or
      ((first (fun t => t.base.toNat % fmtBytes t.fmt ≠ 0) 5).or ((first (fun t => 4096 < t.rows * t.cols) 4).or shapes))

/-- An element read by R123, and a result delivered by R126: an integer exactly between integer formats, else a value. -/
def elemAt (l : Line) (t : Tile) (bits : Nat) : Elem := (fmtOfCode t.fmt).read l.fz t.scale bits

/-- Whether a tile's bits pass to another unchanged under tsel. -/
def keepsBits (t d : Tile) : Bool := t.fmt = d.fmt && (t.scale = d.scale || (t.fmt ≠ 3 && t.fmt ≠ 4))

/-- A special function of an element through f32 (R132). -/
def specialAt (l : Line) (op : Nat → Bool → Nat → Nat × BitVec 16) (x : Elem) : FVal × BitVec 16 :=
  let r := f32.deliver l.rm.toNat l.fz x.val
  let o := op l.rm.toNat l.fz r.1
  (f32.decode false o.1, (if x.val.signals then 0x080 else 0) ||| r.2 ||| o.2)

/-- The result of element `e` of hD with its flags, from the bits `A`, `B`, `C` of hA, hB (broadcast) and the old hD by
element number (R131 to R133). -/
def tileResult (i : Instr) (l : Line) (ta tb td : Tile) (A B C : Nat → Nat) (e : Nat) : Nat × BitVec 16 :=
  let x := elemAt l ta (A e)
  let y := elemAt l tb (B e)
  let z := elemAt l td (C e)
  let val (r : FVal × BitVec 16) : Nat × BitVec 16 := td.deliver l (.val r)
  let pass (v : FVal) : FVal × BitVec 16 := (v, if v.signals then 0x080 else 0)
  let bin (fi : Int → Int → Int) (ff : FVal × BitVec 16) : Nat × BitVec 16 :=
    match x, y with
    | .int u, .int v => if 5 ≤ td.fmt then td.deliver l (.int (fi u v)) else val ff
    | _, _ => val ff
  let row := (List.range ta.cols).map fun j => elemAt l ta (A (e * ta.cols + j))
  let scalar (k : BitVec 3) : FVal := f32.decode l.fz ((l.reg k).toNat % 2 ^ 32)
  match i with
  | .tadd .. => bin (· + ·) (FVal.add l.rm.toNat x.val y.val)
  | .tsub .. => bin (· - ·) (FVal.add l.rm.toNat x.val y.val.neg)
  | .tmul .. => bin (· * ·) (Elem.mul l.rm.toNat l.fz x y)
  | .tmin .. => bin Min.min (minMax false x.val y.val)
  | .tmax .. => bin Max.max (minMax true x.val y.val)
  | .tfma .. =>
    match x, y, z with
    | .int u, .int v, .int w => td.deliver l (.int (u * v + w))
    | _, _, _ =>
      let m := Elem.mul l.rm.toNat l.fz x y
      let r := FVal.add l.rm.toNat m.1 z.val
      val (r.1, m.2 ||| r.2)
  | .tsel .. =>
    let zero := match z.val with
      | .zero _ => true
      | _ => false
    let pick (t : Tile) (bits : Nat) (v : Elem) : Nat × BitVec 16 :=
      if keepsBits t td then (bits, 0)
      else
        match v with
        | .int u => if 5 ≤ ta.fmt ∧ 5 ≤ tb.fmt then td.deliver l (.int u) else val (pass v.val)
        | _ => val (pass v.val)
    if zero then pick tb (B e) y else pick ta (A e) x
  | .tcvt .. =>
    match x with
    | .int u => td.deliver l (.int u)
    | _ => val (pass x.val)
  | .texp2 .. => val (specialAt l exp2_32 x)
  | .tlog2 .. => val (specialAt l log2_32 x)
  | .trcp .. => val (specialAt l rcp32 x)
  | .tcopy .. => (A e, 0)
  | .tredSum .. =>
    if 5 ≤ ta.fmt then td.deliver l (.int ((row.map fun v => match v with
      | .int u => u
      | _ => 0).sum))
    else
      let r := sumGroups l.rm.toNat l.fz ta.cols (row.map Elem.val) none 0
      val (f32.decode false (r.1.getD 0), r.2)
  | .tredMax .. =>
    match row with
    | [] => (0, 0)
    | v :: t =>
      match v with
      | .int u => if 5 ≤ ta.fmt then td.deliver l (.int (t.foldl (fun m w => match w with
          | .int n => Max.max m n
          | _ => m) u))
        else (0, 0)
      | _ => val (t.foldl (fun m w =>
          let r := minMax true m.1 w.val
          (r.1, m.2 ||| r.2)) (pass v.val))
  | .tscale _ _ _ k => val (Elem.mul l.rm.toNat l.fz x (.float (scalar k)))
  | .tfill _ _ k => ((l.reg k).toNat % (if td.fmt = 4 then 64 else 2 ^ (8 * fmtBytes td.fmt)), 0)
  | .tmask _ _ _ k =>
    let y := scalar k
    let nan := x.val.isNaN || y.isNaN
    let holds := match (l.reg k).toNat / 2 ^ 32 % 4 with
      | 0 => !nan && y.lt x.val
      | 1 => !nan && !x.val.lt y
      | 2 => !nan && x.val.eqv y
      | _ => nan || !x.val.eqv y
    val (if holds then .num false 1 0 else .zero false, if x.val.signals || y.signals then 0x080 else 0)
  | _ => (0, 0)

/-- The element of hB that element `e` of hD reads (R125). -/
def broadcastAt (tb td : Tile) (e : Nat) : Nat :=
  if tb.rows = td.rows ∧ tb.cols = td.cols then e else if tb.cols = 1 then 0 else e % td.cols

/-- Lanes of the vector unit for a list of operands (R128). -/
def laneCount (special : Bool) (ts : List Tile) : Nat :=
  if special = true ∨ ts.any (fun t => fmtBytes t.fmt = 4) then 16 else if ts.any (fun t => fmtBytes t.fmt = 2) then 32 else 64

/-- The bits of element `e` of a placed operand. -/
def bitsAt (s : State) (p : Option Placed) (e : Nat) : Nat := (((p.map s.tileBits).getD [])[e]?).getD 0

/-- The tile of an operand, and where the segment that its base selects puts its rows. -/
def operandOf (s : State) (h : Option (BitVec 8)) : Option Tile := h.bind fun x => tileOf ((s.core s.run.1).handle x)
def placedAt (s : State) (sl : Slot) (t : Tile) : Placed :=
  Placed.mk s.run.1 sl.line.vfid.toNat (sl.seg (t.base.toNat / 2 ^ 61)) (t.base.toNat % 2 ^ 48) t

/-- The extent of an operand passes step 5 of R124 as one access: the base is well formed, the segment valid, on chip and
long enough, it grants what the form needs, and no byte lies in a handle table or in another VF's kept bank. -/
structure ExtentOk (s : State) (sl : Slot) (t : Tile) (reads writes : Bool) : Prop where
  high : t.base.toNat / 2 ^ 48 % 2 ^ 13 = 0
  valid : (placedAt s sl t).seg.valid = true
  limit : t.base.toNat % 2 ^ 48 + (t.rows - 1) * t.stride + rowBytes t.fmt t.cols ≤ (placedAt s sl t).seg.limit
  readable : reads = true → (placedAt s sl t).seg.r = true
  writable : writes = true → (placedAt s sl t).seg.w = true
  onChip : (placedAt s sl t).seg.type = .scratch ∨ (placedAt s sl t).seg.type = .cluster ∨ (placedAt s sl t).seg.type = .peer
  free : s.runsRefused sl.line.vfid.toNat (s.extentRuns (placedAt s sl t)) = false

/-- The conditions under which a page-3 form whose hD is `td` executes: the unit is free (R128), every check of R124 passes,
no operand's memory is being cleared (R209, R213), no queued store of the context must go first (R265), and no source is
poisoned (R129). -/
structure TilesReady (s : State) (sl : Slot) (f : TileForm) (td : Tile) : Prop where
  unit : s.vectorBusy s.run.1 = false
  table : s.scrubbing s.run.1 = false
  handles : handleFault (s.core s.run.1) f = none
  dest : operandOf s (some f.d) = some td
  sources : ∀ t, operandOf s f.a = some t ∨ operandOf s f.b = some t →
    ExtentOk s sl t true false ∧ s.tilePoison (placedAt s sl t) = none
  target : ExtentOk s sl td f.readsD true
  clean : f.readsD = true → s.tilePoison (placedAt s sl td) = none
  still : ∀ t ∈ (operandOf s f.a).toList ++ (operandOf s f.b).toList ++ [td], ∀ r ∈ s.extentRuns (placedAt s sl t),
    s.clearing r.1 = false
  first : s.runsHeld sl.who (((operandOf s f.a).toList ++ (operandOf s f.b).toList ++ [td]).flatMap
    fun t => s.extentRuns (placedAt s sl t)) = false

end Sys2Proof.Claims
open Sys2Proof Sys2Proof.Machine Sys2Proof.Claims

/-- R124, R128: a page-3 form whose handles fail traps HANDLE with the first handle and reason in the rule's order, and
writes no element; while the vector unit is busy or the scratchpad is scrubbed (R209) it is not ready, guarded off or not. That tcopy
between two formats names hD is the model's reading (log 19). -/
def Obligations.TileFormsCheckTheirHandles : Prop :=
  ∀ (i : Instr) (f : TileForm) (h : BitVec 8) (acc r : Nat) (s : State) (sl : Slot), tileForm i = some f →
    (Ready s sl f.pre → s.vectorBusy s.run.1 = false → s.scrubbing s.run.1 = false →
      handleFault (s.core s.run.1) f = some (h, acc, r) →
        exec i s = .next (s.takeTrap s.run.1 s.run.2 sl 0x0B (BitVec.ofNat 64 (h.toNat + 256 * r)) i.tinfo acc)) ∧
    (s.vectorBusy s.run.1 = true ∨ s.scrubbing s.run.1 = true → exec i s = .next s)

/-- R124 to R133: tadd, tsub, tmul, tfma, tmin, tmax, tsel, tcvt, texp2, tlog2, trcp, tcopy, tred.sum, tred.max, tscale,
tfill and tmask complete once the unit is free and their operands pass every check: every element of hD takes the result
of its row of the tables, delivered as R126 and R131 to R133 say, all the elements' flags go into fcsr, the vector unit
is held for ceil(E / N) cycles, and the instruction completes 12 cycles later. The inexact texp2, tlog2 and trcp are the
model's free values (log 7), delivered in the rounding mode from integers too (log 101); that an integer zero is +0 in a
float operation and that tsel across formats delivers its choice are the model's readings (logs 46 and 47). R123, R129:
writing a tile changes no byte outside its rows, no full/empty bit and nothing of module memory. -/
def Obligations.TileFormsWriteEveryElement : Prop :=
  (∀ (i : Instr) (f : TileForm) (td : Tile) (s : State) (sl : Slot),
    tileForm i = some f → Ready s sl f.pre → TilesReady s sl f td →
      let ta := (operandOf s f.a).getD td
      let tb := (operandOf s f.b).getD td
      let A := bitsAt s ((operandOf s f.a).map (placedAt s sl))
      let B (e : Nat) := bitsAt s ((operandOf s f.b).map (placedAt s sl)) (broadcastAt tb td e)
      let C := bitsAt s (some (placedAt s sl td))
      let res := (List.range (td.rows * td.cols)).map (tileResult i sl.line ta tb td A B C)
      let ts := (operandOf s f.a).toList ++ (operandOf s f.b).toList ++ [td]
      let E := (ts.map fun x => x.rows * x.cols).foldl Max.max 0
      let n := (E + laneCount f.special ts - 1) / laneCount f.special ts
      exec i s = .next (after ((s.writeTile (placedAt s sl td) (res.map Prod.fst)).takeVector s.run.1 s.run.2 n) sl i
        { sl.line with fcsr := (res.map Prod.snd).foldl (· ||| ·) sl.line.fcsr } (12 + n))) ∧
  (∀ (s : State) (p : Placed) (bits : List Nat) (key : Nat), s.mem.wf = true →
    (∀ i < p.tile.rows, ∀ r ∈ s.rowRuns p i, ∀ q, chipKey r.1 = some q → key < q ∨ q + r.2 ≤ key) →
      (s.writeTile p bits).mem.get key = s.mem.get key ∧
      (∀ k, (s.writeTile p bits).mem.full k = s.mem.full k) ∧ (s.writeTile p bits).llc = s.llc)

namespace Sys2Proof.Claims
open Sys2Proof.Machine

/-! ## Fences, migration, launch (R106, R153 to R156) -/

/-- Order and scope of a fence, and whether every earlier posted entry that it waits for is performed (R106, R264). -/
def fenceOf (p : Pre) : BitVec 2 × BitVec 3 := (p.order.map fun o => (o.ord, o.scope)).getD (3, 6)
def Drained (s : State) (w : Who) (adaptive : Bool) : Prop :=
  ∀ e ∈ s.cores, ∀ x ∈ e.2.stores, x.who = w → x.adaptive = true ∧ adaptive = false

/-- The context is in flight at its instruction: it is asked again until the instruction completes. -/
def pending (s : State) (sl : Slot) (i : Instr) : State := s.putCur { sl with held := some i }

/-- A pointer passes R30 steps 1 and 2 for one byte (R153, R190). -/
def InLimit (sl : Slot) (q : Word) : Prop :=
  q.toNat / 2 ^ 48 % 2 ^ 13 = 0 ∧ (sl.seg (q.toNat / 2 ^ 61)).valid = true ∧
    q.toNat % 2 ^ 48 + 1 ≤ (sl.seg (q.toNat / 2 ^ 61)).limit

/-- The core a pointer names by the table of R153. -/
def homeAt (s : State) (sl : Slot) (q : Word) : Option Nat :=
  s.homeCore s.run.1 sl.line.vfid.toNat (sl.seg (q.toNat / 2 ^ 61)) (q.toNat % 2 ^ 48)

/-! ## Commands (R167 to R172) -/

/-- The assembly buffer of a port after a header or a later push that does not complete the command (R167). -/
def buffered (s : State) (port : Nat) (b : Assembly) : State :=
  s.setCore s.run.1 { s.core s.run.1 with buffers := (s.core s.run.1).buffers.set port b }

/-- The scope that a push names (R170). -/
def scopeOf (p : Pre) : BitVec 3 := (p.order.map fun o => if o.scope.toNat ≤ 1 then 2 else o.scope).getD 2

/-- The wider of two scopes. -/
def wider (a b : BitVec 3) : BitVec 3 := if a.toNat < b.toNat then b else a

/-- A command reaches its engine (R163, R231): a die's queue, a cluster's queue, or, for a capability outside the
partition, its completion with status CAP. -/
def arrivesAt (s t : State) (c : Cmd) : Prop :=
  let n := nodeClusters (s.nodeOf c.vf)
  let cap := (c.dws.headD 0).toNat / 2 ^ 32
  if c.port = 4 ∨ c.port = 5 then (t.die (dieOf c.core)).queue = (s.die (dieOf c.core)).queue ++ [c]
  else if c.port = 0 ∧ cap ≠ 0 ∧ n ≤ cap % 256 then
    ∃ e, t.transit = s.transit ++ [e] ∧ e.who = c.who ∧ e.dw0.toNat / 2 ^ 16 % 16 = 1
  else
    let k := if c.port = 0 ∧ cap ≠ 0 then physicalCluster (s.nodeOf c.vf) (cap % 256) else clusterOf c.core
    (t.cluster k).queues = (s.cluster k).queues ++ [c]

/-! ## Rings and handles (R187 to R189, R214, R218 to R220) -/

/-- The state in which a ring form tests its counts. -/
def ringState (s : State) (sl : Slot) (g : Seg) (loc : Loc) (adv : Bool) : State :=
  probing s sl.line.vfid.toNat loc adv (if adv then some (homeScope g.type) else none)

/-- A ring form reaches its ring's header: the table is not being cleared, the handle is a ring, its base passes R30 as one
access of 16 bytes on chip (R218), nothing that R265 puts first is left, and no word of the header is poisoned. -/
structure RingAt (s : State) (sl : Slot) (h : BitVec 8) (adv : Bool) (r : Ring) (g : Seg) (loc : Loc) : Prop where
  quiet : s.scrubbing s.run.1 = false
  table : ringOf ((s.core s.run.1).handle h) = some r
  there : s.segCheck s.run.1 sl.line.vfid.toNat sl.segs r.base 16 (if adv then needReadWrite else needLoad) false r.base
    = .ok (g, .chip loc)
  kept : s.clearing loc = false
  may : s.mayPerform s.run.1 sl.who loc 16 (if adv then some (homeScope g.type) else none) = true
  clean : (ringState s sl g loc adv).headerPoison r.base loc = none

/-- The doublewords of a header: P and pidx, C and cidx (R219). -/
def headerAt (s : State) (loc : Loc) : Nat × Nat := (s.mem.read loc.key 8, s.mem.read (loc.plus 8).key 8)

/-- filled of R187, and a count moved on by R220. -/
def filled (w0 w1 : Nat) : Nat := (w0 % 2 ^ 16 + 2 ^ 16 - w1 % 2 ^ 16) % 2 ^ 16
def moved (w n slots : Nat) : Nat := (w % 2 ^ 16 + n) % 2 ^ 16 + 2 ^ 16 * ((w / 2 ^ 16 % 16 + n) % slots)

/-- The core's handle table with an entry written; a descriptor of kind 0 leaves the handle undefined (R189). -/
def defined (s : State) (h : BitVec 8) (lo hi : Word) : State :=
  s.setCore s.run.1 { s.core s.run.1 with
    handles := if lo.toNat % 4 = 0 then (s.core s.run.1).handles.erase h.toNat
      else (s.core s.run.1).handles.set h.toNat (lo, hi) }

/-- The handle-table entry of a core that has not been written since it was cleared reads 0. -/
def entryOf (s : State) (h : BitVec 8) : Word × Word := ((s.core s.run.1).handles.find h.toNat).getD (0, 0)

end Sys2Proof.Claims
open Sys2Proof Sys2Proof.Machine Sys2Proof.Claims

/-- R106: an acquire fence completes; a release fence completes once the earlier posted accesses are performed (adaptive
stores only where its scope waits for them), at system scope with the core's dirty words written back, and is pending
until then. R153, R154: mig completes at its home, departs in a packet with wt MIGRATE for another core, and traps as the
rule says. That a system release writes back the VF's dirty words on other cores too (log 18), and that the line in the packet is in
flight and its context nowhere else meanwhile (log 30), are the model's choices. -/
def Obligations.FencesWaitAndMigrationDeparts : Prop :=
  (∀ (p : Pre) (s : State) (sl : Slot), Ready s sl p →
    let o := (fenceOf p).1
    let scope := (fenceOf p).2
    (o = 1 → exec (.fence p) s = .next (after s sl (.fence p) sl.line 8)) ∧
    (o ≠ 1 → Drained s sl.who (5 ≤ scope.toNat) →
      exec (.fence p) s = .next (after (if scope = 6 then s.systemRelease s.run.1 sl.line.vfid.toNat else s) sl (.fence p) sl.line 8)) ∧
    (o ≠ 1 → ¬ Drained s sl.who (5 ≤ scope.toNat) → exec (.fence p) s = .next (pending s sl (.fence p)))) ∧
  (∀ (p : Pre) (a : BitVec 3) (s : State) (sl : Slot), Ready s sl p →
    let i : Instr := .mig p a
    let q := sl.line.reg a
    (¬ InLimit sl q → exec i s = .next (trapped s sl i 0x03 q)) ∧
    (InLimit sl q → homeAt s sl q = none → exec i s = .next (trapped s sl i 0x12 q)) ∧
    (InLimit sl q → homeAt s sl q = some s.run.1 → Drained s sl.who false →
      exec i s = .next (after (s.abandon s.run.1 sl.who) sl i sl.line 8)) ∧
    (∀ c, InLimit sl q → homeAt s sl q = some c → c ≠ s.run.1 →
      (∀ k w n v, sl.who = .handler k w n v → exec i s = .next (trapped s sl i 0x0C q)) ∧
      (∀ v k x, sl.who = .ctx v k → s.ctx? v k = some x → (s.cluster (clusterOf s.run.1)).replay.length < 512 →
        ∃ t pk, exec i s = .next t ∧ t.packets = s.packets ++ [pk] ∧ pk.launch = false ∧ pk.vf = v ∧ pk.index = k ∧
          pk.dst = s.lcore v c ∧ pk.arrived = none ∧
          pk.line = { sl.line with wt := .migrate, wtArg := BitVec.ofNat 28 (s.lcore v c),
                                   ccore := BitVec.ofNat 12 (s.lcore v c) } ∧
          t.slot? s.run.1 s.run.2 = none ∧ t.placeOf v k = some .flight ∧ t.mem = s.mem)))

/-- R108: exit retires its context once its earlier accesses are performed, and traps ILLEGAL in a handler. R156: spawn
takes a reservation of its RCB's quota, hands the child to the pending-launch pool and sets P[d] to 1; with no reservation
free it clears P[d] and does nothing else. A spawn through an on-chip segment names base plus offset as its child (log 38, the model's
reading). -/
def Obligations.ExitRetiresAndSpawnDrawsOnItsQuota : Prop :=
  (∀ (p : Pre) (s : State) (sl : Slot), Ready s sl p →
    (∀ c w n v, sl.who = .handler c w n v →
      exec (.exit p) s = .next (trapped s sl (.exit p) 0x01 (Instr.packed (.exit p)))) ∧
    (∀ v k x, sl.who = .ctx v k → s.ctx? v k = some x → x.place = .l1 s.run.1 s.run.2 →
      Drained (s.abandon s.run.1 sl.who) sl.who true →
        ∃ t, exec (.exit p) s = .next t ∧ t.placeOf v k = some .retired ∧ t.slot? s.run.1 s.run.2 = none ∧
          (∀ w ∈ t.waiters, w.who ≠ sl.who) ∧
          (∀ y, t.ctx? v k = some y → y.rcb = x.rcb ∧ y.watch = none ∧ y.wake = none))) ∧
  (∀ (p : Pre) (d a : BitVec 3) (s : State) (sl : Slot) (g : Seg) (loc : Loc) (priv : Bool),
    Ready s sl p → Reaches s sl (sl.line.reg a) 256 needLoad .read g loc priv →
    let i : Instr := .spawn p d a
    let v := sl.line.vfid.toNat
    (∀ r, s.rcb? v sl.rcb = some r → r.state = .admitted → r.sused < r.squota →
      ∃ t e, exec i s = .next t ∧ t.pool = s.pool ++ [e] ∧ e.vf = v ∧ e.child = g.base + (sl.line.reg a).toNat % 2 ^ 48 ∧
        e.parent = r.addr ∧ e.who = sl.who ∧ t.rcb? v sl.rcb = some { r with sused := r.sused + 1 } ∧
        t.cur? = some { sl with line := (sl.line.setPred (d.setWidth 5) true).fire i
                                readyAt := s.coreCycle s.run.1 + 16
                                held := none }) ∧
    ((∀ r, s.rcb? v sl.rcb = some r → r.state ≠ .admitted ∨ r.squota ≤ r.sused) →
      exec i s = .next (after s sl i (sl.line.setPred (d.setWidth 5) false) 16)))

/-- R167 to R170, R172: a header push with a length other than 2, 4 or 8, or a seventeenth command of the port, traps
ENGINE; otherwise it reserves a completion entry and starts the port's buffer; pushes add two doublewords each; the one
that completes the command empties the buffer and the command arrives at its engine with its release. A full completion
store, a buffer of another context, and a scrub of the scratchpad (R209) leave the context as it was. That an unsent
partial command counts as outstanding is the model's reading (log 53). R171, R172, R234: pop takes the context's oldest
completion of the port into two registers and its flags into fcsr; with none held it waits POP while a command is
outstanding (a handler traps HANDLER_WAIT) and traps ENGINE otherwise. peek reads it and leaves it, or reads 0. -/
def Obligations.PushesSendCommandsPopsTakeCompletions : Prop :=
  (∀ (p : Pre) (port a b : BitVec 3) (s : State),
    let i : Instr := .push p port a b
    (s.scrubbing s.run.1 = true → exec i s = .next s) ∧
    ∀ sl, Ready s sl p → s.scrubbing s.run.1 = false →
    let k := s.core s.run.1
    let n := port.toNat
    let x := sl.line.reg a
    let y := sl.line.reg b
    let len := x.toNat / 2 ^ 8 % 2 ^ 8
    let mine := (k.reserved.filter fun e => e = (sl.who, n)).length +
      (k.held.filter fun e => e.who = sl.who && e.port = n).length
    let headed : State := s.setCore s.run.1 { k with reserved := k.reserved ++ [(sl.who, n)] }
    (k.buffers.find n = none → 1024 ≤ k.held.length + k.reserved.length → exec i s = .next s) ∧
    (k.buffers.find n = none → k.held.length + k.reserved.length < 1024 →
      (len ∉ [2, 4, 8] → exec i s = .next (trapped s sl i 0x10 (BitVec.ofNat 64 (1 + 256 * n)))) ∧
      (len ∈ [2, 4, 8] → 16 ≤ mine → exec i s = .next (trapped s sl i 0x10 (BitVec.ofNat 64 (2 + 256 * n)))) ∧
      (len ∈ [4, 8] → mine < 16 →
        exec i s = .next (after (buffered headed n (Assembly.mk sl.who len [x, y] (scopeOf p) s.cycle)) sl i sl.line 8)) ∧
      (len = 2 → mine < 16 → (s.cluster (clusterOf s.run.1)).replay.length < 512 →
        headed.cmdClearing (sentCommand headed sl n [x, y] (scopeOf p)) = false →
          ∃ t c, exec i s = .next t ∧ t.cur? = some { sl with line := sl.line.fire i
                                                              readyAt := s.coreCycle s.run.1 + 8
                                                              held := none } ∧
            c.who = sl.who ∧ c.port = n ∧ c.dws = [x, y] ∧ c.after = s.posted ∧ arrivesAt headed t c)) ∧
    (∀ buf, k.buffers.find n = some buf →
      (buf.owner ≠ sl.who → exec i s = .next s) ∧
      (buf.owner = sl.who → buf.dws.length + 2 < buf.need →
        exec i s = .next (after (buffered s n { buf with dws := buf.dws ++ [x, y], scope := wider buf.scope (scopeOf p) })
          sl i sl.line 8)) ∧
      (buf.owner = sl.who → buf.need ≤ buf.dws.length + 2 → (s.cluster (clusterOf s.run.1)).replay.length < 512 →
        s.cmdClearing (sentCommand s sl n (buf.dws ++ [x, y]) (wider buf.scope (scopeOf p))) = false →
          ∃ t c, exec i s = .next t ∧ t.cur? = some { sl with line := sl.line.fire i
                                                              readyAt := s.coreCycle s.run.1 + 8
                                                              held := none } ∧
            (t.core s.run.1).buffers.find n = none ∧
            c.who = sl.who ∧ c.port = n ∧ c.dws = buf.dws ++ [x, y] ∧ c.after = s.posted ∧ arrivesAt s t c))) ∧
  (∀ (p : Pre) (port a b : BitVec 3) (s : State) (sl : Slot), Ready s sl p →
    let k := s.core s.run.1
    let got := k.held.find? fun e => e.who = sl.who && e.port = port.toNat
    let i : Instr := .pop p port a b
    (∀ e, got = some e →
      exec i s = .next (after (s.setCore s.run.1 { k with held := k.held.erase e }) sl i
        { (sl.line.setReg a e.dw0).setReg b e.dw1 with fcsr := sl.line.fcsr ||| e.flags } 8)) ∧
    (got = none → (sl.who, port.toNat) ∉ k.reserved →
      exec i s = .next (trapped s sl i 0x10 (BitVec.ofNat 64 (3 + 256 * port.toNat)))) ∧
    (got = none → (sl.who, port.toNat) ∈ k.reserved → sl.line.handler = true →
      exec i s = .next (trapped s sl i 0x0C (BitVec.ofNat 64 port.toNat))) ∧
    (got = none → (sl.who, port.toNat) ∈ k.reserved → sl.line.handler = false →
      (∀ q ∈ k.buffers, q.2.owner ≠ sl.who) → exec i s = .next (waiting s sl .pop (BitVec.ofNat 28 port.toNat))) ∧
    exec (.peek p port a b) s = .next (after s sl (.peek p port a b)
      ((sl.line.setReg a (got.elim 0 Completion.dw0)).setReg b (got.elim 0 Completion.dw1)) 8))

/-- R187, R188, R220: rwait.f completes once n slots are filled and rwait.e once n are free, and wait RING otherwise; radv.p
and radv.c move their count and index by n, and trap HANDLE reason 7 when that would pass the other count; a handle that
is no ring traps reason 1 and an n above the slots reason 6. R209: during a scrub of the scratchpad none of them is ready. That
reason 6 comes before the check of the ring's base (log 54), and that a ring outside the scratchpad is held by the scrub too
(log 101), are the model's readings. -/
def Obligations.RingFormsWaitAndAdvance : Prop :=
  (∀ (p : Pre) (n : BitVec 4) (h : BitVec 8) (s : State), s.scrubbing s.run.1 = true →
    ∀ i ∈ [Instr.rwaitF p n h, .rwaitE p n h, .radvP p n h, .radvC p n h], exec i s = .next s) ∧
  ∀ (p : Pre) (n : BitVec 4) (h : BitVec 8) (s : State) (sl : Slot), Ready s sl p →
    let m := n.toNat + 1
    let code (r : Nat) : Word := BitVec.ofNat 64 (h.toNat + 256 * r)
    (∀ i ∈ [Instr.rwaitF p n h, .rwaitE p n h, .radvP p n h, .radvC p n h], s.scrubbing s.run.1 = false →
      ringOf ((s.core s.run.1).handle h) = none → exec i s = .next (trapped s sl i 0x0B (code 1))) ∧
    (∀ i ∈ [Instr.rwaitF p n h, .rwaitE p n h], ∀ r, s.scrubbing s.run.1 = false →
      ringOf ((s.core s.run.1).handle h) = some r → r.slots < m → exec i s = .next (trapped s sl i 0x0B (code 6))) ∧
    (∀ i holds r g loc w, w = headerAt (ringState s sl g loc false) loc →
        (i, holds) ∈ [(Instr.rwaitF p n h, decide (m ≤ filled w.1 w.2)),
          (Instr.rwaitE p n h, decide (filled w.1 w.2 + m ≤ r.slots))] →
        RingAt s sl h false r g loc → m ≤ r.slots →
      (holds = true → exec i s = .next (after (ringState s sl g loc false) sl i sl.line 8)) ∧
      (holds = false → sl.line.handler = true →
        exec i s = .next (trapped (ringState s sl g loc false) sl i 0x0C (BitVec.ofNat 64 h.toNat))) ∧
      (holds = false → sl.line.handler = false → exec i s = .next
        ((waiting (ringState s sl g loc false) sl .ring (BitVec.ofNat 28 (h.toNat + 256 * m))).register
          (Waiter.mk sl.who .ring loc 16 none)))) ∧
    (∀ r g loc, RingAt s sl h true r g loc →
      let x := ringState s sl g loc true
      let w := headerAt x loc
      let v := sl.line.vfid.toNat
      (filled w.1 w.2 + m ≤ r.slots → exec (.radvP p n h) s
        = .next (after (x.writeRuns v [(loc, 8)] (moved w.1 m r.slots)) sl (.radvP p n h) sl.line 8)) ∧
      (r.slots < filled w.1 w.2 + m → exec (.radvP p n h) s = .next (trapped x sl (.radvP p n h) 0x0B (code 7))) ∧
      (m ≤ filled w.1 w.2 → exec (.radvC p n h) s
        = .next (after (x.writeRuns v [(loc.plus 8, 8)] (moved w.2 m r.slots)) sl (.radvC p n h) sl.line 8)) ∧
      (filled w.1 w.2 < m → exec (.radvC p n h) s = .next (trapped x sl (.radvC p n h) 0x0B (code 7))))

/-- R189, R215, R218, R219: hdef writes a valid descriptor to its handle, with init = 1 also the ring's header words P and
pidx, C and 0, and traps HANDLE reason 8 for an invalid one; hrd reads a handle's two doublewords, 0 when undefined; hmov
copies one handle to another. R209: during a scrub of the scratchpad none of them is ready. -/
def Obligations.HandleFormsWriteTheTable : Prop :=
  (∀ (p : Pre) (h ha : BitVec 8) (a b : BitVec 3) (s : State), s.scrubbing s.run.1 = true →
    ∀ i ∈ [Instr.hdef p h a b, .hrd p h a b, .hmov p h ha], exec i s = .next s) ∧
  ∀ (p : Pre) (s : State) (sl : Slot), Ready s sl p → s.scrubbing s.run.1 = false →
    (∀ (h : BitVec 8) (a b : BitVec 3),
      let i : Instr := .hdef p h a b
      let e := (sl.line.reg a, sl.line.reg b)
      (e.1.toNat % 4 ≠ 0 → tileOf e = none → ringOf e = none →
        exec i s = .next (trapped s sl i 0x0B (BitVec.ofNat 64 (h.toNat + 256 * 8)))) ∧
      ((e.1.toNat % 4 = 0 ∨ (tileOf e).isSome = true ∨ ∃ r, ringOf e = some r ∧ r.init = false) →
        exec i s = .next (after (defined s h e.1 e.2) sl i sl.line 8)) ∧
      (∀ r g loc, ringOf e = some r → r.init = true →
        s.segCheck s.run.1 sl.line.vfid.toNat sl.segs r.base 16 needStore false r.base = .ok (g, .chip loc) →
        s.clearing loc = false → s.mayPerform s.run.1 sl.who loc 16 (some (homeScope g.type)) = true →
          let v := sl.line.vfid.toNat
          let x := (ringState s sl g loc true).writeRuns v [(loc, 8)]
            (r.p + 2 ^ 16 * ((r.p + 2 ^ 16 - r.c) % 2 ^ 16 % r.slots))
          exec i s = .next (after (defined (x.writeRuns v [(loc.plus 8, 8)] r.c) h e.1 e.2) sl i sl.line 8))) ∧
    (∀ (h : BitVec 8) (a b : BitVec 3), exec (.hrd p h a b) s = .next (after s sl (.hrd p h a b)
      ((sl.line.setReg a (entryOf s h).1).setReg b (entryOf s h).2) 8)) ∧
    (∀ hd ha : BitVec 8, exec (.hmov p hd ha) s = .next (after (defined s hd (entryOf s ha).1 (entryOf s ha).2) sl
      (.hmov p hd ha) sl.line 8))

namespace Sys2Proof.Claims
open Sys2Proof.Machine

/-! ## Ids, messages, lines (R13, R14, R190, R191, R199) -/

/-- The id of a context or handler as a doubleword. -/
def idOf (w : Who) : Nat :=
  match w with
  | .ctx v i => v * 2 ^ 40 + i
  | .handler _ _ _ _ => 2 ^ 64 - 1

/-- A doubleword names context `i` of VF `v` (R12, R13). -/
def Names (s : State) (w : Word) (v i : Nat) : Prop :=
  w.toNat / 2 ^ 49 = 0 ∧ w.toNat / 2 ^ 40 % 2 ^ 9 = v ∧ w.toNat % 2 ^ 40 = i ∧ i < (s.vf v).ctxlen

/-- A doubleword of a line, as R14 lays it out. -/
def lineDw (l : Line) (k : Nat) : Word :=
  let bit (b : Bool) : Nat := if b then 1 else 0
  match k with
  | 0 => BitVec.ofNat 64 (l.pc.toNat + 2 ^ 48 * (bit l.world + 2 * bit l.supervisor + 4 * bit l.handler + 8 * bit l.step))
  | 1 => BitVec.ofNat 64 (l.pw.toNat + 2 ^ 32 * l.wtArg.toNat + 2 ^ 60 * l.wt.code.toNat)
  | 2 => BitVec.ofNat 64 (l.fcsr.toNat + 2 ^ 16 * l.vfid.toNat + 2 ^ 32 * l.sset.toNat + 2 ^ 48 * l.prio.toNat
      + 2 ^ 56 * l.cls.toNat)
  | 3 => BitVec.ofNat 64 (l.lb0.toNat + 2 ^ 32 * l.le0.toNat)
  | 4 => BitVec.ofNat 64 (l.lb1.toNat + 2 ^ 32 * l.le1.toNat)
  | 5 => BitVec.ofNat 64 (l.lc0.toNat + 2 ^ 32 * l.lc1.toNat)
  | 6 => BitVec.ofNat 64 (l.tcause.toNat + 2 ^ 16 * l.tinfo.toNat + 2 ^ 32 * l.ccore.toNat)
  | 7 => l.tval
  | k => l.reg (BitVec.ofNat 3 (k - 8))

/-- A line after cxst writes one doubleword with supervisor rights (R14, R199). -/
def lineWith (l : Line) (k : Nat) (w : Word) : Line :=
  let n := w.toNat
  let half (m : Nat) : BitVec 32 := BitVec.ofNat 32 (m % 2 ^ 32)
  let even (m : Nat) : BitVec 32 := BitVec.ofNat 32 (m % 2 ^ 32 / 2 * 2)
  match k with
  | 0 => { l with pc := BitVec.ofNat 48 n, supervisor := decide (n / 2 ^ 49 % 2 = 1), step := decide (n / 2 ^ 51 % 2 = 1) }
  | 1 => { l with pw := half n ||| 1 }
  | 2 =>
    { l with
      fcsr := BitVec.ofNat 16 (n % 1024)
      sset := BitVec.ofNat 16 (n / 2 ^ 32)
      prio := BitVec.ofNat 8 (n / 2 ^ 48)
      cls := BitVec.ofNat 8 (n / 2 ^ 56) }
  | 3 => { l with lb0 := even n, le0 := even (n / 2 ^ 32) }
  | 4 => { l with lb1 := even n, le1 := even (n / 2 ^ 32) }
  | 5 => { l with lc0 := half n, lc1 := half (n / 2 ^ 32) }
  | 6 => { l with tcause := BitVec.ofNat 16 n,
                  tinfo := BitVec.ofNat 16 (l.tinfo.toNat / 1024 * 1024 + n / 2 ^ 16 % 1024) }
  | 7 => { l with tval := w }
  | k => l.setReg (BitVec.ofNat 3 (k - 8)) w

/-- The bits of a doubleword of a line that cxst writes (R14, R199). -/
def writableBits (k : Nat) : List (Nat × Nat) :=
  match k with
  | 0 => [(1, 48), (49, 50), (51, 52)]
  | 1 => [(1, 32)]
  | 2 => [(0, 10), (32, 64)]
  | 3 | 4 => [(1, 32), (33, 64)]
  | 6 => [(0, 26)]
  | _ => [(0, 64)]

/-- A doubleword of a memory copy after cxst: its writable bits are the written ones, the others as they were. -/
def dwWith (k : Nat) (old new : Word) : Word :=
  BitVec.ofNat 64 ((List.range 64).foldl (fun n j =>
    n + if (if (writableBits k).any fun r => r.1 ≤ j && j < r.2 then new.getLsbD j else old.getLsbD j) then 2 ^ j else 0) 0)

/-! ## Special registers (R195) -/

/-- Eight entries of a slot table as a doubleword. -/
def groupOf (t : List (BitVec 8)) (g : Nat) : Word :=
  BitVec.ofNat 64 (((List.range 8).map fun k => ((t[8 * g + k]?).getD 0).toNat * 2 ^ (8 * k)).sum)

/-- What page-6 rdsr reads of each register. -/
def privValue (s : State) (sl : Slot) (n : Nat) : Word :=
  let v := sl.line.vfid.toNat
  let k := s.core s.run.1
  let node := s.nodeOf v
  match n with
  | 0 => BitVec.ofNat 64 k.cl1lim.toNat
  | 1 => BitVec.ofNat 64 (logicalCore node s.run.1 + 2 ^ 12 * logicalCluster node (s.run.1 / 16) + 2 ^ 20 * s.run.1
      + 2 ^ 32 * (64 / 2 ^ Nat.log2 (Max.max node 1)) + 2 ^ 39 * node)
  | 2 => BitVec.ofNat 64 (s.vf v).sstbase
  | 3 => BitVec.ofNat 64 (s.vf v).sstlen
  | 4 => BitVec.ofNat 64 (s.vf v).ctxbase
  | 5 => BitVec.ofNat 64 (s.vf v).ctxlen
  | 6 => BitVec.ofNat 64 (s.vf v).upcbase
  | n => if 8 ≤ n ∧ n < 12 then groupOf k.sltcur (n - 8) else if 12 ≤ n ∧ n < 16 then groupOf k.sltnew (n - 12) else 0

/-- The privileged forms of pages 4 and 6. -/
def privForm (i : Instr) : Prop :=
  match i with
  | .rdsrPriv .. | .wrsrPriv .. | .eret .. | .tlbinv .. | .seginv .. | .sltWr .. | .cxld .. | .cxst .. | .yctl .. => True
  | _ => False

/-- A context that may run a privileged form. -/
structure Super (s : State) (sl : Slot) (p : Pre) : Prop where
  ready : Ready s sl p
  mode : sl.line.supervisor = true

/-- A context that is parked at its way, by a trap delivery (`low` false) or a stage-1 fault (`low` true) (R197, R198). -/
structure ParkedAt (s : State) (v i c w : Nat) (x : Slot) (fault : Bool) : Prop where
  place : s.placeOf v i = some (.l1 c w)
  here : s.slot? c w = some x
  kind : x.line.wt = .upcall
  slot : if fault then 2 ≤ x.line.wtArg.toNat % 256 else x.line.wtArg.toNat % 256 = 0
  other : (c, w) ≠ s.run

/-- Stage 2 reaches the memory copy of a context for a write. -/
def CopyReached (s : State) (v i : Nat) : Prop :=
  ∀ k < 16, s.word (.paged v (s.copyAddr v i + 8 * k)) true (s.vf v).sec ≠ .error .stage2

end Sys2Proof.Claims
open Sys2Proof Sys2Proof.Machine Sys2Proof.Claims

/-- R190, R191: send, with a free message credit and outside a reply handler, checks its pointer and its handler pc, and
puts a message for the home core into the outbound buffer, whose handler line holds the sender's id, the count and the
payload in g0 to g7 and the sender's mode, VF and priority. That the reply-class check comes before the pointer checks is the
model's reading, no rule of the spec (log 59). -/
def Obligations.SendQueuesItsMessage : Prop :=
  ∀ (p : Pre) (t h n : BitVec 3) (s : State) (sl : Slot), Ready s sl p →
    let i : Instr := .send p t h n
    let q := sl.line.reg t
    let k := s.core s.run.1
    (8 ≤ k.outbound.length → exec i s = .next s) ∧
    (k.outbound.length < 8 →
      (sl.reply = true → exec i s = .next (trapped s sl i 0x0C q)) ∧
      (sl.reply = false → ¬ InLimit sl q → exec i s = .next (trapped s sl i 0x03 q)) ∧
      (sl.reply = false → InLimit sl q → homeAt s sl q = none → exec i s = .next (trapped s sl i 0x12 q)) ∧
      (∀ dest, sl.reply = false → InLimit sl q → homeAt s sl q = some dest →
        (∀ c, targetCause (sl.line.reg h) = some c → exec i s = .next (trapped s sl i c (sl.line.reg h))) ∧
        (targetCause (sl.line.reg h) = none →
          ∃ m, exec i s = .next (after { s.setCore s.run.1 { k with outbound := k.outbound ++ [(dest, m)] } with
              posted := s.posted + 1 } sl i sl.line 8) ∧
            m.src = s.run.1 ∧ m.vf = sl.line.vfid.toNat ∧ m.reply = sl.line.handler ∧ m.who = sl.who ∧ m.after = s.posted ∧
            m.line.handler = true ∧ m.line.pc.toNat = (sl.line.reg h).toNat % 2 ^ 48 ∧
            m.line.supervisor = sl.line.supervisor ∧ m.line.world = sl.line.world ∧ m.line.vfid = sl.line.vfid ∧
            m.line.sset = sl.line.sset ∧ m.line.prio = sl.line.prio ∧ m.line.cls = sl.line.cls ∧ m.line.pw = 1 ∧
            m.line.rm = sl.line.rm ∧ m.line.fz = sl.line.fz ∧
            m.line.reg 0 = BitVec.ofNat 64 (idOf sl.who) ∧ m.line.reg 1 = BitVec.ofNat 64 n.toNat ∧
            ∀ j : BitVec 3, 2 ≤ j.toNat →
              m.line.reg j = if j.toNat < n.toNat + 2 then sl.line.reg j else 0)))

/-- R192, R197, R198, R304: hret ends its handler; eret resumes the context of g0, parked by a trap delivery, and ends its
handler; upret resumes one parked after a stage-1 fault, frees its upcall slot and continues; each traps ILLEGAL otherwise.
The resumed line is READY and the rest of it is as it was. That upret waits for the hypervisor, with a page request in its own
name, while stage 2 reaches no memory copy of a HOME context or no ring word of the slot that it frees is the model's choice
(log 24). -/
def Obligations.ReturnsResumeParkedContexts : Prop :=
  (∀ (p : Pre) (s : State) (sl : Slot), Ready s sl p →
    (sl.line.handler = false → exec (.hret p) s = .next (trapped s sl (.hret p) 0x01 (Instr.packed (.hret p)))) ∧
    (sl.line.handler = true → ∃ t, exec (.hret p) s = .next t ∧ t.slot? s.run.1 s.run.2 = none ∧
      (∀ e ∈ (t.core s.run.1).held, e.who ≠ sl.who) ∧ (∀ e ∈ (t.core s.run.1).reserved, e.1 ≠ sl.who) ∧ t.mem = s.mem)) ∧
  (∀ (p : Pre) (s : State) (sl : Slot), Super s sl p →
    let id := sl.line.reg 0
    let i : Instr := .eret p
    (sl.line.handler = false → exec i s = .next (trapped s sl i 0x01 i.packed)) ∧
    (sl.line.handler = true → (∀ k, Names s id sl.line.vfid.toNat k → s.parkedSlot sl.line.vfid.toNat k ≠ some 0) →
      exec i s = .next (trapped s sl i 0x01 id)) ∧
    (∀ k c w x, sl.line.handler = true → Names s id sl.line.vfid.toNat k → ParkedAt s sl.line.vfid.toNat k c w x false →
      ∃ t, exec i s = .next t ∧ t.slot? c w = some { x with line := { x.line with wt := .ready, wtArg := 0 } } ∧
        t.slot? s.run.1 s.run.2 = none ∧ t.mem = s.mem)) ∧
  (∀ (p : Pre) (a : BitVec 3) (s : State) (sl : Slot), Ready s sl p →
    let id := sl.line.reg a
    let v := sl.line.vfid.toNat
    let i : Instr := .upret p a
    let flags (x : Slot) : Nat := s.upcallRing v (s.ccoreOf v x.line) + 8 * (x.line.wtArg.toNat % 256 / 64)
    let waits : Prop := ∃ t r y, exec i s = .next t ∧ t.mem = s.mem ∧ t.requests = s.requests ++ [r] ∧ r.vf = v ∧
      r.requester = .wait sl.who ∧ t.cur? = some y ∧ y.line.wt = .xlate
    ((∀ k, Names s id v k → (s.placeOf v k = some .memory → CopyReached s v k) ∧
        ∀ n, s.parkedSlot v k = some n → n < 2) → exec i s = .next (trapped s sl i 0x01 id)) ∧
    (∀ k, Names s id v k → s.placeOf v k = some .memory → ¬ CopyReached s v k → waits) ∧
    (∀ k c w x, Names s id v k → ParkedAt s v k c w x true →
      s.word (.paged v (flags x)) true (s.vf v).sec = .error .stage2 → waits) ∧
    (∀ k c w x, Names s id v k → ParkedAt s v k c w x true →
      s.word (.paged v (flags x)) true (s.vf v).sec ≠ .error .stage2 →
      ∃ t, exec i s = .next (after t sl i sl.line 8) ∧
        t.slot? c w = some { x with line := { x.line with wt := .ready, wtArg := 0 } } ∧
        t.mem = (s.clearUpcall v (s.ccoreOf v x.line) (x.line.wtArg.toNat % 256)).mem))

/-- R205, R71: every privileged form in user mode traps PRIV with its parcels, whatever its guard, and has no effect of
its own. R194, R195, R196: page-6 rdsr reads each special register and rdtick the global tick; wrsr writes cl1lim (0 and
values above 64 trap ILLEGAL), sstbase, sstlen and upcbase, each with its reserved bits dropped, and nothing else. -/
def Obligations.PrivilegedFormsCheckTheirMode : Prop :=
  (∀ (i : Instr) (s : State) (sl : Slot), privForm i → s.cur? = some sl → sl.line.supervisor = false →
    exec i s = .next (trapped s sl i 0x02 i.packed)) ∧
  ((∀ (p : Pre) (d : BitVec 3) (n : BitVec 6) (s : State) (sl : Slot), Super s sl p →
    1 ≤ s.nodeOf sl.line.vfid.toNat → s.nodeOf sl.line.vfid.toNat < 128 →
    exec (.rdsrPriv p d n) s = .next (after s sl (.rdsrPriv p d n) (sl.line.setReg d (privValue s sl n.toNat)) 8)) ∧
  (∀ (p : Pre) (d : BitVec 3) (s : State) (sl : Slot), Ready s sl p →
    exec (.rdtick p d) s = .next (after s sl (.rdtick p d) (sl.line.setReg d (BitVec.ofNat 64 s.tick)) 8)) ∧
  (∀ (p : Pre) (a : BitVec 3) (s : State) (sl : Slot), Super s sl p →
    let w := sl.line.reg a
    let v := sl.line.vfid.toNat
    let x := s.vf v
    let done (n : BitVec 6) (y : Vf) : Prop :=
      exec (.wrsrPriv p a n) s = .next (after (s.setVf v y) sl (.wrsrPriv p a n) sl.line 8)
    (w.toNat % 128 = 0 ∨ 64 < w.toNat % 128 →
      exec (.wrsrPriv p a 0) s = .next (trapped s sl (.wrsrPriv p a 0) 0x01 w)) ∧
    (0 < w.toNat % 128 → w.toNat % 128 ≤ 64 →
      exec (.wrsrPriv p a 0) s = .next (after
        (s.setCore s.run.1 { s.core s.run.1 with cl1lim := BitVec.ofNat 7 w.toNat }) sl (.wrsrPriv p a 0) sl.line 8)) ∧
    done 2 { x with sstbase := w.toNat % 2 ^ 48 / 128 * 128 } ∧
    done 3 { x with sstlen := if w.toNat % 2 ^ 17 ≤ 65536 then w.toNat % 2 ^ 17 else 65536 } ∧
    done 6 { x with upcbase := w.toNat % 2 ^ 48 / 8192 * 8192 }))

/-- R199: cxld reads a doubleword of a context's line wherever the line lies, and waits for a line in a packet; cxst writes
the writable fields of one doubleword of a line parked UPCALL, at its way, in the context L2 or in its memory copy, which
it probes in its own world (R407). Both check the selector, the id and its VF; cxst also the parking, pc bit 0 and the
rounding mode; a poisoned word of a copy traps MEM_UNCORR. The model's choices here, no rules of the spec: the VF before the
index (log 94), and the id as tval of a poisoned copy (log 60). -/
def Obligations.OtherContextsLinesReadAndWrite : Prop :=
  ∀ (p : Pre) (d a b : BitVec 3) (s : State) (sl : Slot), Super s sl p →
    let id := sl.line.reg a
    let sel := sl.line.reg b
    let v := sl.line.vfid.toNat
    let k := sel.toNat % 16
    (∀ i ∈ [Instr.cxld p d a b, .cxst p d a b],
      (16 ≤ sel.toNat → exec i s = .next (trapped s sl i 0x01 sel)) ∧
      (sel.toNat < 16 → 2 ^ 49 ≤ id.toNat → exec i s = .next (trapped s sl i 0x01 id)) ∧
      (sel.toNat < 16 → id.toNat < 2 ^ 49 → id.toNat / 2 ^ 40 ≠ v → exec i s = .next (trapped s sl i 0x02 id)) ∧
      (sel.toNat < 16 → id.toNat < 2 ^ 49 → id.toNat / 2 ^ 40 = v → (s.vf v).ctxlen ≤ id.toNat % 2 ^ 40 →
        exec i s = .next (trapped s sl i 0x01 id))) ∧
    (∀ x, sel.toNat < 16 → Names s id v x →
      (∀ l, (∃ c w y, s.placeOf v x = some (.l1 c w) ∧ s.slot? c w = some y ∧ l = y.line) ∨
          (∃ c e, s.placeOf v x = some (.l2 c) ∧ (s.cluster c).l2.find? (fun e => e.vf = v && e.index = x) = some e ∧
            l = e.line) →
        exec (.cxld p d a b) s = .next (after s sl (.cxld p d a b) (sl.line.setReg d (lineDw l k)) 8)) ∧
      (s.placeOf v x = some .flight → exec (.cxld p d a b) s = .next (pending s sl (.cxld p d a b))) ∧
      (∀ y, s.placeOf v x = some .memory →
        s.mayPerform s.run.1 sl.who (.paged v ((s.vf v).ctxbase + 128 * x + 8 * k)) 8 none = true →
        s.word (.paged v ((s.vf v).ctxbase + 128 * x + 8 * k)) false sl.line.world = .ok y →
        let t := s.touchLlc v ((s.vf v).ctxbase + 128 * x + 8 * k) false false
        (y.poison = true → exec (.cxld p d a b) s = .next (trapped t sl (.cxld p d a b) 0x08 id)) ∧
        (y.poison = false → exec (.cxld p d a b) s = .next (after t sl (.cxld p d a b) (sl.line.setReg d y.data) 8))) ∧
      (∀ c w y, s.placeOf v x = some (.l1 c w) → s.slot? c w = some y →
        let i : Instr := .cxst p d a b
        let z := sl.line.reg d
        (y.line.wt ≠ .upcall → exec i s = .next (trapped s sl i 0x01 id)) ∧
        (y.line.wt = .upcall →
          (k = 0 → z.toNat % 2 = 1 → exec i s = .next (trapped s sl i 0x05 (BitVec.ofNat 64 (z.toNat % 2 ^ 48)))) ∧
          (k = 2 → 5 ≤ z.toNat % 8 → exec i s = .next (trapped s sl i 0x01 z)) ∧
          ((k = 0 → z.toNat % 2 = 0) → (k = 2 → z.toNat % 8 < 5) → (c, w) ≠ s.run →
            exec i s = .next (after (s.putSlot c w { y with
              line := lineWith y.line k z
              segsLoaded := if k = 2 then false else y.segsLoaded }) sl i sl.line 8)))) ∧
      (∀ c e, s.placeOf v x = some (.l2 c) → (s.cluster c).l2.find? (fun e => e.vf = v && e.index = x) = some e →
        let i : Instr := .cxst p d a b
        let z := sl.line.reg d
        (e.line.wt ≠ .upcall → exec i s = .next (trapped s sl i 0x01 id)) ∧
        (e.line.wt = .upcall →
          (k = 0 → z.toNat % 2 = 1 → exec i s = .next (trapped s sl i 0x05 (BitVec.ofNat 64 (z.toNat % 2 ^ 48)))) ∧
          (k = 2 → 5 ≤ z.toNat % 8 → exec i s = .next (trapped s sl i 0x01 z)) ∧
          ((k = 0 → z.toNat % 2 = 0) → (k = 2 → z.toNat % 8 < 5) →
            exec i s = .next (after (s.setCluster c { s.cluster c with
              l2 := (s.cluster c).l2.map fun e => if e.vf = v ∧ e.index = x then { e with line := lineWith e.line k z }
                else e }) sl i sl.line 8)))) ∧
      (∀ y1 y2, s.placeOf v x = some .memory →
        let i : Instr := .cxst p d a b
        let z := sl.line.reg d
        let copy := (s.vf v).ctxbase + 128 * x
        s.mayPerform s.run.1 sl.who (.paged v (copy + 8)) 8 none = true →
        s.word (.paged v (copy + 8)) false sl.line.world = .ok y1 → y1.poison = false →
        let s1 := s.touchLlc v (copy + 8) false false
        (y1.data.toNat / 2 ^ 60 ≠ 12 → exec i s = .next (trapped s1 sl i 0x01 id)) ∧
        (y1.data.toNat / 2 ^ 60 = 12 → (k = 0 → z.toNat % 2 = 0) → (k = 2 → z.toNat % 8 < 5) →
          s1.mayPerform s1.run.1 sl.who (.paged v (copy + 8 * k)) 8 none = true →
          s1.word (.paged v (copy + 8 * k)) true sl.line.world = .ok y2 → y2.poison = false →
            exec i s = .next (after ((s1.touchLlc v (copy + 8 * k) true false).performWord (.paged v (copy + 8 * k)) 8 y2
              { y2 with data := dwWith k y2.data z } sl.line.world) sl i sl.line 8))))

/-- R200, R201: tlbinv leaves no micro-TLB entry and no walker-cache entry of the VF that overlaps its range (length 0: any)
and marks the walks under way stale; seginv loads the segment registers of every resident line it names from its set, waits
for the hypervisor where stage 2 reaches no such set, and traps PRIV for another VF's context and ILLEGAL for none. The
model's choices here, no rules of the spec: that wait and its page request (log 90), and PRIV before the index's ILLEGAL
(log 94). -/
def Obligations.InvalidationsReachEveryCore : Prop :=
  (∀ (p : Pre) (a b : BitVec 3) (s : State) (sl : Slot), Super s sl p →
    let v := sl.line.vfid.toNat
    let lo := (sl.line.reg a).toNat
    let len := (sl.line.reg b).toNat
    ∃ t, exec (.tlbinv p a b) s = .next t ∧ t.mem = s.mem ∧
      (∀ k x, x ∈ (t.cluster k).tables ↔ x ∈ (s.cluster k).tables ∧ ¬ (x.vf = v ∧ (len = 0 ∨
        (x.range * (4096 * 512 ^ x.level) < lo + len ∧ lo < (x.range + 1) * (4096 * 512 ^ x.level))))) ∧
      t.cur? = some { sl with line := sl.line.fire (.tlbinv p a b), readyAt := s.coreCycle s.run.1 + 8, held := none } ∧
      (∀ c e, e ∈ (t.core c).tlb ↔ e ∈ (s.core c).tlb ∧ ¬ (e.vf = v ∧ (len = 0 ∨
        (e.lpage * 4096 < lo + len ∧ lo < (e.lpage + sizePages e.size) * 4096)))) ∧
      (∀ k, (t.cluster k).walks = (s.cluster k).walks.map fun w =>
        if w.vf = v ∧ (len = 0 ∨ (w.linear / 4096 * 4096 < lo + len ∧ lo < (w.linear / 4096 + 1) * 4096))
        then { w with stale := true } else w)) ∧
  (∀ (p : Pre) (a : BitVec 3) (s : State) (sl : Slot), Super s sl p →
    let v := sl.line.vfid.toNat
    let id := sl.line.reg a
    let i : Instr := .seginv p a
    let all := id.toNat = 2 ^ 64 - 1
    (¬ all → 2 ^ 49 ≤ id.toNat → exec i s = .next (trapped s sl i 0x01 id)) ∧
    (¬ all → id.toNat < 2 ^ 49 → id.toNat / 2 ^ 40 ≠ v → exec i s = .next (trapped s sl i 0x02 id)) ∧
    (¬ all → id.toNat < 2 ^ 49 → id.toNat / 2 ^ 40 = v → (s.vf v).ctxlen ≤ id.toNat % 2 ^ 40 →
      exec i s = .next (trapped s sl i 0x01 id)) ∧
    (∀ named : Slot → Bool, (all ∧ ∀ x, named x = decide (x.line.vfid.toNat = v)) ∨
        (¬ all ∧ ∃ k, Names s id v k ∧ ∀ x, named x = decide (x.who = .ctx v k)) →
      let set (x : Slot) := s.loadSet x.line.vfid.toNat x.line.sset.toNat
      let fresh (x : Slot) : Slot := if named x = false then x
        else match set x with
          | .ok g => { x with segs := g, segsLoaded := true }
          | .error _ => x
      ((∀ e ∈ s.cores, ∀ x ∈ e.2.ways, named x.2 = true → ∃ g, set x.2 = .ok g) →
        ∃ t, exec i s = .next t ∧ t.mem = s.mem ∧
          t.cur? = some { fresh sl with line := sl.line.fire i, readyAt := s.coreCycle s.run.1 + 8, held := none } ∧
          ∀ c w x, (c, w) ≠ s.run → s.slot? c w = some x → t.slot? c w = some (fresh x)) ∧
      ((∃ e ∈ s.cores, ∃ x ∈ e.2.ways, named x.2 = true ∧ ∃ g, set x.2 = .error g) →
        ∃ t r, exec i s = .next t ∧ t.requests = s.requests ++ [r] ∧ r.vf = v ∧ r.requester = .wait sl.who ∧
          ∃ x, t.cur? = some x ∧ x.line.wt = .xlate)))

/-- R202: slt.wr stages the eight entries of one group and leaves the table in force; it traps ILLEGAL without a region
barrier, for a group above 3, and for a reserved entry. R175, R176: capmint binds the slot to the caller's VF with a new
check code, neither 0 nor the one it replaces, and answers the token, or answers 0 and binds nothing. R203, R204, R382:
yctl sets a counter's code or value, the interrupt mask or the run mask of the VF; yrd reads a virtual counter, 0 for
one that selects a fabric code (R381), and 0 to a non-secure VF where the Yarrow of the die that holds the VF's counters
is secure (R404; that die's, and not the issuing core's, is the model's choice, log 102); each comes after the context's
own earlier ymarks; ymark posts its MARK event; cfl.rd reads the OR of the VF's flag words over its partition's
clusters; cfl.clr clears the named bits of them there and nowhere else. -/
def Obligations.SlotTablesCountersAndFlags : Prop :=
  ((∀ (p : Pre) (a b : BitVec 3) (s : State) (sl : Slot), Super s sl p →
    let x := sl.line.reg a
    let y := sl.line.reg b
    let i : Instr := .sltWr p a b
    let entry (j : Nat) : Nat := y.toNat / 2 ^ (8 * j) % 256
    let bad := ∃ j < 8, 192 ≤ entry j ∨ (entry j / 64 ≠ 2 ∧ entry j % 64 ≠ 0)
    let c := s.core s.run.1
    (4 ≤ x.toNat ∨ s.regionBarrier sl = 0 → exec i s = .next (trapped s sl i 0x01 x)) ∧
    (x.toNat < 4 → s.regionBarrier sl ≠ 0 → bad → exec i s = .next (trapped s sl i 0x01 y)) ∧
    (x.toNat < 4 → s.regionBarrier sl ≠ 0 → ¬ bad →
      ∃ t, exec i s = .next (after (s.setCore s.run.1 { c with
          sltnew := t
          staged := if (sl.line.vfid.toNat, s.regionBarrier sl) ∈ c.staged then c.staged
            else c.staged ++ [(sl.line.vfid.toNat, s.regionBarrier sl)] }) sl i sl.line 8) ∧
        ∀ j < 32, ((t[j]?).getD 0).toNat =
          if j / 8 = x.toNat then entry (j % 8) else ((c.sltnew[j]?).getD 0).toNat)) ∧
  (∀ (p : Pre) (d a b : BitVec 3) (s : State) (sl : Slot), Ready s sl p →
    let req := (sl.line.reg a).toNat
    let expiry := sl.line.reg b
    let v := sl.line.vfid.toNat
    let cl := req % 256
    let slot := req / 256 % 16
    let phys := physicalCluster (s.nodeOf v) cl
    let f := (s.cluster phys).fmt (16 + slot)
    let i : Instr := .capmint p d a b
    let refused := nodeClusters (s.nodeOf v) ≤ cl ∨ expiry.toNat ≤ s.tick ∨
      (f.bound = true ∧ f.vf ≠ v ∧ s.tick < f.expiry.toNat)
    (4096 ≤ req → exec i s = .next (trapped s sl i 0x01 (sl.line.reg a))) ∧
    (req < 4096 → refused → exec i s = .next (after s sl i (sl.line.setReg d 0) 8)) ∧
    (req < 4096 → ¬ refused →
      ∃ t chk, chk ≠ 0 ∧ chk ≠ f.check ∧
        exec i s = .next (after t sl i (sl.line.setReg d (BitVec.ofNat 64 (chk.toNat * 4096 + slot * 256 + cl))) 8) ∧
        ((t.cluster phys).fmt (16 + slot)).bound = true ∧ ((t.cluster phys).fmt (16 + slot)).vf = v ∧
        ((t.cluster phys).fmt (16 + slot)).check = chk ∧ ((t.cluster phys).fmt (16 + slot)).expiry = expiry ∧
        t.mem = s.mem ∧ t.cores = s.cores))) ∧
  ((∀ (p : Pre) (a b : BitVec 3) (s : State) (sl : Slot), Super s sl p →
    let x := (sl.line.reg a).toNat
    let y := sl.line.reg b
    let i : Instr := .yctl p a b
    let v := sl.line.vfid.toNat
    let s1 := s.applyMarks sl.who
    let k := (s1.vf v).counters
    let n := x / 256 % 16
    let done (c : Counters) : Prop := exec i s = .next (after (s1.setVf v { s1.vf v with counters := c }) sl i sl.line 8)
    (4096 ≤ x ∨ 4 ≤ x % 256 → exec i s = .next (trapped s sl i 0x01 (sl.line.reg a))) ∧
    (x < 4096 → x % 256 = 0 → done { k with codes := k.codes.set n (BitVec.ofNat 16 y.toNat) }) ∧
    (x < 4096 → x % 256 = 1 → 2 ^ 48 ≤ y.toNat → exec i s = .next (trapped s sl i 0x01 y)) ∧
    (x < 4096 → x % 256 = 1 → y.toNat < 2 ^ 48 → done { k with counts := k.counts.set n (BitVec.ofNat 48 y.toNat) }) ∧
    (x < 4096 → x % 256 = 2 → done { k with enable := BitVec.ofNat 16 y.toNat }) ∧
    (x < 4096 → x % 256 = 3 → done { k with run := BitVec.ofNat 16 y.toNat })) ∧
  (∀ (p : Pre) (d a : BitVec 3) (s : State) (sl : Slot), Ready s sl p →
    let n := (sl.line.reg a).toNat
    let v := sl.line.vfid.toNat
    let i : Instr := .yrd p d a
    let s1 := s.applyMarks sl.who
    let code := (((s1.vf v).counters.codes[n]?).getD 0).toNat
    (15 < n → exec i s = .next (trapped s sl i 0x01 (sl.line.reg a))) ∧
    let yarrow := 20 + firstLeaf (s.nodeOf v) / 16
    (n ≤ 15 → (s.platform.sorrel.package.getLsbD yarrow = false ∨ (s.vf v).sec = true) →
      exec i s = .next (after s1 sl i (sl.line.setReg d (if 0x100 ≤ code ∧ code ≤ 0x103 then 0
        else BitVec.ofNat 64 (((s1.vf v).counters.counts[n]?).getD 0).toNat)) 8)) ∧
    (n ≤ 15 → s.platform.sorrel.package.getLsbD yarrow = true → (s.vf v).sec = false →
      exec i s = .next (after s1 sl i (sl.line.setReg d 0) 8))) ∧
  (∀ (p : Pre) (a : BitVec 3) (s : State) (sl : Slot), Ready s sl p →
    exec (.ymark p a) s = .next (after ((s.yEvent (dieOf s.run.1) sl.line.vfid.toNat 0 0
      [sl.line.reg a, BitVec.ofNat 64 (idOf sl.who), 0, BitVec.ofNat 64 s.tick]).countOf sl.line.vfid.toNat 0x60 1 (some sl.who)) sl
        (.ymark p a) sl.line 8)) ∧
  (∀ (p : Pre) (d : BitVec 3) (s : State) (sl : Slot), Ready s sl p →
    ∃ (w : BitVec 32) (lat : Nat),
      exec (.cflRd p d) s = .next (after s sl (.cflRd p d) (sl.line.setReg d (BitVec.ofNat 64 w.toNat)) lat) ∧
      ∀ b < 32, w.getLsbD b = true ↔ ∃ e ∈ s.clusters, inNode (s.nodeOf sl.line.vfid.toNat) e.1 = true ∧
        (e.2.flags.get sl.line.vfid.toNat 0).getLsbD b = true) ∧
  (∀ (p : Pre) (a : BitVec 3) (s : State) (sl : Slot), Ready s sl p →
    let v := sl.line.vfid.toNat
    ∃ t, exec (.cflClr p a) s = .next (after t sl (.cflClr p a) sl.line 8) ∧ t.mem = s.mem ∧ t.cores = s.cores ∧
      ∀ cl u, (t.cluster cl).flags.get u 0 =
        if u = v ∧ inNode (s.nodeOf v) cl = true
        then (s.cluster cl).flags.get u 0 &&& ~~~(BitVec.ofNat 32 (sl.line.reg a).toNat)
        else (s.cluster cl).flags.get u 0))

namespace Sys2Proof.Claims
open Sys2Proof.Machine

/-! ## Engine commands (R163 to R176, R222) -/

/-- A command that its engine may run: it waits for no page request, what its push releases is performed (R170, R352), and no
ending of it is kept. -/
structure MayGoOn (s : State) (c : Cmd) : Prop where
  ready : s.mayRun c = true
  whole : c.fatal = none ∧ c.ending = none

/-- The same of a command that has not yet done anything. -/
structure Fresh (s : State) (c : Cmd) : Prop where
  runs : MayGoOn s c
  begun : c.done = 0

/-- The oldest command of its port at a cluster's engine starts or goes on (R167): it has its replay record and leaves the queue;
`s1` is the machine and `c1` the command as it runs. -/
structure GoesOn (s : State) (cl : Nat) (c : Cmd) (s1 : State) (c1 : Cmd) : Prop where
  runs : MayGoOn s c
  taken : ∃ k s0, (s.cluster cl).queues[k]? = some c ∧
    (∀ j < k, ∀ e, (s.cluster cl).queues[j]? = some e → e.port ≠ c.port) ∧ s.acceptRecord c = some (s0, c1) ∧
    s1 = s0.takeCmd cl k

/-- The same of a command that has not yet done anything. -/
structure Starts (s : State) (cl : Nat) (c : Cmd) (s1 : State) (c1 : Cmd) : Prop where
  on : GoesOn s cl c s1 c1
  begun : c.done = 0

/-- The same at a die's engine, which keeps no replay record. -/
structure StartsDie (s : State) (d : Nat) (c : Cmd) (s1 : State) : Prop where
  fresh : Fresh s c
  taken : ∃ k, headOf (s.die d).queue c.port 0 = some (k, c) ∧ s1 = (s.publish c).takeDie d k

/-- Millstone's next source in turn starts (R230): the source after it is the first to be asked next. -/
structure StartsMm (s : State) (cl : Nat) (c : Cmd) (s1 : State) (c1 : Cmd) : Prop where
  port : c.port = 0
  turn : s.mmNext cl = some c.src
  begun : c.fatal = none ∧ c.ending = none ∧ c.done = 0
  taken : ∃ k s0, headOf (s.cluster cl).queues 0 c.src = some (k, c) ∧ s.acceptRecord c = some (s0, c1) ∧
    s1 = (s0.setCluster cl { s0.cluster cl with turn := (c.src + 1) % 32 }).takeCmd cl k

/-- A command's completion has set out, as R165 lays it out. -/
def Ended (s t : State) (c : Cmd) (status count : Nat) (word : Word) (flags : BitVec 16) : Prop :=
  ∃ e, t.transit = s.transit ++ [e] ∧ e.who = c.who ∧ e.core = c.core ∧ e.port = c.port ∧ e.dw1 = word ∧ e.flags = flags ∧
    e.dw0 = BitVec.ofNat 64 ((c.dw 0).toNat / 2 ^ 16 % 2 ^ 16 + 2 ^ 16 * status + 2 ^ 20 * c.port + 2 ^ 23 +
      2 ^ 24 * ((c.dw 0).toNat % 2 ^ 8) + 2 ^ 32 * (count % 2 ^ 32))

/-- `n` bytes through a pointer of a command, seen from a core, lie in one on-chip memory that its engine reaches (R208), from
`key`, pass the attached limit and rights, and hold no poison. -/
structure OnChip (s : State) (c : Cmd) (core : Nat) (q : Word) (n : Nat) (need : Need) (key : Nat) : Prop where
  some_ : 0 < n
  fits : q.toNat % 2 ^ 48 + n ≤ 2 ^ 48
  there : ∃ g l, s.segCheck core c.vf c.segs q n need false q = .ok (g, .chip l) ∧ chipKey l = some key ∧
    (g.type = .cluster ∨ (g.type = .scratch ∧ (c.dw 0).toNat / 2 ^ 32 = 0 ∧ c.port ≠ 4 ∧ c.port ≠ 5))
  clean : ∀ w, key / 8 ≤ w → w ≤ (key + n - 1) / 8 → w ∉ s.mem.poison

/-- A tile of a command at the place that its base names. -/
def tileAt (c : Cmd) (t : Tile) : Placed := Placed.mk c.core c.vf (c.seg t.base) (t.base.toNat % 2 ^ 48) t

/-- A tile of a command lies in on-chip memory that its engine reaches; where the command reads it, every byte passes the
attached limit and rights and none is poisoned (R174, R214, R215). -/
structure TileReach (s : State) (c : Cmd) (t : Tile) (reads : Bool) : Prop where
  high : t.base.toNat / 2 ^ 48 % 2 ^ 13 = 0
  valid : (c.seg t.base).valid = true
  type : (c.seg t.base).type = .cluster ∨ (c.seg t.base).type = .peer ∨
    ((c.seg t.base).type = .scratch ∧ (c.dw 0).toNat / 2 ^ 32 = 0)
  limit : reads = true → t.base.toNat % 2 ^ 48 + (t.rows - 1) * t.stride + rowBytes t.fmt t.cols ≤ (c.seg t.base).limit
  right : reads = true → (c.seg t.base).r = true
  free : reads = true → s.runsRefused c.vf (s.extentRuns (tileAt c t)) = false
  clean : reads = true → s.tilePoison (tileAt c t) = none

/-- Two byte ranges share no byte. -/
def Apart (k n j m : Nat) : Prop := k + n ≤ j ∨ j + m ≤ k

/-- The bytes of a tile's rows lie apart from a range. -/
def TileApart (s : State) (p : Placed) (k n : Nat) : Prop :=
  ∀ r ∈ s.extentRuns p, ∀ q, chipKey r.1 = some q → Apart k n q r.2

/-- A command of four doublewords without capability, whose block serves its VF. -/
structure Plain (s : State) (cl : Nat) (c : Cmd) (port opcode length : Nat) : Prop where
  port : c.port = port
  header : (c.dw 0).toNat % 2 ^ 16 = opcode + 2 ^ 8 * length ∧ (c.dw 0).toNat / 2 ^ 32 = 0
  world : s.worldRefuses cl c = false

/-- The bits [lo + n − 1 : lo] of doubleword `k` of a command. -/
def fld (c : Cmd) (k lo n : Nat) : Nat := (c.dw k).toNat / 2 ^ lo % 2 ^ n

/-! ## Millstone (R233 to R245) -/

/-- One element of a product: the exact integer sum modulo 2^32 where the accumulator is i32, and otherwise the groups of
four products of the taken columns added to the rounded start and delivered in fc (R233, R234). -/
def productElem (fmt : Word) (row col : List Elem) (taken : List Bool) (c : Option Elem) : Nat :=
  let f (lo n : Nat) : Nat := fmt.toNat / 2 ^ lo % 2 ^ n
  let int (e : Elem) : Int := match e with
    | .int v => v
    | _ => 0
  if f 8 4 = 7 then
    ((((((row.zip col).zip taken).map fun (e : (Elem × Elem) × Bool) => if e.2 then int e.1.1 * int e.1.2 else 0).sum) + (c.map int).getD 0)
      % 2 ^ 32).toNat
  else
    let start := (c.map fun e => (f32.deliver (f 12 3) (fmt.getLsbD 16) e.val).1).getD 0
    let acc := (accumulate (f 12 3) (fmt.getLsbD 16) (productGroups (f 12 3) (fmt.getLsbD 16) row col taken) start 0).1
    (mmDeliver (f 8 4) (f 12 3) (fmt.getLsbD 15) (fmt.getLsbD 16) (fmt.extractLsb' 48 8).toInt acc).1

/-- An optional tile of MM.MUL: its flag bit asks for it, and the handle is then a tile (R179). -/
def OptTile (c : Cmd) (bit lo : Nat) (t : Option Tile) : Prop :=
  if (c.dw 1).getLsbD bit then t.isSome = true ∧ t = tileOf (c.handle (fld c 1 lo 8)) else t = none

/-- The operands of an MM.MUL pass every check of R232 in the formats of its context: the handles are tiles, their formats and
shapes agree, their memory is reached, and every index of hi names a row of its table (R235). -/
structure MmReady (s : State) (c : Cmd) (fmt : Word) (ta tb td : Tile) (tc ti tm : Option Tile) : Prop where
  opA : tileOf (c.handle (fld c 1 0 8)) = some ta
  opB : tileOf (c.handle (fld c 1 8 8)) = some tb
  opD : tileOf (c.handle (fld c 1 24 8)) = some td
  opC : OptTile c 58 16 tc
  opI : OptTile c 56 32 ti
  opM : OptTile c 57 40 tm
  fmtA : ta.fmt = fmt.toNat % 16
  fmtB : tb.fmt = fmt.toNat / 2 ^ 4 % 16
  fmtD : td.fmt = if fmt.toNat / 2 ^ 8 % 16 = 7 then 8 else fmt.toNat / 2 ^ 8 % 16
  fmtC : ∀ t, tc = some t → t.fmt = td.fmt ∧ t.rows = td.rows ∧ t.cols = td.cols
  fmtI : ∀ t, ti = some t → (t.fmt = 8 ∨ t.fmt = 9) ∧ td.rows ≤ t.rows * t.cols
  fmtM : ∀ t, tm = some t → t.fmt = 10 ∧ (tb.rows + 31) / 32 ≤ t.rows * t.cols
  size : td.rows ≤ 32 ∧ td.cols ≤ 32 ∧ tb.rows ≤ 128
  shape : tb.cols = td.cols ∧ ta.cols = tb.rows ∧ (ti = none → ta.rows = td.rows)
  reads : ∀ t ∈ [ta, tb] ++ tc.toList ++ ti.toList ++ tm.toList, TileReach s c t true
  scratch : (c.dw 0).toNat / 2 ^ 32 ≠ 0 → (c.seg td.base).type ≠ .scratch
  rtc : (c.dw 1).getLsbD 59 = true → (c.seg td.base).type = .scratch
  rows : ∀ t, ti = some t → ∀ x ∈ (s.tileBits (tileAt c t)).take td.rows, x < ta.rows

/-- Row `r` of an operand as elements, in its format and the context's scale from bit `lo` (R233). -/
def mmElems (s : State) (c : Cmd) (fmt : Word) (lo : Nat) (t : Tile) (r : Nat) : List Elem :=
  (s.rowBits (tileAt c t) r).map fun b => (fmtOfCode t.fmt).read (fmt.getLsbD 16) (fmt.extractLsb' lo 8).toInt b

/-- What the loader takes of A (R236 to R240): every unmarked column with a term count of 0, else the decomposition. -/
def loadedOf (c : Cmd) (a : List (List Elem)) (cols : Nat) (hm : Option (List Nat)) : Loaded :=
  if fld c 2 0 3 = 0 then
    Loaded.mk ((List.range a.length).map fun i => (List.range cols).map fun j => !markedBlock hm i j) 0 0 0 false
  else decompose (a.map fun r => r.map Elem.val) (markedBlock hm) (fld c 2 0 3)
    (if (c.dw 2).getLsbD 3 then some (f32.decode false (fld c 2 32 32)) else none)

/-! ## Sluice (R181, R254) -/

/-- The checks of a Sluice command at its acceptance: its fields, the shapes of hi and hP, its table. -/
structure SluiceReady (s : State) (c : Cmd) (ti tp : Tile) : Prop where
  hi : tileOf (c.handle (fld c 1 0 8)) = some ti
  hp : tileOf (c.handle (fld c 1 8 8)) = some tp
  zero : fld c 1 20 12 = 0 ∧ fld c 3 40 24 = 0 ∧ fld c 4 40 24 = 0 ∧ fld c 7 1 63 = 0
  ety : if fld c 0 0 8 = 3 then fld c 1 16 4 ≤ 2 else fld c 1 16 4 = 0
  rowlen : 8 ≤ fld c 1 32 32 ∧ fld c 1 32 32 ≤ 65536 ∧ fld c 1 32 32 % 8 = 0
  index : ti.fmt = 8 ∨ ti.fmt = 9
  shape : ti.rows * ti.cols ≤ tp.rows ∧ fld c 1 32 32 ≤ rowBytes tp.fmt tp.cols ∧ tp.base.toNat % 8 = 0
  table : fld c 3 0 40 % 8 = 0 ∧ fld c 1 32 32 ≤ fld c 3 0 40 ∧ (c.dw 2).toNat % 8 = 0 ∧ (c.seg (c.dw 2)).type ≠ .code
  pointer : c.pointerOk (c.dw 2) = true
  indexes : TileReach s c ti true
  pool : TileReach s c tp false

/-! ## Bolter (R249 to R253) -/

/-- The checks of a Bolter command at its acceptance: its fields, its key tile and its output tile. -/
structure BolterReady (s : State) (c : Cmd) (tk to_ : Tile) : Prop where
  keys : tileOf (c.handle (fld c 1 0 8)) = some tk
  out : tileOf (c.handle (fld c 1 8 8)) = some to_
  k : 1 ≤ fld c 1 16 7 ∧ fld c 1 16 7 ≤ 64
  zero : fld c 1 24 8 = 0 ∧ c.dw 2 = 0 ∧ c.dw 3 = 0 ∧ c.dw 4 = 0 ∧ fld c 7 1 63 = 0
  form : if fld c 0 0 8 = 2 then fld c 1 32 32 = 0 else (c.dw 1).getLsbD 23 = false
  shape : to_.rows = 1 ∧ 2 * fld c 1 16 7 ≤ to_.cols ∧ (to_.fmt = 0 ∨ to_.fmt = 8 ∨ to_.fmt = 9)
  source : TileReach s c tk true
  target : TileReach s c to_ false

/-- A list of pairs is the k best of a list, in rank order. -/
def BestOf (k : Nat) (best all : List KeyPair) : Prop :=
  best.length = min k all.length ∧ best.Pairwise (fun x y => y.before x = false) ∧ (∃ rest, List.Perm (best ++ rest) all ∧
    ∀ x ∈ best, ∀ y ∈ rest, y.before x = false)

/-- The image by which a key ranks, and the rank order (R249). -/
def keyImage (int : Bool) (x : Nat) : Nat :=
  if int = false ∧ 2 ^ 31 ≤ x then 2 ^ 32 - 1 - x else if x < 2 ^ 31 then x + 2 ^ 31 else x - 2 ^ 31

/-! ## Quern (R257 to R259) -/

/-- The pooled element of a bag: weight times value, added in order, each step rounded to f32 (R258). -/
def pooled (terms : List (Nat × FVal)) : Nat :=
  (terms.foldl (fun (acc : Option Nat) e =>
    let p := (FVal.mul (f32.decode false e.1) e.2).1
    some (f32.deliver 0 false (match acc with
      | none => p
      | some v => (FVal.add 0 (f32.decode false v) p).1)).1) none).getD 0

end Sys2Proof.Claims
open Sys2Proof Sys2Proof.Machine Sys2Proof.Claims

/-- R186: a command with an opcode that its engine does not list completes with status BAD, count 0 and a word of all
ones, and changes no memory. That it does so whatever its capability is the model's choice, no rule of the spec (log
94). R182, R222, R224: FL.COPY within on-chip memory leaves at each destination byte what its source byte held before,
an overlap included; FL.FILL repeats its 8-byte pattern; each completes OK with its byte count, changes no other byte,
and, with an arrival word on chip, writes its value there, and its full/empty bit when af asks for it. A count of 0
completes at once. -/
def Obligations.FlumeCopiesFillsAndRefuses : Prop :=
  (∀ (s s1 : State) (cl : Nat) (c c1 : Cmd) (op : Nat → Instr), Starts s cl c s1 c1 →
    (c.port, op) ∈ [(1, Instr.slGather), (2, Instr.flCopy), (3, Instr.boTopk)] →
    (c.dw 0).toNat % 2 ^ 8 ∉ (if c.port = 1 then [1, 2, 3] else [1, 2]) →
      ∃ t, exec (op cl) s = .next t ∧ Ended s1 t c1 2 0 (BitVec.allOnes 64) 0 ∧ t.mem = s1.mem) ∧
  (∀ (s s1 : State) (cl : Nat) (c c1 : Cmd), Starts s cl c s1 c1 → s1.mem.wf = true →
    let n := fld c1 3 0 32
    (∀ kd ks, Plain s1 cl c1 2 1 4 → fld c1 3 32 32 = 0 → OnChip s1 c1 c1.core (c1.dw 1) n needStore kd →
      OnChip s1 c1 c1.core (c1.dw 2) n needLoad ks →
        ∃ t, exec (.flCopy cl) s = .next t ∧ Ended s1 t c1 0 n 0 0 ∧
          (∀ j < n, t.mem.get (kd + j) = s1.mem.get (ks + j)) ∧
          ∀ k, Apart k 1 kd n → t.mem.get k = s1.mem.get k) ∧
    (∀ kd, Plain s1 cl c1 2 2 4 → fld c1 3 32 32 = 0 → OnChip s1 c1 c1.core (c1.dw 1) n needStore kd →
      ∃ t, exec (.flFill cl) s = .next t ∧ Ended s1 t c1 0 n 0 0 ∧
        (∀ j < n, (t.mem.read (kd + j) 1) = (c1.dw 2).toNat / 256 ^ (j % 8) % 256) ∧
        ∀ k, Apart k 1 kd n → t.mem.get k = s1.mem.get k) ∧
    (∀ kd ka, Plain s1 cl c1 2 2 8 → fld c1 3 32 32 = 0 → fld c1 6 1 63 = 0 → c1.dw 7 = 0 → c1.dw 4 ≠ 0 →
      OnChip s1 c1 c1.core (c1.dw 1) n needStore kd → OnChip s1 c1 c1.core (c1.dw 4) 8 needStore ka →
      ka % 8 = 0 → (c1.dw 4).toNat % 8 = 0 → Apart kd n ka 8 →
        ∃ t, exec (.flFill cl) s = .next t ∧ Ended s1 t c1 0 n 0 0 ∧ t.mem.read ka 8 = (c1.dw 5).toNat ∧
          (t.mem.full ka = (s1.mem.full ka || decide (fld c1 6 0 1 = 1))) ∧
          ∀ j < n, (t.mem.read (kd + j) 1) = (c1.dw 2).toNat / 256 ^ (j % 8) % 256) ∧
    (∀ kd ks ka, Plain s1 cl c1 2 1 8 → fld c1 3 32 32 = 0 → fld c1 6 1 63 = 0 → c1.dw 7 = 0 → c1.dw 4 ≠ 0 →
      OnChip s1 c1 c1.core (c1.dw 1) n needStore kd → OnChip s1 c1 c1.core (c1.dw 2) n needLoad ks →
      OnChip s1 c1 c1.core (c1.dw 4) 8 needStore ka → ka % 8 = 0 → (c1.dw 4).toNat % 8 = 0 → Apart kd n ka 8 →
        ∃ t, exec (.flCopy cl) s = .next t ∧ Ended s1 t c1 0 n 0 0 ∧ t.mem.read ka 8 = (c1.dw 5).toNat ∧
          (t.mem.full ka = (s1.mem.full ka || decide (fld c1 6 0 1 = 1))) ∧
          ∀ j < n, t.mem.get (kd + j) = s1.mem.get (ks + j)) ∧
    (∀ i ∈ [(Instr.flCopy cl, 1), (Instr.flFill cl, 2)], Plain s1 cl c1 2 i.2 4 → c1.dw 3 = 0 →
      c1.pointerOk (c1.dw 1) = true → c1.pointerOk (c1.dw 2) = true →
        ∃ t, exec i.1 s = .next t ∧ Ended s1 t c1 0 0 0 0 ∧ t.mem = s1.mem))

/-- R181, R254 to R256, R398: a Sluice command that passes its checks at acceptance, with its rows on chip, completes OK with
one count an entry: SL.GATHER leaves in row e of hP the table row that index e names, and SL.SCATTER leaves row e of hP in that
table row. SL.SCATADD goes on by one step: it takes up its next entry and reads row e of hP whole, or adds the next element of it
to the table's and changes no other byte, while fewer than 64 are unacknowledged; it completes when all are acknowledged. One
step an element is the model's grain (log 13). -/
def Obligations.SluiceMovesAndAddsRows : Prop :=
  ∀ (s s1 : State) (cl : Nat) (c c1 : Cmd) (ti tp : Tile) (ix kt kp : Nat → Nat), GoesOn s cl c s1 c1 →
    Plain s1 cl c1 1 (fld c1 0 0 8) 8 → c1.dw 5 = 0 → s1.mem.wf = true → SluiceReady s1 c1 ti tp →
    let rowlen := fld c1 1 32 32
    let n := ti.rows * ti.cols
    let table := (c1.dw 2).toNat % 2 ^ 48
    let size := if fld c1 1 16 4 = 1 then 8 else 4
    (∀ e < n, (s1.tileBits (tileAt c1 ti))[e]? = some (ix e) ∧ ix e < fld c1 4 0 40 ∧ (ti.fmt = 8 → ix e < 2 ^ 31) ∧
      table + ix e * fld c1 3 0 40 < 2 ^ 48 ∧ tp.base.toNat % 2 ^ 48 + e * tp.stride < 2 ^ 48 ∧
      OnChip s1 c1 c1.core (ptrPlus (c1.dw 2) (ix e * fld c1 3 0 40)) rowlen
        (if fld c1 0 0 8 = 1 then needLoad else if fld c1 0 0 8 = 2 then needStore else needAtomic) (kt e) ∧
      OnChip s1 c1 c1.core (ptrPlus tp.base (e * tp.stride)) rowlen
        (if fld c1 0 0 8 = 1 then needStore else needLoad) (kp e) ∧ kt e % 8 = 0 ∧ kp e % 8 = 0) →
    (∀ e < n, ∀ f < n, Apart (kt e) rowlen (kp f) rowlen ∧ (e ≠ f → Apart (kp e) rowlen (kp f) rowlen)) →
    (∀ e < n, TileApart s1 (tileAt c1 ti) (kt e) rowlen ∧ TileApart s1 (tileAt c1 ti) (kp e) rowlen) →
      (c.done = 0 → fld c1 0 0 8 = 1 → ∃ t, exec (.slGather cl) s = .next t ∧ Ended s1 t c1 0 n 0 0 ∧
        ∀ e < n, ∀ j < rowlen, t.mem.get (kp e + j) = s1.mem.get (kt e + j)) ∧
      ((∀ e < n, ∀ f < n, e ≠ f → Apart (kt e) rowlen (kt f) rowlen) →
        c.done = 0 → fld c1 0 0 8 = 2 → ∃ t, exec (.slScatter cl) s = .next t ∧ Ended s1 t c1 0 n 0 0 ∧
          ∀ e < n, ∀ j < rowlen, t.mem.get (kt e + j) = s1.mem.get (kp e + j)) ∧
      (fld c1 0 0 8 = 3 →
        let e := c1.done
        let q := ptrPlus (c1.dw 2) (ix e * fld c1 3 0 40)
        let k := kt e + size * c1.elem
        (e < n → c1.row = none → ∃ t r, exec (.slScatadd cl) s = .next t ∧ t.mem = s1.mem ∧
          { c1 with row := some r, elem := 0 } ∈ (t.cluster cl).queues ∧ r.ptr = q ∧ r.bits = s1.mem.read (kp e) rowlen) ∧
        (∀ r, e < n → c1.row = some r → r.ptr = q → c1.elem < rowlen / size → s1.unacked c1 < 64 →
          let old := s1.mem.read k size
          let add := r.bits / 256 ^ (size * c1.elem) % 256 ^ size
          ∃ t, exec (.slScatadd cl) s = .next t ∧
            t.mem.read k size = (if fld c1 1 16 4 = 2
              then (f32.deliver 0 false (FVal.add 0 (f32.decode false old) (f32.decode false add)).1).1
              else (old + add) % 2 ^ (8 * size)) ∧
            (∀ j, Apart j 1 k size → t.mem.get j = s1.mem.get j) ∧
            (if c1.elem + 1 = rowlen / size then { c1 with done := e + 1, elem := 0, row := none }
              else { c1 with elem := c1.elem + 1 }) ∈ (t.cluster cl).queues) ∧
        (e = n → s1.unacked c1 = 0 → ∃ t, exec (.slScatadd cl) s = .next t ∧ Ended s1 t c1 0 n 0 0 ∧ t.mem = s1.mem))

/-- R183, R249 to R253: BO.TOPK makes its passes, each reading the keys again, and after the last, where every pass read the
same, writes the k pairs of highest rank of its key tile, NaNs left out, with indexes from ibase; BO.MERGE writes those of
its pairs, an exact duplicate taken once; both in descending rank, and complete OK with the count of pairs written and the
word that counts what was left out. -/
def Obligations.BolterKeepsTheBestPairs : Prop :=
  ∀ (s s1 : State) (cl : Nat) (c c1 : Cmd) (ko : Nat) (tk to_ : Tile), Starts s cl c s1 c1 →
    Plain s1 cl c1 3 (fld c1 0 0 8) 8 → c1.dw 5 = 0 → s1.mem.wf = true → BolterReady s1 c1 tk to_ →
    OnChip s1 c1 c1.core to_.base (8 * fld c1 1 16 7) needStore ko → ko % 8 = 0 →
    let k := fld c1 1 16 7
    let nan (x : Nat) : Bool := decide (0x7F800000 < x % 2 ^ 31)
    let bits := s1.tileBits (tileAt c1 tk)
    let wrote (t : State) (best : List KeyPair) : Prop :=
      ∀ j < best.length, ∃ e, best[j]? = some e ∧ t.mem.read (ko + 8 * j) 8 = e.key + 2 ^ 32 * e.ix
    (fld c1 0 0 8 = 1 → (tk.fmt = 0 ∨ tk.fmt = 1 ∨ tk.fmt = 8) → fld c1 1 32 32 + tk.rows * tk.cols - 1 < 2 ^ 32 →
      let keys := bits.map fun x => if tk.fmt = 1 then (f32.deliver 0 false (f16.decode false x)).1 else x
      let passes := if k ≤ 8 then 3 else 4
      let all := (List.range keys.length).map fun e =>
        KeyPair.mk (keyImage (tk.fmt = 8) ((keys[e]?).getD 0)) ((keys[e]?).getD 0) (fld c1 1 32 32 + e)
      let live := all.filter fun e => tk.fmt = 8 || !nan e.key
      (c1.passes.length + 1 < passes → ∃ t, exec (.boTopk cl) s = .next t ∧ t.mem = s1.mem ∧ t.transit = s1.transit ∧
        { c1 with passes := c1.passes ++ [keys] } ∈ (t.cluster cl).queues) ∧
      (c1.passes.length + 1 = passes → (∀ l ∈ c1.passes, l = keys) →
        ∃ t best, exec (.boTopk cl) s = .next t ∧ BestOf k best live ∧ wrote t best ∧
          Ended s1 t c1 0 best.length (BitVec.ofNat 64 (all.length - live.length)) 0)) ∧
    (fld c1 0 0 8 = 2 → (tk.fmt = 8 ∨ tk.fmt = 9) → tk.rows = 1 → tk.cols % 2 = 0 →
      let int := (c1.dw 1).getLsbD 23
      let all := (List.range (bits.length / 2)).map fun e =>
        let x := (bits[2 * e]?).getD 0
        KeyPair.mk (keyImage int x) x ((bits[2 * e + 1]?).getD 0)
      let live := all.filter fun e => int || !nan e.key
      ∃ t best, exec (.boMerge cl) s = .next t ∧ BestOf k best live.dedup ∧ wrote t best ∧
        Ended s1 t c1 0 best.length
          (BitVec.ofNat 64 (all.length - live.length + 2 ^ 32 * (live.length - live.dedup.length))) 0)

/-- R184, R257 to R259: with stage 1 off, its arrays and outputs in cluster memory and its directory entry and rows in the LLC,
QN.BAG writes each bag's pooled vector, every
element the weighted sum of the rows its indexes name, rounded to f32 at each step, and completes OK with the bag count. -/
def Obligations.QuernPoolsItsBags : Prop :=
  ∀ (s s1 : State) (d : Nat) (c : Cmd) (tb : QuernTable) (lo hi : Word8) (ki kw kb ko : Nat) (elem : Nat → Nat → Word8),
    let bags := fld c 5 0 32
    let rowlen := fld c 5 32 16
    let fmt := fld c 1 16 4
    let ones := (c.dw 1).getLsbD 20
    let bound (b : Nat) : Nat := s1.mem.read (kb + 4 * b) 4
    let row (k : Nat) : Nat := s1.mem.read (ki + 4 * k) 4
    let cl := clusterOf c.core
    let dir := (s1.vf c.vf).qdbase + 16 * fld c 1 0 16
    StartsDie s d c s1 → Plain s1 cl c 4 1 8 → s1.platform.badQuern = [] → c.dw 7 = 0 → s1.mem.wf = true → (s1.vf c.vf).s1en = false →
    fld c 1 22 10 = 0 → fld c 5 48 16 = 0 → fmt ≤ 3 → 1 ≤ bags → bags ≤ 2 ^ 20 → 1 ≤ rowlen → rowlen ≤ 4096 →
    fld c 1 0 16 ≤ (s1.vf c.vf).qdlen → ((s1.vf c.vf).qdbase ≠ 0 ∨ (s1.vf c.vf).qdlen ≠ 0) →
    (s1.llc? c.vf (dir / 64)).isSome = true → (s1.llc? c.vf ((dir + 8) / 64)).isSome = true →
    s1.word (.paged c.vf (dir)) false (c.secure && s1.blockSecure cl 4) = .ok lo → lo.poison = false →
    s1.word (.paged c.vf (dir + 8)) false (c.secure && s1.blockSecure cl 4) = .ok hi → hi.poison = false →
    lo.data.toNat / 2 ^ 56 = 128 → tb.base = lo.data.toNat % 2 ^ 48 → tb.scale = (lo.data.extractLsb' 48 8).toInt →
    tb.rows = hi.data.toNat % 2 ^ 40 → tb.stride = 64 * (hi.data.toNat / 2 ^ 40) → rowlen * fmtBytes fmt ≤ tb.stride →
    (∀ b < bags, bound b ≤ bound (b + 1)) →
    (∀ k, bound 0 ≤ k → k < bound bags → row k < tb.rows) →
    OnChip s1 c c.core (c.dw 4) (4 * (bags + 1)) needLoad kb → kb % 4 = 0 →
    OnChip s1 c c.core (c.dw 2) (4 * bound bags) needLoad ki → ki % 4 = 0 →
    (ones = false → OnChip s1 c c.core (c.dw 3) (4 * bound bags) needLoad kw ∧ kw % 4 = 0 ∧
      Apart ko (4 * rowlen * bags) kw (4 * bound bags)) →
    OnChip s1 c c.core (c.dw 6) (4 * rowlen * bags) needStore ko → ko % 4 = 0 →
    Apart ko (4 * rowlen * bags) kb (4 * (bags + 1)) → Apart ko (4 * rowlen * bags) ki (4 * bound bags) →
    (∀ r < tb.rows, ∀ j < rowlen, let a := tb.base + tb.stride * r + fmtBytes fmt * j
      a % fmtBytes fmt = 0 ∧ (elem r j).poison = false ∧ hostHalf a = false ∧ (s1.llc? c.vf (a / 64)).isSome = true ∧
      s1.word (.paged c.vf a) false (c.secure && s1.blockSecure cl 4) = .ok (elem r j)) →
      ∃ t, exec (.qnBag d) s = .next t ∧ Ended s1 t c 0 bags 0 0 ∧
        ∀ b < bags, ∀ j < rowlen,
          let value (k : Nat) : FVal :=
            let a := tb.base + tb.stride * row k + fmtBytes fmt * j
            let w := (elem (row k) j).data.toNat / 2 ^ (8 * (a % 8)) % 2 ^ (8 * fmtBytes fmt)
            (((fmtOfCode fmt).read false tb.scale w).asFactor 0 false).1
          let weight (k : Nat) : Nat := if ones then 0x3F800000 else s1.mem.read (kw + 4 * k) 4
          t.mem.read (ko + 4 * (rowlen * b + j)) 4 =
            pooled ((List.range (bound (b + 1) - bound b)).map fun k => (weight (bound b + k), value (bound b + k)))

/-- R178, R179, R229 to R236, R243, R244: MM.FMT sets its source's format context and no other; MM.MUL writes every element
of D with the product over the columns its loader took, in the formats of its context, to the receiving core of each row;
a held row advance waits while its ring is full and moves the ring's producer count when a slot is free. -/
def Obligations.MillstoneMultipliesTiles : Prop :=
  (∀ (s s1 : State) (cl : Nat) (c c1 : Cmd), StartsMm s cl c s1 c1 →
    (c1.dw 0).toNat % 2 ^ 16 = 1 + 2 ^ 8 * 4 → s1.tokenOk cl c1 = true → s1.worldRefuses cl c1 = false →
    fmtsOk (c1.dw 1) = true → fld c1 1 17 15 = 0 → fld c1 1 56 8 = 0 → c1.dw 2 = 0 → c1.dw 3 = 0 →
      ∃ t, exec (.mmFmt cl c.src) s = .next t ∧ Ended s1 t c1 0 0 0 0 ∧ t.mem = s1.mem ∧
        ((t.cluster cl).fmt c.src).fmt = c1.dw 1 ∧
        ∀ k, k ≠ c.src → (t.cluster cl).fmt k = (s1.cluster cl).fmt k) ∧
  (∀ (s s1 : State) (cl : Nat) (c c1 : Cmd) (ta tb td : Tile) (tc ti tm : Option Tile) (kd : Nat → Nat),
    let fmt := ((s1.cluster cl).fmt c1.src).fmt
    StartsMm s cl c s1 c1 → (c1.dw 0).toNat % 2 ^ 16 = 2 + 2 ^ 8 * 8 → s1.tokenOk cl c1 = true → s1.worldRefuses cl c1 = false →
    mmMulFields c1 = true → c1.dw 5 = 0 → (c1.dw 1).getLsbD 60 = false → s1.mem.wf = true →
    MmReady s1 c1 fmt ta tb td tc ti tm → (s1.cluster cl).held.length ≤ 4 → (∀ h ∈ (s1.cluster cl).held, h.waits = true) →
    td.base.toNat % 2 ^ 48 + td.rows * td.stride < 2 ^ 48 →
    (∀ i < td.rows, let core := if (c1.dw 1).getLsbD 59 then cl * 16 + fld c1 (3 + i / 16) (4 * (i % 16)) 4 else c1.core
      OnChip s1 c1 core (ptrPlus td.base (i * td.stride)) td.rowLen needStore (kd i) ∧
      ((c1.seg td.base).type = .scratch → (s1.core core).resident = some c1.vf)) →
    (∀ i < td.rows, ∀ j < td.rows, i ≠ j → Apart (kd i) td.rowLen (kd j) td.rowLen) →
      let hm := tm.map fun t => s1.tileBits (tileAt c1 t)
      let names := ti.elim (List.range td.rows) fun t => (s1.tileBits (tileAt c1 t)).take td.rows
      let a := names.map (mmElems s1 c1 fmt 32 ta)
      let b := (List.range tb.rows).map (mmElems s1 c1 fmt 40 tb)
      let ld := loadedOf c1 a tb.rows hm
      ∃ t fl, exec (.mmMul cl c.src) s = .next t ∧
        Ended s1 t c1 0 td.rows (mmWord ld (skippedBlocks hm td.rows tb.rows)) fl ∧
        ∀ i < td.rows, ∀ j < td.cols, elemBits td.fmt (t.mem.read (kd i) td.rowLen) j =
          productElem fmt ((a[i]?).getD []) ((List.range tb.rows).map fun k => matrixAt b k j)
            ((ld.taken[i]?).getD []) (tc.map fun x => ((mmElems s1 c1 fmt 48 x i)[j]?).getD (.int 0))) ∧
  (∀ (s : State) (cl k : Nat) (h : RowHold) (r : Ring) (g : Seg) (loc : Loc),
    let core := if (h.cmd.dw 1).getLsbD 59 then cl * 16 + fld h.cmd (3 + h.row / 16) (4 * (h.row % 16)) 4 else h.cmd.core
    let s1 := s.setCluster cl { s.cluster cl with held := (s.cluster cl).held.eraseIdx k }
    let w := headerAt s1 loc
    (s.cluster cl).held[k]? = some h → h.waits = true → ringOf h.ring = some r →
    s1.segCheck (if (h.cmd.seg r.base).type = .scratch then core else h.cmd.core) h.cmd.vf h.cmd.segs r.base 16 needReadWrite
      false r.base = .ok (g, .chip loc) →
    (g.type = .scratch → (h.cmd.dw 0).toNat / 2 ^ 32 = 0) → s1.headerPoison r.base loc = none →
      (r.slots ≤ filled w.1 w.2 → exec (.mmRowAdvance cl k) s = .next s) ∧
      (∀ d, filled w.1 w.2 < r.slots → h.rows.length = h.row + 1 → h.cmd.arrival = none →
        tileOf (h.cmd.handle (fld h.cmd 1 24 8)) = some d →
        ∃ t, exec (.mmRowAdvance cl k) s = .next t ∧ Ended s1 t h.cmd 0 (h.row + 1) h.word h.flags ∧
          t.mem = (s1.writeRuns h.cmd.vf [(loc, 8)] (moved w.1 1 r.slots)).mem ∧
          (t.cluster cl).held = (s.cluster cl).held.eraseIdx k))

/-- R185, R375, R377, R378: YW.LOAD puts an accepted program into its slot, its store cleared and the slot detached;
YW.ATTACH attaches a loaded slot to a class and selector; YW.DETACH ends its events; YW.DUMP writes the slot's image from
its first byte. Each completes OK. -/
def Obligations.YarrowCommandsSetTheirSlot : Prop :=
  (∀ (s s1 : State) (d : Nat) (c : Cmd) (kp : Nat), StartsDie s d c s1 → Plain s1 (64 * d) c 5 1 4 → fld c 2 10 54 = 0 →
    c.dw 3 = 0 →
    let n := fld c 2 3 7
    let prog := (List.range n).map fun k => BitVec.ofNat 32 (s1.mem.read (kp + 4 * k) 4)
    1 ≤ n → n ≤ 64 → (c.dw 1).toNat % 4 = 0 → c.pointerOk (c.dw 1) = true →
    OnChip s1 c c.core (c.dw 1) (4 * n) needLoad kp → programOk prog = true →
      ∃ t, exec (.ywLoad d) s = .next t ∧ Ended s1 t c 0 n 0 0 ∧ t.mem = s1.mem ∧
        (t.filter d c.vf (fld c 2 0 3)).program = prog ∧ (t.filter d c.vf (fld c 2 0 3)).loaded = true ∧
        (t.filter d c.vf (fld c 2 0 3)).attached = false ∧ (t.filter d c.vf (fld c 2 0 3)).store = []) ∧
  (∀ (s s1 : State) (d : Nat) (c : Cmd), StartsDie s d c s1 → Plain s1 (64 * d) c 5 2 4 → fld c 1 3 5 = 0 →
    fld c 1 48 16 = 0 → c.dw 3 = 0 → selectorOk (fld c 1 8 8) (fld c 1 16 32) = true →
    (c.dw 2 ≠ 0 → c.pointerOk (c.dw 2) = true) → (s1.filter d c.vf (fld c 1 0 3)).loaded = true →
      ∃ t, exec (.ywAttach d) s = .next t ∧ Ended s1 t c 0 1 0 0 ∧ t.mem = s1.mem ∧
        (t.filter d c.vf (fld c 1 0 3)).attached = true ∧ (t.filter d c.vf (fld c 1 0 3)).cls = fld c 1 8 8 ∧
        (t.filter d c.vf (fld c 1 0 3)).sel = fld c 1 16 32 ∧
        (t.filter d c.vf (fld c 1 0 3)).program = (s1.filter d c.vf (fld c 1 0 3)).program) ∧
  (∀ (s s1 : State) (d : Nat) (c : Cmd), StartsDie s d c s1 → Plain s1 (64 * d) c 5 3 4 → fld c 1 3 61 = 0 →
    c.dw 2 = 0 → c.dw 3 = 0 →
      ∃ t, exec (.ywDetach d) s = .next t ∧ Ended s1 t c 0 1 0 0 ∧ t.mem = s1.mem ∧
        t.filter d c.vf (fld c 1 0 3) = { s1.filter d c.vf (fld c 1 0 3) with attached := false }) ∧
  (∀ (s s1 : State) (d : Nat) (c : Cmd) (kd : Nat), StartsDie s d c s1 → Plain s1 (64 * d) c 5 4 4 → fld c 1 3 61 = 0 →
    fld c 3 32 32 = 0 → s1.mem.wf = true →
    let n := fld c 3 0 32
    let f := s1.filter d c.vf (fld c 1 0 3)
    n % 4 = 0 → 4 ≤ n → n ≤ 2056 → OnChip s1 c c.core (c.dw 2) n needStore kd →
      ∃ t, exec (.ywDump d) s = .next t ∧ Ended s1 t c 0 n 0 0 ∧
        ∀ j < n, t.mem.read (kd + j) 1 =
          (if j < 2048 then (f.store.get (j / 4) 0).toNat else if j < 2052 then f.runs else f.drops) / 256 ^ (j % 4) % 256)

namespace Sys2Proof.Claims
open Sys2Proof.Machine

/-! ## Events at contexts (R313, R314) -/

/-- A context's line lies in way `w` of core `c`. -/
structure AtWay (s : State) (v i c w : Nat) (x : Slot) : Prop where
  place : s.placeOf v i = some (.l1 c w)
  here : s.slot? c w = some x
  who : x.who = .ctx v i

/-- The line that becomes READY. -/
def ready (l : Line) : Line := { l with wt := .ready, wtArg := 0 }

/-- The line that a trap parks: its cause, its value and its detail are saved, pc and everything else stay (R278, R281). -/
def parked (l : Line) (cause : BitVec 16) (tval : Word) (tinfo : BitVec 16) : Line :=
  { l with tcause := cause, tval := tval, tinfo := tinfo, wt := .upcall, wtArg := 0 }

/-- The dirty words of a core's copy of a line. -/
def dirtyOf (k : Core) (v line : Nat) : BitVec 16 := ((k.cacheLine? v line).map CacheLine.dirty).getD 0

/-- The 256 bytes at a linear address lie in LLC lines that the VF may write, with no poison in them; stage 1 is off. -/
structure Held (s : State) (v addr : Nat) : Prop where
  flat : (s.vf v).s1en = false
  align : addr % 256 = 0
  room : hostHalf (addr + 255) = false
  lines : ∀ k < 4, ∃ l, s.llc? v (addr / 64 + k) = some l ∧ l.write = true
  clean : ∀ k < 32, s.rcbWord v addr k ≠ none
  plain : ∀ k < 32, s.occAt v (addr + 8 * k) = false

/-- The context of a way has not ended. -/
def Lives (s : State) (w : Who) : Prop := ∀ v k, w = .ctx v k → ∃ y, s.ctx? v k = some y ∧ y.ended = false

/-- The oldest walk of its page in a cluster, no table of which the walker cache holds (R341, R349). -/
structure Walks (s : State) (cl k : Nat) (w : Walk) : Prop where
  here : (s.cluster cl).walks[k]? = some w
  free : w.request = none ∧ w.stale = false
  alone : ∀ x ∈ (s.cluster cl).walks.eraseIdx k, x.joins w = false
  root : (s.cluster cl).tableFor w.vf w.linear = none

/-- The state in which a walk from the root reads its tables: each of them an access at its slice, but for a walk that a
reclassification holds, whose reads are counted already (R342, R361, R374). -/
def reading (s : State) (w : Walk) : State :=
  if w.held = true then s else s.touchWalk w.vf (s.vf w.vf).s1root w.linear 4

/-- Stage 2 reaches a word of an upcall ring, for the device's write. -/
def RingReached (s : State) (v at_ : Nat) : Prop := s.word (.paged v at_) true (s.vf v).sec ≠ .error .stage2

/-- A walk ends at a leaf whose rights allow its access, of a granule that nothing reclassifies and no other core owns. -/
def LeafAllows (s : State) (w : Walk) (entry level : Nat) (e : Word) : Prop :=
  let p := Pte.ofWord e
  s.s1Walk w.vf (s.vf w.vf).s1root w.linear 4 = .leaf entry e level ∧
    (level = 1 → s.marked w.vf p.ppn = false ∧ (p.cls = 1 → p.owner = s.lcore w.vf w.core)) ∧
    rightsAllow w.access p.r p.w p.x = true ∧ (w.supervisor = true ∨ p.u = true)

/-- A walk ends in a stage-1 fault: in its tables, or at the rights of its leaf (R344, R345). -/
def WalkFaults (s : State) (w : Walk) : Prop :=
  let found := s.s1Walk w.vf (s.vf w.vf).s1root w.linear 4
  found = .fault ∨ ∃ entry e level, found = .leaf entry e level ∧
    (level = 1 → s.marked w.vf (Pte.ofWord e).ppn = false) ∧
    (rightsAllow w.access (Pte.ofWord e).r (Pte.ofWord e).w (Pte.ofWord e).x = false ∨
      (w.supervisor = false ∧ (Pte.ofWord e).u = false))

/-- The micro-TLB entry that a walk leaves in the way where its line now lies, if its VF kept the core meanwhile (R346, R347, R349). -/
def TlbFilled (s t : State) (w : Walk) (level : Nat) (p : Pte) : Prop :=
  (w.switched = true → ∀ c, (t.core c).tlb = (s.core c).tlb) ∧
  (w.switched = false → ∀ way, s.wayOf w.who = some (w.core, way) → ∃ x rest, (t.core w.core).tlb = x :: rest ∧
    x.way = way ∧ x.vf = w.vf ∧ x.size = level - 1 ∧ x.gpage = p.ppn ∧
    x.lpage = w.linear / 4096 / 2 ^ (9 * (level - 1)) * 2 ^ (9 * (level - 1)) ∧ x.r = p.r ∧ x.w = p.w ∧ x.x = p.x ∧ x.u = p.u)

/-- A doubleword of a context's memory copy lies in an LLC line that its VF may write (R307, R407). -/
def CopyWritable (s : State) (v gpa : Nat) : Prop :=
  hostHalf gpa = false ∧ s.occAt v gpa = false ∧ ∃ l, s.llc? v (gpa / 64) = some l ∧ l.write = true ∧
    (s.secureHpa (l.frame * 4096) = false ∨ (s.vf v).sec = true)

/-- Words of a line that lie in a guest-physical interval. -/
def touches (line i lo hi : Nat) : Prop := i < 16 ∧ line * 64 + 4 * i < hi ∧ lo < line * 64 + 4 * i + 4

end Sys2Proof.Claims
open Sys2Proof Sys2Proof.Machine Sys2Proof.Claims

/-- R308 to R315, R395: an eviction takes an ordinary line to its cluster's context L2, whose full set gives up a victim to a
write-back buffer, and from there the victim goes home to its memory copy, which then holds every doubleword of the line; a pull
and a fetch seat a READY line of the resident VF in a free way of its core, and an arriving packet its line, READY after a
migration; the line itself is unchanged but for ccore, and a taken packet frees its replay record. An eviction that the L2 cannot
take leaves its line where it is. A lost line ends its context. That the victim takes its buffer in the step that takes the new
line (log 58), and that a write-back which stage 2 refuses asks the hypervisor for the page and leaves the line in its buffer
(log 24), are the model's choices. -/
def Obligations.LinesMoveWhole : Prop :=
  (∀ (s : State) (c w v i : Nat) (x : Slot) (y : Ctx), AtWay s v i c w x → s.ctx? v i = some y →
    (s.switchesOut c w = true ∨ (s.limitWay c = some w ∧ (s.core c).limitCycle ≤ s.cycle)) →
      ((s.cluster (clusterOf c)).l2Victim (l2Set v i) = none →
        ∃ t, exec (.contextEviction c w) s = .next t ∧ t.slot? c w = none ∧ t.placeOf v i = some (.l2 (clusterOf c)) ∧
          (t.cluster (clusterOf c)).l2 = (s.cluster (clusterOf c)).l2 ++ [L2Line.mk v i x.line] ∧ t.mem = s.mem) ∧
      (∀ e, (s.cluster (clusterOf c)).l2Victim (l2Set v i) = some e → (s.cluster (clusterOf c)).outgoing.length < 16 →
        ∃ t, exec (.contextEviction c w) s = .next t ∧ t.slot? c w = none ∧ t.placeOf v i = some (.l2 (clusterOf c)) ∧
          (t.cluster (clusterOf c)).outgoing = (s.cluster (clusterOf c)).outgoing ++ [e] ∧
          (t.cluster (clusterOf c)).l2 = ((s.cluster (clusterOf c)).l2.filter fun z =>
            !(z.vf = e.vf && z.index = e.index)) ++ [L2Line.mk v i x.line] ∧ t.mem = s.mem) ∧
      ((s.cluster (clusterOf c)).l2Victim (l2Set v i) ≠ none → 16 ≤ (s.cluster (clusterOf c)).outgoing.length →
        exec (.contextEviction c w) s = .next s)) ∧
  (∀ (s : State) (cl set : Nat) (e : L2Line) (y : Ctx), s.ctx? e.vf e.index = some y →
    (s.cluster cl).outgoing.find? (fun z => l2Set z.vf z.index = set) = some e →
      let copy (k : Nat) : Nat := (s.vf e.vf).ctxbase + 128 * e.index + 8 * k
      (CopyReached s e.vf e.index →
        ∃ t, exec (.contextWriteBack cl set) s = .next t ∧ t.placeOf e.vf e.index = some .memory ∧
          (t.cluster cl).l2 = (s.cluster cl).l2 ∧
          (t.cluster cl).outgoing = ((s.cluster cl).outgoing.filter fun z => !(z.vf = e.vf && z.index = e.index)) ∧
          ((s.vf e.vf).ctxbase % 128 = 0 → (∀ k < 16, CopyWritable s e.vf (copy k)) →
            ∀ k < 16, ∃ y, t.word (.paged e.vf (copy k)) false (s.vf e.vf).sec = .ok y ∧ y.data = lineDw e.line k ∧
              y.poison = false)) ∧
      (¬ CopyReached s e.vf e.index →
        ∃ t, exec (.contextWriteBack cl set) s = .next t ∧ t.mem = s.mem ∧ t.clusters = s.clusters ∧ t.ctxs = s.ctxs ∧
          ∃ r ∈ t.requests, r.requester = .copy (.ctx e.vf e.index))) ∧
  (∀ (s : State) (c v i since : Nat) (rest : List (Nat × Nat × Nat)) (l : Line) (y : Ctx) (w : Nat),
    (s.core c).pulls = (v, i, since) :: rest → s.ctx? v i = some y → y.place = .l2 (clusterOf c) → s.lineOf v i = some l →
    l.wt = .ready → since < s.cycle → (s.core c).resident = some v → (s.core c).freeOrdinary = some w →
      ∃ t z, exec (.contextPull c) s = .next t ∧ t.slot? c w = some z ∧ z.who = .ctx v i ∧ z.segsLoaded = false ∧
        z.line = { l with ccore := BitVec.ofNat 12 (s.lcore v c) } ∧ t.placeOf v i = some (.l1 c w) ∧
        (∀ e ∈ (t.cluster (clusterOf c)).l2, ¬ (e.vf = v ∧ e.index = i)) ∧ t.mem = s.mem) ∧
  (∀ (s : State) (v i w : Nat) (l : Line) (y : Ctx), s.ctx? v i = some y → y.place = .memory → s.copyLine v i = some l →
    l.wt = .ready → (s.core (s.ccoreOf v l)).resident = some v → (s.core (s.ccoreOf v l)).freeOrdinary = some w →
    (∃ n rest, (s.core (s.ccoreOf v l)).pulls = (v, i, n) :: rest ∧ n < s.cycle) →
      ∃ t z, exec (.contextFetch v i) s = .next t ∧ t.slot? (s.ccoreOf v l) w = some z ∧ z.who = .ctx v i ∧
        z.line = { l with ccore := BitVec.ofNat 12 (s.lcore v (s.ccoreOf v l)) } ∧
        t.placeOf v i = some (.l1 (s.ccoreOf v l) w)) ∧
  (∀ (s : State) (k w : Nat) (p : Packet) (y : Ctx), s.packets[k]? = some p → s.ctx? p.vf p.index = some y →
    y.ended = false → s.packetDrained p = true →
    let c := s.pcore p.vf p.dst
    s.admits c p = true → (s.core c).resident = some p.vf → (s.core c).freeOrdinary = some w →
      ∃ t z, exec (.migrationArrival k) s = .next t ∧ t.packets = s.packets.eraseIdx k ∧ t.slot? c w = some z ∧
        z.who = .ctx p.vf p.index ∧ t.placeOf p.vf p.index = some (.l1 c w) ∧
        z.line = { (if p.launch then p.line else ready p.line) with ccore := BitVec.ofNat 12 (s.lcore p.vf c) }) ∧
  (∀ (s : State) (k n : Nat) (p : Packet) (y : Ctx), s.packets[k]? = some p → s.ctx? p.vf p.index = some y → y.ended = false →
    p.arrived = some n → n + 64 ≤ s.cycle →
    let c := s.pcore p.vf p.dst
    s.admits c p = true → (s.cluster (clusterOf c)).l2Victim (l2Set p.vf p.index) = none →
      ∃ t, exec (.arrivalToContextL2 k) s = .next t ∧ t.packets = s.packets.eraseIdx k ∧
        t.placeOf p.vf p.index = some (.l2 (clusterOf c)) ∧
        (t.cluster (clusterOf c)).l2 = (s.cluster (clusterOf c)).l2 ++
          [L2Line.mk p.vf p.index
            { (if p.launch then p.line else ready p.line) with ccore := BitVec.ofNat 12 (s.lcore p.vf c) }]) ∧
  (∀ (s : State) (cl n : Nat) (p : Packet) (r : Replay), r ∈ (s.cluster cl).replay → r.seq = n → r.sent = .packet p →
    (∀ p ∈ s.packets, ¬ (p.cluster = cl ∧ p.seq = n)) →
      ∃ t, exec (.arrivalAck cl n) s = .next t ∧ r ∉ (t.cluster cl).replay ∧ t.mem = s.mem ∧ t.cores = s.cores) ∧
  (∀ (s : State) (v i : Nat) (y : Ctx), s.ctx? v i = some y → y.place ≠ .retired →
    ∃ t, exec (.contextLineLost v i) s = .next t ∧ t.placeOf v i = some .retired ∧
      (∀ p ∈ t.packets, ¬ (p.vf = v ∧ p.index = i)) ∧ (∀ c w, y.place = .l1 c w → t.slot? c w = none))

/-- R190, R191, R282, R304: a message enters the destination's queue once its sender's earlier accesses are performed and
its class has room; a handler starts in the lowest free handler line, a reply message before a trap delivery and a trap
delivery before a request, as the message gave its line or with the parked context's id, cause and pc in g0 to g4. The RCB that a
handler runs for, the sender's or the parked context's, is the model's reading (log 40). -/
def Obligations.HandlersStartInTheirOrder : Prop :=
  (∀ (s : State) (c k dest : Nat) (m : Msg), (s.core c).outbound[k]? = some (dest, m) → dest ≠ c →
    (∀ x ∈ s.cores, ∀ e ∈ x.2.outbound, ¬ (e.1 = dest ∧ e.2.who = m.who ∧ e.2.after < m.after)) → s.drainedBefore m.who m.after true = true →
    (s.core dest).msgs.length < 32 → (m.reply = true ∨ ((s.core dest).msgs.filter fun y => !y.reply).length < 24) →
      ∃ t, exec (.messageArrival c k) s = .next t ∧ (t.core dest).msgs = (s.core dest).msgs ++ [m] ∧
        (t.core c).outbound = (s.core c).outbound.eraseIdx k ∧ t.mem = s.mem) ∧
  (∀ (s : State) (c w n : Nat) (m : Msg), (s.core c).freeHandlerLine = some w →
    ((s.core c).message? true = some (n, m) ∨
      ((s.core c).message? true = none ∧ (s.core c).delivery? = none ∧ (s.core c).message? false = some (n, m))) →
      ∃ t z, exec (.messageHandlerStart c) s = .next t ∧ t.slot? c w = some z ∧ z.reply = m.reply ∧ z.rcb = m.rcb ∧
        z.line = { m.line with ccore := BitVec.ofNat 12 (s.lcore m.vf c) } ∧
        (t.core c).msgs = (s.core c).msgs.eraseIdx n ∧ t.mem = s.mem) ∧
  (∀ (s : State) (c w n v i : Nat) (y : Ctx) (l : Line), (s.core c).freeHandlerLine = some w →
    (s.core c).message? true = none → (s.core c).delivery? = some (n, .parked v i) → s.ctx? v i = some y →
    s.lineOf v i = some l → l.wt = .upcall → l.wtArg.toNat % 256 = 0 → s.fdhOf v y.rcb ≠ 0 →
      ∃ t z, exec (.faultHandlerStart c) s = .next t ∧ t.slot? c w = some z ∧ z.rcb = y.rcb ∧
        (t.core c).deliveries = (s.core c).deliveries.eraseIdx n ∧
        z.line.handler = true ∧ z.line.supervisor = true ∧ z.line.world = l.world ∧ z.line.vfid = l.vfid ∧
        z.line.pc = BitVec.ofNat 48 (s.fdhOf v y.rcb) ∧ z.line.reg 0 = BitVec.ofNat 64 (v * 2 ^ 40 + i) ∧
        z.line.reg 1 = 3 ∧ z.line.reg 2 = BitVec.ofNat 64 (l.tcause.toNat + 2 ^ 16 * l.tinfo.toNat) ∧
        z.line.reg 3 = l.tval ∧ z.line.reg 4 = BitVec.ofNat 64 l.pc.toNat ∧ z.line.reg 5 = 0 ∧ t.mem = s.mem)

/-- R287, R342 to R349, R352: a walk from the root that ends at a leaf whose rights allow the access fills the micro-TLB of the way
where the line now lies and wakes it, a leaf's a, d and class written where they change; one that ends in a stage-1 fault traps
PAGE_FAULT, parks its line for the fibre scheduler or lets it wait for a free slot, or for the hypervisor where stage 2 does not reach its
upcall ring; a hypervisor's retry wakes the requester, its
refusal traps it STAGE2, and an answer that matches no request changes nothing but a counter. R343, R350: stage 2 lets an access
pass only by the right of its leaf, a fetch by x. R350, R370: a miss brings the line's memory into the LLC, into a way of the VF's
mask. R361: a reclassification performs the owner's queued stores to the granule one after another, and ends with its mark and the
owner's private translations gone. The model's choices here, no rules of the spec: a leaf of 2 MiB or 1 GiB keeps its a and cls
(log 61), an atomic's access sets d (log 31), the wait for a free slot watches the ring at its guest-physical address (log 26), a
ring that stage 2 refuses is waited for, and a memory copy that the hypervisor refuses for good ends its context (log 24). -/
def Obligations.TranslationsAreFilledAndAnswered : Prop :=
  (∀ (s : State) (cl k : Nat) (w : Walk) (entry level : Nat) (e : Word), Walks s cl k w →
    LeafAllows (reading s w) w entry level e → (level = 1 → (Pte.ofWord e).cls ≠ 0 ∧ e.getLsbD 5 = true) → (w.access.writes = true → e.getLsbD 6 = true) →
      ∃ t, exec (.stage1Walk cl k) s = .next t ∧ t.mem = s.mem ∧
        t.events = s.events ++ [(w.who, .wake .xlate)] ∧ (t.cluster cl).walks = (s.cluster cl).walks.eraseIdx k ∧
        TlbFilled s t w level (Pte.ofWord e)) ∧
  (∀ (s : State) (cl k : Nat) (w : Walk) (entry level : Nat) (e : Word) (l : LlcLine), Walks s cl k w →
    LeafAllows (reading s w) w entry level e → hostHalf entry = false → s.occAt w.vf entry = false → entry % 8 = 0 →
    (reading s w).llc? w.vf (entry / 64) = some l → l.write = true →
    (s.secureHpa (l.frame * 4096) = false ∨ (s.vf w.vf).sec = true) →
    (level = 1 → (Pte.ofWord e).cls = 0 → (reading s w).granuleHeld w.vf (Pte.ofWord e).ppn = false) →
      ∃ t y, exec (.stage1Walk cl k) s = .next t ∧ (w.who, .wake .xlate) ∈ t.events ∧
        (t.cluster cl).walks = (s.cluster cl).walks.eraseIdx k ∧ TlbFilled s t w level (Pte.ofWord e) ∧
        t.word (.paged w.vf entry) false (s.vf w.vf).sec = .ok y ∧ ∀ j < 64, y.data.getLsbD j =
          if j = 5 ∧ level = 1 then true
          else if j = 6 ∧ w.access.writes = true then true
          else if level = 1 ∧ (Pte.ofWord e).cls = 0 ∧ 8 ≤ j ∧ j < 10 then decide (j = 8)
          else if level = 1 ∧ (Pte.ofWord e).cls = 0 ∧ 48 ≤ j ∧ j < 60 then (s.lcore w.vf w.core).testBit (j - 48)
          else e.getLsbD j) ∧
  (∀ (s : State) (cl k : Nat) (w : Walk) (v i c way : Nat) (x : Slot) (y : Ctx), Walks s cl k w →
    WalkFaults (reading s w) w →
    w.who = .ctx v i → AtWay s v i c way x → s.ctx? v i = some y → x.line.wt = .xlate →
      let s1 := reading s w
      let ring := s.upcallRing v (s.ccoreOf v x.line)
      let id : Word := BitVec.ofNat 64 (v * 2 ^ 40 + i)
      let fault := parked x.line 0x06 w.tval w.tinfo
      let done (l : Line) (t : State) : Prop := exec (.stage1Walk cl k) s = .next t ∧
        (t.cluster cl).walks = (s.cluster cl).walks.eraseIdx k ∧ t.slot? c way = some { x with line := l }
      let waiting : Line := { x.line with wt := .xlate, wtArg := BitVec.ofNat 28 (w.linear / 2 ^ 20) }
      let asks : Prop := ∃ t r, done waiting t ∧ t.requests = s.requests ++ [r] ∧ r.vf = v ∧ r.requester = .wait w.who
      let reached : Prop := (s.vf v).upcbase = 0 ∨ RingReached s1 v ring
      (¬ reached → asks) ∧
      (reached → (s1.scheduler v ring = none ∨ s1.scheduler v ring = some id) → ∃ t, done fault t) ∧
      (∀ sched, reached → s1.scheduler v ring = some sched → sched ≠ id →
        (∀ n, s1.freeUpcall v ring = some n → RingReached s1 v (ring + 32 * n) →
          ∃ t, done { fault with wtArg := BitVec.ofNat 28 n } t) ∧
        (∀ n, s1.freeUpcall v ring = some n → ¬ RingReached s1 v (ring + 32 * n) → asks) ∧
        (s1.freeUpcall v ring = none → ∃ t, done waiting t ∧
          t.waiters = s.waiters ++ [Waiter.mk (.ctx v i) .xlate (.paged v ring) 32 none]))) ∧
  (∀ (s : State) (tag gen : Nat) (r : PageReq) (w : Who), s.requests.find? (fun x => x.tag = tag && x.gen.toNat = gen) = some r →
    r.requester = .wait w →
      (∃ t, exec (.pageResponse tag gen false) s = .next t ∧ t.requests = s.requests.erase r ∧
        t.events = s.events ++ [(w, .wake .xlate)] ∧ t.mem = s.mem) ∧
      (∃ t acc, exec (.pageResponse tag gen true) s = .next t ∧ t.requests = s.requests.erase r ∧
        t.events = s.events ++ [(w, .trap 0x07 r.tval r.tinfo acc)] ∧ t.mem = s.mem)) ∧
  (∀ (s : State) (tag gen v i : Nat) (r : PageReq) (y : Ctx),
    s.requests.find? (fun x => x.tag = tag && x.gen.toNat = gen) = some r → r.requester = .copy (.ctx v i) → s.ctx? v i = some y →
      exec (.pageResponse tag gen false) s = .next { s with requests := s.requests.erase r } ∧
      (y.place = .memory → ∃ t, exec (.pageResponse tag gen true) s = .next t ∧ t.requests = s.requests.erase r ∧
        t.placeOf v i = some .retired)) ∧
  (∀ (s : State) (tag gen : Nat) (fatal : Bool), s.requests.find? (fun x => x.tag = tag && x.gen.toNat = gen) = none →
    ∃ counters, exec (.pageResponse tag gen fatal) s = .next { s with platform := { s.platform with counters := counters } }) ∧
  (∀ (s : State) (v line : Nat) (write : Bool) (hp : Nat) (w : Bool) (way : Nat), hostHalf (line * 64) = false →
    s.llc? v line = none → way < 16 → (s.vf v).wmask.getLsbD way = true →
    (∀ x ∈ s.llc, x.place ≠ some ((s.llcSetOf (s.lineFromMemory v line hp w)).1,
      (s.llcSetOf (s.lineFromMemory v line hp w)).2, way)) → s.translate2 v (line / 64) write = some (hp, w) →
    (s.secureHpa (hp * 4096) = false ∨ (s.vf v).sec = true) →
      ∃ t l, exec (.llcMiss v line write none) s = .next t ∧ t.llc? v line = some l ∧ l.frame = hp ∧ l.write = w ∧
        l.dirty = false ∧ t.mem = s.mem ∧ t.cores = s.cores ∧
        (∃ place, l.place = some place ∧ place.2.2 < 16 ∧ (s.vf v).wmask.getLsbD place.2.2 = true) ∧
        ∀ k < 8, l.data.toNat / 2 ^ (64 * k) % 2 ^ 64 = (s.mem.word (hp * 4096 + line % 64 * 64 + 8 * k)).data.toNat) ∧
  (∀ (s : State) (k cl : Nat) (r : Reclass),
    (s.clusters.flatMap fun c => c.2.reclass.map fun r => (c.1, r))[k]? = some (cl, r) →
      let c := s.pcore r.vf r.owner
      (∀ n, s.granuleEntry c r.vf r.gpage = some n →
        exec (.reclass k) s = .next ((s.dropGranule c r.vf r.gpage).performPosted c n)) ∧
      (s.granuleEntry c r.vf r.gpage = none →
        ∃ t, exec (.reclass k) s = .next t ∧ (t.cluster cl).reclass = (s.cluster cl).reclass.erase r ∧
          ∀ e ∈ (t.core c).tlb, ¬ (e.vf = r.vf ∧ e.gpage = r.gpage ∧ e.size = 0))) ∧
  (∀ (s : State) (v page : Nat) (write fetch : Bool) (hp : Nat) (w : Bool), s.translate2 v page write fetch = some (hp, w) →
    ∃ e, s.stage2 v page write fetch = some e ∧ e.vf = v ∧ e.page = page ∧ e.frame = hp ∧
      (if fetch then e.x else if write then e.w else e.r) = true ∧ (w = true → e.w = true))

/-- R357: a load miss leaves its words valid at the core; a store's ownership leaves its words valid at the core and at no
other; a write-back leaves its words clean; an eviction leaves no copy, and writes to memory at most the host line of the
copy. R161, R364: a step of a tailrace walk leaves no core of the partition with a dirty word of its range in the next line,
and with cinval no copy of one; a walk ends once no cache of the partition holds a line of its range, gives its core a walk
back, and leaves no fetched parcel of its on-chip runs, rounded outward to 4-byte words. -/
def Obligations.CopiesFollowTheDirectory : Prop :=
  (∀ (s : State) (v line c : Nat) (m : BitVec 16) (l : LlcLine), s.coreOf v c = true → hostHalf (line * 64) = false →
    s.privateLine v line = false → (s.vf v).wmask ≠ 0 →
      (s.lineView v line false (s.vf v).sec = .ok l →
        ∃ t, exec (.dirLoadMiss v line c m) s = .next t ∧
          ∀ i < 16, m.getLsbD i = true → l.poison.getLsbD (i / 2) = false → ((t.core c).valid v line).getLsbD i = true) ∧
      (s.lineView v line true (s.vf v).sec = .ok l → m ≠ 0 →
        ∃ t, exec (.dirStoreOwnership v line c m) s = .next t ∧
          (∀ i < 16, m.getLsbD i = true → ((t.core c).valid v line).getLsbD i = true) ∧
          ∀ k, k ≠ c → ∀ i < 16, m.getLsbD i = true → ((t.core k).valid v line).getLsbD i = false)) ∧
  (∀ (s : State) (v line c : Nat) (m : BitVec 16),
    (s.llc? v line ≠ none ∨ ∀ x, (s.core c).cacheLine? v line = some x → x.host = true) →
    ∃ t, exec (.dirWriteBack v line c m) s = .next t ∧ dirtyOf (t.core c) v line &&& m = 0 ∧
      (s.llc? v line ≠ none → t.mem = s.mem) ∧
      (∀ x, (s.core c).cacheLine? v line = some x →
        ∀ a, a < x.hline * 64 ∨ x.hline * 64 + 64 ≤ a → t.mem.get a = s.mem.get a) ∧
      ∀ k, k ≠ c → t.core k = s.core k) ∧
  (∀ (s : State) (v line c : Nat), ∃ t, exec (.dirCoreEvict v line c) s = .next t ∧ (t.core c).valid v line = 0 ∧
    (∀ x, (s.core c).cacheLine? v line = some x → (x.host = false ∨ s.llc? v line ≠ none → t.mem = s.mem) ∧
      ∀ a, a < x.hline * 64 ∨ x.hline * 64 + 64 ≤ a → t.mem.get a = s.mem.get a) ∧
    ((s.core c).cacheLine? v line = none → t.mem = s.mem) ∧ ∀ k, k ≠ c → t.core k = s.core k) ∧
  (∀ (s : State) (k : Nat) (w : RangeWalk) (at_ line lo hi : Nat), s.rangeWalks[k]? = some w →
    s.walkNext w = some (at_, line, lo, hi) →
      ∃ t, exec (.tailraceWalk k) s = .next t ∧ t.rangeWalks = s.rangeWalks.set k { w with cursor := at_ + 1 } ∧
        ∀ c i, s.coreOf w.vf c = true → touches line i lo hi →
          (w.inval = true → ((t.core c).valid w.vf line).getLsbD i = false) ∧
          (w.inval = false → (s.llc? w.vf line ≠ none ∨ ∀ x, (s.core c).cacheLine? w.vf line = some x → x.host = true) →
            (dirtyOf (t.core c) w.vf line).getLsbD i = false)) ∧
  (∀ (s : State) (k : Nat) (w : RangeWalk), s.rangeWalks[k]? = some w → s.walkNext w = none → w.rbar = 0 →
    ∃ t, exec (.tailraceWalk k) s = .next t ∧ t.rangeWalks = s.rangeWalks.eraseIdx k ∧ t.mem = s.mem ∧
      (t.core w.core).walks = (s.core w.core).walks - 1 ∧
      ∀ c, s.coreOf w.vf c = true → ∀ x ∈ (t.core c).fetch, ∀ r ∈ w.chip, 
        ¬ (x.loc.unit = r.1.unit ∧ r.2 ≠ 0 ∧ x.loc.pos < (r.1.pos + r.2 + 3) / 4 * 4 ∧ r.1.pos / 4 * 4 < x.loc.pos + x.n)) ∧
  (∀ (s : State) (w : RangeWalk) (a : Nat), w.linear = some a → 0 < w.len → w.cursor = 0 → (s.vf w.vf).s1en = false →
    s.walkNext w = none → ∀ c line, s.coreOf w.vf c = true → line * 64 < a + w.len → a < line * 64 + 64 →
      (s.core c).valid w.vf line = 0)

/-- R269, R288, R351, R354, R407, R416: a host reads the word it names and writes the bytes it names and no others, where no LLC
line holds them and the module is reached from there (R373, R418), bits 0 and 1 of an occ word read as 1; where an LLC line holds the word, the read leaves no
core's copy of it dirty and gives what the line then holds (R358; so no word that a host reads is one that R269 hides from it, which
is how the model reads the two together, log 104); a reserved or secure
address answers nothing and takes nothing, and an access that does not reach the module changes neither memory nor the answer. A
frame command assigns a free frame, starts a scrub of an assigned one, and the scrub's end leaves the frame's 4,096 bytes 0, full
and unassigned; anything else is refused. -/
def Obligations.HostsAndFramesReachMemory : Prop :=
  (∀ (s : State) (by_ : Origin) (hpa : Nat), s.hostReaches by_ hpa = true → frameReserved hpa = false →
    (s.secureHpa hpa = false ∨ s.hostSecure by_ = true) → s.linesAt hpa = [] →
      let occ := (s.ownerAddr hpa).any fun a => s.occAt a.1 a.2
      ∃ t, exec (.hostRead by_ hpa) s = .next t ∧ t.mem = s.mem ∧
        t.hostPort = if (s.mem.word hpa).poison then none
          else some (if occ then (s.mem.word hpa).data ||| 3 else (s.mem.word hpa).data)) ∧
  (∀ (s : State) (by_ : Origin) (hpa : Nat) (l : LlcLine), s.hostReaches by_ hpa = true → frameReserved hpa = false →
    (s.secureHpa hpa = false ∨ s.hostSecure by_ = true) → s.linesAt hpa = [l] →
      let occ := ((s.ownerAddr hpa).any fun a => s.occAt a.1 a.2) || s.occAt l.vf (l.line * 64 + hpa % 64)
      ∃ t x, exec (.hostRead by_ hpa) s = .next t ∧ t.mem = s.mem ∧ t.llc? l.vf l.line = some x ∧
        t.hostPort = (if (x.word x.data hpa).poison then none
          else some (if occ then (x.word x.data hpa).data ||| 3 else (x.word x.data hpa).data)) ∧
        ∀ k, ∀ i < 16, i / 2 = hpa % 64 / 8 → (dirtyOf (t.core k) l.vf l.line).getLsbD i = false) ∧
  (∀ (s : State) (by_ : Origin) (hpa n : Nat) (v : Word), s.hostReaches by_ hpa = true → s.mem.wf = true →
    0 < n → hpa % 8 + n ≤ 8 → frameReserved hpa = false → (s.secureHpa hpa = false ∨ s.hostSecure by_ = true) →
    s.linesAt hpa = [] → (s.mem.word hpa).poison = false →
    (∀ u g, s.ownerAddr hpa = some (u, g) → s.copyAt u g = none ∧ s.occAt u g = false) →
      ∃ t, exec (.hostWrite by_ hpa n v) s = .next t ∧ t.mem.read hpa n = v.toNat % 2 ^ (8 * n) ∧
        (∀ k, k < hpa ∨ hpa + n ≤ k → t.mem.get k = s.mem.get k) ∧ t.llc = s.llc ∧ t.cores = s.cores) ∧
  (∀ (s : State) (by_ : Origin) (hpa n : Nat) (v : Word), s.hostReaches by_ hpa = true → 0 < n → hpa % 8 + n ≤ 8 →
    (frameReserved hpa = true ∨ (s.secureHpa hpa = true ∧ s.hostSecure by_ = false)) →
      (∃ t, exec (.hostRead by_ hpa) s = .next t ∧ t.hostPort = none ∧ t.mem = s.mem) ∧
      (∃ t, exec (.hostWrite by_ hpa n v) s = .next t ∧ t.mem = s.mem ∧ t.llc = s.llc ∧ t.cores = s.cores)) ∧
  (∀ (s : State) (by_ : Origin) (hpa n : Nat) (v : Word), s.hostReaches by_ hpa = false →
    ∀ i ∈ [Instr.hostRead by_ hpa, .hostWrite by_ hpa n v],
      ∃ t, exec i s = .next t ∧ t.hostPort = s.hostPort ∧ t.mem = s.mem ∧ t.llc = s.llc ∧ t.cores = s.cores) ∧
  (∀ (s : State) (frame v gfn : Nat) (ro : Bool),
    (s.frameUsable frame = true → (s.frame frame).state = 0 →
      exec (.frameAssign frame v gfn ro) s = .next { s with
        frames := s.frames.set frame (Frame.mk (v % 512) 1 ro (gfn % 2 ^ 36)), frameStatus := .ok }) ∧
    ((s.frameUsable frame = false ∨ (s.frame frame).state ≠ 0) →
      exec (.frameAssign frame v gfn ro) s = .next { s with frameStatus := .refused }) ∧
    ((s.frame frame).state = 1 → exec (.frameRelease frame) s = .next { s with
      frames := s.frames.set frame { s.frame frame with state := 2 }, frameStatus := .busy }) ∧
    ((s.frame frame).state ≠ 1 → exec (.frameRelease frame) s = .next { s with frameStatus := .refused }) ∧
    ((s.frame frame).state = 2 → s.mem.wf = true →
      ∃ t, exec (.frameScrubDone frame) s = .next t ∧ (t.frame frame).state = 0 ∧ t.frameStatus = .ok ∧
        (∀ l ∈ t.llc, l.frame ≠ frame) ∧ (∀ c, ∀ e ∈ (t.core c).fetch, e.frame ≠ some frame) ∧
        (∀ j < 4096, t.mem.read (frame * 4096 + j) 1 = 0 ∧ t.mem.full (frame * 4096 + j) = true) ∧
        ∀ k, k / 4096 ≠ frame → t.mem.get k = s.mem.get k) ∧
    ((s.frame frame).state ≠ 2 → exec (.frameScrubDone frame) s = .next s))

namespace Sys2Proof.Claims
open Sys2Proof.Machine

/-! ## Headrace (R318 to R337) -/

/-- The code, the late bit and the reason in dw14 of an RCB (R319). -/
def stateCode (s : State) (v addr : Nat) : Option Nat := (s.rcbWord v addr 14).map fun w => w.toNat % 16
def lateBit (s : State) (v addr : Nat) : Option Bool := (s.rcbWord v addr 14).map fun w => w.getLsbD 5
def reason (s : State) (v addr : Nat) : Option Nat := (s.rcbWord v addr 14).map fun w => w.toNat / 256 % 256

/-- An RCB that is malformed (R319, R323), by its doublewords: a root, or a child whose parent is `parent`. -/
def malformed (d : Nat → Nat) (e : Nat → Nat) (parent ctxlen : Nat) : Prop :=
  d 1 / 2 ^ 32 ≠ 0 ∨ d 9 / 2 ^ 32 ≠ 0 ∨ d 3 / 4 % 64 ≠ 0 ∨ d 3 / 2 ^ 16 ≠ 0 ∨ d 5 / 2 ^ 48 ≠ 0 ∨ d 6 / 2 ^ 48 ≠ 0 ∨
  d 7 / 2 ^ 18 % 64 ≠ 0 ∨ d 7 / 2 ^ 42 ≠ 0 ∨ d 8 / 2 ^ 40 ≠ 0 ∨ (∃ k, 18 ≤ k ∧ k ≤ 30 ∧ d k ≠ 0) ∨ d 31 / 2 ^ 10 ≠ 0 ∨
  e 3 % 4 = 3 ∨ 5 ≤ e 7 / 2 ^ 32 % 8 ∨ e 6 % 2 = 1 ∨ e 5 % 2 = 1 ∨ d 0 ≠ parent ∨ ctxlen < e 8 % 2 ^ 40 + e 9 % 2 ^ 32

/-- The records of a state name distinct RCBs, each by its own number. -/
def Distinct (l : List Rcb) : Prop := l.Pairwise fun x y => ¬ (x.vf = y.vf ∧ x.addr = y.addr) ∧ x.order ≠ y.order

/-- The line of a new context (R14, R329). -/
def newLine (r : Rcb) (sec : Bool) (i lc : Nat) : Line :=
  { Line.blank with
    pc := BitVec.ofNat 48 r.entry
    world := r.dw7.toNat / 2 ^ 16 % 2 = 1 ∧ sec = true
    supervisor := r.dw7.toNat / 2 ^ 17 % 2 = 1
    fcsr := BitVec.ofNat 16 (r.dw7.toNat / 2 ^ 32 % 2 ^ 10)
    sset := BitVec.ofNat 16 (r.dw7.toNat % 2 ^ 16)
    cls := BitVec.ofNat 8 (r.dw7.toNat / 2 ^ 24)
    prio := BitVec.ofNat 8 r.prio
    vfid := BitVec.ofNat 9 r.vf
    ccore := BitVec.ofNat 12 lc
    g := #v[BitVec.ofNat 64 i, r.arg, 0, 0, 0, 0, 0, 0] }

/-- A work queue with an entry to read: enabled, not stopped, of a bound VF. -/
structure Reading (s : State) (v q : Nat) (w : Wq) : Prop where
  queue : (s.vf v).queues.get q Wq.reset = w
  bound : (s.vf v).st = 1
  size : 1 ≤ w.lsize ∧ w.lsize ≤ 16
  run : w.err = false
  some : w.qhead < w.qtail

/-- Doubleword `k` of the entry at qhead is `d`, readable and not poisoned. -/
def EntryIs (s : State) (v : Nat) (w : Wq) (k : Nat) (d : Word) : Prop :=
  ∃ full, s.gpaWord v (w.qbase + 64 * (w.qhead % 2 ^ w.lsize) + 8 * k) = some (Word8.mk d full false)

/-- The state with a work queue replaced. -/
def withQueue (s : State) (v q : Nat) (w : Wq) : State :=
  s.setVf v { s.vf v with queues := (s.vf v).queues.set q w }

/-- An entry that breaks R327 on this device. -/
def badEntry (d : Nat → Word) (device : Nat) : Prop :=
  (d 0 ≠ 1 ∧ d 0 ≠ 2) ∨ d 5 ≠ 0 ∨ d 6 ≠ 0 ∨ 2 ^ 32 ≤ (d 3).toNat ∨ (d 0 = 1 ∧ d 2 ≠ 0) ∨
  (d 0 = 2 ∧ (d 4).getLsbD device = false)

/-! ## Switches (R209, R213, R333 to R339) -/

/-- The physical cores of a partition. -/
def coreOfNode (n c : Nat) : Prop := ∃ k < nodeClusters n, ∃ j < 16, c = 16 * physicalCluster n k + j

/-- Nothing of an outgoing VF still reaches a place. -/
def Quiet (s : State) (v : Nat) (p : Loc → Bool) : Prop := s.writesComing v p = false ∧ s.heldTouches v p = false

end Sys2Proof.Claims
open Sys2Proof Sys2Proof.Machine Sys2Proof.Claims

/-- R319, R321, R323, R324, R326, R330, R336: a spawned RCB that is NEW is named and PENDING; one that is not NEW is left as it
is, its entry gone and the spawner's core given a handler of the spawner's fault domain; a PENDING root that is malformed is ABORTED with reason 1, one that
overlaps with reason 2; an admissible one is ADMITTED in its turn, and at once DONE when it launches nothing; an ADMITTED
root with nothing live or left is DONE; one that has used up its cycle budget is ABORTED; one past its deadline is late. The
model's readings here, no rules of the spec: a budget counts what finished descendants issued and reads a record kept of the
spawner's RCB (log 67), the report's handler runs for that RCB (log 40), an RCB that is both malformed and overlapping ends with
reason 1, the checks of R323 taken in that order (log 66), and one that Headrace holds named is not named again, whatever software
wrote to its state (log 102). -/
def Obligations.RegionsAreNamedAdmittedAndFinished : Prop :=
  (∀ (s : State) (v a : Nat) (e : PoolEntry) (d : List Word),
    s.pool.find? (fun e => e.vf = v && e.child = a && s.drainedBefore e.who e.after true) = some e → s.readRcb v a = some d →
      (∃ t, exec (.rcbAdmit v a) s = .next t ∧ t.pool = s.pool.erase e ∧
        ((rcbDw d 14).toNat % 16 = 0 → s.rcb? v a = none → Held s v a → ∃ r, t.rcb? v a = some r ∧ r.state = .pending ∧ r.parent = e.parent ∧
          r.order = s.named ∧ r.chain = e.chain ∧ r.ibase = (rcbDw d 8).toNat % 2 ^ 40 ∧
          r.lcount = (rcbDw d 9).toNat % 2 ^ 32 ∧ r.live = 0 ∧ r.used = 0 ∧ r.sused = 0 ∧
          t.rcbWord v a 14 = some 1 ∧ t.rcbWord v a 15 = some 0 ∧ t.rcbWord v a 16 = some 0 ∧ t.rcbWord v a 17 = some 0) ∧
        ((rcbDw d 14).toNat % 16 ≠ 0 ∨ s.rcb? v a ≠ none → t.named = s.named ∧ (s.rcb? v a = none → t.rcb? v a = none) ∧ ∀ p, e.chain.head?.bind (fun x => s.recordOf x.1) = some p →
          (p.fdh = 0 → (t.core e.core).deliveries = (s.core e.core).deliveries) ∧
          (p.fdh ≠ 0 → ∃ l, (t.core e.core).deliveries = (s.core e.core).deliveries ++
              [.report v (if (s.rcbOf p.order).isSome then p.addr else 0) l] ∧
            l.handler = true ∧ l.supervisor = true ∧ l.pc = BitVec.ofNat 48 p.fdh ∧ l.reg 0 = BitVec.allOnes 64 ∧
            l.reg 1 = 3 ∧ l.reg 2 = 1 ∧ l.reg 3 = BitVec.ofNat 64 a ∧ l.reg 4 = 0 ∧ l.reg 5 = 0)))) ∧
  (∀ (s : State) (r : Rcb) (d : List Word), s.rcb? r.vf r.addr = some r → r.state = .pending → r.parent = 0 →
    r.spawner = none → (s.vf r.vf).st ≠ 2 → s.readRcb r.vf r.addr = some d → r.load (effective d none) = r →
    Distinct s.rcbs → Held s r.vf r.addr →
    s.pool.find? (fun e => e.vf = r.vf && e.child = r.addr && s.drainedBefore e.who e.after true) = none →
    let dw (k : Nat) : Nat := (rcbDw d k).toNat
    let meets (x : Rcb) : Prop := x.vf = r.vf ∧ x.state = .admitted ∧ x.order ≠ r.order ∧ 0 < r.lcount ∧ 0 < x.lcount ∧
      r.ibase < x.ibase + x.lcount ∧ x.ibase < r.ibase + r.lcount
    let bad := malformed dw dw 0 (s.vf r.vf).ctxlen
    (bad ∨ (∃ x ∈ s.rcbs, meets x) → ∃ t, exec (.rcbAdmit r.vf r.addr) s = .next t ∧ (∀ x ∈ t.rcbs, x.order ≠ r.order) ∧
      stateCode t r.vf r.addr = some 4 ∧ (bad → reason t r.vf r.addr = some 1) ∧ (¬ bad → reason t r.vf r.addr = some 2)) ∧
    (¬ bad → (∀ x ∈ s.rcbs, ¬ meets x) → s.admissible r = true →
      (∀ x ∈ s.rcbs, x.vf = r.vf → x.state = .pending → x.order ≠ r.order → s.readRcb x.vf x.addr ≠ none →
        s.admissible x = true → s.goesBefore x r = false) →
        ∃ t, exec (.rcbAdmit r.vf r.addr) s = .next t ∧
          (r.lcount ≠ 0 → t.rcb? r.vf r.addr = some { r with state := .admitted } ∧ stateCode t r.vf r.addr = some 2) ∧
          (r.lcount = 0 → (∀ x ∈ t.rcbs, x.order ≠ r.order) ∧ stateCode t r.vf r.addr = some 3)) ∧
    (¬ bad → (∀ x ∈ s.rcbs, ¬ meets x) → s.admissible r = false → exec (.rcbAdmit r.vf r.addr) s = .next s)) ∧
  (∀ (s : State) (r : Rcb), s.rcb? r.vf r.addr = some r → r.state = .admitted → r.parent = 0 → (s.vf r.vf).st ≠ 2 →
    Held s r.vf r.addr →
    (r.live = 0 → r.lcount ≤ r.next → ∃ t, exec (.rcbFinish r.vf r.addr) s = .next t ∧ (∀ x ∈ t.rcbs, x.order ≠ r.order) ∧
      stateCode t r.vf r.addr = some 3 ∧ reason t r.vf r.addr = some 0) ∧
    (r.live ≠ 0 ∨ r.next < r.lcount → exec (.rcbFinish r.vf r.addr) s = .next s)) ∧
  (∀ (s : State) (r : Rcb), s.rcb? r.vf r.addr = some r → r.state = .admitted → r.parent = 0 → Held s r.vf r.addr →
    Distinct s.rcbs → (∀ x ∈ s.ancestors, x.under r = false ∧ ¬ (x.vf = r.vf ∧ x.addr = r.addr)) →
    s.subtree r = [r] → s.pool = [] → s.ctxsOf r.vf r.addr = [] →
    (r.ybud ≠ 0 → r.ybud ≤ r.used + r.past → ∃ t, exec (.cycleBudgetAbort r.vf r.addr) s = .next t ∧
      (∀ x ∈ t.rcbs, x.order ≠ r.order) ∧ stateCode t r.vf r.addr = some 4 ∧ reason t r.vf r.addr = some 3) ∧
    (r.ybud = 0 ∨ r.used + r.past < r.ybud → exec (.cycleBudgetAbort r.vf r.addr) s = .next s)) ∧
  (∀ (s : State) (r : Rcb), s.rcb? r.vf r.addr = some r → Held s r.vf r.addr →
    (r.cls = 0 → r.deadline < s.tick → ∃ t, exec (.deadlinePass r.vf r.addr) s = .next t ∧ t.rcbs = s.rcbs ∧
      lateBit t r.vf r.addr = some true ∧ stateCode t r.vf r.addr = stateCode s r.vf r.addr) ∧
    (r.cls ≠ 0 ∨ s.tick ≤ r.deadline → exec (.deadlinePass r.vf r.addr) s = .next s))

/-- R329, R333, R337, R396, R397: while its VF holds the partition, the RCB that is first in rank among those that deliver sends
its next context to the core with the most free ordinary ways, the lowest of several: a launch delivery with a replay
record, acknowledged within 65,536 cycles, and the line of R329's table; live and next grow by 1. The model's readings here, no
rules of the spec: free ways less the lines already on their way (log 68), and the record in the destination's cluster (log 48). -/
def Obligations.LaunchesSendTheNextContext : Prop :=
  ∀ (s : State) (r : Rcb), s.rcb? r.vf r.addr = some r → r.addr ≠ 0 → r.state = .admitted → r.next < r.lcount →
    (r.gang = none ∨ ∃ g ∈ s.gangs, g.rcb = some r.order ∧ g.started = true) → (s.vf r.vf).st = 1 → s.holdsPart r.vf = true →
    (∀ x ∈ s.rcbs, x.vf = r.vf → x.order ≠ r.order → s.delivers x = true → s.goesBefore x r = false) →
    (∀ y, s.ctx? r.vf (r.ibase + r.next) = some y → y.place = .retired) →
    ∃ lc < nodeCores (s.nodeOf r.vf),
      let i := r.ibase + r.next
      let cl := clusterOf (s.pcore r.vf lc)
      (∀ c < nodeCores (s.nodeOf r.vf), s.freeWays r.vf c ≤ s.freeWays r.vf lc ∧
        (c < lc → s.freeWays r.vf c < s.freeWays r.vf lc)) ∧
      ((s.cluster cl).replay.length < 512 → ∃ t p, exec (.launchDelivery r.vf r.addr) s = .next t ∧
        t.packets = s.packets ++ [p] ∧ p.launch = true ∧ p.src = 0xFFF ∧ p.dst = lc ∧ p.vf = r.vf ∧ p.index = i ∧
        p.line = newLine r (s.vf r.vf).sec i lc ∧ p.cluster = cl ∧ p.seq = (s.cluster cl).nextSeq ∧
        (∃ x, (t.cluster cl).replay = (s.cluster cl).replay ++ [x] ∧ x.seq = p.seq ∧ x.sent = .packet p ∧
          x.gen = (s.vf r.vf).gen ∧ x.deadline = s.cycle + 65536) ∧
        t.placeOf r.vf i = some .flight ∧
        t.rcb? r.vf r.addr = some { r with next := r.next + 1, live := r.live + 1 }) ∧
      (512 ≤ (s.cluster cl).replay.length → exec (.launchDelivery r.vf r.addr) s = .next s)

/-- R321, R325, R327, R328, R337, R373: a doorbell of the host that reaches the VF sets qtail; an entry whose seq is its
number and that passes R327 is taken, its root RCB named, with its gang when it is one; one that fails R327 or whose RCB
is not NEW stops the queue with qhead at it; one whose seq differs is read again every 64 ticks, and stops the queue
4,096 ticks after its doorbell; clearing err resumes the queue. R337: READY of another member is recorded once; an ABORT
keeps a gang from starting, or ends the launch that has started; 1,024 ticks before the start a member that lacks a
READY sends ABORT to every member, once, whether or not one has reached it; at the start the gang starts when READY is
here from every member and no ABORT is, and otherwise its record goes and its RCB ends ABORTED with reason 4. This
device sends its READY to every member once the RCB is admitted and the device is synchronised (R423). The model's
readings here, no rules of the spec: a message waits for an id not yet taken (log 69), and an ABORT goes first to the
gang of its id that has not started, which a second entry of that id ends (log 67). -/
def Obligations.WorkQueuesAndGangsTakeTheirEntries : Prop :=
  ((∀ (s : State) (v q : Nat) (n : Word) (w : Wq), v < 512 → q < 256 → (s.vf v).queues.get q Wq.reset = w →
    let bells := if w.qtail < n.toNat then w.bells ++ [(n.toNat, s.tick)] else w.bells
    (s.deviceVf? v ≠ none →
      exec (.qtailDoorbell v q n) s = .next (withQueue s v q { w with qtail := n.toNat, bells := bells })) ∧
    (s.deviceVf? v = none → exec (.qtailDoorbell v q n) s = .next s)) ∧
  (∀ (s : State) (v q : Nat) (w : Wq) (d : Nat → Word), Reading s v q w → w.poll = none → (∀ k < 8, EntryIs s v w k (d k)) →
    d 7 = BitVec.ofNat 64 (w.qhead + 1) →
    let a := (d 1).toNat
    let stopped := withQueue s v q { w with err := true, poll := none }
    (badEntry d s.platform.device → (d 0).toNat % 256 ≠ 2 → exec (.wqLaunch v q) s = .next stopped) ∧
    (badEntry d s.platform.device → (d 0).toNat % 256 = 2 → exec (.wqGang v q) s = .next stopped) ∧
    (¬ badEntry d s.platform.device → (s.nameRcb v a 0 none [] none = none → d 0 = 1 →
      exec (.wqLaunch v q) s = .next stopped) ∧
      (s.nameRcb v a 0 none [] (some (d 3).toNat) = none → d 0 = 2 → exec (.wqGang v q) s = .next stopped)) ∧
    (∀ x, ¬ badEntry d s.platform.device → s.rcb? v a = none → s.readRcb v a = some x → (rcbDw x 14).toNat % 16 = 0 →
      (d 0 = 1 → ∃ t r w', exec (.wqLaunch v q) s = .next t ∧ t.rcb? v a = some r ∧ r.state = .pending ∧ r.parent = 0 ∧
        r.gang = none ∧ (t.vf v).queues.get q Wq.reset = w' ∧ w'.qhead = w.qhead + 1 ∧ w'.err = false) ∧
      (d 0 = 2 → s.tick + 2048 ≤ (d 2).toNat → (s.gang (d 3).toNat).rcb = none →
        ∃ t r w', exec (.wqGang v q) s = .next t ∧ t.rcb? v a = some r ∧ r.order = s.named ∧
          r.state = .pending ∧ r.gang = some (d 3).toNat ∧ (t.vf v).queues.get q Wq.reset = w' ∧ w'.qhead = w.qhead + 1 ∧
          t.gang? (d 3).toNat = some { s.gang (d 3).toNat with
            rcb := some s.named, start := (d 2).toNat, members := d 4 }) ∧
      (d 0 = 2 → s.tick + 2048 ≤ (d 2).toNat → (s.gang (d 3).toNat).rcb ≠ none →
        ∃ t, exec (.wqGang v q) s = .next t ∧
          t.gang? (d 3).toNat = some (Gang.mk (d 3).toNat (some s.named) (d 2).toNat (d 4) [] false false false false)) ∧
      (d 0 = 2 → (d 2).toNat < s.tick + 2048 → ∃ t g, exec (.wqGang v q) s = .next t ∧
        t.gang? (d 3).toNat = some g ∧ g.aborted = true ∧ g.sent = true))) ∧
  (∀ (s : State) (v q : Nat) (w : Wq) (x : Word), Reading s v q w → EntryIs s v w 7 x →
    x ≠ BitVec.ofNat 64 (w.qhead + 1) →
    (w.poll = none → exec (.wqLaunch v q) s = .next (withQueue s v q { w with poll := some (s.tick + 64) })) ∧
    (∀ p, w.poll = some p → p ≤ s.tick →
      exec (.wqEntryPoll v q) s = .next (withQueue s v q { w with poll := some (p + 64) })) ∧
    (∀ n at_ rest, w.bells = (n, at_) :: rest → w.qhead < n → at_ + 4096 ≤ s.tick →
      exec (.wqEntryTimeout v q) s = .next (withQueue s v q { w with err := true, poll := none }))) ∧
  (∀ (s : State) (v q : Nat) (w : Wq) (p : Nat), Reading s v q w → EntryIs s v w 7 (BitVec.ofNat 64 (w.qhead + 1)) →
    w.poll = some p → p ≤ s.tick → exec (.wqEntryPoll v q) s = .next (withQueue s v q { w with poll := none })) ∧
  (∀ (s : State) (v q : Nat) (w : Wq), (s.vf v).queues.get q Wq.reset = w →
    (w.err = true → s.deviceVf? v ≠ none →
      exec (.errClear v q) s = .next (withQueue s v q { w with err := false, poll := none })) ∧
    (w.err = false ∨ s.deviceVf? v = none → exec (.errClear v q) s = .next s))) ∧
  ((∀ (s : State) (id m : Nat), (s.gang id).ready.contains m = true → exec (.gangReady id m) s = .next s) ∧
  (∀ (s : State) (id m : Nat), m ≠ s.platform.device → (s.gang id).ready.contains m = false →
    ∃ t, exec (.gangReady id m) s = .next t ∧ t.gang? id = some { s.gang id with ready := (s.gang id).ready ++ [m] } ∧
      ∀ k, k ≠ id → t.gang? k = s.gang? k) ∧
  (∀ (s : State) (id : Nat), let m := s.platform.device
    (s.gang id).ready.contains m = false →
      (s.platform.unsync = false → (s.gang id).admitted = true →
        ∃ t, exec (.gangReady id m) s = .next t ∧ t.gang? id = some { s.gang id with ready := (s.gang id).ready ++ [m] } ∧
          ∀ k < 64, (s.gang id).members.getLsbD k = true → GangSend.mk id k false s.tick ∈ t.gangSends) ∧
      (s.platform.unsync = true ∨ (s.gang id).admitted = false → exec (.gangReady id m) s = .next s)) ∧
  (∀ (s : State) (id m : Nat), (∃ g, s.gang? id = some g) ∨ s.startedGang id = none →
    ∃ t, exec (.gangAbort id m) s = .next t ∧ t.gang? id = some { s.gang id with aborted := true } ∧ t.rcbs = s.rcbs) ∧
  (∀ (s : State) (id : Nat) (g : Gang), s.gang? id = some g → g.rcb ≠ none →
    g.start ≤ s.tick + 1024 → (∃ k < 64, g.members.getLsbD k = true ∧ k ∉ g.ready) →
      (g.sent = true → exec (.gangReadyDeadline id) s = .next s) ∧
      (g.sent = false → ∃ t, exec (.gangReadyDeadline id) s = .next t ∧
        t.gang? id = some { g with aborted := true, sent := true } ∧ t.rcbs = s.rcbs ∧
        ∀ k < 64, g.members.getLsbD k = true → GangSend.mk id k true s.tick ∈ t.gangSends)) ∧
  (∀ (s : State) (id : Nat) (g : Gang) (n : Nat), s.gang? id = some g → g.rcb = some n →
    (s.tick < g.start → exec (.gangStart id) s = .next s) ∧
    (g.start ≤ s.tick → g.aborted = false → (∀ k < 64, g.members.getLsbD k = true → k ∈ g.ready) →
      ∃ t, exec (.gangStart id) s = .next t ∧ t.gang? id = none ∧ { g with started := true } ∈ t.gangs ∧ t.rcbs = s.rcbs)) ∧
  (∀ (s : State) (id m : Nat) (g : Gang) (r : Rcb), s.gangRcb g = some r → s.rcb? r.vf r.addr = some r → r.parent = 0 →
    Held s r.vf r.addr → s.subtree r = [r] → s.pool = [] → s.ctxsOf r.vf r.addr = [] →
    let ends (t : State) : Prop := t.gang? id = none ∧ (∀ x ∈ t.rcbs, x.order ≠ r.order) ∧
      stateCode t r.vf r.addr = some 4 ∧ reason t r.vf r.addr = some 4
    (s.gang? id = none → s.startedGang id = some g → ∃ t, exec (.gangAbort id m) s = .next t ∧ ends t) ∧
    (s.gang? id = some g → g.start ≤ s.tick →
      (g.aborted = true ∨ ∃ k < 64, g.members.getLsbD k = true ∧ k ∉ g.ready) →
        ∃ t, exec (.gangStart id) s = .next t ∧ ends t)))

/-- R333 to R335, R339: a slice ends at its tick and not before; its VF's account grows by the cycles that it delivered;
the next slice goes to the first in rank of the VFs with work, or stays where none has work, for that VF's slice length;
every core of the partition that another VF held begins a switch. That a partition without work keeps its VF, and that
only a VF that had work is charged, is the model's reading (log 71). R207, R209, R213, R228, R308, R339: from its 32nd
cycle a switch evicts the first outgoing line in way order that is not pinned; with nothing of the outgoing VF left, the
scrub clears the data part of the scratchpad, the handle table and the core's format context and lasts 128 cycles, and
the fill clears every bank that no VF keeps and lasts 1,024; no other byte changes. -/
def Obligations.SlicesAndSwitches : Prop :=
  (∀ (s : State) (n v : Nat) (p : Part), s.parts.find n = some p → p.resident = some v → p.split = false →
    (s.tick < p.sliceEnd → exec (.sliceEnd n) s = .next s) ∧
    (p.sliceEnd ≤ s.tick → ∃ t q u, exec (.sliceEnd n) s = .next t ∧ t.parts.find n = some q ∧ q.resident = some u ∧
      q.sliceEnd = s.tick + (if (s.vf u).slice = 0 then 1000000 else (s.vf u).slice) ∧ q.gained = 0 ∧ q.split = false ∧
      (v ∈ p.hadWork → (t.vf v).account = (s.vf v).account + p.gained) ∧
      (let x := (s.creditSlice p).noteWork n
       (x.workers n = [] → u = v) ∧
       (x.workers n ≠ [] → u ∈ x.workers n ∧ ∀ k ∈ x.workers n, ∀ a b, x.vfRank k = some a → x.vfRank u = some b →
        a.better b = false)) ∧
      (u = v → t.cores = s.cores ∧ t.clusters = s.clusters) ∧
      (u ≠ v → ∀ c, coreOfNode n c → (t.core c).resident = some u ∧
        (∀ w, (s.core c).resident = some w → w ≠ u → (t.core c).switchAt = some s.cycle ∧ (t.core c).scrubDue = true)) ∧
      t.mem = s.mem ∧ t.ctxs = s.ctxs ∧ t.rcbs = s.rcbs)) ∧
  ((∀ (s : State) (c at_ : Nat), (s.core c).switchAt = some at_ →
    (s.cycle < at_ + 32 → exec (.vfSwitchSweep c) s = .next s) ∧
    (∀ w x v i y, at_ + 32 ≤ s.cycle → AtWay s v i c w x → s.ctx? v i = some y → w < 60 → s.pinned c w x = false →
      (s.core c).resident ≠ some x.line.vfid.toNat →
      (s.outgoing c).find? (fun e => e.1 < 60 && !s.pinned c e.1 e.2) = some (w, x) →
      (s.cluster (clusterOf c)).l2Victim (l2Set v i) = none →
        ∃ t, exec (.vfSwitchSweep c) s = .next t ∧ t.slot? c w = none ∧ t.placeOf v i = some (.l2 (clusterOf c)) ∧
          (t.cluster (clusterOf c)).l2 = (s.cluster (clusterOf c)).l2 ++ [L2Line.mk v i x.line])) ∧
  (∀ (s : State) (c v : Nat), (s.core c).resident = some v → (s.core c).scrubDue = true → s.outgoing c = [] →
    Quiet s v (inScratch c) → c < 4096 →
      ∃ t, exec (.scratchpadScrub c) s = .next t ∧ (t.core c).scrubUntil = some (s.cycle + 128) ∧
        (t.core c).scrubDue = false ∧ (t.core c).switchAt = none ∧ (t.core c).handles = [] ∧
        (t.cluster (clusterOf c)).fmts.find (c % 16) = none ∧
        (∀ p < 0x1F000, t.mem.get (scratchKey c p) = 0 ∧ t.mem.full (scratchKey c p) = true ∧
          t.mem.poisoned (scratchKey c p) = false) ∧
        (∀ k, k < scratchKey c 0 ∨ scratchKey c 0x1F000 ≤ k → t.mem.get k = s.mem.get k ∧ t.mem.full k = s.mem.full k)) ∧
  (∀ (s : State) (c n : Nat), (s.core c).scrubUntil = some n →
    (n ≤ s.cycle → exec (.scratchpadScrubEnd c) s = .next (s.setCore c { s.core c with scrubUntil := none })) ∧
    (s.cycle < n → exec (.scratchpadScrubEnd c) s = .next s)) ∧
  (∀ (s : State) (cl v : Nat), (s.core (16 * cl)).resident = some v → (s.cluster cl).fillDue = true →
    (∀ j < 16, s.outgoing (16 * cl + j) = []) → Quiet s v (inCluster cl) →
      ∃ t, exec (.clusterMemoryFill cl) s = .next t ∧ (t.cluster cl).fillDue = false ∧
        ((s.cluster cl).kept ≠ BitVec.allOnes 32 → (t.cluster cl).fillUntil = some (s.cycle + 1024)) ∧
        (∀ p < 2097152, (s.cluster cl).kept.getLsbD (p / 65536) = false →
          t.mem.get (clusterKey cl p) = 0 ∧ t.mem.full (clusterKey cl p) = true) ∧
        (∀ p < 2097152, (s.cluster cl).kept.getLsbD (p / 65536) = true →
          t.mem.get (clusterKey cl p) = s.mem.get (clusterKey cl p) ∧
          t.mem.full (clusterKey cl p) = s.mem.full (clusterKey cl p)) ∧
        (∀ k, k < clusterKey cl 0 ∨ clusterKey cl 2097152 ≤ k → t.mem.get k = s.mem.get k)) ∧
  (∀ (s : State) (cl n : Nat), (s.cluster cl).fillUntil = some n →
    (n ≤ s.cycle →
      exec (.clusterMemoryFillEnd cl) s = .next (s.setCluster cl { s.cluster cl with fillUntil := none })) ∧
    (s.cycle < n → exec (.clusterMemoryFillEnd cl) s = .next s)))

namespace Sys2Proof.Claims
open Sys2Proof.Machine

/-! ## Partitions and VFs (R12, R211, R366 to R373) -/

/-- A VF has a context that is not retired, or an RCB that is named or spawned (R12, R369). -/
def Active (s : State) (v : Nat) : Prop :=
  (∃ e ∈ s.ctxs, e.1 / 2 ^ 40 = v ∧ e.2.place ≠ .retired) ∨ (∃ r ∈ s.rcbs, r.vf = v) ∨ ∃ e ∈ s.pool, e.vf = v

/-- An engine queue holds a command of a VF. -/
def Queued (s : State) (v : Nat) : Prop :=
  (∃ e ∈ s.clusters, (∃ c ∈ e.2.queues, c.vf = v) ∨ ∃ h ∈ e.2.held, h.cmd.vf = v) ∨ ∃ e ∈ s.dies, ∃ c ∈ e.2.queue, c.vf = v

/-- A listed partition whose VFs are all idle (R368). -/
def IdlePart (s : State) (n : Nat) : Prop :=
  (∃ p, s.parts.find n = some p) ∧ ∀ e ∈ s.vfs, e.2.node = n → ¬ Active s e.1 ∧ ¬ Queued s e.1

/-- A leaf of a node. -/
def leafIn (n leaf : Nat) : Prop := firstLeaf n ≤ leaf ∧ leaf < firstLeaf n + nodeLeaves n

/-- Nothing of a partition's VFs is fixed in its upper child: no frame behind it, no kept bank in it (R368). -/
def UpperFree (s : State) (n : Nat) : Prop :=
  ∀ e ∈ s.vfs, e.2.node = n →
    (∀ f ∈ s.frames, f.2.vf = e.1 → f.2.state ≠ 0 → f.1 * 4096 < 0x6000000000 →
      ¬ leafIn (2 * n + 1) (leafOfHpa (f.1 * 4096))) ∧
    ∀ k ∈ s.clusters, inNode (2 * n + 1) k.1 = true → k.2.banks.get e.1 0 = 0

/-! ## Yarrow (R374 to R384) -/

/-- A filter instruction (R376). -/
def yfWord (op d a b imm : Nat) : BitVec 32 :=
  BitVec.ofNat 32 (op * 2 ^ 28 + d * 2 ^ 25 + a * 2 ^ 22 + b * 2 ^ 19 + imm)

/-- The value of a 19-bit field, signed. -/
def signed19 (imm : Nat) : Int := if imm < 2 ^ 18 then (imm : Int) else (imm : Int) - 2 ^ 19

/-- What R376 puts into yd, modulo 2^64, from ya, yb and the store's words. -/
def yfValue (op a b imm : Nat) (store : Nat → Nat) : Int :=
  match op with
  | 0 => a + b + signed19 imm
  | 1 => (a : Int) - b
  | 2 => (a &&& imm : Nat)
  | 3 => (a / 2 ^ (imm % 64) : Nat)
  | 4 => ((a ^^^ imm) * 0x9E3779B97F4A7C15 % 2 ^ 64 / 2 ^ 32 : Nat)
  | 5 => (if a = 0 then 0 else Nat.log2 a + 1 : Nat)
  | 6 => (Min.min a imm : Nat)
  | 7 => (store ((a + imm) % 512) : Nat)
  | _ => signed19 imm

/-- The word of a slot's store. -/
def storeWord (f : Filter) (k : Nat) : Nat := (f.store.get k 0).toNat

/-- The oldest event of its slot in a die's queue, and the slot. -/
structure EventAt (s : State) (d k : Nat) (e : YEvent) (f : Filter) : Prop where
  event : (s.die d).events[k]? = some e
  first : ∀ y ∈ (s.die d).events.take k, ¬ (y.vf = e.vf ∧ y.slot = e.slot)
  slot : (s.die d).filters.find (8 * e.vf + e.slot) = some f

/-- A run of the slot has ended: its event is gone, it is counted, its budget charged for its steps, and its store holds
`w k` at word `k`. -/
def Ran (s t : State) (d k : Nat) (e : YEvent) (f : Filter) (steps : Nat) (w : Nat → Nat) : Prop :=
  (t.die d).events = (s.die d).events.eraseIdx k ∧ (t.die d).budget e.vf = (s.die d).budget e.vf - steps ∧
  t.mem = s.mem ∧ ∃ f', (t.die d).filters.find (8 * e.vf + e.slot) = some f' ∧ f'.runs = bump f.runs ∧ f'.drops = f.drops ∧
    f'.program = f.program ∧ f'.attached = true ∧ ∀ j < 512, storeWord f' j = w j

/-! ## Integrity, Sorrel, the platform (21 to 23) -/

/-- The counter of a partition's control space by name (R401). -/
def counterOf (s : State) (n name : Nat) : Nat := s.platform.counters.get (n * 256 + name) 0

/-- A partition that a link serves: one with leaves of a die that package link 4a + b joins, or of the die of Neord port link - 16
(R2, R401). -/
def LinkServes (s : State) (link n : Nat) : Prop :=
  (∃ p, (n, p) ∈ s.parts) ∧
    if link < 16 then spansDie n (link / 4) = true ∨ spansDie n (link % 4) = true else spansDie n ((link - 16) / 2) = true

/-- The most of a list that a cap lets through; 0 for none. -/
def MostOf (cap : Nat) (l : List Nat) (n : Nat) : Prop := (n = 0 ∨ n ∈ l) ∧ n ≤ cap ∧ ∀ k ∈ l, k ≤ cap → k ≤ n

/-- The mailbox runs a command (R409). -/
structure Runs (s : State) (cmd : Nat) : Prop where
  going : s.platform.sorrel.go = true
  code : s.platform.sorrel.cmd.toNat = cmd

/-- The mailbox after a command: idle, with its status, and `x` otherwise. -/
def answered (s : State) (x : Sorrel) (st : Word) : State :=
  { s with platform := { s.platform with sorrel := { x with go := false, st := st, latched := [] } } }

/-- Who writes a VF's register window: the host on whose port, which is up, its logical device appears, and the hub die while it
runs (R369, R372, R373, R411). -/
def AtWindow (s : State) (v : Nat) (by_ : Origin) : Prop :=
  match by_ with
  | .host p => s.deviceVf? v ≠ none ∧ (s.nodeOf v, p) ∈ s.platform.bindings ∧ p ∉ s.platform.portsDown
  | .hub _ => s.hubRuns = true
  | _ => False

/-- Who writes the control space: the hub die while it runs (R369, R417). -/
def AtControl (s : State) (by_ : Origin) : Prop := (∃ secure, by_ = .hub secure) ∧ s.hubRuns = true

/-- To whom the mailbox is open (R409). -/
def AtMailbox (s : State) (by_ : Origin) : Prop :=
  (by_ = .hub true ∧ s.hubRuns = true) ∨
    ∃ cert, by_ = .session cert ∧ cert ∈ s.platform.sorrel.sessions ∧ s.platform.power ≠ .off

/-- A bit of the package register is idle: of a Quern chip, a CXL port, a Neord port, a Yarrow (R405). -/
def PackageIdle (s : State) (b : Nat) : Prop :=
  if b < 8 then ∀ e ∈ s.dies, ∀ c ∈ e.2.queue, c.port ≠ 4
  else if b < 12 then ∀ e ∈ s.platform.bindings, e.2 ≠ b - 8
  else if b < 20 then ∀ m ∈ s.gangSends, m.member ≠ s.platform.device → Config.neordPort m.member % 8 = b - 12 →
    m.sent + 256 ≤ s.tick
  else ∀ c ∈ (s.die (b - 20)).queue, c.port ≠ 5

/-- A quote over a nonce (R413), by its bytes. -/
def QuoteIs (x : Sorrel) (nonce quote : List Byte) : Prop :=
  let at_ (k n : Nat) : Nat := ((List.range n).map fun j => (((quote.drop (k + j)).headD 0).toNat) * 256 ^ j).sum
  quote.length = 512 ∧ quote.take 32 = nonce ∧ at_ 32 64 = (x.measured.getD Config.bootDigest).toNat ∧
    at_ 96 64 = Config.hubMeasure.toNat ∧ at_ 160 4 = x.version % 2 ^ 32 ∧ at_ 164 4 = x.minVersion % 2 ^ 32 ∧
    at_ 168 64 = (Config.sha512 x.worldBytes).toNat ∧ at_ 232 64 = (Config.sha512 x.regionBytes).toNat ∧
    at_ 296 152 = 0 ∧ at_ 448 64 = (Config.deviceSign (Config.sha512 (quote.take 448))).toNat

/-- What a reset leaves in memory: host memory as it was, everything else 0, full and not poisoned (R421, R428). -/
def OnlyHostMemory (s t : State) : Prop :=
  (∀ k, 2 ^ 47 ≤ k → k < 2 ^ 48 → t.mem.get k = s.mem.get k) ∧
    ∀ k, (k < 2 ^ 47 ∨ 2 ^ 48 ≤ k) → t.mem.get k = 0 ∧ t.mem.full k = true ∧ t.mem.poisoned k = false

/-- The first `n` bytes of an image from byte `k` as a number. -/
def field (b : List Byte) (k n : Nat) : Nat := ((List.range n).map fun j => (((b.drop (k + j)).headD 0).toNat) * 256 ^ j).sum

/-- The five conditions of R410 on an image. -/
def GoodImage (x : Sorrel) (b : List Byte) : Prop :=
  128 ≤ b.length ∧ b.length ≤ 2 ^ 25 ∧ field b 0 4 = 0x4C524F53 ∧ field b 8 4 + 128 = b.length ∧ field b 13 51 = 0 ∧
  field b 12 1 < 4 ∧ field b 12 1 ∉ x.revoked ∧ x.minVersion ≤ field b 4 4 ∧
  Config.sigOk (field b 12 1) (Config.sha512 (b.take 64 ++ b.drop 128)) (BitVec.ofNat 512 (field b 64 64)) = true

end Sys2Proof.Claims
open Sys2Proof Sys2Proof.Machine Sys2Proof.Claims

/-- R368: SPLIT waits for the slice end of a partition of more than one leaf with nothing fixed in its upper child, and
otherwise changes nothing; MERGE joins two idle children, their VFs bound to the parent; anything else is refused. R334,
R335, R368: at the slice end the VFs of a split partition are bound to its lower child, whose next slice begins, and the
upper holds none; a context of the departing half moves to the context L2 of the core with its number less the half.
That its line is put there in the same step, with no packet, is the model's choice (log 70). R12, R211, R212, R306,
R369, R372, R373, R400, R404, R428: a VF is bound to a partition whose clusters have its world, or unbound, while it is
idle; its context segment is written while it is idle, a ctxbase in the host half leaving ctxlen at 0 (R306, R428); a
bank mask takes no other VF's bank and zero-fills what it gives up; an error block is freed; a partition's logical
device is bound to one port that may carry it, at most 16 to a port. Anything else is ignored, a binding to a partition
of the other world too. That ctxlen keeps the low 41 bits of a written value (log 96), and that a VF under reset (st =
2, R371) takes no node (log 73), are the model's choices, no rules of the spec. -/
def Obligations.PartitionsAndVfsAreBound : Prop :=
  ((∀ (s : State) (n : Nat) (p : Part), s.parts.find n = some p →
    (1 < nodeLeaves n → UpperFree s n →
      exec (.split n) s = .next { s with parts := s.parts.set n { p with split := true }, partStatus := .ok }) ∧
    (nodeLeaves n ≤ 1 ∨ ¬ UpperFree s n → exec (.split n) s = .next { s with partStatus := .refused })) ∧
  (∀ (s : State) (n : Nat), s.parts.find n = none → exec (.split n) s = .next { s with partStatus := .refused }) ∧
  (∀ (s : State) (n : Nat),
    (1 ≤ n → IdlePart s (2 * n) → IdlePart s (2 * n + 1) → ∃ t, exec (.merge n) s = .next t ∧ t.partStatus = .ok ∧
      t.parts.find n = some Part.idle ∧ t.parts.find (2 * n) = none ∧ t.parts.find (2 * n + 1) = none ∧
      (∀ v, (t.vf v).node = if (s.vf v).node = 2 * n ∨ (s.vf v).node = 2 * n + 1 then n else (s.vf v).node) ∧
      (∀ b ∈ t.platform.bindings, b.1 ≠ 2 * n ∧ b.1 ≠ 2 * n + 1) ∧ t.mem = s.mem ∧ t.ctxs = s.ctxs) ∧
    (¬ (1 ≤ n ∧ IdlePart s (2 * n) ∧ IdlePart s (2 * n + 1)) → exec (.merge n) s = .next { s with partStatus := .refused })) ∧
  (∀ (s : State) (n : Nat) (p : Part), s.parts.find n = some p → 1 ≤ n → p.split = true → p.resident = none →
    ∃ t, exec (.sliceEnd n) s = .next t ∧ (∃ q, t.parts.find (2 * n) = some q ∧ q.split = false) ∧
      t.parts.find (2 * n + 1) = some Part.idle ∧ t.parts.find n = none ∧
      (∀ v, (s.vf v).node = n → (t.vf v).node = 2 * n) ∧ ∀ b ∈ t.platform.bindings, b.1 ≠ n) ∧
  (∀ (s : State) (n v : Nat) (p : Part), s.parts.find n = some p → 1 ≤ n → p.split = true → p.resident = some v →
    (s.tick < p.sliceEnd → exec (.sliceEnd n) s = .next s) ∧
    (p.sliceEnd ≤ s.tick → ∃ t q u, exec (.sliceEnd n) s = .next t ∧ t.parts.find (2 * n) = some q ∧ q.split = false ∧
      q.resident = some u ∧ (s.vf u).slice = (t.vf u).slice ∧
      q.sliceEnd = s.tick + (if (s.vf u).slice = 0 then 1000000 else (s.vf u).slice) ∧
      t.parts.find (2 * n + 1) = some Part.idle ∧ t.parts.find n = none ∧
      (v ∈ p.hadWork → (t.vf v).account = (s.vf v).account + p.gained) ∧
      (∀ w, (s.vf w).node = n → (t.vf w).node = 2 * n) ∧ ∀ b ∈ t.platform.bindings, b.1 ≠ n)) ∧
  (∀ (s : State) (n v i c w : Nat) (p : Part) (x : Slot), s.parts.find n = some p → 1 ≤ n → n < 64 → p.split = true →
    (∀ u, p.resident = some u → p.sliceEnd ≤ s.tick) → AtWay s v i c w x → (s.vf v).node = n → i < 2 ^ 40 →
    let half := nodeCores n / 2
    half ≤ x.line.ccore.toNat → x.line.ccore.toNat < nodeCores n → s.inOperation c w = false →
    (∀ u j l, (u, j) ≠ (v, i) → (s.vf u).node = n → s.lineOf u j = some l → l.ccore.toNat < half) →
    let to_ := x.line.ccore.toNat - half
    let cl := physicalCore n to_ / 16
    (s.cluster cl).l2Victim (l2Set v i) = none →
      ∃ t, exec (.sliceEnd n) s = .next t ∧ t.slot? c w = none ∧ t.placeOf v i = some (.l2 cl) ∧
        ∃ e ∈ (t.cluster cl).l2, e.vf = v ∧ e.index = i ∧ e.line = { x.line with ccore := BitVec.ofNat 12 to_ })) ∧
  ((∀ (s : State) (v n : Nat), v < 512 →
    (Active s v ∨ (s.vf v).st = 2 ∨ (n ≠ 0 ∧ s.parts.find n = none) → exec (.vfNodeWrite v n) s = .next s) ∧
    (n ≠ 0 → (∃ k < nodeClusters n, (s.platform.sorrel.worlds.get (physicalCluster n k) 0).getLsbD 0 ≠ (s.vf v).sec) →
      exec (.vfNodeWrite v n) s = .next s) ∧
    (¬ Active s v → (s.vf v).st ≠ 2 → (n = 0 ∨ ((∃ p, s.parts.find n = some p) ∧
        ∀ k < nodeClusters n, (s.platform.sorrel.worlds.get (physicalCluster n k) 0).getLsbD 0 = (s.vf v).sec)) →
      ∃ t, exec (.vfNodeWrite v n) s = .next t ∧ t.vf v = { s.vf v with node := n, st := if n = 0 then 0 else 1 } ∧
        (∀ u, u ≠ v → t.vf u = s.vf u) ∧ (∀ m p, m ≠ n → t.parts.find m = some p → p.resident ≠ some v) ∧
        t.mem = s.mem ∧ t.cores = s.cores ∧ t.platform = s.platform)) ∧
  (∀ (s : State) (v : Nat) (w : Word), v < 512 →
    (Active s v → ∀ len, exec (.ctxSegmentWrite v len w) s = .next s) ∧
    (¬ Active s v → exec (.ctxSegmentWrite v true w) s =
        .next (s.setVf v { s.vf v with ctxlen := if hostHalf (s.vf v).ctxbase then 0 else w.toNat % 2 ^ 41 }) ∧
      (let b := w.toNat % 2 ^ 48 / 2 ^ 12 * 2 ^ 12
      exec (.ctxSegmentWrite v false w) s =
        .next (s.setVf v { s.vf v with ctxbase := b, ctxlen := if hostHalf b then 0 else (s.vf v).ctxlen })))) ∧
  (∀ (s : State) (v l : Nat) (w : Word), (s.vf v).node ≠ 0 → l < nodeClusters (s.vf v).node →
    let cl := physicalCluster (s.vf v).node l
    let m := BitVec.ofNat 32 w.toNat
    ((∃ e ∈ (s.cluster cl).banks, e.1 ≠ v ∧ e.2 &&& m ≠ 0) → exec (.bankMaskWrite v l w) s = .next s) ∧
    ((∀ e ∈ (s.cluster cl).banks, e.1 ≠ v → e.2 &&& m = 0) → ∃ t, exec (.bankMaskWrite v l w) s = .next t ∧
      (t.cluster cl).banks.get v 0 = m ∧ (∀ u, u ≠ v → (t.cluster cl).banks.get u 0 = (s.cluster cl).banks.get u 0) ∧
      (∀ p < 2097152, ((s.cluster cl).banks.get v 0).getLsbD (p / 65536) = true → m.getLsbD (p / 65536) = false →
        t.mem.get (clusterKey cl p) = 0 ∧ t.mem.full (clusterKey cl p) = true) ∧
      (∀ p < 2097152, ¬ (((s.cluster cl).banks.get v 0).getLsbD (p / 65536) = true ∧ m.getLsbD (p / 65536) = false) →
        t.mem.get (clusterKey cl p) = s.mem.get (clusterKey cl p)))) ∧
  (∀ (s : State) (v : Nat),
    ((s.vf v).errs.fv = true → s.deviceVf? v ≠ none →
      exec (.fvClear v) s = .next (s.setVf v { s.vf v with errs := { (s.vf v).errs with fv := false } })) ∧
    ((s.vf v).errs.fv = false ∨ s.deviceVf? v = none → exec (.fvClear v) s = .next s)) ∧
  (∀ (s : State) (n port : Nat),
    let b := s.platform.bindings
    let carries := s.platform.sorrel.package.getLsbD (8 + port) = false ∨ ∀ e ∈ s.vfs, e.2.node = n → (s.vf e.1).sec = true
    let ok := port < 4 ∧ (∃ p, s.parts.find n = some p) ∧ (∀ e ∈ b, e.1 ≠ n) ∧ (b.filter fun e => e.2 = port).length < 16 ∧
      carries
    (ok → exec (.fmBind n port) s = .next { s with platform := { s.platform with bindings := b ++ [(n, port)] } }) ∧
    (¬ ok → exec (.fmBind n port) s = .next s) ∧
    exec (.fmUnbind n) s = .next { s with platform := { s.platform with bindings := b.filter fun e => e.1 ≠ n } }))

/-- R371, R399: a VF reset retires every context of the VF, ends its RCBs, handlers, commands, fills, messages and
requests, raises its generation, zero-fills its kept banks, leaves no line of it, and frees its error block; a bound VF is
bound after it. Its frames stay owned, and of a VF with no live context, RCB, packet or handler the memory behind them is as it was. The model's readings here, no rules of the spec: what of the device's own records the reset leaves (log 17), that it
drops messages (log 72), and that an unbound VF stays unbound (log 73). -/
def Obligations.ResetLeavesNothingOfItsVf : Prop :=
  ∀ (s : State) (v : Nat), v < 512 → Distinct s.rcbs →
    ∃ t, exec (.vfReset v) s = .next t ∧ (t.vf v).gen = (s.vf v).gen + 1 ∧ (t.vf v).errs = ErrBlock.reset ∧
      t.frames = s.frames ∧ (∀ c w x, t.slot? c w = some x → ∀ k n m, x.who ≠ .handler k n m v) ∧
      (¬ Active s v → (∀ p ∈ s.packets, p.vf ≠ v) → (∀ e ∈ s.cores, ∀ x ∈ e.2.ways, x.2.who.vf ≠ v) →
        ∀ k < 2 ^ 48, t.mem.get k = s.mem.get k) ∧
      (t.vf v).st = (if (s.vf v).st = 0 then 0 else 1) ∧
      (∀ i < 2 ^ 40, ∀ y, t.ctx? v i = some y → y.place = .retired) ∧
      (∀ r ∈ t.rcbs, r.vf ≠ v) ∧ (∀ e ∈ t.pool, e.vf ≠ v) ∧ (∀ p ∈ t.packets, p.vf ≠ v) ∧ (∀ f ∈ t.fills, f.who.vf ≠ v) ∧
      (∀ c ∈ t.transit, c.who.vf ≠ v) ∧ (∀ r ∈ t.requests, r.vf ≠ v) ∧ (∀ l ∈ t.llc, l.vf ≠ v) ∧
      (∀ e ∈ t.clusters, (∀ c ∈ e.2.queues, c.vf ≠ v) ∧ (∀ h ∈ e.2.held, h.cmd.vf ≠ v) ∧ ∀ r ∈ e.2.replay, r.vf ≠ v) ∧
      (∀ e ∈ t.dies, ∀ c ∈ e.2.queue, c.vf ≠ v) ∧
      (∀ e ∈ t.cores, (∀ x ∈ e.2.cache, x.vf ≠ v) ∧ (∀ m ∈ e.2.msgs, m.vf ≠ v) ∧
        (∀ m ∈ e.2.outbound, m.2.vf ≠ v) ∧ ∀ d ∈ e.2.deliveries, d.vf ≠ v) ∧
      (∀ cl, ∀ p < 2097152, ((s.cluster cl).banks.get v 0).getLsbD (p / 65536) = true →
        t.mem.get (clusterKey cl p) = 0 ∧ t.mem.full (clusterKey cl p) = true)

/-- R374, R376, R378 to R380: an event's run starts with its fields in y0 to y3 and 0 above, has the effect of its
instructions on the slot's store, is counted, and is charged to its VF's budget; a trigger has its action's effect; with
no budget, or once the slot is detached, the event is dropped and counted. A TICK slot gets an event each time its tick
comes, and the budget is renewed every 1,024 ticks less its debt. That an event queued for a slot since detached is
dropped, and that the windows are aligned to 1,024 ticks, are the model's readings (log 74). R379: the oldest trigger
write of a die writes its value at its on-chip place, and no other byte. R382 to R384: an increment reaches every
running counter of its VF that selects its code, modulo 2^48; a wrap sets the counter's overflow bit and, where it is
enabled, posts MSI-X entry 1; no other VF's counters change. That the counters are those that select the code when the
increment arrives is the model's reading (log 14). -/
def Obligations.FiltersRunAndCount : Prop :=
  ((∀ (s : State) (d k : Nat) (e : YEvent) (f : Filter) (y0 y1 y2 y3 : Word), EventAt s d k e f → f.attached = true →
    0 < (s.die d).budget e.vf → e.fields = [y0, y1, y2, y3] →
    let y (r : Nat) : Nat := match r with
      | 0 => y0.toNat
      | 1 => y1.toNat
      | 2 => y2.toNat
      | 3 => y3.toNat
      | _ => 0
    let w := storeWord f
    (∀ op r a b imm z j, (op ≤ 7 ∨ op = 12) → r < 8 → a < 8 → b < 8 → imm < 2 ^ 19 → 4 ≤ z → z < 8 → z ≠ r → j < 512 →
      f.program = [yfWord op r a b imm, yfWord 8 0 z r j] → ∃ t, exec (.filterRun d k) s = .next t ∧
        Ran s t d k e f 2 fun i => if i = j then (yfValue op (y a) (y b) imm w % 2 ^ 32).toNat else w i) ∧
    (∀ op a b imm, op ∈ [8, 9, 13, 15] → a < 8 → b < 8 → imm < 2 ^ 19 → f.program = [yfWord op 0 a b imm] →
      ∃ t, exec (.filterRun d k) s = .next t ∧ Ran s t d k e f 1 fun i =>
        if i ≠ (y a + imm) % 512 ∨ op = 15 then w i
        else if op = 8 then y b % 2 ^ 32
        else Min.min (w i + if op = 9 then 1 else y b % 2 ^ 32) (2 ^ 32 - 1)) ∧
    (∀ op a b j, op ∈ [10, 11] → a < 8 → b < 8 → j < 512 → f.program = [yfWord op 0 a b 1, yfWord 9 0 7 0 j] →
      ∃ t, exec (.filterRun d k) s = .next t ∧
        (if (op = 10 ∧ y a = y b) ∨ (op = 11 ∧ y a < y b) then Ran s t d k e f 1 w
         else Ran s t d k e f 2 fun i => if i = j then Min.min (w i + 1) (2 ^ 32 - 1) else w i)) ∧
    (∀ act n a b, act < 4 → n < 16 → a < 8 → b < 8 → f.program = [yfWord 14 0 a b (act + 4 * n)] →
      ∃ t, exec (.filterRun d k) s = .next t ∧ (act ≠ 1 → Ran s t d k e f 1 w) ∧
        (act = 0 → t.platform.interrupts = s.platform.interrupts ++ [(e.vf, 2)]) ∧
        (∀ i, act = 1 → Names s (BitVec.ofNat 64 (y a)) e.vf i →
          Ran s t d k e f 1 w ∧ t.events = s.events ++ [(.ctx e.vf i, .watch (BitVec.ofNat 64 (e.slot + 8 * d)))]) ∧
        (act = 2 → ∀ j < 64, inNode (s.nodeOf e.vf) (64 * d + j) = true →
          ((t.cluster (64 * d + j)).flags.get e.vf 0).getLsbD (16 + n) = true) ∧
        (∀ c, act = 3 → f.out = some c → (s.die d).triggers.length < 16 →
          ∃ x, (t.die d).triggers = (s.die d).triggers ++ [x] ∧ x.cmd = c ∧ x.value.toNat = y b))) ∧
  (∀ (s : State) (d k : Nat) (e : YEvent) (f : Filter), EventAt s d k e f →
    f.attached = false ∨ (s.die d).budget e.vf ≤ 0 → ∃ t, exec (.filterRun d k) s = .next t ∧
      (t.die d).events = (s.die d).events.eraseIdx k ∧ t.mem = s.mem ∧
      (t.die d).filters.find (8 * e.vf + e.slot) = some { f with drops := bump f.drops }) ∧
  (∀ (s : State) (d v slot : Nat) (f : Filter), slot < 8 → (s.die d).filters.find (8 * v + slot) = some f →
    f.loaded = true → f.attached = true → f.cls = 4 →
    (s.tick < f.nextTick → exec (.yarrowTickEvent d v slot) s = .next s) ∧
    (f.nextTick ≤ s.tick → s.holdsPart v = true → s.yarrowOpen d v = true → (s.die d).events.length < 64 →
      ∃ t, exec (.yarrowTickEvent d v slot) s = .next t ∧
        (t.die d).events = (s.die d).events ++ [YEvent.mk v slot [BitVec.ofNat 64 s.tick, 0, 0, 0]] ∧
        (t.die d).filters.find (8 * v + slot) = some { f with nextTick := f.nextTick + f.sel, seen := f.seen + 1 })) ∧
  (∀ (s : State) (d : Nat),
    (s.tick < (s.die d).windowEnd → exec (.yarrowBudgetWindow d) s = .next s) ∧
    ((s.die d).windowEnd ≤ s.tick → ∃ t, exec (.yarrowBudgetWindow d) s = .next t ∧
      s.tick < (t.die d).windowEnd ∧ (t.die d).windowEnd ≤ s.tick + 1024 ∧ (t.die d).windowEnd % 1024 = 0 ∧
      ∀ v, (t.die d).budget v = (s.die d).ibud.get v 4096 + Min.min 0 ((s.die d).budget v)))) ∧
  ((∀ (s : State) (d key : Nat) (x : TrigWrite) (rest : List TrigWrite), s.mem.wf = true →
    (s.die d).triggers = x :: rest → x.cmd.request = none → x.cmd.fatal = none → x.cmd.done = 0 →
    OnChip s x.cmd x.cmd.core (x.cmd.dw 2) 8 needStore key → key % 8 = 0 →
      ∃ t, exec (.triggerWrite d) s = .next t ∧ (t.die d).triggers = rest ∧ t.mem.read key 8 = x.value.toNat ∧
        ∀ j, j < key ∨ key + 8 ≤ j → t.mem.get j = s.mem.get j) ∧
  (∀ (s : State) (k : Nat) (e : Increment), s.increments[k]? = some e →
    let c := (s.vf e.vf).counters
    c.counts.length = 16 → c.codes.length = 16 →
    ∃ t, exec (.counterIncrement k) s = .next t ∧ t.increments = s.increments.eraseIdx k ∧ t.mem = s.mem ∧
      (∀ u, u ≠ e.vf → t.vf u = s.vf u) ∧
      ∀ j < 16, ∀ old code, c.counts[j]? = some old → c.codes[j]? = some code →
        let c' := (t.vf e.vf).counters
        let hit := c.run.getLsbD j = true ∧ code = BitVec.ofNat 16 e.code
        let wraps := hit ∧ 2 ^ 48 ≤ old.toNat + e.by_
        (hit → c'.counts[j]? = some (BitVec.ofNat 48 (old.toNat + e.by_))) ∧ (¬ hit → c'.counts[j]? = some old) ∧
        (c'.ovf.getLsbD j = true ↔ (c.ovf.getLsbD j = true ∨ wraps)) ∧
        (wraps → c.enable.getLsbD j = true → (e.vf, 1) ∈ t.platform.interrupts)))

/-- R248, R392, R393, R396 to R398, R401: a parity error replays an engine's commands in progress, each counted; a retrain, a
retry and a hand-off's correction are counted, an uncorrectable error of a hand-off poisons its word, and the third retrain
that fails within 1 ms takes the link down; a record of which an acknowledgement is outstanding is replayed with a new deadline,
four times at most, and a fifth timeout takes the link between its dies down; a record that its check cannot correct resets its VF; the scrub counts
what it corrects and poisons what it cannot, in the LLC or in HBM. The model's choices here, no rules of the spec: the
numbers of links, the partitions in whose counters a link's events count, and that a command's record awaits acknowledgements of its
elements alone (log 75); a fifth timeout of a record inside one die records a module error and takes no link down (log 22); a scrub
of HBM leaves an LLC line above it alone, and one of the LLC the HBM below (log 77); and an uncorrectable error handed off in domain 4
or 6, or in none, changes nothing, since another row gives its effect (log 84). -/
def Obligations.ErrorsAreCountedAndContained : Prop :=
  (∀ (s : State) (cl port n : Nat), port < 4 →
    let cmds := ((s.cluster cl).queues.filter fun c => c.port = port && c.seq.isSome) ++
      if port = 0 then (s.cluster cl).held.map RowHold.cmd else []
    (∀ c ∈ cmds, s.nodeOf c.vf = n) →
      ∃ t, exec (.parityError cl port) s = .next t ∧ t.mem = s.mem ∧ t.clusters = s.clusters ∧ t.cores = s.cores ∧
        counterOf t n 17 = counterOf s n 17 + cmds.length) ∧
  (∀ (s : State) (cl port k : Nat) (c : Cmd), port ∈ [4, 5] → headOf (s.die (cl / 64)).queue port 0 = some (k, c) →
    ∃ t, exec (.parityError cl port) s = .next t ∧ t.mem = s.mem ∧ t.dies = s.dies ∧ t.cores = s.cores ∧
      counterOf t (s.nodeOf c.vf) 17 = counterOf s (s.nodeOf c.vf) 17 + if s.released c then 1 else 0) ∧
  (∀ (s : State) (link : Nat), ((∃ a b, a < b ∧ b < 4 ∧ link = 4 * a + b) ∨ (16 ≤ link ∧ link < 24)) →
    link ∉ s.platform.linksDown →
    let old := (s.platform.linkFails.get link []).filter fun t => s.tick < t + 1000000
    (s.outstandingOn link = [] → ∃ t, exec (.linkRetrain link true) s = .next t ∧ t.mem = s.mem ∧
      ∀ n, LinkServes s link n → counterOf t n (64 + link) = counterOf s n (64 + link) + 1) ∧
    (old.length < 2 → ∃ t, exec (.linkRetrain link false) s = .next t ∧ t.mem = s.mem ∧ t.cores = s.cores ∧
      t.platform.linkFails = s.platform.linkFails.set link (old ++ [s.tick]) ∧ t.platform.linksDown = s.platform.linksDown ∧
      ∀ n, LinkServes s link n → counterOf t n (64 + link) = counterOf s n (64 + link) + 1) ∧
    (2 ≤ old.length → ∃ t, exec (.linkRetrain link false) s = .next t ∧ link ∈ t.platform.linksDown) ∧
    (∃ t, exec (.linkRetry (.flit link)) s = .next t ∧ t.mem = s.mem ∧
      ∀ n, LinkServes s link n → counterOf t n (32 + link) = counterOf s n (32 + link) + 1)) ∧
  (∀ (s : State) (n domain : Nat) (w : WordPlace),
    (8 ≤ domain → exec (.linkRetry (.corrected n domain)) s = .next s) ∧
    (8 ≤ domain ∨ domain = 4 ∨ domain = 6 → exec (.linkRetry (.uncorrectable n domain w)) s = .next s) ∧
    (domain < 8 → ∃ t, exec (.linkRetry (.corrected n domain)) s = .next t ∧ t.mem = s.mem ∧
      counterOf t n (2 * domain) = counterOf s n (2 * domain) + 1) ∧
    (domain < 8 → domain ≠ 4 → domain ≠ 6 →
      ∃ t, exec (.linkRetry (.uncorrectable n domain w)) s = .next t ∧ (∀ k, t.mem.get k = s.mem.get k) ∧
        counterOf t n (2 * domain + 1) = counterOf s n (2 * domain + 1) + 1 ∧
        (∀ c pos, w = .scratch c pos → pos < 2 ^ 17 → t.mem.poisoned (scratchKey c pos) = true) ∧
        (∀ k pos, w = .cluster k pos → pos < 2 ^ 21 → t.mem.poisoned (clusterKey k pos) = true) ∧
        (∀ hpa, w = .module hpa → s.linesAt hpa = [] → t.mem.poisoned hpa = true))) ∧
  (∀ (s : State) (cl : Nat) (r : Replay), r ∈ (s.cluster cl).replay → (∀ x ∈ (s.cluster cl).replay, x.seq = r.seq → x = r) →
    let waits := (∃ p, r.sent = .packet p) ∨
      ∃ c0 c, r.sent = .command c0 ∧ s.liveCmd cl r.seq = some c ∧ c.vf = r.vf ∧ 0 < s.unacked c
    (waits → (s.cycle < r.deadline → exec (.replayTimeout cl r.seq) s = .next s) ∧
      (r.deadline ≤ s.cycle → r.timeouts < 4 → ∃ t, exec (.replayTimeout cl r.seq) s = .next t ∧ t.mem = s.mem ∧
        { r with timeouts := r.timeouts + 1, deadline := s.cycle + 65536 } ∈ (t.cluster cl).replay ∧ t.packets = s.packets ∧
        counterOf t (s.nodeOf r.vf) 18 = counterOf s (s.nodeOf r.vf) 18 + 1 ∧
        counterOf t (s.nodeOf r.vf) 17 = counterOf s (s.nodeOf r.vf) 17 + 1)) ∧
    (∀ p, r.sent = .packet p → r.deadline ≤ s.cycle → 4 ≤ r.timeouts →
      let a := cl / 64
      let b := s.pcore p.vf p.dst / 1024
      ∃ t, exec (.replayTimeout cl r.seq) s = .next t ∧
        (a < b → b < 4 → 4 * a + b ∈ t.platform.linksDown) ∧ (b < a → a < 4 → 4 * b + a ∈ t.platform.linksDown) ∧
        (a = b → t.mem = s.mem ∧ t.platform.linksDown = s.platform.linksDown ∧
          t.platform.moduleErrors.length = s.platform.moduleErrors.length + 1)) ∧
    (∀ c0, r.sent = .command c0 → (∀ c, s.liveCmd cl r.seq = some c → s.unacked c = 0) →
      exec (.replayTimeout cl r.seq) s = .next s) ∧
    (∃ t, exec (.replayRecordError cl r.seq) s = .next t ∧ (t.vf r.vf).gen = (s.vf r.vf).gen + 1 ∧
      ∀ x ∈ (t.cluster cl).replay, x.vf ≠ r.vf)) ∧
  (∀ (s : State) (a : Nat) (llc : Bool),
    let place := if llc then ScrubPlace.llc a else ScrubPlace.hbm a
    exec (.patrolScrub place .clean) s = .next s ∧
    (∀ v, (if llc then s.linesAt a = [] else 0x6000000000 ≤ a) → exec (.patrolScrub place v) s = .next s) ∧
    ((if llc then s.linesAt a ≠ [] else a < 0x6000000000) →
      let d := if llc then 1 else 0
      (∃ t, exec (.patrolScrub place .corrected) s = .next t ∧ t.mem = s.mem ∧ t.llc = s.llc ∧
        counterOf t (s.countsAt a) (2 * d) = counterOf s (s.countsAt a) (2 * d) + 1) ∧
      ∃ t, exec (.patrolScrub place .uncorrectable) s = .next t ∧
        counterOf t (s.countsAt a) (2 * d + 1) = counterOf s (s.countsAt a) (2 * d + 1) + 1 ∧
        (∀ k, t.mem.get k = s.mem.get k) ∧
        (llc = true → t.mem = s.mem ∧ ∀ l ∈ t.linesAt a, l.poison.getLsbD (a % 64 / 8) = true) ∧
        (llc = false → t.llc = s.llc ∧ t.mem.poisoned a = true ∧ ∀ k, k / 8 ≠ a / 8 → t.mem.poisoned k = s.mem.poisoned k)))

/-- R369, R403, R405, R406, R408 to R413: with its command running, WASSIGN gives an idle block of a cluster or of the package its
world, SETW changes a run of granules all of whose frames are free, STAGE takes an image that passes R410, from memory or in a
recovery session from that session, COMMIT puts a staged image into flash and raises the fused minimum version, SETSEC sets sec of
an unbound VF, ATTEST writes the public key, or a quote over a nonce, to a secure range; each then ends with st = 0, and otherwise
with the status of what it breaks: a STAGE of a bad image leaves it unstaged, a COMMIT whose read-back fails leaves flash invalid,
the others change nothing. The session's image as an operand (log 79), and a command's row that does nothing where that command
does not run (log 85), are the model's choices. -/
def Obligations.SorrelRunsItsCommands : Prop :=
  (∀ (s : State), Runs s 1 →
    let x := s.platform.sorrel
    let r := x.arg 0
    let v := x.arg 1
    let idle (b : Nat) : Prop := if b = 0 then ∀ e ∈ s.vfs, e.2.node ≠ s.partOf r
      else (∀ c ∈ (s.cluster r).queues, c.port ≠ b - 1) ∧ (b = 1 → (s.cluster r).held = [])
    (r < 256 → (∀ b < 5, (x.worlds.get r 0).toNat.testBit b ≠ v.testBit b → idle b) →
      exec .wassign s = .next (answered s { x with worlds := x.worlds.set r (BitVec.ofNat 5 v) } 0)) ∧
    (r < 256 → (∃ b < 5, (x.worlds.get r 0).toNat.testBit b ≠ v.testBit b ∧ ¬ idle b) →
      exec .wassign s = .next (answered s x 1)) ∧
    (r = 256 → (∀ b < 24, x.package.toNat.testBit b ≠ v.testBit b → PackageIdle s b) →
      exec .wassign s = .next (answered s { x with package := BitVec.ofNat 24 v } 0)) ∧
    (r = 256 → (∃ b < 24, x.package.toNat.testBit b ≠ v.testBit b ∧ ¬ PackageIdle s b) →
      exec .wassign s = .next (answered s x 1)) ∧
    (256 < r → exec .wassign s = .next (answered s x 2))) ∧
  (∀ (s : State), Runs s 2 →
    let x := s.platform.sorrel
    let changes (g : Nat) : Prop := x.arg 0 ≤ g ∧ g < x.arg 0 + x.arg 1 ∧ (g ∈ x.regions ↔ (x.arg 2) % 2 = 0)
    (1245184 < x.arg 0 + x.arg 1 → exec .setw s = .next (answered s x 2)) ∧
    (x.arg 0 + x.arg 1 ≤ 1245184 → (∃ e ∈ s.frames, e.2.state ≠ 0 ∧ changes (e.1 / 512)) →
      exec .setw s = .next (answered s x 1)) ∧
    (x.arg 0 + x.arg 1 ≤ 1245184 → (∀ e ∈ s.frames, e.2.state ≠ 0 → ¬ changes (e.1 / 512)) →
      ∃ y, exec .setw s = .next (answered s y 0) ∧
        ∀ g, g ∈ y.regions ↔ if x.arg 0 ≤ g ∧ g < x.arg 0 + x.arg 1 then (x.arg 2) % 2 = 1 else g ∈ x.regions)) ∧
  (∀ (s : State) (b : List Byte), Runs s 3 → s.platform.power = .heldInReset → s.platform.resetStep = 1 →
    let x := s.platform.sorrel
    (2 ^ 25 < b.length → exec (.stage b) s = .next (answered s x 2)) ∧
    (GoodImage x b → exec (.stage b) s = .next (answered s { x with staging := b, staged := true } 0)) ∧
    (b.length ≤ 2 ^ 25 → ¬ GoodImage x b →
      exec (.stage b) s = .next (answered s { x with staging := b, staged := false } 3))) ∧
  (∀ (s : State) (image : List Byte), Runs s 3 → s.platform.power = .on →
    let x := s.platform.sorrel
    let n := x.arg 1
    let b := (List.range n).map fun k => s.mem.get (x.arg 0 + k)
    (2 ^ 25 < n ∨ s.argRange (x.arg 0) n = false → exec (.stage image) s = .next (answered s x 2)) ∧
    (n ≤ 2 ^ 25 → s.argRange (x.arg 0) n = true → (∀ k < n, s.linesAt (x.arg 0 + k) = []) →
      (GoodImage x b → exec (.stage image) s = .next (answered s { x with staging := b, staged := true } 0)) ∧
      (¬ GoodImage x b → exec (.stage image) s = .next (answered s { x with staging := b, staged := false } 3)))) ∧
  (∀ (s : State), Runs s 4 →
    let x := s.platform.sorrel
    (x.staged = false → exec .commit s = .next (answered s x 1)) ∧
    (x.staged = true → GoodImage x x.staging → exec .commit s = .next (answered s { x with
      flash := x.staging, flashValid := true, minVersion := Max.max x.minVersion (field x.staging 4 4) } 0)) ∧
    (x.staged = true → ¬ GoodImage x x.staging → exec .commit s = .next (answered s { x with
      flash := x.staging, flashValid := false } 3))) ∧
  (∀ (s : State), Runs s 5 →
    let x := s.platform.sorrel
    (s.argRange (x.arg 1) 512 = false ∨ (x.arg 0 ≠ 0 ∧ s.argRange (x.arg 0) 32 = false) →
      exec .attest s = .next (answered s x 2)) ∧
    (s.argRange (x.arg 1) 512 = true → x.arg 1 % 8 = 0 → s.mem.wf = true → x.arg 0 ≠ 0 → s.argRange (x.arg 0) 32 = true →
      (∀ k < 512, s.linesAt (x.arg 1 + k) = [] ∧ s.ownerAddr (x.arg 1 + k) = none) →
      (∀ k < 32, s.linesAt (x.arg 0 + k) = []) →
        ∃ t, exec .attest s = .next t ∧ t.platform.sorrel = { x with go := false, st := 0, latched := [] } ∧
          QuoteIs x ((List.range 32).map fun k => s.mem.get (x.arg 0 + k)) ((List.range 512).map fun k => t.mem.get (x.arg 1 + k)) ∧
          (∀ k < 512, t.mem.poisoned (x.arg 1 + k) = false) ∧
          ∀ k, k < x.arg 1 ∨ x.arg 1 + 512 ≤ k → t.mem.get k = s.mem.get k) ∧
    (s.argRange (x.arg 1) 512 = true → x.arg 1 % 8 = 0 → s.mem.wf = true → x.arg 0 = 0 →
      (∀ k < 512, s.linesAt (x.arg 1 + k) = [] ∧ s.ownerAddr (x.arg 1 + k) = none) →
        ∃ t, exec .attest s = .next t ∧ t.platform.sorrel = { x with go := false, st := 0, latched := [] } ∧
          (∀ k < 512, (t.mem.get (x.arg 1 + k)).toNat = Config.devicePublic.toNat / 256 ^ k % 256 ∧
            t.mem.poisoned (x.arg 1 + k) = false) ∧
          ∀ k, k < x.arg 1 ∨ x.arg 1 + 512 ≤ k → t.mem.get k = s.mem.get k)) ∧
  (∀ (s : State), Runs s 6 →
    let x := s.platform.sorrel
    let v := x.arg 0
    (512 ≤ v → exec .setsec s = .next (answered s x 2)) ∧
    (v < 512 → (s.vf v).node ≠ 0 → exec .setsec s = .next (answered s x 1)) ∧
    (v < 512 → (s.vf v).node = 0 → (s.vf v).st = 0 → exec .setsec s =
      .next (answered (s.setVf v { s.vf v with sec := decide (x.arg 1 % 2 = 1) }) x 0))) ∧
  (∀ (s : State), s.platform.sorrel.go = false →
    exec .wassign s = .next s ∧ exec .setw s = .next s ∧ exec (.stage []) s = .next s ∧ exec .commit s = .next s ∧
      exec .attest s = .next s ∧ exec .setsec s = .next s)

/-- R411, R412, R418, R419, R421 to R423: a module reset with a valid image in flash whose bring-up steps all end leaves every unit
at its reset value with module memory 0, the tick as the steps leave it, each CXL port at the widest and fastest that its other end
accepts and each Neord port at 224 or, where that fails, 112; with an invalid image, or where a
step fails, the module is held in reset at that step; host memory, what flash, the fuses and the one-time-programmable store
hold, and until step 8 the device number, stay. A power loss leaves no power, and during a COMMIT no valid image. R424: only a
reading of 110 °C, or of less than a tenth of the flow, trips. What a bring-up will come to is a piece of state that an
outside turn changes, the model's choice (log 80). -/
def Obligations.ResetsClearTheModule : Prop :=
  (∀ (s : State),
    let b := s.platform.chips
    ∃ t, exec .moduleReset s = .next t ∧ t.platform.chips = b ∧
    OnlyHostMemory s t ∧ t.cores = [] ∧ t.clusters = [] ∧ t.dies = [] ∧ t.vfs = [] ∧ t.ctxs = [] ∧ t.rcbs = [] ∧
    t.llc = [] ∧ t.frames = [] ∧ t.fills = [] ∧ t.packets = [] ∧ t.parts = [(1, Part.idle)] ∧
    t.platform.powerCap = 2400 ∧ t.platform.portsDown = [] ∧ t.platform.bindings = [] ∧ t.platform.linksDown = [] ∧
    t.platform.sorrel.worlds = [] ∧ t.platform.sorrel.regions = [] ∧
    t.platform.sorrel.flash = s.platform.sorrel.flash ∧ t.platform.sorrel.minVersion = s.platform.sorrel.minVersion ∧
    t.platform.sorrel.revoked = s.platform.sorrel.revoked ∧ t.platform.sorrel.anchor = s.platform.sorrel.anchor ∧
    t.platform.sorrel.go = false ∧ t.platform.sorrel.sessions = [] ∧
    (s.platform.sorrel.flashValid = true → b.fails = none → t.platform.power = .on ∧ t.tick = b.joins.getD 0 ∧
      t.platform.device = b.device % 64 ∧ t.platform.linked = b.linked ∧ t.platform.badQuern = b.quern ∧
      (∀ p < 4, ∃ width rate, t.platform.cxlTrained[p]? = some (width, rate) ∧
        MostOf 16 (b.cxl.getD p ([], [])).1 width ∧ MostOf 64 (b.cxl.getD p ([], [])).2 rate) ∧
      ∀ p < 8, t.platform.neordRates[p]? = some (if b.neord.getD p true = true then 224 else 112)) ∧
    (s.platform.sorrel.flashValid = true → ∀ n, b.fails = some n → t.platform.power = .heldInReset ∧
      t.platform.resetStep = Min.min 8 (Max.max 2 n) ∧ t.tick = 0 ∧ t.platform.device = s.platform.device) ∧
    (s.platform.sorrel.flashValid = false → t.platform.power = .heldInReset ∧ t.platform.resetStep = 1 ∧ t.tick = 0 ∧
      t.platform.device = s.platform.device)) ∧
  (∀ (s : State), ∃ t, exec .powerLoss s = .next t ∧ t.platform.power = .off ∧ OnlyHostMemory s t ∧ t.cores = [] ∧
    t.platform.sorrel.flash = s.platform.sorrel.flash ∧
    (s.platform.sorrel.go = true → s.platform.sorrel.cmd = 4 → s.platform.sorrel.staged = true →
      t.platform.sorrel.flashValid = false)) ∧
  (∀ (s : State) (r : Reading),
    (110 ≤ r.temp ∨ r.flow < 10 → exec (.thermalTrip r) s = exec .moduleReset s) ∧
    (r.temp < 110 → 10 ≤ r.flow → exec (.thermalTrip r) s = .next s))

/-- R334, R369, R380, R384, R409, R418, R420, R423 to R425: a session opens for a peer that the trust anchor vouches for; the hub or
a session clamps the power cap to its range; a reading gives a die its level by R424's table, from the next tick on; a tick counts
and credits each slice by its die's level, and a device that is not the tick master stays within 2 ticks of it; one that hears no
master for 1 ms is marked; a port that goes down is marked, and a register write by whom the register is open to changes its
fields and no others. The model's choices here, no rules of the spec: who each register is open to beyond R373 and R409 (log 98),
how far a count and the master's run apart (log 20), and the credit of a partition that spans dies by its first die (log 71). -/
def Obligations.PlatformRegistersTakeTheirValues : Prop :=
  (∀ (s : State) (cert : Nat), s.platform.power ≠ .off →
    (Config.chains s.platform.sorrel.anchor cert = true → ∃ t, exec (.mgmtSession cert) s = .next t ∧
      ∀ k, k ∈ t.platform.sorrel.sessions ↔ k = cert ∨ k ∈ s.platform.sorrel.sessions) ∧
    (Config.chains s.platform.sorrel.anchor cert = false → exec (.mgmtSession cert) s = .next s)) ∧
  (∀ (s : State) (by_ : Origin) (w : Word),
    let writes := AtControl s by_ ∨ (∃ cert, by_ = .session cert ∧ AtMailbox s by_ ∧
      ¬ (s.platform.power = .heldInReset ∧ s.platform.resetStep = 1))
    (writes → exec (.powerCapWrite ⟨by_, w⟩) s = .next { s with platform := { s.platform with
      powerCap := Min.min 2400 (Max.max 800 (w.toNat % 2 ^ 12)) } }) ∧
    (¬ writes → exec (.powerCapWrite ⟨by_, w⟩) s = .next s)) ∧
  (∀ (s : State) (d : Nat) (r : Reading), d < 4 → ∃ t now, exec (.throttleLevelChange d r) s = .next t ∧
    (∀ k, k ≠ d → t.die k = s.die k) ∧ (t.die d).throttle = (s.die d).throttle ∧ (t.die d).pending = some now ∧
    let cap := s.platform.powerCap
    let above := cap < r.power ∧ 1 ≤ r.heldMs
    let far := cap * 105 < r.power * 100 ∧ 1 ≤ r.heldMs
    let was := (s.die d).pending.getD (s.die d).throttle
    (100 ≤ r.temp ∨ far ∨ r.flow < 20 → now = 2) ∧
    (r.temp < 100 → ¬ far → 20 ≤ r.flow → was = 0 → (95 ≤ r.temp ∨ above → now = 1) ∧ (r.temp < 95 → ¬ above → now = 0)) ∧
    (r.temp < 95 → 20 ≤ r.flow → was = 1 → (¬ above → ¬ (r.temp < 90 ∧ r.power < cap ∧ 10 ≤ r.heldMs) → now = 1) ∧
      (r.temp < 90 → r.power < cap → 10 ≤ r.heldMs → now = 0)) ∧
    (was = 2 → ¬ (r.temp < 95 ∧ r.power < cap ∧ 20 ≤ r.flow ∧ 10 ≤ r.heldMs) → now = 2)) ∧
  (∀ (s : State), (∀ d ∈ s.platform.linked, s.platform.device ≤ d) →
    ∃ t, exec .globalTick s = .next t ∧ t.tick = s.tick + 1 ∧ t.mem = s.mem ∧ t.cores = s.cores ∧ t.rcbs = s.rcbs ∧
      t.platform.unsync = false ∧
      (∀ d, (t.die d).throttle = (s.die d).pending.getD (s.die d).throttle ∧ (t.die d).pending = none) ∧
      ∀ n p v, s.parts = [(n, p)] → p.resident = some v → ∃ q, t.parts.find n = some q ∧ q.resident = some v ∧
        q.gained = p.gained + match (s.die (firstLeaf n / 16)).throttle with
          | 1 => 9
          | 2 => 6
          | _ => 12) ∧
  (∀ (s : State), (∃ d ∈ s.platform.linked, d < s.platform.device) → ∃ t, exec .globalTick s = .next t ∧ t.mem = s.mem ∧
    t.cores = s.cores ∧ t.rcbs = s.rcbs ∧
    (s.platform.lead = 0 ∨ s.tick < s.platform.slewed + 1000 → t.tick = s.tick + 1) ∧
    (s.tick ≤ t.tick ∧ t.tick ≤ s.tick + 2) ∧
    (s.platform.lead.natAbs ≤ 2 → t.platform.lead.natAbs ≤ 2) ∧
    ((t.platform.heard = t.tick ∧ t.platform.unsync = false) ∨ (t.platform.heard = s.platform.heard ∧
      (t.platform.unsync = true ↔ s.platform.unsync = true ∨ s.platform.heard + 1000000 ≤ t.tick)))) ∧
  (∀ (s : State),
    let late := (∃ d ∈ s.platform.linked, d < s.platform.device) ∧ s.platform.heard + 1000000 ≤ s.tick
    (late → exec .tickUnsynchronised s = .next { s with platform := { s.platform with unsync := true } }) ∧
    (¬ late → exec .tickUnsynchronised s = .next s)) ∧
  (∀ (s : State) (port : Nat), port < 4 → ∃ t, exec (.cxlPortDown port) s = .next t ∧ port ∈ t.platform.portsDown ∧
    t.platform.bindings = s.platform.bindings ∧ ∀ f ∈ t.fills, s.fillThrough f port = false) ∧
  (∀ (s : State) (by_ : Origin) (v : Nat) (w : Word), v < 512 →
    let x := s.vf v
    (∀ e ∈ [(CtlReg.sstbase v, { x with sstbase := w.toNat % 2 ^ 48 / 128 * 128 }),
        (.sstlen v, { x with sstlen := Min.min (w.toNat % 2 ^ 17) 65536 }),
        (.upcbase v, { x with upcbase := w.toNat % 2 ^ 48 / 8192 * 8192 }),
        (.s1root v, { x with s1root := w.toNat % 2 ^ 48 / 4096 * 4096 }), (.s1en v, { x with s1en := decide (w.toNat % 2 = 1) }),
        (.ovf v, { x with counters := { x.counters with ovf := x.counters.ovf &&& ~~~(BitVec.ofNat 16 w.toNat) } })],
      (AtWindow s v by_ → exec (.registerWrite ⟨by_, e.1⟩ w) s = .next (s.setVf v e.2)) ∧
      (¬ AtWindow s v by_ → exec (.registerWrite ⟨by_, e.1⟩ w) s = .next s)) ∧
    (∀ e ∈ [(CtlReg.s2root v, { x with s2root := w.toNat % 2 ^ 48 / 4096 * 4096 }),
        (.schedule v, { x with slice := w.toNat % 2 ^ 32, weight := w.toNat / 2 ^ 32 % 2 ^ 16 }),
        (.vfDw0 v, { x with wmask := BitVec.ofNat 16 (w.toNat / 2 ^ 16) }),
        (.vfDw1 v, { x with qdbase := w.toNat % 2 ^ 48 / 64 * 64, qdlen := w.toNat / 2 ^ 48 })],
      (AtControl s by_ → exec (.registerWrite ⟨by_, e.1⟩ w) s = .next (s.setVf v e.2)) ∧
      (¬ AtControl s by_ → exec (.registerWrite ⟨by_, e.1⟩ w) s = .next s)) ∧
    ∀ d < 4, (AtControl s by_ → exec (.registerWrite ⟨by_, .ibud d v⟩ w) s =
        .next (s.setDie d { s.die d with ibud := (s.die d).ibud.set v (w.toNat % 2 ^ 24) })) ∧
      (¬ AtControl s by_ → exec (.registerWrite ⟨by_, .ibud d v⟩ w) s = .next s)) ∧
  (∀ (s : State) (by_ : Origin) (v q : Nat) (w : Word) (x : Wq), v < 512 → q < 256 → (s.vf v).queues.get q Wq.reset = x →
    (x.qhead = x.qtail → AtWindow s v by_ →
      exec (.registerWrite ⟨by_, .qbase v q⟩ w) s = .next (withQueue s v q { x with qbase := w.toNat / 64 * 64 }) ∧
      exec (.registerWrite ⟨by_, .lsize v q⟩ w) s = .next (withQueue s v q { x with lsize := w.toNat % 32 })) ∧
    (x.qhead ≠ x.qtail ∨ ¬ AtWindow s v by_ → exec (.registerWrite ⟨by_, .qbase v q⟩ w) s = .next s ∧
      exec (.registerWrite ⟨by_, .lsize v q⟩ w) s = .next s)) ∧
  (∀ (s : State) (by_ : Origin) (w : Word),
    let x := s.platform.sorrel
    let becomes (y : Sorrel) : State := { s with platform := { s.platform with sorrel := y } }
    exec (.registerWrite ⟨by_, .mboxSt⟩ w) s = .next s ∧ exec (.registerWrite ⟨by_, .readOnly⟩ w) s = .next s ∧
    (¬ AtMailbox s by_ → ∀ r ∈ [CtlReg.mboxCmd, .mboxGo, .mboxArg 0, .mboxArg 4], exec (.registerWrite ⟨by_, r⟩ w) s = .next s) ∧
    (AtMailbox s by_ → x.go = true → ∀ r ∈ [CtlReg.mboxCmd, .mboxGo],
      exec (.registerWrite ⟨by_, r⟩ w) s = .next (becomes { x with st := 4 })) ∧
    (AtMailbox s by_ → x.go = false → x.cmd = 1 → w.getLsbD 0 = true →
      (s.platform.power = .on → exec (.registerWrite ⟨by_, .mboxGo⟩ w) s = .next (becomes { x with go := true, latched := x.args })) ∧
      (s.platform.power = .heldInReset → s.platform.resetStep = 1 →
        exec (.registerWrite ⟨by_, .mboxGo⟩ w) s = .next (becomes { x with st := 1 }))) ∧
    ∀ key, (by_ = .provisioning → x.anchor = none →
      exec (.registerWrite ⟨by_, .anchor key⟩ w) s = .next (becomes { x with anchor := some key })) ∧
    (by_ ≠ .provisioning ∨ x.anchor ≠ none → exec (.registerWrite ⟨by_, .anchor key⟩ w) s = .next s))

namespace Sys2Proof.Claims
open Sys2Proof.Machine

/-! ## Frames, fetching and decoding -/

/-- The register that a form of R88 to R94, R110 and R113 to R125 writes. -/
def regDest (i : Instr) : Option (BitVec 3) :=
  match i with
  | .add _ d _ _ | .sub _ d _ _ | .and _ d _ _ | .or _ d _ _ | .xor _ d _ _ | .shl _ d _ _ | .shr _ d _ _ |
    .sar _ d _ _ | .mul _ d _ _ | .mulh _ d _ _ | .mulhn _ d _ _ | .min _ d _ _ | .max _ d _ _ | .minn _ d _ _ |
    .maxn _ d _ _ | .andn _ d _ _ | .paddH _ d _ _ | .psubH _ d _ _ | .paddsH _ d _ _ | .psubsH _ d _ _ |
    .pminH _ d _ _ | .pmaxH _ d _ _ | .pmulH _ d _ _ | .pavgH _ d _ _ | .addi _ d _ _ | .andi _ d _ _ | .movi _ d _ |
    .shli _ d _ _ | .shri _ d _ _ | .sari _ d _ _ | .rori _ d _ _ | .mov _ d _ | .rdp _ d | .fadd _ _ d _ _ |
    .fsub _ _ d _ _ | .fmul _ _ d _ _ | .fdiv _ _ d _ _ | .fmin _ _ d _ _ | .fmax _ _ d _ _ | .fma _ _ d _ _ |
    .fsqrt _ _ d _ | .fabs _ _ d _ | .fneg _ _ d _ | .exp2 _ _ d _ | .log2 _ _ d _ | .rcp _ _ d _ | .rsqrt _ _ d _ |
    .fclass _ _ d _ | .fcvt _ _ d _ _ | .padd _ _ d _ _ | .psub _ _ d _ _ | .padds _ _ d _ _ | .psubs _ _ d _ _ |
    .paddn _ _ d _ _ | .psubn _ _ d _ _ | .pavg _ _ d _ _ | .pmul _ _ d _ _ | .pmulh _ _ d _ _ | .pmin _ _ d _ _ |
    .pmax _ _ d _ _ | .pminn _ _ d _ _ | .pmaxn _ _ d _ _ | .pdot _ _ d _ _ | .psll _ _ d _ _ | .psrl _ _ d _ _ |
    .psra _ _ d _ _ | .pshuf _ _ d _ _ | .ppack _ _ d _ _ | .punpk _ _ d _ _ | .pcmpeq _ _ d _ _ | .pcmpgt _ _ d _ _ |
    .pabs _ _ d _ => some d
  | _ => none

/-- The predicate that a compare writes (R91, R120). -/
def predDest (i : Instr) : Option Nat :=
  match i with
  | .fcmpEq _ q _ d _ _ | .fcmpLt _ q _ d _ _ | .fcmpLe _ q _ d _ _ | .fcmpUn _ q _ d _ _ => some (q.toNat * 8 + d.toNat)
  | i => (cmpForm i).map fun f => f.2.1

/-- The forms that the scrub of a scratchpad holds (R209): push, and the ring and handle groups. -/
def scrubForm (i : Instr) : Prop :=
  match i with
  | .push .. | .rwaitF .. | .rwaitE .. | .radvP .. | .radvC .. | .hdef .. | .hrd .. | .hmov .. => True
  | _ => False

/-- The parcels `ps` fetched one after another from an offset of sg0, from state `s` to state `t`. -/
inductive Fetches (c w : Nat) (sl : Slot) : State → Nat → List Parcel → State → Prop where
  | none (s : State) (off : Nat) : Fetches c w sl s off [] s
  | more (s u t : State) (off : Nat) (p : Parcel) (ps : List Parcel) : off < 2 ^ 48 → s.fetchParcel c w sl off = .ok (u, p) →
      Fetches c w sl u (off + 2) ps t → Fetches c w sl s off (p :: ps) t

/-- A context that takes its turn with an instruction: issuable, nothing to do at its boundary, its segments loaded. -/
structure TakesTurn (s : State) (c w : Nat) (sl : Slot) : Prop where
  here : s.slot? c w = some sl
  issuable : s.issuable c w sl = true
  loaded : sl.segsLoaded = true
  quiet : ∀ v i y, sl.who = .ctx v i → s.ctx? v i = some y → y.ended = false ∧ y.watch = none

/-- The state in which its parcels are fetched: it is the issuing context. -/
def fetching (s : State) (c w : Nat) (sl : Slot) : State := ({ s with run := (c, w) }).putSlot c w sl

/-- A number of `n` bits, signed. -/
def signedBits (n x : Nat) : Int := if x < 2 ^ (n - 1) then (x : Int) else (x : Int) - 2 ^ n

end Sys2Proof.Claims
open Sys2Proof Sys2Proof.Machine Sys2Proof.Claims

/-- R278, R281, R284: a trap of an ordinary context at its way saves tcause, tinfo and tval, keeps pc, parks the line
UPCALL with slot 0, and is listed at the core of its ccore when its RCB names a fault handler; with none the RCB's fault
count rises instead, its first fault is recorded, and no core lists it (R331). R61, R71: a chain that is no instruction
traps ILLEGAL, tval its parcels, the first lowest, or the last four of five. -/
def Obligations.TrapsParkTheirContext : Prop :=
  (∀ (s : State) (c w v i : Nat) (sl x : Slot) (y : Ctx) (cause : BitVec 16) (tval : Word) (tinfo : BitVec 16) (acc : Nat),
    AtWay s v i c w x → sl.who = .ctx v i → s.ctx? v i = some y →
      let t := s.takeTrap c w sl cause tval tinfo acc
      let home := s.ccoreOf v sl.line
      t.slot? c w = some { sl with line := parked sl.line cause tval tinfo, held := none } ∧
      t.placeOf v i = some (.l1 c w) ∧
      (s.fdhOf v y.rcb ≠ 0 → (t.core home).deliveries = (s.core home).deliveries ++ [.parked v i] ∧
        (cause ≠ 0x08 → t.mem = s.mem)) ∧
      (s.fdhOf v y.rcb = 0 → (t.core home).deliveries = (s.core home).deliveries ∧
        ∀ w14 w16 w17, y.rcb ≠ 0 → Held s v y.rcb → s.rcbWord v y.rcb 14 = some w14 → s.rcbWord v y.rcb 16 = some w16 →
          s.rcbWord v y.rcb 17 = some w17 →
          t.rcbWord v y.rcb 14 = some (w14 ||| 0x10) ∧
          (w17.toNat / 2 ^ 32 = 0 → t.rcbWord v y.rcb 16 = some (BitVec.ofNat 64 (v * 2 ^ 40 + i)) ∧
            t.rcbWord v y.rcb 17 = some (BitVec.ofNat 64 (2 ^ 32 + 2 ^ 16 * tinfo.toNat + cause.toNat))) ∧
          (w17.toNat / 2 ^ 32 ≠ 0 → t.rcbWord v y.rcb 16 = some w16 ∧ t.rcbWord v y.rcb 17 =
            some (BitVec.ofNat 64 ((w17.toNat / 2 ^ 32 + 1) % 2 ^ 32 * 2 ^ 32 + w17.toNat % 2 ^ 32))))) ∧
  (∀ (s : State) (c w v i : Nat) (x : Slot) (y : Ctx) (ps : List Parcel), s.run = (c, w) → AtWay s v i c w x →
    s.ctx? v i = some y → ps.length ≤ 5 →
      let last := ps.drop (ps.length - 4)
      let tval : Word := BitVec.ofNat 64 ((List.range last.length).map fun k => ((last[k]?).getD 0).toNat * 65536 ^ k).sum
      ∃ t tinfo, exec (.illegalEncoding (.chain ps)) s = .next t ∧
        t.slot? c w = some { x with held := none, line := parked x.line 0x01 tval tinfo })

/-- R23, R109, R149, R173, R292, R293, R313, R314: what reaches a context makes its line READY when the line still takes
that wait and is otherwise discarded: a completion enters the store that reserved its entry, a fill writes its register,
a wake, a sleep's end and a poll end their waits, and a WATCH parks its context. A fill answers no earlier than 10
cycles after its load (R429). A completion whose pusher has ended is discarded (R330). A completion that its push's
release at system scope comes before sets out after the write-back of R269, which here takes the VF's dirty words of
every core, not of the pusher's alone: the model's choice (log 18). R106, R136, R144: the answer to an instruction in
flight performs it where it stands: a probe or a load through PROBE_ANSWER, a fence, mig or exit through FENCE_DRAIN. A
probe whose access may now be performed completes with its row's result, and a fence completes once the accesses that it
waits for are performed; a way with nothing in flight changes nothing. That a fence of system scope writes back the VF's
dirty words of every core is the model's choice (log 18). R168: a pre-emption ends a partial command that has waited
more than 1,024 cycles: its buffer is empty, its reserved entry holds a BAD completion with count 0 and word all ones,
and bit 7 of the flag word is set; until then it waits. -/
def Obligations.EventsReachTheirContext : Prop :=
  ((∀ (s : State) (k c : Nat) (e : Completion), s.transit[k]? = some e → s.reservedAt e.who e.port = some c → e.orphan = false →
    (e.port = 0 ∨ e.port = 3 ∨ ∀ x ∈ s.transit.take k, ¬ (x.who = e.who ∧ x.port = e.port)) →
    (∀ n scope, e.after = some (n, scope) → s.drainedBefore e.who n (decide (5 ≤ scope.toNat)) = true) →
      ∃ t, exec (.completionDelivery k) s = .next t ∧ t.transit = s.transit.eraseIdx k ∧
        t.mem = (if e.after.map Prod.snd = some 6 then (s.systemRelease e.core e.who.vf).mem else s.mem) ∧
        (t.core c).held = (s.core c).held ++ [{ e with core := c, record := none }] ∧
        (t.core c).reserved = (s.core c).reserved.erase (e.who, e.port)) ∧
  (∀ (s : State) (k : Nat) (e : Completion), s.transit[k]? = some e → e.orphan = true →
    (e.port = 0 ∨ e.port = 3 ∨ ∀ x ∈ s.transit.take k, ¬ (x.who = e.who ∧ x.port = e.port)) →
    (∀ n scope, e.after = some (n, scope) → s.drainedBefore e.who n (decide (5 ≤ scope.toNat)) = true) →
      ∃ t, exec (.completionDelivery k) s = .next t ∧ t.transit = s.transit.eraseIdx k ∧
        ∀ c, (t.core c).held = (s.core c).held ∧ (t.core c).reserved = (s.core c).reserved) ∧
  (∀ (s : State) (k : Nat) (f : Fill), s.fills[k]? = some f → s.coreCycle f.core < f.since + 10 →
    exec (.fillResponse k) s = .next s) ∧
  (∀ (s s1 : State) (k v i c w n : Nat) (f : Fill) (x : Slot), s.fills[k]? = some f → f.who = .ctx v i →
    AtWay s v i c w x → f.request = none → f.since + 10 ≤ s.coreCycle f.core →
    s.heldBack f.core f.who (s.core f.core).stores f.loc f.n f.loc.bank none s.posted = false →
    s.fillRead f = .ok (s1, n, false) → x.line.step = false →
      (x.line.wt = .fill → x.line.wtArg = BitVec.ofNat 28 (f.reg.toNat + 8 * f.tag.toNat) →
        ∃ t, exec (.fillResponse k) s = .next t ∧ t.fills = s.fills.eraseIdx k ∧
          t.slot? c w = some { x with line := (ready x.line).setReg f.reg (BitVec.ofInt 64 (extended f.n f.signed n)) }) ∧
      (x.line.wt ≠ .fill → ∃ t, exec (.fillResponse k) s = .next t ∧ t.fills = s.fills.eraseIdx k ∧
        t.slot? c w = some x ∧ ((t.cluster (clusterOf f.core)).flags.get v 0).getLsbD 6 = true)) ∧
  (∀ (s : State) (k v i c w : Nat) (kind : WaitKind) (x : Slot), s.events[k]? = some (.ctx v i, .wake kind) →
    (∀ e ∈ s.events.take k, e.1 ≠ .ctx v i) → AtWay s v i c w x →
      ∃ t, exec (.contextEvent k) s = .next t ∧ t.events = s.events.eraseIdx k ∧ t.mem = s.mem ∧
        t.slot? c w = some { x with line := if x.line.wt = kind then ready x.line else x.line }) ∧
  (∀ (s : State) (cl k v i c w tick : Nat) (x : Slot) (y : Ctx), (s.sleepers cl)[k]? = some (v, i) → AtWay s v i c w x →
    s.ctx? v i = some y → y.wake = some tick → tick ≤ s.tick → x.line.wt = .sleep →
      ∃ t, exec (.sleepWake cl k) s = .next t ∧ t.slot? c w = some { x with line := ready x.line } ∧
        t.ctx? v i = some { y with wake := none } ∧ t.mem = s.mem) ∧
  (∀ (s : State) (v i c w : Nat) (x : Slot) (z : Waiter), AtWay s v i c w x → z ∈ s.waiters → z.who = .ctx v i →
    z.kind = .addr → (∃ p, z.poll = some p ∧ p ≤ s.tick) → x.line.wt = .addr →
      ∃ t, exec (.hostAddrPoll v i) s = .next t ∧ t.slot? c w = some { x with line := ready x.line } ∧
        (∀ y ∈ t.waiters, y.who ≠ .ctx v i) ∧ t.mem = s.mem) ∧
  (∀ (s : State) (c w v i : Nat) (x : Slot) (y : Ctx) (tval : Word), AtWay s v i c w x → s.ctx? v i = some y →
    y.watch = some tval → x.line.wt = .ready → x.held = none → s.vectorRuns c w = false →
      ∃ t, exec (.watchDelivery c w) s = .next t ∧ t.slot? c w = some { x with line := parked x.line 0x13 tval 0 } ∧
        ∃ z, t.ctx? v i = some z ∧ z.watch = none)) ∧
  (∀ (s : State) (c w : Nat) (x : Slot), s.slot? c w = some x →
    let s0 : State := { s with run := (c, w) }
    (∀ (i : Instr) (f : ProbeForm) (g : Seg) (loc : Loc) (priv : Bool) (y : Word8) (l : Line) (new : Option Word8),
      x.held = some i → Lives s x.who → probeForm i x.line = some f → Ready s0 x f.pre →
      Reaches s0 x f.q f.n f.need f.acc g loc priv → (f.host ≠ none → loc.host = false) → AtHome s0 x f.homed g f.q →
      s0.mayPerform c x.who loc f.n (f.release g) = true →
      let s1 := probing s0 x.line.vfid.toNat loc f.write (f.release g)
      s1.word loc f.write x.line.world = .ok y → y.poison = false → f.result y loc.off = some (l, new) →
        exec (.probeAnswer c w) s
          = .next (after (wrote s1 x.line.vfid.toNat loc f.n y new f.write x.line.world) x i l 8)) ∧
    (∀ p, x.held = some (.fence p) → Lives s x.who → Ready s0 x p →
      ((fenceOf p).1 = 1 ∨ Drained s x.who (5 ≤ (fenceOf p).2.toNat)) →
        exec (.fenceDrain c w) s = .next (after (if (fenceOf p).1 ≠ 1 ∧ (fenceOf p).2 = 6
          then s0.systemRelease c x.line.vfid.toNat else s0) x (.fence p) x.line 8)) ∧
    (∀ i t, x.held = some i → ((∃ f, probeForm i x.line = some f) ∨ (∃ f, loadForm i = some f)) →
      exec i { s with run := (c, w) } = .next t →
        exec (.probeAnswer c w) s = .next (match x.who with
          | .ctx v k => t.retireEnded v k
          | .handler _ _ _ _ => t)) ∧
    (∀ i t p a, x.held = some i → i ∈ [Instr.fence p, .mig p a, .exit p] → exec i { s with run := (c, w) } = .next t →
      exec (.fenceDrain c w) s = .next (match x.who with
        | .ctx v k => t.retireEnded v k
        | .handler _ _ _ _ => t)) ∧
    (x.held = none → exec (.probeAnswer c w) s = .next s ∧ exec (.fenceDrain c w) s = .next s)) ∧
  (∀ (s : State) (c w v i port : Nat) (x : Slot) (b : Assembly), AtWay s v i c w x → w < 60 →
    (s.core c).buffers = [(port, b)] → b.owner = .ctx v i → (s.core c).switchAt ≠ none →
    (s.core c).resident ≠ some x.line.vfid.toNat →
    (s.cycle ≤ b.since + 1024 → exec (.partialCommandAbandon c w port) s = .next s) ∧
    (b.since + 1024 < s.cycle → ∃ t e, exec (.partialCommandAbandon c w port) s = .next t ∧ (t.core c).buffers = [] ∧
      (t.core c).held = (s.core c).held ++ [e] ∧ e.who = .ctx v i ∧ e.port = port ∧ e.dw1 = BitVec.allOnes 64 ∧
      e.dw0 = BitVec.ofNat 64 ((b.dws.headD 0).toNat / 2 ^ 16 % 2 ^ 16 + 2 * 2 ^ 16 + port * 2 ^ 20 + 2 ^ 23 +
        (b.dws.headD 0).toNat % 2 ^ 8 * 2 ^ 24) ∧
      (t.core c).reserved = (s.core c).reserved.erase (.ctx v i, port) ∧
      ((t.cluster (clusterOf c)).flags.get v 0).getLsbD 7 = true ∧ t.slot? c w = some x ∧ t.mem = s.mem))

/-- R68, R88 to R94, R110, R113 to R125: a form that writes a register leaves every other register, the predicates, rm, fz
and the rest of the machine as they are, and sets sticky flags alone; a compare writes its predicate, never p0, and no
register; under a guard that does not hold every form only completes, but for sel, the privileged ones in user mode, the page-3 ones while
the vector unit is busy, and those that the scrub of the scratchpad holds, while it lasts. -/
def Obligations.RegisterFormsLeaveTheRestAlone : Prop :=
  (∀ (i : Instr) (d : BitVec 3) (s t : State) (sl : Slot), regDest i = some d → s.cur? = some sl → sl.line.step = false →
    exec i s = .next t → ∃ x e, t = s.putCur x ∧
      x = { sl with line := { sl.line with pc := x.line.pc, lc0 := x.line.lc0, lc1 := x.line.lc1, fcsr := sl.line.fcsr ||| e, g := x.line.g }, readyAt := x.readyAt, held := none } ∧
      e &&& 0xFE07 = 0 ∧ ∀ r, r ≠ d → x.line.reg r = sl.line.reg r) ∧
  (∀ (i : Instr) (k : Nat) (s t : State) (sl : Slot), predDest i = some k → s.cur? = some sl → sl.line.step = false →
    exec i s = .next t → ∃ x e, t = s.putCur x ∧
      x = { sl with line := { sl.line with pc := x.line.pc, lc0 := x.line.lc0, lc1 := x.line.lc1, fcsr := sl.line.fcsr ||| e, pw := x.line.pw }, readyAt := x.readyAt, held := none } ∧
      e &&& 0xFE07 = 0 ∧ x.line.pw.getLsbD 0 = sl.line.pw.getLsbD 0 ∧
      ∀ j < 32, j ≠ k → x.line.pw.getLsbD j = sl.line.pw.getLsbD j) ∧
  (∀ (i : Instr) (p : Pre) (u : Use) (s : State) (sl : Slot), i.use = some (p, u) → (∀ p d a b, i ≠ .sel p d a b) →
    s.cur? = some sl → guardHolds p sl.line = false → sl.line.step = false →
    ((tileForm i).isSome → s.vectorBusy s.run.1 = false) → ((tileForm i).isSome ∨ scrubForm i → s.scrubbing s.run.1 = false) → (privForm i → sl.line.supervisor = true) →
      exec i s = .next (after s sl i sl.line 8))

/-- R61 to R63, R86, R338: while the module runs, when the parcels at the pc of the context that its core's slot table selects, fetched one after
another from its code segment, decode to an instruction, its turn takes the core's issue slot of the cycle and issues exactly
that instruction in the state that counts the issue, the next no earlier than 8 cycles on, and then notes the translation that its
access used (R346); one that leaves its slot as it was is held back, and with no other way to select the turn passes; a core issues
once a cycle. An operation of the agenda that no encoding gives is executed as it stands, an encoded one never; a turn
of the chips changes only what the next bring-up will find. A fetched parcel is
the two bytes at its place where no core cache holds newer ones; one that straddles a word is its two bytes, fetched one after the
other. The agenda is the model's own, no rule of the spec (log 1). -/
def Obligations.StepsRunTheDecodedInstruction : Prop :=
  (∀ (s u : State) (c w : Nat) (sl : Slot) (rest : List Turn) (others : List Nat) (ps : List Parcel) (i : Instr),
    s.agenda = .issue c w :: rest → s.platform.power = .on → s.hasSlot c = true →
    let s0 := ({ s with agenda := rest } : State).slotTaken c
    s0.slotOrder c = w :: others → s0.switchesOut c w = false → TakesTurn s0 c w sl → decode ps = .ok (i, []) →
    Fetches c w sl (fetching s0 c w sl) sl.line.pc.toNat ps u →
    let r := u.prepare c w sl
    ∀ t, exec i r = .next t →
      (t.slot? c w ≠ r.slot? c w → step s = .next ((t.notBefore c w sl.who (u.coreCycle c + 8)).usedData c w sl i)) ∧
      (t.slot? c w = r.slot? c w → (∀ x ∈ others, x = w) → step s = .next { s with agenda := rest })) ∧
  (∀ (s : State) (c w : Nat) (rest : List Turn), s.agenda = .issue c w :: rest → s.cycle < (s.core c).slotCycle →
    step s = .next { s with agenda := rest }) ∧
  (∀ (s : State) (i : Instr) (rest : List Turn), s.agenda = .op i :: rest →
    (s.platform.power = .on → i.use = none → (∀ f, i ≠ .illegalEncoding f) → step s = exec i { s with agenda := rest }) ∧
    (s.platform.power = .on → (i.use ≠ none ∨ ∃ f, i = .illegalEncoding f) → step s = .next { s with agenda := rest })) ∧
  (∀ (s : State) (b : BringUp) (rest : List Turn), s.agenda = .chips b :: rest →
    step s = .next { s with agenda := rest, platform := { s.platform with chips := b } }) ∧
  (∀ (s : State) (c w off n : Nat) (sl : Slot) (g : Seg) (loc : Loc) (priv : Bool),
    s.reach c w sl (BitVec.ofNat 64 off) 2 needFetch .fetch false (BitVec.ofNat 64 off) = .ok g loc priv → loc.host = false →
    ((sl.seg 0).base + off) % 8 ≠ 7 →
    (∀ e ∈ (s.core c).fetch, e.loc ≠ loc ∨ e.n ≠ 2) → (∀ v gpa, loc = .paged v gpa → s.dirtyWords v (gpa / 64) = 0) →
    s.readBytes loc 2 sl.secure true = .ok (n, false) →
      ∃ u, s.fetchParcel c w sl off = .ok (u, BitVec.ofNat 16 n) ∧ u.mem = s.mem) ∧
  (∀ (s u v : State) (c w off lo hi : Nat) (sl : Slot) (g : Seg) (p : Site), ((sl.seg 0).base + off) % 8 = 7 →
    s.segCheck c sl.line.vfid.toNat sl.segs (BitVec.ofNat 64 off) 2 needFetch false (BitVec.ofNat 64 off) = .ok (g, p) →
    s.fetchPiece c w sl off off 1 = .ok (u, lo) → u.fetchPiece c w sl off (off + 1) 1 = .ok (v, hi) →
      s.fetchParcel c w sl off = .ok (v, BitVec.ofNat 16 (lo + 256 * hi))) ∧
  (∀ (s : State) (c w off at_ n : Nat) (sl : Slot) (g : Seg) (loc : Loc) (priv : Bool),
    s.reach c w sl (BitVec.ofNat 64 at_) 1 needFetch .fetch false (BitVec.ofNat 64 off) = .ok g loc priv → loc.host = false →
    (∀ e ∈ (s.core c).fetch, e.loc ≠ loc ∨ e.n ≠ 1) → (∀ v gpa, loc = .paged v gpa → s.dirtyWords v (gpa / 64) = 0) →
    s.readBytes loc 1 sl.secure true = .ok (n, false) →
      ∃ u, s.fetchPiece c w sl off at_ 1 = .ok (u, n) ∧ u.mem = s.mem)

/-- R63 to R81, R67: the listed parcels, written out from the tables of 03_encoding.md, decode to the instructions that
they stand for, and the payloads of IMM prefixes stand above the base field, the first highest. -/
def Obligations.WordsOfTheManualDecode : Prop :=
  decode [0x3E04] = .ok (.movi Pre.plain 7 4, []) ∧
  decode [0xF003, 0xC3FD] = .ok (.shli (Pre.mk none none [3]) 7 7 13, []) ∧
  decode [0xC108] = .ok (.shli Pre.plain 2 0 8, []) ∧
  decode [0x0697] = .ok (.or Pre.plain 2 2 7, []) ∧
  decode [0x0121] = .ok (.add Pre.plain 4 4 1, []) ∧
  decode [0x5CC8] = .ok (.ldD Pre.plain 3 1 0, []) ∧
  decode [0x66A1] = .ok (.stD Pre.plain 2 4 1, []) ∧
  decode [0x9301] = .ok (.loop Pre.plain 0 3 1, []) ∧
  decode [0xE800] = .ok (.exit Pre.plain, []) ∧
  decode [0xF540, 0x3838] = .ok (.mig Pre.plain 7, []) ∧
  decode [0xF580, 0x1180] = .ok (.wrsrPriv Pre.plain 6 0, []) ∧
  (∀ (w : Nat) (f : BitVec w) (x : BitVec 10), 0 < w →
    (Pre.mk none none [x]).imm f = signedBits (w + 10) (x.toNat * 2 ^ w + f.toNat)) ∧
  (∀ (w : Nat) (f : BitVec w) (x y : BitVec 10), 0 < w →
    (Pre.mk none none [x, y]).imm f = signedBits (w + 20) (x.toNat * 2 ^ (w + 10) + y.toNat * 2 ^ w + f.toNat))

/-- R60 to R81: decoding the parcels of a well-formed instruction gives it back, every operand and prefix at every value
that the encoding admits, whatever parcels follow. -/
def Obligations.DecodeReadsBackEveryInstruction : Prop :=
  ∀ (i : Instr) (ws rest : List Parcel), i.wellFormed = true → encode i = some ws → decode (ws ++ rest) = .ok (i, rest)

/-- R142, R350, R421: every step keeps memory in its canonical form: addresses and word numbers strictly rising, no entry
equal to what an unlisted one reads as. -/
def Obligations.EveryStepKeepsMemoryCanonical : Prop :=
  ∀ s t : State, s.mem.wf = true → step s = .next t → t.mem.wf = true

/-- R195, R202, R334, R341, R366, R369, R412, R421, R425: the machine after reset, values that the model names where the spec gives none
among the registers not listed here (log 4). The model's choices here, no rules of the spec: that host memory, which the spec leaves to
the host, reads 0 with the rest (log 2), and that the module stands after a bring-up all of whose steps ended, its power on (log 80).
Memory canonical, every byte 0, every word
full and not poisoned; the partition tree the root alone with no VF; no VF bound; cl1lim 64 and the slot table with HND in
entries 0, 8, 16 and 24; slices of 1,000,000 ticks of weight 1, wmask all ones; the power cap at 2,400 W. -/
def Obligations.ResetLeavesTheStatedValues : Prop :=
  State.reset.mem.wf = true ∧
  (∀ k, State.reset.mem.get k = 0 ∧ State.reset.mem.full k = true ∧ State.reset.mem.poisoned k = false) ∧
  (∀ n p, State.reset.parts.find n = some p → n = 1 ∧ p.resident = none) ∧
  (∀ v, (State.reset.vf v).node = 0 ∧ (State.reset.vf v).st = 0 ∧ (State.reset.vf v).slice = 1000000 ∧
    (State.reset.vf v).weight = 1 ∧ (State.reset.vf v).wmask = 0xFFFF ∧ (State.reset.vf v).s1en = false) ∧
  (∀ c, (State.reset.core c).cl1lim = 64 ∧ (State.reset.core c).ways = [] ∧ (State.reset.core c).resident = none ∧
    ∀ k < 32, (State.reset.core c).sltcur[k]? = some (if k % 8 = 0 then 0x40 else 0)) ∧
  State.reset.platform.power = .on ∧ State.reset.platform.powerCap = 2400 ∧ State.reset.tick = 0

/-- R6, R16, R412, R424: every operation completes with a next state, whatever the state; a step stops only where no input
waits and the module has no power. That the bring-up and a command's row are operations that answer in every state is the model's
choice (logs 80, 85). -/
def Obligations.OnlyAModuleWithoutPowerStops : Prop :=
  (∀ (i : Instr) (s : State), ∃ t, exec i s = .next t) ∧
  ∀ s : State, Stops s ↔ s.agenda = [] ∧ s.dark
end

