-- ==== Sys2Proof/Laws/Dispatch.lean ====
section
/-! SUPPORT. Dispatch: `exec` of each operation is its meaning. -/
namespace Sys2Proof.Machine

set_option Elab.async false

theorem exec_add p d a b (s : State) : exec (.add p d a b) s = execAdd p d a b s := rfl
theorem exec_sub p d a b (s : State) : exec (.sub p d a b) s = execSub p d a b s := rfl
theorem exec_and p d a b (s : State) : exec (.and p d a b) s = execAnd p d a b s := rfl
theorem exec_or p d a b (s : State) : exec (.or p d a b) s = execOr p d a b s := rfl
theorem exec_xor p d a b (s : State) : exec (.xor p d a b) s = execXor p d a b s := rfl
theorem exec_shl p d a b (s : State) : exec (.shl p d a b) s = execShl p d a b s := rfl
theorem exec_shr p d a b (s : State) : exec (.shr p d a b) s = execShr p d a b s := rfl
theorem exec_sar p d a b (s : State) : exec (.sar p d a b) s = execSar p d a b s := rfl
theorem exec_mul p d a b (s : State) : exec (.mul p d a b) s = execMul p d a b s := rfl
theorem exec_mulh p d a b (s : State) : exec (.mulh p d a b) s = execMulh p d a b s := rfl
theorem exec_mulhn p d a b (s : State) : exec (.mulhn p d a b) s = execMulhn p d a b s := rfl
theorem exec_min p d a b (s : State) : exec (.min p d a b) s = execMin p d a b s := rfl
theorem exec_max p d a b (s : State) : exec (.max p d a b) s = execMax p d a b s := rfl
theorem exec_minn p d a b (s : State) : exec (.minn p d a b) s = execMinn p d a b s := rfl
theorem exec_maxn p d a b (s : State) : exec (.maxn p d a b) s = execMaxn p d a b s := rfl
theorem exec_andn p d a b (s : State) : exec (.andn p d a b) s = execAndn p d a b s := rfl
theorem exec_paddH p d a b (s : State) : exec (.paddH p d a b) s = execPaddH p d a b s := rfl
theorem exec_psubH p d a b (s : State) : exec (.psubH p d a b) s = execPsubH p d a b s := rfl
theorem exec_paddsH p d a b (s : State) : exec (.paddsH p d a b) s = execPaddsH p d a b s := rfl
theorem exec_psubsH p d a b (s : State) : exec (.psubsH p d a b) s = execPsubsH p d a b s := rfl
theorem exec_pminH p d a b (s : State) : exec (.pminH p d a b) s = execPminH p d a b s := rfl
theorem exec_pmaxH p d a b (s : State) : exec (.pmaxH p d a b) s = execPmaxH p d a b s := rfl
theorem exec_pmulH p d a b (s : State) : exec (.pmulH p d a b) s = execPmulH p d a b s := rfl
theorem exec_pavgH p d a b (s : State) : exec (.pavgH p d a b) s = execPavgH p d a b s := rfl
theorem exec_addi p d a imm (s : State) : exec (.addi p d a imm) s = execAddi p d a imm s := rfl
theorem exec_andi p d a imm (s : State) : exec (.andi p d a imm) s = execAndi p d a imm s := rfl
theorem exec_movi p d imm (s : State) : exec (.movi p d imm) s = execMovi p d imm s := rfl
theorem exec_shli p d a sh (s : State) : exec (.shli p d a sh) s = execShli p d a sh s := rfl
theorem exec_shri p d a sh (s : State) : exec (.shri p d a sh) s = execShri p d a sh s := rfl
theorem exec_sari p d a sh (s : State) : exec (.sari p d a sh) s = execSari p d a sh s := rfl
theorem exec_rori p d a sh (s : State) : exec (.rori p d a sh) s = execRori p d a sh s := rfl
theorem exec_cmpEq p d a b (s : State) : exec (.cmpEq p d a b) s = execCmpEq p d a b s := rfl
theorem exec_cmpNe p d a b (s : State) : exec (.cmpNe p d a b) s = execCmpNe p d a b s := rfl
theorem exec_cmpLt p d a b (s : State) : exec (.cmpLt p d a b) s = execCmpLt p d a b s := rfl
theorem exec_cmpGe p d a b (s : State) : exec (.cmpGe p d a b) s = execCmpGe p d a b s := rfl
theorem exec_cmpLo p d a b (s : State) : exec (.cmpLo p d a b) s = execCmpLo p d a b s := rfl
theorem exec_cmpHs p d a b (s : State) : exec (.cmpHs p d a b) s = execCmpHs p d a b s := rfl
theorem exec_cmpTst p d a b (s : State) : exec (.cmpTst p d a b) s = execCmpTst p d a b s := rfl
theorem exec_cmpNtst p d a b (s : State) : exec (.cmpNtst p d a b) s = execCmpNtst p d a b s := rfl
theorem exec_ldzB p d a b (s : State) : exec (.ldzB p d a b) s = execLdzB p d a b s := rfl
theorem exec_ldsB p d a b (s : State) : exec (.ldsB p d a b) s = execLdsB p d a b s := rfl
theorem exec_ldzH p d a b (s : State) : exec (.ldzH p d a b) s = execLdzH p d a b s := rfl
theorem exec_ldsH p d a b (s : State) : exec (.ldsH p d a b) s = execLdsH p d a b s := rfl
theorem exec_ldzW p d a b (s : State) : exec (.ldzW p d a b) s = execLdzW p d a b s := rfl
theorem exec_ldsW p d a b (s : State) : exec (.ldsW p d a b) s = execLdsW p d a b s := rfl
theorem exec_ldD p d a b (s : State) : exec (.ldD p d a b) s = execLdD p d a b s := rfl
theorem exec_stB p d a b (s : State) : exec (.stB p d a b) s = execStB p d a b s := rfl
theorem exec_stH p d a b (s : State) : exec (.stH p d a b) s = execStH p d a b s := rfl
theorem exec_stW p d a b (s : State) : exec (.stW p d a b) s = execStW p d a b s := rfl
theorem exec_stD p d a b (s : State) : exec (.stD p d a b) s = execStD p d a b s := rfl
theorem exec_br p pr sense off (s : State) : exec (.br p pr sense off) s = execBr p pr sense off s := rfl
theorem exec_jmp p off (s : State) : exec (.jmp p off) s = execJmp p off s := rfl
theorem exec_call p off (s : State) : exec (.call p off) s = execCall p off s := rfl
theorem exec_loop p l c len (s : State) : exec (.loop p l c len) s = execLoop p l c len s := rfl
theorem exec_mov p d a (s : State) : exec (.mov p d a) s = execMov p d a s := rfl
theorem exec_rdp p d (s : State) : exec (.rdp p d) s = execRdp p d s := rfl
theorem exec_wrp p a (s : State) : exec (.wrp p a) s = execWrp p a s := rfl
theorem exec_jr p a (s : State) : exec (.jr p a) s = execJr p a s := rfl
theorem exec_rdsr p d sr (s : State) : exec (.rdsr p d sr) s = execRdsr p d sr s := rfl
theorem exec_wrsr p a sr (s : State) : exec (.wrsr p a sr) s = execWrsr p a sr s := rfl
theorem exec_sel p d a b (s : State) : exec (.sel p d a b) s = execSel p d a b s := rfl
theorem exec_ret p (s : State) : exec (.ret p) s = execRet p s := rfl
theorem exec_nop p (s : State) : exec (.nop p) s = execNop p s := rfl
theorem exec_yield p (s : State) : exec (.yield p) s = execYield p s := rfl
theorem exec_fence p (s : State) : exec (.fence p) s = execFence p s := rfl
theorem exec_exit p (s : State) : exec (.exit p) s = execExit p s := rfl
theorem exec_hret p (s : State) : exec (.hret p) s = execHret p s := rfl
theorem exec_eret p (s : State) : exec (.eret p) s = execEret p s := rfl
theorem exec_trap p code (s : State) : exec (.trap p code) s = execTrap p code s := rfl
theorem exec_brk p code (s : State) : exec (.brk p code) s = execBrk p code s := rfl
theorem exec_sleep p a (s : State) : exec (.sleep p a) s = execSleep p a s := rfl
theorem exec_fadd p f d a b (s : State) : exec (.fadd p f d a b) s = execFadd p f d a b s := rfl
theorem exec_fsub p f d a b (s : State) : exec (.fsub p f d a b) s = execFsub p f d a b s := rfl
theorem exec_fmul p f d a b (s : State) : exec (.fmul p f d a b) s = execFmul p f d a b s := rfl
theorem exec_fdiv p f d a b (s : State) : exec (.fdiv p f d a b) s = execFdiv p f d a b s := rfl
theorem exec_fmin p f d a b (s : State) : exec (.fmin p f d a b) s = execFmin p f d a b s := rfl
theorem exec_fmax p f d a b (s : State) : exec (.fmax p f d a b) s = execFmax p f d a b s := rfl
theorem exec_fma p f d a b (s : State) : exec (.fma p f d a b) s = execFma p f d a b s := rfl
theorem exec_fsqrt p f d a (s : State) : exec (.fsqrt p f d a) s = execFsqrt p f d a s := rfl
theorem exec_fabs p f d a (s : State) : exec (.fabs p f d a) s = execFabs p f d a s := rfl
theorem exec_fneg p f d a (s : State) : exec (.fneg p f d a) s = execFneg p f d a s := rfl
theorem exec_exp2 p f d a (s : State) : exec (.exp2 p f d a) s = execExp2 p f d a s := rfl
theorem exec_log2 p f d a (s : State) : exec (.log2 p f d a) s = execLog2 p f d a s := rfl
theorem exec_rcp p f d a (s : State) : exec (.rcp p f d a) s = execRcp p f d a s := rfl
theorem exec_rsqrt p f d a (s : State) : exec (.rsqrt p f d a) s = execRsqrt p f d a s := rfl
theorem exec_fclass p f d a (s : State) : exec (.fclass p f d a) s = execFclass p f d a s := rfl
theorem exec_fcmpEq p q f d a b (s : State) : exec (.fcmpEq p q f d a b) s = execFcmpEq p q f d a b s := rfl
theorem exec_fcmpLt p q f d a b (s : State) : exec (.fcmpLt p q f d a b) s = execFcmpLt p q f d a b s := rfl
theorem exec_fcmpLe p q f d a b (s : State) : exec (.fcmpLe p q f d a b) s = execFcmpLe p q f d a b s := rfl
theorem exec_fcmpUn p q f d a b (s : State) : exec (.fcmpUn p q f d a b) s = execFcmpUn p q f d a b s := rfl
theorem exec_fcvt p src d a dst (s : State) : exec (.fcvt p src d a dst) s = execFcvt p src d a dst s := rfl
theorem exec_padd p w d a b (s : State) : exec (.padd p w d a b) s = execPadd p w d a b s := rfl
theorem exec_psub p w d a b (s : State) : exec (.psub p w d a b) s = execPsub p w d a b s := rfl
theorem exec_padds p w d a b (s : State) : exec (.padds p w d a b) s = execPadds p w d a b s := rfl
theorem exec_psubs p w d a b (s : State) : exec (.psubs p w d a b) s = execPsubs p w d a b s := rfl
theorem exec_paddn p w d a b (s : State) : exec (.paddn p w d a b) s = execPaddn p w d a b s := rfl
theorem exec_psubn p w d a b (s : State) : exec (.psubn p w d a b) s = execPsubn p w d a b s := rfl
theorem exec_pavg p w d a b (s : State) : exec (.pavg p w d a b) s = execPavg p w d a b s := rfl
theorem exec_pmul p w d a b (s : State) : exec (.pmul p w d a b) s = execPmul p w d a b s := rfl
theorem exec_pmulh p w d a b (s : State) : exec (.pmulh p w d a b) s = execPmulh p w d a b s := rfl
theorem exec_pmin p w d a b (s : State) : exec (.pmin p w d a b) s = execPmin p w d a b s := rfl
theorem exec_pmax p w d a b (s : State) : exec (.pmax p w d a b) s = execPmax p w d a b s := rfl
theorem exec_pminn p w d a b (s : State) : exec (.pminn p w d a b) s = execPminn p w d a b s := rfl
theorem exec_pmaxn p w d a b (s : State) : exec (.pmaxn p w d a b) s = execPmaxn p w d a b s := rfl
theorem exec_pdot p w d a b (s : State) : exec (.pdot p w d a b) s = execPdot p w d a b s := rfl
theorem exec_psll p w d a b (s : State) : exec (.psll p w d a b) s = execPsll p w d a b s := rfl
theorem exec_psrl p w d a b (s : State) : exec (.psrl p w d a b) s = execPsrl p w d a b s := rfl
theorem exec_psra p w d a b (s : State) : exec (.psra p w d a b) s = execPsra p w d a b s := rfl
theorem exec_pshuf p w d a b (s : State) : exec (.pshuf p w d a b) s = execPshuf p w d a b s := rfl
theorem exec_ppack p w d a b (s : State) : exec (.ppack p w d a b) s = execPpack p w d a b s := rfl
theorem exec_punpk p w d a b (s : State) : exec (.punpk p w d a b) s = execPunpk p w d a b s := rfl
theorem exec_pcmpeq p w d a b (s : State) : exec (.pcmpeq p w d a b) s = execPcmpeq p w d a b s := rfl
theorem exec_pcmpgt p w d a b (s : State) : exec (.pcmpgt p w d a b) s = execPcmpgt p w d a b s := rfl
theorem exec_pabs p w d a (s : State) : exec (.pabs p w d a) s = execPabs p w d a s := rfl
theorem exec_cmpxEq p q d a b (s : State) : exec (.cmpxEq p q d a b) s = execCmpxEq p q d a b s := rfl
theorem exec_cmpxNe p q d a b (s : State) : exec (.cmpxNe p q d a b) s = execCmpxNe p q d a b s := rfl
theorem exec_cmpxLt p q d a b (s : State) : exec (.cmpxLt p q d a b) s = execCmpxLt p q d a b s := rfl
theorem exec_cmpxGe p q d a b (s : State) : exec (.cmpxGe p q d a b) s = execCmpxGe p q d a b s := rfl
theorem exec_cmpxLo p q d a b (s : State) : exec (.cmpxLo p q d a b) s = execCmpxLo p q d a b s := rfl
theorem exec_cmpxHs p q d a b (s : State) : exec (.cmpxHs p q d a b) s = execCmpxHs p q d a b s := rfl
theorem exec_cmpxTst p q d a b (s : State) : exec (.cmpxTst p q d a b) s = execCmpxTst p q d a b s := rfl
theorem exec_cmpxNtst p q d a b (s : State) : exec (.cmpxNtst p q d a b) s = execCmpxNtst p q d a b s := rfl
theorem exec_tadd p hd ha hb (s : State) : exec (.tadd p hd ha hb) s = execTadd p hd ha hb s := rfl
theorem exec_tsub p hd ha hb (s : State) : exec (.tsub p hd ha hb) s = execTsub p hd ha hb s := rfl
theorem exec_tmul p hd ha hb (s : State) : exec (.tmul p hd ha hb) s = execTmul p hd ha hb s := rfl
theorem exec_tfma p hd ha hb (s : State) : exec (.tfma p hd ha hb) s = execTfma p hd ha hb s := rfl
theorem exec_tmin p hd ha hb (s : State) : exec (.tmin p hd ha hb) s = execTmin p hd ha hb s := rfl
theorem exec_tmax p hd ha hb (s : State) : exec (.tmax p hd ha hb) s = execTmax p hd ha hb s := rfl
theorem exec_tsel p hd ha hb (s : State) : exec (.tsel p hd ha hb) s = execTsel p hd ha hb s := rfl
theorem exec_tcvt p hd ha (s : State) : exec (.tcvt p hd ha) s = execTcvt p hd ha s := rfl
theorem exec_texp2 p hd ha (s : State) : exec (.texp2 p hd ha) s = execTexp2 p hd ha s := rfl
theorem exec_tlog2 p hd ha (s : State) : exec (.tlog2 p hd ha) s = execTlog2 p hd ha s := rfl
theorem exec_trcp p hd ha (s : State) : exec (.trcp p hd ha) s = execTrcp p hd ha s := rfl
theorem exec_tcopy p hd ha (s : State) : exec (.tcopy p hd ha) s = execTcopy p hd ha s := rfl
theorem exec_tredSum p hd ha (s : State) : exec (.tredSum p hd ha) s = execTredSum p hd ha s := rfl
theorem exec_tredMax p hd ha (s : State) : exec (.tredMax p hd ha) s = execTredMax p hd ha s := rfl
theorem exec_tscale p hd ha k (s : State) : exec (.tscale p hd ha k) s = execTscale p hd ha k s := rfl
theorem exec_tmask p hd ha k (s : State) : exec (.tmask p hd ha k) s = execTmask p hd ha k s := rfl
theorem exec_tfill p hd k (s : State) : exec (.tfill p hd k) s = execTfill p hd k s := rfl
theorem exec_push p port a b (s : State) : exec (.push p port a b) s = execPush p port a b s := rfl
theorem exec_pop p port a b (s : State) : exec (.pop p port a b) s = execPop p port a b s := rfl
theorem exec_peek p port a b (s : State) : exec (.peek p port a b) s = execPeek p port a b s := rfl
theorem exec_rwaitF p n h (s : State) : exec (.rwaitF p n h) s = execRwaitF p n h s := rfl
theorem exec_rwaitE p n h (s : State) : exec (.rwaitE p n h) s = execRwaitE p n h s := rfl
theorem exec_radvP p n h (s : State) : exec (.radvP p n h) s = execRadvP p n h s := rfl
theorem exec_radvC p n h (s : State) : exec (.radvC p n h) s = execRadvC p n h s := rfl
theorem exec_hdef p h a b (s : State) : exec (.hdef p h a b) s = execHdef p h a b s := rfl
theorem exec_hrd p h a b (s : State) : exec (.hrd p h a b) s = execHrd p h a b s := rfl
theorem exec_hmov p hd ha (s : State) : exec (.hmov p hd ha) s = execHmov p hd ha s := rfl
theorem exec_send p t h n (s : State) : exec (.send p t h n) s = execSend p t h n s := rfl
theorem exec_ldfe p d a b (s : State) : exec (.ldfe p d a b) s = execLdfe p d a b s := rfl
theorem exec_ldff p d a b (s : State) : exec (.ldff p d a b) s = execLdff p d a b s := rfl
theorem exec_stfe p d a b (s : State) : exec (.stfe p d a b) s = execStfe p d a b s := rfl
theorem exec_stef p d a b (s : State) : exec (.stef p d a b) s = execStef p d a b s := rfl
theorem exec_feRd p d a b (s : State) : exec (.feRd p d a b) s = execFeRd p d a b s := rfl
theorem exec_feSet p a b (s : State) : exec (.feSet p a b) s = execFeSet p a b s := rfl
theorem exec_feClr p a b (s : State) : exec (.feClr p a b) s = execFeClr p a b s := rfl
theorem exec_waddrEq p a b (s : State) : exec (.waddrEq p a b) s = execWaddrEq p a b s := rfl
theorem exec_waddrNe p a b (s : State) : exec (.waddrNe p a b) s = execWaddrNe p a b s := rfl
theorem exec_barWait p a b (s : State) : exec (.barWait p a b) s = execBarWait p a b s := rfl
theorem exec_cflush p a b (s : State) : exec (.cflush p a b) s = execCflush p a b s := rfl
theorem exec_cinval p a b (s : State) : exec (.cinval p a b) s = execCinval p a b s := rfl
theorem exec_barArrive p a (s : State) : exec (.barArrive p a) s = execBarArrive p a s := rfl
theorem exec_joinDec p a (s : State) : exec (.joinDec p a) s = execJoinDec p a s := rfl
theorem exec_joinWait p a (s : State) : exec (.joinWait p a) s = execJoinWait p a s := rfl
theorem exec_mig p a (s : State) : exec (.mig p a) s = execMig p a s := rfl
theorem exec_amoAdd p sz d a b (s : State) : exec (.amoAdd p sz d a b) s = execAmoAdd p sz d a b s := rfl
theorem exec_amoAnd p sz d a b (s : State) : exec (.amoAnd p sz d a b) s = execAmoAnd p sz d a b s := rfl
theorem exec_amoOr p sz d a b (s : State) : exec (.amoOr p sz d a b) s = execAmoOr p sz d a b s := rfl
theorem exec_amoXor p sz d a b (s : State) : exec (.amoXor p sz d a b) s = execAmoXor p sz d a b s := rfl
theorem exec_amoMin p sz d a b (s : State) : exec (.amoMin p sz d a b) s = execAmoMin p sz d a b s := rfl
theorem exec_amoMax p sz d a b (s : State) : exec (.amoMax p sz d a b) s = execAmoMax p sz d a b s := rfl
theorem exec_amoMinn p sz d a b (s : State) : exec (.amoMinn p sz d a b) s = execAmoMinn p sz d a b s := rfl
theorem exec_amoMaxn p sz d a b (s : State) : exec (.amoMaxn p sz d a b) s = execAmoMaxn p sz d a b s := rfl
theorem exec_amoSwap p sz d a b (s : State) : exec (.amoSwap p sz d a b) s = execAmoSwap p sz d a b s := rfl
theorem exec_amoCas p sz d a b (s : State) : exec (.amoCas p sz d a b) s = execAmoCas p sz d a b s := rfl
theorem exec_redAdd p ty a b (s : State) : exec (.redAdd p ty a b) s = execRedAdd p ty a b s := rfl
theorem exec_redRd p ty d a (s : State) : exec (.redRd p ty d a) s = execRedRd p ty d a s := rfl
theorem exec_spawn p d a (s : State) : exec (.spawn p d a) s = execSpawn p d a s := rfl
theorem exec_rdsrPriv p d n (s : State) : exec (.rdsrPriv p d n) s = execRdsrPriv p d n s := rfl
theorem exec_wrsrPriv p a n (s : State) : exec (.wrsrPriv p a n) s = execWrsrPriv p a n s := rfl
theorem exec_upret p a (s : State) : exec (.upret p a) s = execUpret p a s := rfl
theorem exec_seginv p a (s : State) : exec (.seginv p a) s = execSeginv p a s := rfl
theorem exec_ymark p a (s : State) : exec (.ymark p a) s = execYmark p a s := rfl
theorem exec_cflClr p a (s : State) : exec (.cflClr p a) s = execCflClr p a s := rfl
theorem exec_tlbinv p a b (s : State) : exec (.tlbinv p a b) s = execTlbinv p a b s := rfl
theorem exec_sltWr p a b (s : State) : exec (.sltWr p a b) s = execSltWr p a b s := rfl
theorem exec_yctl p a b (s : State) : exec (.yctl p a b) s = execYctl p a b s := rfl
theorem exec_capmint p d a b (s : State) : exec (.capmint p d a b) s = execCapmint p d a b s := rfl
theorem exec_cxld p d a b (s : State) : exec (.cxld p d a b) s = execCxld p d a b s := rfl
theorem exec_cxst p d a b (s : State) : exec (.cxst p d a b) s = execCxst p d a b s := rfl
theorem exec_rdtick p d (s : State) : exec (.rdtick p d) s = execRdtick p d s := rfl
theorem exec_cflRd p d (s : State) : exec (.cflRd p d) s = execCflRd p d s := rfl
theorem exec_yrd p d a (s : State) : exec (.yrd p d a) s = execYrd p d a s := rfl
theorem exec_mmFmt cl src (s : State) : exec (.mmFmt cl src) s = execMmFmt cl src s := rfl
theorem exec_mmMul cl src (s : State) : exec (.mmMul cl src) s = execMmMul cl src s := rfl
theorem exec_mmRowAdvance cl k (s : State) : exec (.mmRowAdvance cl k) s = execMmRowAdvance cl k s := rfl
theorem exec_slGather cl (s : State) : exec (.slGather cl) s = execSlGather cl s := rfl
theorem exec_slScatter cl (s : State) : exec (.slScatter cl) s = execSlScatter cl s := rfl
theorem exec_slScatadd cl (s : State) : exec (.slScatadd cl) s = execSlScatadd cl s := rfl
theorem exec_flCopy cl (s : State) : exec (.flCopy cl) s = execFlCopy cl s := rfl
theorem exec_flFill cl (s : State) : exec (.flFill cl) s = execFlFill cl s := rfl
theorem exec_boTopk cl (s : State) : exec (.boTopk cl) s = execBoTopk cl s := rfl
theorem exec_boMerge cl (s : State) : exec (.boMerge cl) s = execBoMerge cl s := rfl
theorem exec_clusterMemoryFill cl (s : State) : exec (.clusterMemoryFill cl) s = execClusterMemoryFill cl s := rfl
theorem exec_clusterMemoryFillEnd cl (s : State) : exec (.clusterMemoryFillEnd cl) s = execClusterMemoryFillEnd cl s := rfl
theorem exec_qnBag die (s : State) : exec (.qnBag die) s = execQnBag die s := rfl
theorem exec_ywLoad die (s : State) : exec (.ywLoad die) s = execYwLoad die s := rfl
theorem exec_ywAttach die (s : State) : exec (.ywAttach die) s = execYwAttach die s := rfl
theorem exec_ywDetach die (s : State) : exec (.ywDetach die) s = execYwDetach die s := rfl
theorem exec_ywDump die (s : State) : exec (.ywDump die) s = execYwDump die s := rfl
theorem exec_yarrowBudgetWindow die (s : State) : exec (.yarrowBudgetWindow die) s = execYarrowBudgetWindow die s := rfl
theorem exec_triggerWrite die (s : State) : exec (.triggerWrite die) s = execTriggerWrite die s := rfl
theorem exec_completionDelivery k (s : State) : exec (.completionDelivery k) s = execCompletionDelivery k s := rfl
theorem exec_fillResponse k (s : State) : exec (.fillResponse k) s = execFillResponse k s := rfl
theorem exec_contextEvent k (s : State) : exec (.contextEvent k) s = execContextEvent k s := rfl
theorem exec_tailraceWalk k (s : State) : exec (.tailraceWalk k) s = execTailraceWalk k s := rfl
theorem exec_reclass k (s : State) : exec (.reclass k) s = execReclass k s := rfl
theorem exec_migrationArrival k (s : State) : exec (.migrationArrival k) s = execMigrationArrival k s := rfl
theorem exec_arrivalToContextL2 k (s : State) : exec (.arrivalToContextL2 k) s = execArrivalToContextL2 k s := rfl
theorem exec_counterIncrement k (s : State) : exec (.counterIncrement k) s = execCounterIncrement k s := rfl
theorem exec_sleepWake cl k (s : State) : exec (.sleepWake cl k) s = execSleepWake cl k s := rfl
theorem exec_hostAddrPoll vf index (s : State) : exec (.hostAddrPoll vf index) s = execHostAddrPoll vf index s := rfl
theorem exec_contextFetch vf index (s : State) : exec (.contextFetch vf index) s = execContextFetch vf index s := rfl
theorem exec_contextLineLost vf index (s : State) : exec (.contextLineLost vf index) s = execContextLineLost vf index s := rfl
theorem exec_probeAnswer core way (s : State) : exec (.probeAnswer core way) s = execProbeAnswer core way s := rfl
theorem exec_fenceDrain core way (s : State) : exec (.fenceDrain core way) s = execFenceDrain core way s := rfl
theorem exec_contextEviction core way (s : State) : exec (.contextEviction core way) s = execContextEviction core way s := rfl
theorem exec_watchDelivery core way (s : State) : exec (.watchDelivery core way) s = execWatchDelivery core way s := rfl
theorem exec_storeQueuePerform core k (s : State) : exec (.storeQueuePerform core k) s = execStoreQueuePerform core k s := rfl
theorem exec_stage1Walk cl k (s : State) : exec (.stage1Walk cl k) s = execStage1Walk cl k s := rfl
theorem exec_llcMiss vf line write victim (s : State) : exec (.llcMiss vf line write victim) s = execLlcMiss vf line write victim s := rfl
theorem exec_pageResponse tag gen fatal (s : State) : exec (.pageResponse tag gen fatal) s = execPageResponse tag gen fatal s := rfl
theorem exec_dirLoadMiss vf line core m (s : State) : exec (.dirLoadMiss vf line core m) s = execDirLoadMiss vf line core m s := rfl
theorem exec_dirStoreOwnership vf line core m (s : State) : exec (.dirStoreOwnership vf line core m) s = execDirStoreOwnership vf line core m s := rfl
theorem exec_dirWriteBack vf line core m (s : State) : exec (.dirWriteBack vf line core m) s = execDirWriteBack vf line core m s := rfl
theorem exec_dirCoreEvict vf line core (s : State) : exec (.dirCoreEvict vf line core) s = execDirCoreEvict vf line core s := rfl
theorem exec_hostRead a hpa (s : State) : exec (.hostRead a hpa) s = execHostRead a hpa s := rfl
theorem exec_hostWrite a hpa n v (s : State) : exec (.hostWrite a hpa n v) s = execHostWrite a hpa n v s := rfl
theorem exec_frameAssign frame vf gfn ro (s : State) : exec (.frameAssign frame vf gfn ro) s = execFrameAssign frame vf gfn ro s := rfl
theorem exec_frameRelease frame (s : State) : exec (.frameRelease frame) s = execFrameRelease frame s := rfl
theorem exec_frameScrubDone frame (s : State) : exec (.frameScrubDone frame) s = execFrameScrubDone frame s := rfl
theorem exec_contextPull core (s : State) : exec (.contextPull core) s = execContextPull core s := rfl
theorem exec_faultHandlerStart core (s : State) : exec (.faultHandlerStart core) s = execFaultHandlerStart core s := rfl
theorem exec_messageHandlerStart core (s : State) : exec (.messageHandlerStart core) s = execMessageHandlerStart core s := rfl
theorem exec_vfSwitchSweep core (s : State) : exec (.vfSwitchSweep core) s = execVfSwitchSweep core s := rfl
theorem exec_scratchpadScrub core (s : State) : exec (.scratchpadScrub core) s = execScratchpadScrub core s := rfl
theorem exec_scratchpadScrubEnd core (s : State) : exec (.scratchpadScrubEnd core) s = execScratchpadScrubEnd core s := rfl
theorem exec_contextWriteBack cl set (s : State) : exec (.contextWriteBack cl set) s = execContextWriteBack cl set s := rfl
theorem exec_arrivalAck cl seq (s : State) : exec (.arrivalAck cl seq) s = execArrivalAck cl seq s := rfl
theorem exec_replayTimeout cl seq (s : State) : exec (.replayTimeout cl seq) s = execReplayTimeout cl seq s := rfl
theorem exec_replayRecordError cl seq (s : State) : exec (.replayRecordError cl seq) s = execReplayRecordError cl seq s := rfl
theorem exec_launchDelivery vf rcb (s : State) : exec (.launchDelivery vf rcb) s = execLaunchDelivery vf rcb s := rfl
theorem exec_rcbAdmit vf rcb (s : State) : exec (.rcbAdmit vf rcb) s = execRcbAdmit vf rcb s := rfl
theorem exec_rcbFinish vf rcb (s : State) : exec (.rcbFinish vf rcb) s = execRcbFinish vf rcb s := rfl
theorem exec_cycleBudgetAbort vf rcb (s : State) : exec (.cycleBudgetAbort vf rcb) s = execCycleBudgetAbort vf rcb s := rfl
theorem exec_deadlinePass vf rcb (s : State) : exec (.deadlinePass vf rcb) s = execDeadlinePass vf rcb s := rfl
theorem exec_messageArrival core k (s : State) : exec (.messageArrival core k) s = execMessageArrival core k s := rfl
theorem exec_qtailDoorbell vf q v (s : State) : exec (.qtailDoorbell vf q v) s = execQtailDoorbell vf q v s := rfl
theorem exec_wqLaunch vf q (s : State) : exec (.wqLaunch vf q) s = execWqLaunch vf q s := rfl
theorem exec_wqGang vf q (s : State) : exec (.wqGang vf q) s = execWqGang vf q s := rfl
theorem exec_wqEntryPoll vf q (s : State) : exec (.wqEntryPoll vf q) s = execWqEntryPoll vf q s := rfl
theorem exec_wqEntryTimeout vf q (s : State) : exec (.wqEntryTimeout vf q) s = execWqEntryTimeout vf q s := rfl
theorem exec_errClear vf q (s : State) : exec (.errClear vf q) s = execErrClear vf q s := rfl
theorem exec_sliceEnd node (s : State) : exec (.sliceEnd node) s = execSliceEnd node s := rfl
theorem exec_split node (s : State) : exec (.split node) s = execSplit node s := rfl
theorem exec_merge node (s : State) : exec (.merge node) s = execMerge node s := rfl
theorem exec_fmUnbind node (s : State) : exec (.fmUnbind node) s = execFmUnbind node s := rfl
theorem exec_gangReady gang member (s : State) : exec (.gangReady gang member) s = execGangReady gang member s := rfl
theorem exec_gangAbort gang member (s : State) : exec (.gangAbort gang member) s = execGangAbort gang member s := rfl
theorem exec_gangReadyDeadline gang (s : State) : exec (.gangReadyDeadline gang) s = execGangReadyDeadline gang s := rfl
theorem exec_gangStart gang (s : State) : exec (.gangStart gang) s = execGangStart gang s := rfl
theorem exec_filterRun die k (s : State) : exec (.filterRun die k) s = execFilterRun die k s := rfl
theorem exec_yarrowTickEvent die vf slot (s : State) : exec (.yarrowTickEvent die vf slot) s = execYarrowTickEvent die vf slot s := rfl
theorem exec_vfNodeWrite vf node (s : State) : exec (.vfNodeWrite vf node) s = execVfNodeWrite vf node s := rfl
theorem exec_ctxSegmentWrite vf len v (s : State) : exec (.ctxSegmentWrite vf len v) s = execCtxSegmentWrite vf len v s := rfl
theorem exec_bankMaskWrite vf lcluster keep (s : State) : exec (.bankMaskWrite vf lcluster keep) s = execBankMaskWrite vf lcluster keep s := rfl
theorem exec_vfReset vf (s : State) : exec (.vfReset vf) s = execVfReset vf s := rfl
theorem exec_fvClear vf (s : State) : exec (.fvClear vf) s = execFvClear vf s := rfl
theorem exec_fmBind node port (s : State) : exec (.fmBind node port) s = execFmBind node port s := rfl
theorem exec_parityError cl port (s : State) : exec (.parityError cl port) s = execParityError cl port s := rfl
theorem exec_linkRetrain link ok (s : State) : exec (.linkRetrain link ok) s = execLinkRetrain link ok s := rfl
theorem exec_patrolScrub a v (s : State) : exec (.patrolScrub a v) s = execPatrolScrub a v s := rfl
theorem exec_wassign (s : State) : exec .wassign s = execWassign s := rfl
theorem exec_setw (s : State) : exec .setw s = execSetw s := rfl
theorem exec_stage image (s : State) : exec (.stage image) s = execStage image s := rfl
theorem exec_commit (s : State) : exec .commit s = execCommit s := rfl
theorem exec_attest (s : State) : exec .attest s = execAttest s := rfl
theorem exec_setsec (s : State) : exec .setsec s = execSetsec s := rfl
theorem exec_moduleReset (s : State) : exec .moduleReset s = execModuleReset s := rfl
theorem exec_powerLoss (s : State) : exec .powerLoss s = execPowerLoss s := rfl
theorem exec_globalTick (s : State) : exec .globalTick s = execGlobalTick s := rfl
theorem exec_tickUnsynchronised (s : State) : exec .tickUnsynchronised s = execTickUnsynchronised s := rfl
theorem exec_mgmtSession cert (s : State) : exec (.mgmtSession cert) s = execMgmtSession cert s := rfl
theorem exec_powerCapWrite w (s : State) : exec (.powerCapWrite w) s = execPowerCapWrite w s := rfl
theorem exec_throttleLevelChange die r (s : State) : exec (.throttleLevelChange die r) s = execThrottleLevelChange die r s := rfl
theorem exec_thermalTrip r (s : State) : exec (.thermalTrip r) s = execThermalTrip r s := rfl
theorem exec_cxlPortDown port (s : State) : exec (.cxlPortDown port) s = execCxlPortDown port s := rfl
theorem exec_registerWrite r v (s : State) : exec (.registerWrite r v) s = execRegisterWrite r v s := rfl
theorem exec_illegalEncoding f (s : State) : exec (.illegalEncoding f) s = execIllegalEncoding f s := rfl
theorem exec_partialCommandAbandon core way port (s : State) : exec (.partialCommandAbandon core way port) s = execPartialCommandAbandon core way port s := rfl
theorem exec_linkRetry where_ (s : State) : exec (.linkRetry where_) s = execLinkRetry where_ s := rfl

end Sys2Proof.Machine
end

