-- ==== Sys2Proof/Laws/State.lean ====
section
/-! SUPPORT. State: what each update of the machine changes and what it leaves alone, one lemma per field and update,
and reading a unit back after writing it. -/
namespace Sys2Proof.Machine

set_option Elab.async false

/-! ## setCore -/

@[simp] theorem State.setCore_agenda (s : State) (c : Nat) (k : Core) :
    (s.setCore c k).agenda = s.agenda := rfl

@[simp] theorem State.setCore_run (s : State) (c : Nat) (k : Core) :
    (s.setCore c k).run = s.run := rfl

@[simp] theorem State.setCore_cycle (s : State) (c : Nat) (k : Core) :
    (s.setCore c k).cycle = s.cycle := rfl

@[simp] theorem State.setCore_tick (s : State) (c : Nat) (k : Core) :
    (s.setCore c k).tick = s.tick := rfl

@[simp] theorem State.setCore_draws (s : State) (c : Nat) (k : Core) :
    (s.setCore c k).draws = s.draws := rfl

@[simp] theorem State.setCore_posted (s : State) (c : Nat) (k : Core) :
    (s.setCore c k).posted = s.posted := rfl

@[simp] theorem State.setCore_hostPort (s : State) (c : Nat) (k : Core) :
    (s.setCore c k).hostPort = s.hostPort := rfl

@[simp] theorem State.setCore_mem (s : State) (c : Nat) (k : Core) :
    (s.setCore c k).mem = s.mem := rfl

@[simp] theorem State.setCore_clusters (s : State) (c : Nat) (k : Core) :
    (s.setCore c k).clusters = s.clusters := rfl

@[simp] theorem State.setCore_dies (s : State) (c : Nat) (k : Core) :
    (s.setCore c k).dies = s.dies := rfl

@[simp] theorem State.setCore_vfs (s : State) (c : Nat) (k : Core) :
    (s.setCore c k).vfs = s.vfs := rfl

@[simp] theorem State.setCore_ctxs (s : State) (c : Nat) (k : Core) :
    (s.setCore c k).ctxs = s.ctxs := rfl

@[simp] theorem State.setCore_rcbs (s : State) (c : Nat) (k : Core) :
    (s.setCore c k).rcbs = s.rcbs := rfl

@[simp] theorem State.setCore_ancestors (s : State) (c : Nat) (k : Core) :
    (s.setCore c k).ancestors = s.ancestors := rfl

@[simp] theorem State.setCore_pool (s : State) (c : Nat) (k : Core) :
    (s.setCore c k).pool = s.pool := rfl

@[simp] theorem State.setCore_named (s : State) (c : Nat) (k : Core) :
    (s.setCore c k).named = s.named := rfl

@[simp] theorem State.setCore_gangs (s : State) (c : Nat) (k : Core) :
    (s.setCore c k).gangs = s.gangs := rfl

@[simp] theorem State.setCore_gangSends (s : State) (c : Nat) (k : Core) :
    (s.setCore c k).gangSends = s.gangSends := rfl

@[simp] theorem State.setCore_parts (s : State) (c : Nat) (k : Core) :
    (s.setCore c k).parts = s.parts := rfl

@[simp] theorem State.setCore_llc (s : State) (c : Nat) (k : Core) :
    (s.setCore c k).llc = s.llc := rfl

@[simp] theorem State.setCore_frames (s : State) (c : Nat) (k : Core) :
    (s.setCore c k).frames = s.frames := rfl

@[simp] theorem State.setCore_frameStatus (s : State) (c : Nat) (k : Core) :
    (s.setCore c k).frameStatus = s.frameStatus := rfl

@[simp] theorem State.setCore_partStatus (s : State) (c : Nat) (k : Core) :
    (s.setCore c k).partStatus = s.partStatus := rfl

@[simp] theorem State.setCore_fills (s : State) (c : Nat) (k : Core) :
    (s.setCore c k).fills = s.fills := rfl

@[simp] theorem State.setCore_waiters (s : State) (c : Nat) (k : Core) :
    (s.setCore c k).waiters = s.waiters := rfl

@[simp] theorem State.setCore_events (s : State) (c : Nat) (k : Core) :
    (s.setCore c k).events = s.events := rfl

@[simp] theorem State.setCore_requests (s : State) (c : Nat) (k : Core) :
    (s.setCore c k).requests = s.requests := rfl

@[simp] theorem State.setCore_nextTag (s : State) (c : Nat) (k : Core) :
    (s.setCore c k).nextTag = s.nextTag := rfl

@[simp] theorem State.setCore_asked (s : State) (c : Nat) (k : Core) :
    (s.setCore c k).asked = s.asked := rfl

@[simp] theorem State.setCore_transit (s : State) (c : Nat) (k : Core) :
    (s.setCore c k).transit = s.transit := rfl

@[simp] theorem State.setCore_packets (s : State) (c : Nat) (k : Core) :
    (s.setCore c k).packets = s.packets := rfl

@[simp] theorem State.setCore_rangeWalks (s : State) (c : Nat) (k : Core) :
    (s.setCore c k).rangeWalks = s.rangeWalks := rfl

@[simp] theorem State.setCore_reds (s : State) (c : Nat) (k : Core) :
    (s.setCore c k).reds = s.reds := rfl

@[simp] theorem State.setCore_increments (s : State) (c : Nat) (k : Core) :
    (s.setCore c k).increments = s.increments := rfl

@[simp] theorem State.setCore_windows (s : State) (c : Nat) (k : Core) :
    (s.setCore c k).windows = s.windows := rfl

@[simp] theorem State.setCore_platform (s : State) (c : Nat) (k : Core) :
    (s.setCore c k).platform = s.platform := rfl

/-! ## setCluster -/

@[simp] theorem State.setCluster_agenda (s : State) (c : Nat) (k : Cluster) :
    (s.setCluster c k).agenda = s.agenda := rfl

@[simp] theorem State.setCluster_run (s : State) (c : Nat) (k : Cluster) :
    (s.setCluster c k).run = s.run := rfl

@[simp] theorem State.setCluster_cycle (s : State) (c : Nat) (k : Cluster) :
    (s.setCluster c k).cycle = s.cycle := rfl

@[simp] theorem State.setCluster_tick (s : State) (c : Nat) (k : Cluster) :
    (s.setCluster c k).tick = s.tick := rfl

@[simp] theorem State.setCluster_draws (s : State) (c : Nat) (k : Cluster) :
    (s.setCluster c k).draws = s.draws := rfl

@[simp] theorem State.setCluster_posted (s : State) (c : Nat) (k : Cluster) :
    (s.setCluster c k).posted = s.posted := rfl

@[simp] theorem State.setCluster_hostPort (s : State) (c : Nat) (k : Cluster) :
    (s.setCluster c k).hostPort = s.hostPort := rfl

@[simp] theorem State.setCluster_mem (s : State) (c : Nat) (k : Cluster) :
    (s.setCluster c k).mem = s.mem := rfl

@[simp] theorem State.setCluster_cores (s : State) (c : Nat) (k : Cluster) :
    (s.setCluster c k).cores = s.cores := rfl

@[simp] theorem State.setCluster_dies (s : State) (c : Nat) (k : Cluster) :
    (s.setCluster c k).dies = s.dies := rfl

@[simp] theorem State.setCluster_vfs (s : State) (c : Nat) (k : Cluster) :
    (s.setCluster c k).vfs = s.vfs := rfl

@[simp] theorem State.setCluster_ctxs (s : State) (c : Nat) (k : Cluster) :
    (s.setCluster c k).ctxs = s.ctxs := rfl

@[simp] theorem State.setCluster_rcbs (s : State) (c : Nat) (k : Cluster) :
    (s.setCluster c k).rcbs = s.rcbs := rfl

@[simp] theorem State.setCluster_ancestors (s : State) (c : Nat) (k : Cluster) :
    (s.setCluster c k).ancestors = s.ancestors := rfl

@[simp] theorem State.setCluster_pool (s : State) (c : Nat) (k : Cluster) :
    (s.setCluster c k).pool = s.pool := rfl

@[simp] theorem State.setCluster_named (s : State) (c : Nat) (k : Cluster) :
    (s.setCluster c k).named = s.named := rfl

@[simp] theorem State.setCluster_gangs (s : State) (c : Nat) (k : Cluster) :
    (s.setCluster c k).gangs = s.gangs := rfl

@[simp] theorem State.setCluster_gangSends (s : State) (c : Nat) (k : Cluster) :
    (s.setCluster c k).gangSends = s.gangSends := rfl

@[simp] theorem State.setCluster_parts (s : State) (c : Nat) (k : Cluster) :
    (s.setCluster c k).parts = s.parts := rfl

@[simp] theorem State.setCluster_llc (s : State) (c : Nat) (k : Cluster) :
    (s.setCluster c k).llc = s.llc := rfl

@[simp] theorem State.setCluster_frames (s : State) (c : Nat) (k : Cluster) :
    (s.setCluster c k).frames = s.frames := rfl

@[simp] theorem State.setCluster_frameStatus (s : State) (c : Nat) (k : Cluster) :
    (s.setCluster c k).frameStatus = s.frameStatus := rfl

@[simp] theorem State.setCluster_partStatus (s : State) (c : Nat) (k : Cluster) :
    (s.setCluster c k).partStatus = s.partStatus := rfl

@[simp] theorem State.setCluster_fills (s : State) (c : Nat) (k : Cluster) :
    (s.setCluster c k).fills = s.fills := rfl

@[simp] theorem State.setCluster_waiters (s : State) (c : Nat) (k : Cluster) :
    (s.setCluster c k).waiters = s.waiters := rfl

@[simp] theorem State.setCluster_events (s : State) (c : Nat) (k : Cluster) :
    (s.setCluster c k).events = s.events := rfl

@[simp] theorem State.setCluster_requests (s : State) (c : Nat) (k : Cluster) :
    (s.setCluster c k).requests = s.requests := rfl

@[simp] theorem State.setCluster_nextTag (s : State) (c : Nat) (k : Cluster) :
    (s.setCluster c k).nextTag = s.nextTag := rfl

@[simp] theorem State.setCluster_asked (s : State) (c : Nat) (k : Cluster) :
    (s.setCluster c k).asked = s.asked := rfl

@[simp] theorem State.setCluster_transit (s : State) (c : Nat) (k : Cluster) :
    (s.setCluster c k).transit = s.transit := rfl

@[simp] theorem State.setCluster_packets (s : State) (c : Nat) (k : Cluster) :
    (s.setCluster c k).packets = s.packets := rfl

@[simp] theorem State.setCluster_rangeWalks (s : State) (c : Nat) (k : Cluster) :
    (s.setCluster c k).rangeWalks = s.rangeWalks := rfl

@[simp] theorem State.setCluster_reds (s : State) (c : Nat) (k : Cluster) :
    (s.setCluster c k).reds = s.reds := rfl

@[simp] theorem State.setCluster_increments (s : State) (c : Nat) (k : Cluster) :
    (s.setCluster c k).increments = s.increments := rfl

@[simp] theorem State.setCluster_windows (s : State) (c : Nat) (k : Cluster) :
    (s.setCluster c k).windows = s.windows := rfl

@[simp] theorem State.setCluster_platform (s : State) (c : Nat) (k : Cluster) :
    (s.setCluster c k).platform = s.platform := rfl

/-! ## setDie -/

@[simp] theorem State.setDie_agenda (s : State) (d : Nat) (x : Die) :
    (s.setDie d x).agenda = s.agenda := rfl

@[simp] theorem State.setDie_run (s : State) (d : Nat) (x : Die) :
    (s.setDie d x).run = s.run := rfl

@[simp] theorem State.setDie_cycle (s : State) (d : Nat) (x : Die) :
    (s.setDie d x).cycle = s.cycle := rfl

@[simp] theorem State.setDie_tick (s : State) (d : Nat) (x : Die) :
    (s.setDie d x).tick = s.tick := rfl

@[simp] theorem State.setDie_draws (s : State) (d : Nat) (x : Die) :
    (s.setDie d x).draws = s.draws := rfl

@[simp] theorem State.setDie_posted (s : State) (d : Nat) (x : Die) :
    (s.setDie d x).posted = s.posted := rfl

@[simp] theorem State.setDie_hostPort (s : State) (d : Nat) (x : Die) :
    (s.setDie d x).hostPort = s.hostPort := rfl

@[simp] theorem State.setDie_mem (s : State) (d : Nat) (x : Die) :
    (s.setDie d x).mem = s.mem := rfl

@[simp] theorem State.setDie_cores (s : State) (d : Nat) (x : Die) :
    (s.setDie d x).cores = s.cores := rfl

@[simp] theorem State.setDie_clusters (s : State) (d : Nat) (x : Die) :
    (s.setDie d x).clusters = s.clusters := rfl

@[simp] theorem State.setDie_vfs (s : State) (d : Nat) (x : Die) :
    (s.setDie d x).vfs = s.vfs := rfl

@[simp] theorem State.setDie_ctxs (s : State) (d : Nat) (x : Die) :
    (s.setDie d x).ctxs = s.ctxs := rfl

@[simp] theorem State.setDie_rcbs (s : State) (d : Nat) (x : Die) :
    (s.setDie d x).rcbs = s.rcbs := rfl

@[simp] theorem State.setDie_ancestors (s : State) (d : Nat) (x : Die) :
    (s.setDie d x).ancestors = s.ancestors := rfl

@[simp] theorem State.setDie_pool (s : State) (d : Nat) (x : Die) :
    (s.setDie d x).pool = s.pool := rfl

@[simp] theorem State.setDie_named (s : State) (d : Nat) (x : Die) :
    (s.setDie d x).named = s.named := rfl

@[simp] theorem State.setDie_gangs (s : State) (d : Nat) (x : Die) :
    (s.setDie d x).gangs = s.gangs := rfl

@[simp] theorem State.setDie_gangSends (s : State) (d : Nat) (x : Die) :
    (s.setDie d x).gangSends = s.gangSends := rfl

@[simp] theorem State.setDie_parts (s : State) (d : Nat) (x : Die) :
    (s.setDie d x).parts = s.parts := rfl

@[simp] theorem State.setDie_llc (s : State) (d : Nat) (x : Die) :
    (s.setDie d x).llc = s.llc := rfl

@[simp] theorem State.setDie_frames (s : State) (d : Nat) (x : Die) :
    (s.setDie d x).frames = s.frames := rfl

@[simp] theorem State.setDie_frameStatus (s : State) (d : Nat) (x : Die) :
    (s.setDie d x).frameStatus = s.frameStatus := rfl

@[simp] theorem State.setDie_partStatus (s : State) (d : Nat) (x : Die) :
    (s.setDie d x).partStatus = s.partStatus := rfl

@[simp] theorem State.setDie_fills (s : State) (d : Nat) (x : Die) :
    (s.setDie d x).fills = s.fills := rfl

@[simp] theorem State.setDie_waiters (s : State) (d : Nat) (x : Die) :
    (s.setDie d x).waiters = s.waiters := rfl

@[simp] theorem State.setDie_events (s : State) (d : Nat) (x : Die) :
    (s.setDie d x).events = s.events := rfl

@[simp] theorem State.setDie_requests (s : State) (d : Nat) (x : Die) :
    (s.setDie d x).requests = s.requests := rfl

@[simp] theorem State.setDie_nextTag (s : State) (d : Nat) (x : Die) :
    (s.setDie d x).nextTag = s.nextTag := rfl

@[simp] theorem State.setDie_asked (s : State) (d : Nat) (x : Die) :
    (s.setDie d x).asked = s.asked := rfl

@[simp] theorem State.setDie_transit (s : State) (d : Nat) (x : Die) :
    (s.setDie d x).transit = s.transit := rfl

@[simp] theorem State.setDie_packets (s : State) (d : Nat) (x : Die) :
    (s.setDie d x).packets = s.packets := rfl

@[simp] theorem State.setDie_rangeWalks (s : State) (d : Nat) (x : Die) :
    (s.setDie d x).rangeWalks = s.rangeWalks := rfl

@[simp] theorem State.setDie_reds (s : State) (d : Nat) (x : Die) :
    (s.setDie d x).reds = s.reds := rfl

@[simp] theorem State.setDie_increments (s : State) (d : Nat) (x : Die) :
    (s.setDie d x).increments = s.increments := rfl

@[simp] theorem State.setDie_windows (s : State) (d : Nat) (x : Die) :
    (s.setDie d x).windows = s.windows := rfl

@[simp] theorem State.setDie_platform (s : State) (d : Nat) (x : Die) :
    (s.setDie d x).platform = s.platform := rfl

/-! ## setVf -/

@[simp] theorem State.setVf_agenda (s : State) (v : Nat) (x : Vf) :
    (s.setVf v x).agenda = s.agenda := rfl

@[simp] theorem State.setVf_run (s : State) (v : Nat) (x : Vf) :
    (s.setVf v x).run = s.run := rfl

@[simp] theorem State.setVf_cycle (s : State) (v : Nat) (x : Vf) :
    (s.setVf v x).cycle = s.cycle := rfl

@[simp] theorem State.setVf_tick (s : State) (v : Nat) (x : Vf) :
    (s.setVf v x).tick = s.tick := rfl

@[simp] theorem State.setVf_draws (s : State) (v : Nat) (x : Vf) :
    (s.setVf v x).draws = s.draws := rfl

@[simp] theorem State.setVf_posted (s : State) (v : Nat) (x : Vf) :
    (s.setVf v x).posted = s.posted := rfl

@[simp] theorem State.setVf_hostPort (s : State) (v : Nat) (x : Vf) :
    (s.setVf v x).hostPort = s.hostPort := rfl

@[simp] theorem State.setVf_mem (s : State) (v : Nat) (x : Vf) :
    (s.setVf v x).mem = s.mem := rfl

@[simp] theorem State.setVf_cores (s : State) (v : Nat) (x : Vf) :
    (s.setVf v x).cores = s.cores := rfl

@[simp] theorem State.setVf_clusters (s : State) (v : Nat) (x : Vf) :
    (s.setVf v x).clusters = s.clusters := rfl

@[simp] theorem State.setVf_dies (s : State) (v : Nat) (x : Vf) :
    (s.setVf v x).dies = s.dies := rfl

@[simp] theorem State.setVf_ctxs (s : State) (v : Nat) (x : Vf) :
    (s.setVf v x).ctxs = s.ctxs := rfl

@[simp] theorem State.setVf_rcbs (s : State) (v : Nat) (x : Vf) :
    (s.setVf v x).rcbs = s.rcbs := rfl

@[simp] theorem State.setVf_ancestors (s : State) (v : Nat) (x : Vf) :
    (s.setVf v x).ancestors = s.ancestors := rfl

@[simp] theorem State.setVf_pool (s : State) (v : Nat) (x : Vf) :
    (s.setVf v x).pool = s.pool := rfl

@[simp] theorem State.setVf_named (s : State) (v : Nat) (x : Vf) :
    (s.setVf v x).named = s.named := rfl

@[simp] theorem State.setVf_gangs (s : State) (v : Nat) (x : Vf) :
    (s.setVf v x).gangs = s.gangs := rfl

@[simp] theorem State.setVf_gangSends (s : State) (v : Nat) (x : Vf) :
    (s.setVf v x).gangSends = s.gangSends := rfl

@[simp] theorem State.setVf_parts (s : State) (v : Nat) (x : Vf) :
    (s.setVf v x).parts = s.parts := rfl

@[simp] theorem State.setVf_llc (s : State) (v : Nat) (x : Vf) :
    (s.setVf v x).llc = s.llc := rfl

@[simp] theorem State.setVf_frames (s : State) (v : Nat) (x : Vf) :
    (s.setVf v x).frames = s.frames := rfl

@[simp] theorem State.setVf_frameStatus (s : State) (v : Nat) (x : Vf) :
    (s.setVf v x).frameStatus = s.frameStatus := rfl

@[simp] theorem State.setVf_partStatus (s : State) (v : Nat) (x : Vf) :
    (s.setVf v x).partStatus = s.partStatus := rfl

@[simp] theorem State.setVf_fills (s : State) (v : Nat) (x : Vf) :
    (s.setVf v x).fills = s.fills := rfl

@[simp] theorem State.setVf_waiters (s : State) (v : Nat) (x : Vf) :
    (s.setVf v x).waiters = s.waiters := rfl

@[simp] theorem State.setVf_events (s : State) (v : Nat) (x : Vf) :
    (s.setVf v x).events = s.events := rfl

@[simp] theorem State.setVf_requests (s : State) (v : Nat) (x : Vf) :
    (s.setVf v x).requests = s.requests := rfl

@[simp] theorem State.setVf_nextTag (s : State) (v : Nat) (x : Vf) :
    (s.setVf v x).nextTag = s.nextTag := rfl

@[simp] theorem State.setVf_asked (s : State) (v : Nat) (x : Vf) :
    (s.setVf v x).asked = s.asked := rfl

@[simp] theorem State.setVf_transit (s : State) (v : Nat) (x : Vf) :
    (s.setVf v x).transit = s.transit := rfl

@[simp] theorem State.setVf_packets (s : State) (v : Nat) (x : Vf) :
    (s.setVf v x).packets = s.packets := rfl

@[simp] theorem State.setVf_rangeWalks (s : State) (v : Nat) (x : Vf) :
    (s.setVf v x).rangeWalks = s.rangeWalks := rfl

@[simp] theorem State.setVf_reds (s : State) (v : Nat) (x : Vf) :
    (s.setVf v x).reds = s.reds := rfl

@[simp] theorem State.setVf_increments (s : State) (v : Nat) (x : Vf) :
    (s.setVf v x).increments = s.increments := rfl

@[simp] theorem State.setVf_windows (s : State) (v : Nat) (x : Vf) :
    (s.setVf v x).windows = s.windows := rfl

@[simp] theorem State.setVf_platform (s : State) (v : Nat) (x : Vf) :
    (s.setVf v x).platform = s.platform := rfl

/-! ## setCtx -/

@[simp] theorem State.setCtx_agenda (s : State) (v i : Nat) (x : Ctx) :
    (s.setCtx v i x).agenda = s.agenda := rfl

@[simp] theorem State.setCtx_run (s : State) (v i : Nat) (x : Ctx) :
    (s.setCtx v i x).run = s.run := rfl

@[simp] theorem State.setCtx_cycle (s : State) (v i : Nat) (x : Ctx) :
    (s.setCtx v i x).cycle = s.cycle := rfl

@[simp] theorem State.setCtx_tick (s : State) (v i : Nat) (x : Ctx) :
    (s.setCtx v i x).tick = s.tick := rfl

@[simp] theorem State.setCtx_draws (s : State) (v i : Nat) (x : Ctx) :
    (s.setCtx v i x).draws = s.draws := rfl

@[simp] theorem State.setCtx_posted (s : State) (v i : Nat) (x : Ctx) :
    (s.setCtx v i x).posted = s.posted := rfl

@[simp] theorem State.setCtx_hostPort (s : State) (v i : Nat) (x : Ctx) :
    (s.setCtx v i x).hostPort = s.hostPort := rfl

@[simp] theorem State.setCtx_mem (s : State) (v i : Nat) (x : Ctx) :
    (s.setCtx v i x).mem = s.mem := rfl

@[simp] theorem State.setCtx_cores (s : State) (v i : Nat) (x : Ctx) :
    (s.setCtx v i x).cores = s.cores := rfl

@[simp] theorem State.setCtx_clusters (s : State) (v i : Nat) (x : Ctx) :
    (s.setCtx v i x).clusters = s.clusters := rfl

@[simp] theorem State.setCtx_dies (s : State) (v i : Nat) (x : Ctx) :
    (s.setCtx v i x).dies = s.dies := rfl

@[simp] theorem State.setCtx_vfs (s : State) (v i : Nat) (x : Ctx) :
    (s.setCtx v i x).vfs = s.vfs := rfl

@[simp] theorem State.setCtx_rcbs (s : State) (v i : Nat) (x : Ctx) :
    (s.setCtx v i x).rcbs = s.rcbs := rfl

@[simp] theorem State.setCtx_ancestors (s : State) (v i : Nat) (x : Ctx) :
    (s.setCtx v i x).ancestors = s.ancestors := rfl

@[simp] theorem State.setCtx_pool (s : State) (v i : Nat) (x : Ctx) :
    (s.setCtx v i x).pool = s.pool := rfl

@[simp] theorem State.setCtx_named (s : State) (v i : Nat) (x : Ctx) :
    (s.setCtx v i x).named = s.named := rfl

@[simp] theorem State.setCtx_gangs (s : State) (v i : Nat) (x : Ctx) :
    (s.setCtx v i x).gangs = s.gangs := rfl

@[simp] theorem State.setCtx_gangSends (s : State) (v i : Nat) (x : Ctx) :
    (s.setCtx v i x).gangSends = s.gangSends := rfl

@[simp] theorem State.setCtx_parts (s : State) (v i : Nat) (x : Ctx) :
    (s.setCtx v i x).parts = s.parts := rfl

@[simp] theorem State.setCtx_llc (s : State) (v i : Nat) (x : Ctx) :
    (s.setCtx v i x).llc = s.llc := rfl

@[simp] theorem State.setCtx_frames (s : State) (v i : Nat) (x : Ctx) :
    (s.setCtx v i x).frames = s.frames := rfl

@[simp] theorem State.setCtx_frameStatus (s : State) (v i : Nat) (x : Ctx) :
    (s.setCtx v i x).frameStatus = s.frameStatus := rfl

@[simp] theorem State.setCtx_partStatus (s : State) (v i : Nat) (x : Ctx) :
    (s.setCtx v i x).partStatus = s.partStatus := rfl

@[simp] theorem State.setCtx_fills (s : State) (v i : Nat) (x : Ctx) :
    (s.setCtx v i x).fills = s.fills := rfl

@[simp] theorem State.setCtx_waiters (s : State) (v i : Nat) (x : Ctx) :
    (s.setCtx v i x).waiters = s.waiters := rfl

@[simp] theorem State.setCtx_events (s : State) (v i : Nat) (x : Ctx) :
    (s.setCtx v i x).events = s.events := rfl

@[simp] theorem State.setCtx_requests (s : State) (v i : Nat) (x : Ctx) :
    (s.setCtx v i x).requests = s.requests := rfl

@[simp] theorem State.setCtx_nextTag (s : State) (v i : Nat) (x : Ctx) :
    (s.setCtx v i x).nextTag = s.nextTag := rfl

@[simp] theorem State.setCtx_asked (s : State) (v i : Nat) (x : Ctx) :
    (s.setCtx v i x).asked = s.asked := rfl

@[simp] theorem State.setCtx_transit (s : State) (v i : Nat) (x : Ctx) :
    (s.setCtx v i x).transit = s.transit := rfl

@[simp] theorem State.setCtx_packets (s : State) (v i : Nat) (x : Ctx) :
    (s.setCtx v i x).packets = s.packets := rfl

@[simp] theorem State.setCtx_rangeWalks (s : State) (v i : Nat) (x : Ctx) :
    (s.setCtx v i x).rangeWalks = s.rangeWalks := rfl

@[simp] theorem State.setCtx_reds (s : State) (v i : Nat) (x : Ctx) :
    (s.setCtx v i x).reds = s.reds := rfl

@[simp] theorem State.setCtx_increments (s : State) (v i : Nat) (x : Ctx) :
    (s.setCtx v i x).increments = s.increments := rfl

@[simp] theorem State.setCtx_windows (s : State) (v i : Nat) (x : Ctx) :
    (s.setCtx v i x).windows = s.windows := rfl

@[simp] theorem State.setCtx_platform (s : State) (v i : Nat) (x : Ctx) :
    (s.setCtx v i x).platform = s.platform := rfl

/-! ## drawn -/

@[simp] theorem State.drawn_agenda (s : State)  :
    (s.drawn).agenda = s.agenda := rfl

@[simp] theorem State.drawn_run (s : State)  :
    (s.drawn).run = s.run := rfl

@[simp] theorem State.drawn_cycle (s : State)  :
    (s.drawn).cycle = s.cycle := rfl

@[simp] theorem State.drawn_tick (s : State)  :
    (s.drawn).tick = s.tick := rfl

@[simp] theorem State.drawn_posted (s : State)  :
    (s.drawn).posted = s.posted := rfl

@[simp] theorem State.drawn_hostPort (s : State)  :
    (s.drawn).hostPort = s.hostPort := rfl

@[simp] theorem State.drawn_mem (s : State)  :
    (s.drawn).mem = s.mem := rfl

@[simp] theorem State.drawn_cores (s : State)  :
    (s.drawn).cores = s.cores := rfl

@[simp] theorem State.drawn_clusters (s : State)  :
    (s.drawn).clusters = s.clusters := rfl

@[simp] theorem State.drawn_dies (s : State)  :
    (s.drawn).dies = s.dies := rfl

@[simp] theorem State.drawn_vfs (s : State)  :
    (s.drawn).vfs = s.vfs := rfl

@[simp] theorem State.drawn_ctxs (s : State)  :
    (s.drawn).ctxs = s.ctxs := rfl

@[simp] theorem State.drawn_rcbs (s : State)  :
    (s.drawn).rcbs = s.rcbs := rfl

@[simp] theorem State.drawn_ancestors (s : State)  :
    (s.drawn).ancestors = s.ancestors := rfl

@[simp] theorem State.drawn_pool (s : State)  :
    (s.drawn).pool = s.pool := rfl

@[simp] theorem State.drawn_named (s : State)  :
    (s.drawn).named = s.named := rfl

@[simp] theorem State.drawn_gangs (s : State)  :
    (s.drawn).gangs = s.gangs := rfl

@[simp] theorem State.drawn_gangSends (s : State)  :
    (s.drawn).gangSends = s.gangSends := rfl

@[simp] theorem State.drawn_parts (s : State)  :
    (s.drawn).parts = s.parts := rfl

@[simp] theorem State.drawn_llc (s : State)  :
    (s.drawn).llc = s.llc := rfl

@[simp] theorem State.drawn_frames (s : State)  :
    (s.drawn).frames = s.frames := rfl

@[simp] theorem State.drawn_frameStatus (s : State)  :
    (s.drawn).frameStatus = s.frameStatus := rfl

@[simp] theorem State.drawn_partStatus (s : State)  :
    (s.drawn).partStatus = s.partStatus := rfl

@[simp] theorem State.drawn_fills (s : State)  :
    (s.drawn).fills = s.fills := rfl

@[simp] theorem State.drawn_waiters (s : State)  :
    (s.drawn).waiters = s.waiters := rfl

@[simp] theorem State.drawn_events (s : State)  :
    (s.drawn).events = s.events := rfl

@[simp] theorem State.drawn_requests (s : State)  :
    (s.drawn).requests = s.requests := rfl

@[simp] theorem State.drawn_nextTag (s : State)  :
    (s.drawn).nextTag = s.nextTag := rfl

@[simp] theorem State.drawn_asked (s : State)  :
    (s.drawn).asked = s.asked := rfl

@[simp] theorem State.drawn_transit (s : State)  :
    (s.drawn).transit = s.transit := rfl

@[simp] theorem State.drawn_packets (s : State)  :
    (s.drawn).packets = s.packets := rfl

@[simp] theorem State.drawn_rangeWalks (s : State)  :
    (s.drawn).rangeWalks = s.rangeWalks := rfl

@[simp] theorem State.drawn_reds (s : State)  :
    (s.drawn).reds = s.reds := rfl

@[simp] theorem State.drawn_increments (s : State)  :
    (s.drawn).increments = s.increments := rfl

@[simp] theorem State.drawn_windows (s : State)  :
    (s.drawn).windows = s.windows := rfl

@[simp] theorem State.drawn_platform (s : State)  :
    (s.drawn).platform = s.platform := rfl

/-! ## putSlot -/

@[simp] theorem State.putSlot_agenda (s : State) (c w : Nat) (sl : Slot) :
    (s.putSlot c w sl).agenda = s.agenda := rfl

@[simp] theorem State.putSlot_run (s : State) (c w : Nat) (sl : Slot) :
    (s.putSlot c w sl).run = s.run := rfl

@[simp] theorem State.putSlot_cycle (s : State) (c w : Nat) (sl : Slot) :
    (s.putSlot c w sl).cycle = s.cycle := rfl

@[simp] theorem State.putSlot_tick (s : State) (c w : Nat) (sl : Slot) :
    (s.putSlot c w sl).tick = s.tick := rfl

@[simp] theorem State.putSlot_draws (s : State) (c w : Nat) (sl : Slot) :
    (s.putSlot c w sl).draws = s.draws := rfl

@[simp] theorem State.putSlot_posted (s : State) (c w : Nat) (sl : Slot) :
    (s.putSlot c w sl).posted = s.posted := rfl

@[simp] theorem State.putSlot_hostPort (s : State) (c w : Nat) (sl : Slot) :
    (s.putSlot c w sl).hostPort = s.hostPort := rfl

@[simp] theorem State.putSlot_mem (s : State) (c w : Nat) (sl : Slot) :
    (s.putSlot c w sl).mem = s.mem := rfl

@[simp] theorem State.putSlot_clusters (s : State) (c w : Nat) (sl : Slot) :
    (s.putSlot c w sl).clusters = s.clusters := rfl

@[simp] theorem State.putSlot_dies (s : State) (c w : Nat) (sl : Slot) :
    (s.putSlot c w sl).dies = s.dies := rfl

@[simp] theorem State.putSlot_vfs (s : State) (c w : Nat) (sl : Slot) :
    (s.putSlot c w sl).vfs = s.vfs := rfl

@[simp] theorem State.putSlot_ctxs (s : State) (c w : Nat) (sl : Slot) :
    (s.putSlot c w sl).ctxs = s.ctxs := rfl

@[simp] theorem State.putSlot_rcbs (s : State) (c w : Nat) (sl : Slot) :
    (s.putSlot c w sl).rcbs = s.rcbs := rfl

@[simp] theorem State.putSlot_ancestors (s : State) (c w : Nat) (sl : Slot) :
    (s.putSlot c w sl).ancestors = s.ancestors := rfl

@[simp] theorem State.putSlot_pool (s : State) (c w : Nat) (sl : Slot) :
    (s.putSlot c w sl).pool = s.pool := rfl

@[simp] theorem State.putSlot_named (s : State) (c w : Nat) (sl : Slot) :
    (s.putSlot c w sl).named = s.named := rfl

@[simp] theorem State.putSlot_gangs (s : State) (c w : Nat) (sl : Slot) :
    (s.putSlot c w sl).gangs = s.gangs := rfl

@[simp] theorem State.putSlot_gangSends (s : State) (c w : Nat) (sl : Slot) :
    (s.putSlot c w sl).gangSends = s.gangSends := rfl

@[simp] theorem State.putSlot_parts (s : State) (c w : Nat) (sl : Slot) :
    (s.putSlot c w sl).parts = s.parts := rfl

@[simp] theorem State.putSlot_llc (s : State) (c w : Nat) (sl : Slot) :
    (s.putSlot c w sl).llc = s.llc := rfl

@[simp] theorem State.putSlot_frames (s : State) (c w : Nat) (sl : Slot) :
    (s.putSlot c w sl).frames = s.frames := rfl

@[simp] theorem State.putSlot_frameStatus (s : State) (c w : Nat) (sl : Slot) :
    (s.putSlot c w sl).frameStatus = s.frameStatus := rfl

@[simp] theorem State.putSlot_partStatus (s : State) (c w : Nat) (sl : Slot) :
    (s.putSlot c w sl).partStatus = s.partStatus := rfl

@[simp] theorem State.putSlot_fills (s : State) (c w : Nat) (sl : Slot) :
    (s.putSlot c w sl).fills = s.fills := rfl

@[simp] theorem State.putSlot_waiters (s : State) (c w : Nat) (sl : Slot) :
    (s.putSlot c w sl).waiters = s.waiters := rfl

@[simp] theorem State.putSlot_events (s : State) (c w : Nat) (sl : Slot) :
    (s.putSlot c w sl).events = s.events := rfl

@[simp] theorem State.putSlot_requests (s : State) (c w : Nat) (sl : Slot) :
    (s.putSlot c w sl).requests = s.requests := rfl

@[simp] theorem State.putSlot_nextTag (s : State) (c w : Nat) (sl : Slot) :
    (s.putSlot c w sl).nextTag = s.nextTag := rfl

@[simp] theorem State.putSlot_asked (s : State) (c w : Nat) (sl : Slot) :
    (s.putSlot c w sl).asked = s.asked := rfl

@[simp] theorem State.putSlot_transit (s : State) (c w : Nat) (sl : Slot) :
    (s.putSlot c w sl).transit = s.transit := rfl

@[simp] theorem State.putSlot_packets (s : State) (c w : Nat) (sl : Slot) :
    (s.putSlot c w sl).packets = s.packets := rfl

@[simp] theorem State.putSlot_rangeWalks (s : State) (c w : Nat) (sl : Slot) :
    (s.putSlot c w sl).rangeWalks = s.rangeWalks := rfl

@[simp] theorem State.putSlot_reds (s : State) (c w : Nat) (sl : Slot) :
    (s.putSlot c w sl).reds = s.reds := rfl

@[simp] theorem State.putSlot_increments (s : State) (c w : Nat) (sl : Slot) :
    (s.putSlot c w sl).increments = s.increments := rfl

@[simp] theorem State.putSlot_windows (s : State) (c w : Nat) (sl : Slot) :
    (s.putSlot c w sl).windows = s.windows := rfl

@[simp] theorem State.putSlot_platform (s : State) (c w : Nat) (sl : Slot) :
    (s.putSlot c w sl).platform = s.platform := rfl

/-! ## putCur -/

@[simp] theorem State.putCur_agenda (s : State) (sl : Slot) :
    (s.putCur sl).agenda = s.agenda := rfl

@[simp] theorem State.putCur_run (s : State) (sl : Slot) :
    (s.putCur sl).run = s.run := rfl

@[simp] theorem State.putCur_cycle (s : State) (sl : Slot) :
    (s.putCur sl).cycle = s.cycle := rfl

@[simp] theorem State.putCur_tick (s : State) (sl : Slot) :
    (s.putCur sl).tick = s.tick := rfl

@[simp] theorem State.putCur_draws (s : State) (sl : Slot) :
    (s.putCur sl).draws = s.draws := rfl

@[simp] theorem State.putCur_posted (s : State) (sl : Slot) :
    (s.putCur sl).posted = s.posted := rfl

@[simp] theorem State.putCur_hostPort (s : State) (sl : Slot) :
    (s.putCur sl).hostPort = s.hostPort := rfl

@[simp] theorem State.putCur_mem (s : State) (sl : Slot) :
    (s.putCur sl).mem = s.mem := rfl

@[simp] theorem State.putCur_clusters (s : State) (sl : Slot) :
    (s.putCur sl).clusters = s.clusters := rfl

@[simp] theorem State.putCur_dies (s : State) (sl : Slot) :
    (s.putCur sl).dies = s.dies := rfl

@[simp] theorem State.putCur_vfs (s : State) (sl : Slot) :
    (s.putCur sl).vfs = s.vfs := rfl

@[simp] theorem State.putCur_ctxs (s : State) (sl : Slot) :
    (s.putCur sl).ctxs = s.ctxs := rfl

@[simp] theorem State.putCur_rcbs (s : State) (sl : Slot) :
    (s.putCur sl).rcbs = s.rcbs := rfl

@[simp] theorem State.putCur_ancestors (s : State) (sl : Slot) :
    (s.putCur sl).ancestors = s.ancestors := rfl

@[simp] theorem State.putCur_pool (s : State) (sl : Slot) :
    (s.putCur sl).pool = s.pool := rfl

@[simp] theorem State.putCur_named (s : State) (sl : Slot) :
    (s.putCur sl).named = s.named := rfl

@[simp] theorem State.putCur_gangs (s : State) (sl : Slot) :
    (s.putCur sl).gangs = s.gangs := rfl

@[simp] theorem State.putCur_gangSends (s : State) (sl : Slot) :
    (s.putCur sl).gangSends = s.gangSends := rfl

@[simp] theorem State.putCur_parts (s : State) (sl : Slot) :
    (s.putCur sl).parts = s.parts := rfl

@[simp] theorem State.putCur_llc (s : State) (sl : Slot) :
    (s.putCur sl).llc = s.llc := rfl

@[simp] theorem State.putCur_frames (s : State) (sl : Slot) :
    (s.putCur sl).frames = s.frames := rfl

@[simp] theorem State.putCur_frameStatus (s : State) (sl : Slot) :
    (s.putCur sl).frameStatus = s.frameStatus := rfl

@[simp] theorem State.putCur_partStatus (s : State) (sl : Slot) :
    (s.putCur sl).partStatus = s.partStatus := rfl

@[simp] theorem State.putCur_fills (s : State) (sl : Slot) :
    (s.putCur sl).fills = s.fills := rfl

@[simp] theorem State.putCur_waiters (s : State) (sl : Slot) :
    (s.putCur sl).waiters = s.waiters := rfl

@[simp] theorem State.putCur_events (s : State) (sl : Slot) :
    (s.putCur sl).events = s.events := rfl

@[simp] theorem State.putCur_requests (s : State) (sl : Slot) :
    (s.putCur sl).requests = s.requests := rfl

@[simp] theorem State.putCur_nextTag (s : State) (sl : Slot) :
    (s.putCur sl).nextTag = s.nextTag := rfl

@[simp] theorem State.putCur_asked (s : State) (sl : Slot) :
    (s.putCur sl).asked = s.asked := rfl

@[simp] theorem State.putCur_transit (s : State) (sl : Slot) :
    (s.putCur sl).transit = s.transit := rfl

@[simp] theorem State.putCur_packets (s : State) (sl : Slot) :
    (s.putCur sl).packets = s.packets := rfl

@[simp] theorem State.putCur_rangeWalks (s : State) (sl : Slot) :
    (s.putCur sl).rangeWalks = s.rangeWalks := rfl

@[simp] theorem State.putCur_reds (s : State) (sl : Slot) :
    (s.putCur sl).reds = s.reds := rfl

@[simp] theorem State.putCur_increments (s : State) (sl : Slot) :
    (s.putCur sl).increments = s.increments := rfl

@[simp] theorem State.putCur_windows (s : State) (sl : Slot) :
    (s.putCur sl).windows = s.windows := rfl

@[simp] theorem State.putCur_platform (s : State) (sl : Slot) :
    (s.putCur sl).platform = s.platform := rfl

/-! ## freeWay -/

@[simp] theorem State.freeWay_agenda (s : State) (c w : Nat) :
    (s.freeWay c w).agenda = s.agenda := rfl

@[simp] theorem State.freeWay_run (s : State) (c w : Nat) :
    (s.freeWay c w).run = s.run := rfl

@[simp] theorem State.freeWay_cycle (s : State) (c w : Nat) :
    (s.freeWay c w).cycle = s.cycle := rfl

@[simp] theorem State.freeWay_tick (s : State) (c w : Nat) :
    (s.freeWay c w).tick = s.tick := rfl

@[simp] theorem State.freeWay_draws (s : State) (c w : Nat) :
    (s.freeWay c w).draws = s.draws := rfl

@[simp] theorem State.freeWay_posted (s : State) (c w : Nat) :
    (s.freeWay c w).posted = s.posted := rfl

@[simp] theorem State.freeWay_hostPort (s : State) (c w : Nat) :
    (s.freeWay c w).hostPort = s.hostPort := rfl

@[simp] theorem State.freeWay_mem (s : State) (c w : Nat) :
    (s.freeWay c w).mem = s.mem := rfl

@[simp] theorem State.freeWay_clusters (s : State) (c w : Nat) :
    (s.freeWay c w).clusters = s.clusters := rfl

@[simp] theorem State.freeWay_dies (s : State) (c w : Nat) :
    (s.freeWay c w).dies = s.dies := rfl

@[simp] theorem State.freeWay_vfs (s : State) (c w : Nat) :
    (s.freeWay c w).vfs = s.vfs := rfl

@[simp] theorem State.freeWay_ctxs (s : State) (c w : Nat) :
    (s.freeWay c w).ctxs = s.ctxs := rfl

@[simp] theorem State.freeWay_rcbs (s : State) (c w : Nat) :
    (s.freeWay c w).rcbs = s.rcbs := rfl

@[simp] theorem State.freeWay_ancestors (s : State) (c w : Nat) :
    (s.freeWay c w).ancestors = s.ancestors := rfl

@[simp] theorem State.freeWay_pool (s : State) (c w : Nat) :
    (s.freeWay c w).pool = s.pool := rfl

@[simp] theorem State.freeWay_named (s : State) (c w : Nat) :
    (s.freeWay c w).named = s.named := rfl

@[simp] theorem State.freeWay_gangs (s : State) (c w : Nat) :
    (s.freeWay c w).gangs = s.gangs := rfl

@[simp] theorem State.freeWay_gangSends (s : State) (c w : Nat) :
    (s.freeWay c w).gangSends = s.gangSends := rfl

@[simp] theorem State.freeWay_parts (s : State) (c w : Nat) :
    (s.freeWay c w).parts = s.parts := rfl

@[simp] theorem State.freeWay_llc (s : State) (c w : Nat) :
    (s.freeWay c w).llc = s.llc := rfl

@[simp] theorem State.freeWay_frames (s : State) (c w : Nat) :
    (s.freeWay c w).frames = s.frames := rfl

@[simp] theorem State.freeWay_frameStatus (s : State) (c w : Nat) :
    (s.freeWay c w).frameStatus = s.frameStatus := rfl

@[simp] theorem State.freeWay_partStatus (s : State) (c w : Nat) :
    (s.freeWay c w).partStatus = s.partStatus := rfl

@[simp] theorem State.freeWay_fills (s : State) (c w : Nat) :
    (s.freeWay c w).fills = s.fills := rfl

@[simp] theorem State.freeWay_waiters (s : State) (c w : Nat) :
    (s.freeWay c w).waiters = s.waiters := rfl

@[simp] theorem State.freeWay_events (s : State) (c w : Nat) :
    (s.freeWay c w).events = s.events := rfl

@[simp] theorem State.freeWay_requests (s : State) (c w : Nat) :
    (s.freeWay c w).requests = s.requests := rfl

@[simp] theorem State.freeWay_nextTag (s : State) (c w : Nat) :
    (s.freeWay c w).nextTag = s.nextTag := rfl

@[simp] theorem State.freeWay_asked (s : State) (c w : Nat) :
    (s.freeWay c w).asked = s.asked := rfl

@[simp] theorem State.freeWay_transit (s : State) (c w : Nat) :
    (s.freeWay c w).transit = s.transit := rfl

@[simp] theorem State.freeWay_packets (s : State) (c w : Nat) :
    (s.freeWay c w).packets = s.packets := rfl

@[simp] theorem State.freeWay_rangeWalks (s : State) (c w : Nat) :
    (s.freeWay c w).rangeWalks = s.rangeWalks := rfl

@[simp] theorem State.freeWay_reds (s : State) (c w : Nat) :
    (s.freeWay c w).reds = s.reds := rfl

@[simp] theorem State.freeWay_increments (s : State) (c w : Nat) :
    (s.freeWay c w).increments = s.increments := rfl

@[simp] theorem State.freeWay_windows (s : State) (c w : Nat) :
    (s.freeWay c w).windows = s.windows := rfl

@[simp] theorem State.freeWay_platform (s : State) (c w : Nat) :
    (s.freeWay c w).platform = s.platform := rfl

/-! ## Tables -/

theorem Tab.find_set_same {α : Type} (t : Tab α) (k : Nat) (v : α) : Tab.find (Tab.set t k v) k = some v := by
  induction t with
  | nil => simp [Tab.set, Tab.find]
  | cons e t ih =>
    obtain ⟨j, w⟩ := e
    simp only [Tab.set]
    split
    · simp [Tab.find]
    · split
      · simp [Tab.find]
      · rw [Tab.find, if_neg (by omega), ih]

theorem Tab.find_set_ne {α : Type} (t : Tab α) (k j : Nat) (v : α) (h : j ≠ k) :
    Tab.find (Tab.set t k v) j = Tab.find t j := by
  induction t with
  | nil => simp [Tab.set, Tab.find, Ne.symm h]
  | cons e t ih =>
    obtain ⟨i, w⟩ := e
    simp only [Tab.set]
    split
    · rw [Tab.find, if_neg (Ne.symm h)]
    · split
      · next hk => simp [Tab.find, ← hk, Ne.symm h]
      · simp only [Tab.find, ih]

theorem Tab.get_eq_find {α : Type} (t : Tab α) (k : Nat) (d : α) : Tab.get t k d = (Tab.find t k).getD d := by
  induction t with
  | nil => rfl
  | cons e t ih =>
    obtain ⟨j, w⟩ := e
    simp only [Tab.get, Tab.find]
    split <;> simp [ih]

@[simp] theorem Tab.get_set_same {α : Type} (t : Tab α) (k : Nat) (v d : α) : Tab.get (Tab.set t k v) k d = v := by
  simp [Tab.get_eq_find, Tab.find_set_same]

theorem Tab.get_set_ne {α : Type} (t : Tab α) (k j : Nat) (v d : α) (h : j ≠ k) :
    Tab.get (Tab.set t k v) j d = Tab.get t j d := by
  simp [Tab.get_eq_find, Tab.find_set_ne t k j v h]

/-! ## Reading a unit back -/

@[simp] theorem State.core_setCore (s : State) (c : Nat) (k : Core) : (s.setCore c k).core c = k := by
  simp [State.core, State.setCore]

theorem State.core_setCore_ne (s : State) (c j : Nat) (k : Core) (h : j ≠ c) : (s.setCore c k).core j = s.core j := by
  simp [State.core, State.setCore, Tab.get_set_ne _ _ _ _ _ h]

@[simp] theorem State.cluster_setCluster (s : State) (c : Nat) (k : Cluster) : (s.setCluster c k).cluster c = k := by
  simp [State.cluster, State.setCluster]

theorem State.cluster_setCluster_ne (s : State) (c j : Nat) (k : Cluster) (h : j ≠ c) :
    (s.setCluster c k).cluster j = s.cluster j := by
  simp [State.cluster, State.setCluster, Tab.get_set_ne _ _ _ _ _ h]

@[simp] theorem State.die_setDie (s : State) (d : Nat) (x : Die) : (s.setDie d x).die d = x := by
  simp [State.die, State.setDie]

@[simp] theorem State.vf_setVf (s : State) (v : Nat) (x : Vf) : (s.setVf v x).vf v = x := by
  simp [State.vf, State.setVf]

theorem State.vf_setVf_ne (s : State) (v j : Nat) (x : Vf) (h : j ≠ v) : (s.setVf v x).vf j = s.vf j := by
  simp [State.vf, State.setVf, Tab.get_set_ne _ _ _ _ _ h]

@[simp] theorem State.ctx_setCtx (s : State) (v i : Nat) (x : Ctx) : (s.setCtx v i x).ctx? v i = some x := by
  simp [State.ctx?, State.setCtx, Tab.find_set_same]

@[simp] theorem State.core_setCluster (s : State) (c j : Nat) (k : Cluster) : (s.setCluster c k).core j = s.core j := rfl
@[simp] theorem State.core_setVf (s : State) (v j : Nat) (x : Vf) : (s.setVf v x).core j = s.core j := rfl
@[simp] theorem State.core_setCtx (s : State) (v i j : Nat) (x : Ctx) : (s.setCtx v i x).core j = s.core j := rfl
@[simp] theorem State.core_setDie (s : State) (d j : Nat) (x : Die) : (s.setDie d x).core j = s.core j := rfl
@[simp] theorem State.cluster_setCore (s : State) (c j : Nat) (k : Core) : (s.setCore c k).cluster j = s.cluster j := rfl
@[simp] theorem State.cluster_setVf (s : State) (v j : Nat) (x : Vf) : (s.setVf v x).cluster j = s.cluster j := rfl
@[simp] theorem State.vf_setCore (s : State) (c v : Nat) (k : Core) : (s.setCore c k).vf v = s.vf v := rfl
@[simp] theorem State.vf_setCluster (s : State) (c v : Nat) (k : Cluster) : (s.setCluster c k).vf v = s.vf v := rfl
@[simp] theorem State.vf_setCtx (s : State) (v i j : Nat) (x : Ctx) : (s.setCtx v i x).vf j = s.vf j := rfl
@[simp] theorem State.die_setCore (s : State) (c d : Nat) (k : Core) : (s.setCore c k).die d = s.die d := rfl
@[simp] theorem State.die_setVf (s : State) (v d : Nat) (x : Vf) : (s.setVf v x).die d = s.die d := rfl
@[simp] theorem State.ctx_setCore (s : State) (c v i : Nat) (k : Core) : (s.setCore c k).ctx? v i = s.ctx? v i := rfl
@[simp] theorem State.ctx_setVf (s : State) (v j i : Nat) (x : Vf) : (s.setVf j x).ctx? v i = s.ctx? v i := rfl

/-! ## Ways -/

@[simp] theorem State.slot_putSlot (s : State) (c w : Nat) (sl : Slot) : (s.putSlot c w sl).slot? c w = some sl := by
  simp [State.slot?, State.putSlot, Tab.find_set_same]

theorem State.slot_putSlot_ne_way (s : State) (c w x : Nat) (sl : Slot) (h : x ≠ w) :
    (s.putSlot c w sl).slot? c x = s.slot? c x := by
  simp [State.slot?, State.putSlot, Tab.find_set_ne _ _ _ _ h]

theorem State.slot_putSlot_ne_core (s : State) (c d w x : Nat) (sl : Slot) (h : d ≠ c) :
    (s.putSlot c w sl).slot? d x = s.slot? d x := by
  simp [State.slot?, State.putSlot, State.core_setCore_ne _ _ _ _ h]

@[simp] theorem State.cur_putCur (s : State) (sl : Slot) : (s.putCur sl).cur? = some sl := by
  simp [State.cur?, State.putCur]

/-! ## Registers and predicates of a line -/

@[simp] theorem Line.reg_setReg_same (l : Line) (r : BitVec 3) (v : Word) : (l.setReg r v).reg r = v :=
  Vector.getElem_set_self r.isLt

theorem Line.reg_setReg_ne (l : Line) (r q : BitVec 3) (v : Word) (h : q ≠ r) : (l.setReg r v).reg q = l.reg q :=
  Vector.getElem_set_ne r.isLt q.isLt fun e => h (BitVec.eq_of_toNat_eq e.symm)

@[simp] theorem Line.setReg_pc (l : Line) (r : BitVec 3) (v : Word) : (l.setReg r v).pc = l.pc := rfl
@[simp] theorem Line.setReg_pw (l : Line) (r : BitVec 3) (v : Word) : (l.setReg r v).pw = l.pw := rfl
@[simp] theorem Line.setReg_fcsr (l : Line) (r : BitVec 3) (v : Word) : (l.setReg r v).fcsr = l.fcsr := rfl
@[simp] theorem Line.setReg_step (l : Line) (r : BitVec 3) (v : Word) : (l.setReg r v).step = l.step := rfl
@[simp] theorem Line.setReg_handler (l : Line) (r : BitVec 3) (v : Word) : (l.setReg r v).handler = l.handler := rfl
@[simp] theorem Line.setReg_supervisor (l : Line) (r : BitVec 3) (v : Word) :
    (l.setReg r v).supervisor = l.supervisor := rfl
@[simp] theorem Line.setPred_g (l : Line) (i : BitVec 5) (b : Bool) : (l.setPred i b).g = l.g := by
  unfold Line.setPred; split <;> rfl
@[simp] theorem Line.setPred_step (l : Line) (i : BitVec 5) (b : Bool) : (l.setPred i b).step = l.step := by
  unfold Line.setPred; split <;> rfl
@[simp] theorem Line.raise_step (l : Line) (f : BitVec 16) : (l.raise f).step = l.step := rfl
@[simp] theorem Line.raise_g (l : Line) (f : BitVec 16) : (l.raise f).g = l.g := rfl

/-- P[0] reads 1 whatever is written to it (R8). -/
theorem Line.pred_zero (l : Line) : l.pred 0 = true := by simp [Line.pred]

end Sys2Proof.Machine
end

