-- ==== Sys2Proof/Laws/Mem.lean ====
section
/-! SUPPORT. Memory: every operation keeps the canonical form, a byte reads back as it was written, and a write leaves
every other byte alone. -/
namespace Sys2Proof.Machine

set_option Elab.async false

/-! ## Rising lists -/

theorem rising_iff (l : List Nat) : rising l = true ↔ l.Pairwise (· < ·) := by
  induction l with
  | nil => simp [rising]
  | cons a t ih =>
    cases t with
    | nil => simp [rising]
    | cons b t =>
      simp only [rising, Bool.and_eq_true, decide_eq_true_eq, ih, List.pairwise_cons]
      constructor
      · rintro ⟨hab, hb, ht⟩
        exact ⟨fun x hx => by
          rcases List.mem_cons.1 hx with rfl | hx
          · exact hab
          · exact lt_trans hab (hb x hx), hb, ht⟩
      · rintro ⟨ha, hb, ht⟩
        exact ⟨ha b (by simp), hb, ht⟩

theorem mem_insertNat (l : List Nat) (k x : Nat) : x ∈ insertNat l k ↔ x = k ∨ x ∈ l := by
  induction l with
  | nil => simp [insertNat]
  | cons a t ih =>
    simp only [insertNat]
    split
    · simp
    · split
      · next h => simp [h]
      · simp only [List.mem_cons, ih]; tauto

theorem rising_insertNat (l : List Nat) (k : Nat) (h : rising l = true) : rising (insertNat l k) = true := by
  rw [rising_iff] at h ⊢
  induction l with
  | nil => simp [insertNat]
  | cons a t ih =>
    rw [List.pairwise_cons] at h
    simp only [insertNat]
    split
    · next hk =>
      refine List.pairwise_cons.2 ⟨fun x hx => ?_, List.pairwise_cons.2 h⟩
      rcases List.mem_cons.1 hx with rfl | hx
      · exact hk
      · exact lt_trans hk (h.1 x hx)
    · split
      · exact List.pairwise_cons.2 h
      · refine List.pairwise_cons.2 ⟨fun x hx => ?_, ih h.2⟩
        rcases (mem_insertNat t k x).1 hx with rfl | hx
        · omega
        · exact h.1 x hx

theorem rising_filter (l : List Nat) (p : Nat → Bool) (h : rising l = true) : rising (l.filter p) = true := by
  rw [rising_iff] at h ⊢
  exact h.filter p

/-! ## Cells -/

theorem fst_mem_putCell (l : List Host.Cell) (k : Nat) (b : Byte) (x : Nat)
    (h : x ∈ (putCell l k b).map Prod.fst) : x = k ∨ x ∈ l.map Prod.fst := by
  induction l with
  | nil =>
    simp only [putCell] at h
    split at h <;> simp_all
  | cons e t ih =>
    obtain ⟨j, c⟩ := e
    simp only [putCell] at h
    split at h
    · split at h <;> simp_all
    · split at h
      · split at h <;> simp_all
      · simp only [List.map_cons, List.mem_cons] at h ⊢
        rcases h with h | h
        · exact .inr (.inl h)
        · rcases ih h with h | h
          · exact .inl h
          · exact .inr (.inr h)

theorem rising_putCell (l : List Host.Cell) (k : Nat) (b : Byte) (h : rising (l.map Prod.fst) = true) :
    rising ((putCell l k b).map Prod.fst) = true := by
  rw [rising_iff] at h ⊢
  induction l with
  | nil => simp only [putCell]; split <;> simp
  | cons e t ih =>
    obtain ⟨j, c⟩ := e
    rw [List.map_cons, List.pairwise_cons] at h
    have hall : ((j, c) :: t).map Prod.fst = j :: t.map Prod.fst := rfl
    simp only [putCell]
    split
    · next hk =>
      split
      · exact List.pairwise_cons.2 h
      · refine List.pairwise_cons.2 ⟨fun x hx => ?_, List.pairwise_cons.2 h⟩
        rw [hall] at hx
        rcases List.mem_cons.1 hx with rfl | hx
        · exact hk
        · exact lt_trans hk (h.1 x hx)
    · split
      · next hk =>
        split
        · exact h.2
        · exact List.pairwise_cons.2 ⟨fun x hx => hk ▸ h.1 x hx, h.2⟩
      · refine List.pairwise_cons.2 ⟨fun x hx => ?_, ih h.2⟩
        rcases fst_mem_putCell t k b x hx with rfl | hx
        · simp only; omega
        · exact h.1 x hx

theorem mem_putCell (l : List Host.Cell) (k : Nat) (b : Byte) (e : Host.Cell) (h : e ∈ putCell l k b) :
    (e.2 = b ∧ b ≠ 0) ∨ e ∈ l := by
  induction l with
  | nil =>
    simp only [putCell] at h
    split at h
    · exact absurd h (List.not_mem_nil)
    · next hb => exact .inl ⟨by rw [List.mem_singleton.1 h], hb⟩
  | cons f t ih =>
    obtain ⟨j, c⟩ := f
    simp only [putCell] at h
    split at h
    · split at h
      · exact .inr h
      · next hb =>
        rcases List.mem_cons.1 h with rfl | h
        · exact .inl ⟨rfl, hb⟩
        · exact .inr h
    · split at h
      · split at h
        · exact .inr (List.mem_cons_of_mem _ h)
        · next hb =>
          rcases List.mem_cons.1 h with rfl | h
          · exact .inl ⟨rfl, hb⟩
          · exact .inr (List.mem_cons_of_mem _ h)
      · rcases List.mem_cons.1 h with rfl | h
        · exact .inr (List.mem_cons_self)
        · exact (ih h).imp id (List.mem_cons_of_mem _)

theorem nonzero_putCell (l : List Host.Cell) (k : Nat) (b : Byte) (h : l.all (fun c => c.2 ≠ 0) = true) :
    (putCell l k b).all (fun c => c.2 ≠ 0) = true := by
  rw [List.all_eq_true] at h ⊢
  intro e he
  rcases mem_putCell l k b e he with ⟨h1, h2⟩ | h1
  · simpa [h1] using h2
  · exact h e h1

/-! ## The canonical form -/

theorem Memory.wf_iff (m : Memory) : m.wf = true ↔
    rising (m.cells.map Prod.fst) = true ∧ m.cells.all (fun c => c.2 ≠ 0) = true ∧ rising m.empty = true
      ∧ rising m.poison = true := by
  simp only [Memory.wf, Bool.and_eq_true, and_assoc]

theorem Memory.reset_wf : Memory.reset.wf = true := rfl

theorem Memory.put_wf (m : Memory) (k : Nat) (b : Byte) (h : m.wf = true) : (m.put k b).wf = true := by
  rw [Memory.wf_iff] at h ⊢
  exact ⟨rising_putCell _ _ _ h.1, nonzero_putCell _ _ _ h.2.1, h.2.2⟩

theorem Memory.write_wf (n : Nat) (m : Memory) (k v : Nat) (h : m.wf = true) : (m.write k n v).wf = true := by
  induction n generalizing m k v with
  | zero => exact h
  | succ n ih => exact ih _ _ _ (m.put_wf _ _ h)

theorem Memory.setFull_wf (m : Memory) (k : Nat) (f : Bool) (h : m.wf = true) : (m.setFull k f).wf = true := by
  rw [Memory.wf_iff] at h ⊢
  refine ⟨h.1, h.2.1, ?_, h.2.2.2⟩
  cases f
  · exact rising_insertNat _ _ h.2.2.1
  · exact rising_filter _ _ h.2.2.1

theorem Memory.setPoison_wf (m : Memory) (k : Nat) (p : Bool) (h : m.wf = true) : (m.setPoison k p).wf = true := by
  rw [Memory.wf_iff] at h ⊢
  refine ⟨h.1, h.2.1, h.2.2.1, ?_⟩
  cases p
  · exact rising_filter _ _ h.2.2.2
  · exact rising_insertNat _ _ h.2.2.2

theorem Memory.putWord_wf (m : Memory) (k : Nat) (w : Word8) (h : m.wf = true) : (m.putWord k w).wf = true :=
  Memory.setPoison_wf _ _ _ (Memory.setFull_wf _ _ _ (Memory.write_wf _ _ _ _ h))

theorem Memory.zeroFill_wf (m : Memory) (k n : Nat) (h : m.wf = true) : (m.zeroFill k n).wf = true := by
  rw [Memory.wf_iff] at h ⊢
  refine ⟨?_, ?_, rising_filter _ _ h.2.2.1, rising_filter _ _ h.2.2.2⟩
  · rw [rising_iff] at h ⊢
    exact h.1.sublist (List.Sublist.map _ List.filter_sublist)
  · rw [List.all_eq_true] at h ⊢
    exact fun c hc => h.2.1 c (List.mem_of_mem_filter hc)

/-! ## Reading a byte back -/

theorem getCell_putCell_same (l : List Host.Cell) (k : Nat) (b : Byte) (h : rising (l.map Prod.fst) = true) :
    getCell (putCell l k b) k = b := by
  rw [rising_iff] at h
  induction l with
  | nil => simp only [putCell]; split <;> simp_all [getCell]
  | cons e t ih =>
    obtain ⟨j, c⟩ := e
    rw [List.map_cons, List.pairwise_cons] at h
    have none_above : ∀ u : List Host.Cell, (∀ x ∈ u.map Prod.fst, k < x) → getCell u k = 0 := by
      intro u hu
      induction u with
      | nil => rfl
      | cons e u ihu =>
        obtain ⟨i, d⟩ := e
        have hi : k < i := hu i (by simp)
        rw [getCell, if_neg (by omega)]
        exact ihu fun x hx => hu x (by simp only [List.map_cons, List.mem_cons]; exact .inr hx)
    simp only [putCell]
    split
    · next hk =>
      split
      · next hb =>
        rw [hb]
        refine none_above _ fun x hx => ?_
        rw [List.map_cons] at hx
        rcases List.mem_cons.1 hx with rfl | hx
        · exact hk
        · exact lt_trans hk (h.1 x hx)
      · simp [getCell]
    · split
      · next hk =>
        subst hk
        split
        · next hb => rw [hb]; exact none_above _ h.1
        · simp [getCell]
      · rw [getCell, if_neg (by omega)]
        exact ih h.2

theorem getCell_putCell_ne (l : List Host.Cell) (k j : Nat) (b : Byte) (h : j ≠ k) :
    getCell (putCell l k b) j = getCell l j := by
  induction l with
  | nil => simp only [putCell]; split <;> simp [getCell, Ne.symm h]
  | cons e t ih =>
    obtain ⟨i, c⟩ := e
    simp only [putCell]
    split
    · split
      · rfl
      · rw [getCell, if_neg (Ne.symm h)]
    · split
      · next hk =>
        split
        · rw [getCell, if_neg (by omega)]
        · simp [getCell, ← hk, Ne.symm h]
      · simp only [getCell, ih]

theorem Memory.get_put_same (m : Memory) (k : Nat) (b : Byte) (h : m.wf = true) : (m.put k b).get k = b :=
  getCell_putCell_same _ _ _ ((m.wf_iff.1 h).1)

theorem Memory.get_put_ne (m : Memory) (k j : Nat) (b : Byte) (h : j ≠ k) : (m.put k b).get j = m.get j :=
  getCell_putCell_ne _ _ _ _ h

@[simp] theorem Memory.get_setFull (m : Memory) (k j : Nat) (f : Bool) : (m.setFull k f).get j = m.get j := rfl
@[simp] theorem Memory.get_setPoison (m : Memory) (k j : Nat) (p : Bool) : (m.setPoison k p).get j = m.get j := rfl

/-- A write of `n` bytes leaves every byte outside them alone. -/
theorem Memory.get_write_outside (n : Nat) (m : Memory) (k v j : Nat) (h : j < k ∨ k + n ≤ j) :
    (m.write k n v).get j = m.get j := by
  induction n generalizing m k v with
  | zero => rfl
  | succ n ih =>
    rw [Memory.write, ih _ _ _ (by omega), Memory.get_put_ne _ _ _ _ (by omega)]

/-- The bytes of a little-endian write read back (R5). -/
theorem Memory.read_write (n : Nat) (m : Memory) (k v : Nat) (h : m.wf = true) :
    (m.write k n v).read k n = v % 256 ^ n := by
  have reads : ∀ (n : Nat) (m m' : Memory) (k : Nat), (∀ j, k ≤ j → j < k + n → m.get j = m'.get j) →
      m.read k n = m'.read k n := by
    intro n
    induction n with
    | zero => intros; rfl
    | succ n ih =>
      intro m m' k hj
      rw [Memory.read, Memory.read, hj k (by omega) (by omega), ih m m' (k + 1) fun j h1 h2 => hj j (by omega) (by omega)]
  induction n generalizing m k v with
  | zero => simp [Memory.read, Nat.mod_one]
  | succ n ih =>
    have hp := m.put_wf k (BitVec.ofNat 8 v) h
    rw [Memory.read, Memory.write, ih _ _ _ hp, Memory.get_write_outside _ _ _ _ _ (.inl (by omega)),
      Memory.get_put_same _ _ _ h, BitVec.toNat_ofNat, show 2 ^ 8 = 256 from rfl, pow_succ' 256, Nat.mod_mul]

end Sys2Proof.Machine
end

