-- ==== Sys2Proof/Laws/Ops.lean ====
section
/-! SUPPORT. Ops: what each shared operation of the meanings does, said once. -/
namespace Sys2Proof.Machine

set_option Elab.async false

/-! ## Completing (R16, R101) -/

/-- Loop firing writes pc and the loop counts, nothing else. -/
theorem Line.fire_eq (l : Line) (i : Instr) :
    ∃ pc lc0 lc1, l.fire i = { l with pc := pc, lc0 := lc0, lc1 := lc1 } := by
  unfold Line.fire
  dsimp only
  split_ifs <;> exact ⟨_, _, _, rfl⟩

@[simp] theorem Line.fire_step (l : Line) (i : Instr) : (l.fire i).step = l.step := by
  obtain ⟨_, _, _, h⟩ := l.fire_eq i; rw [h]
@[simp] theorem Line.fire_g (l : Line) (i : Instr) : (l.fire i).g = l.g := by
  obtain ⟨_, _, _, h⟩ := l.fire_eq i; rw [h]
@[simp] theorem Line.fire_pw (l : Line) (i : Instr) : (l.fire i).pw = l.pw := by
  obtain ⟨_, _, _, h⟩ := l.fire_eq i; rw [h]
@[simp] theorem Line.fire_fcsr (l : Line) (i : Instr) : (l.fire i).fcsr = l.fcsr := by
  obtain ⟨_, _, _, h⟩ := l.fire_eq i; rw [h]
@[simp] theorem Line.fire_wt (l : Line) (i : Instr) : (l.fire i).wt = l.wt := by
  obtain ⟨_, _, _, h⟩ := l.fire_eq i; rw [h]
@[simp] theorem Line.fire_vfid (l : Line) (i : Instr) : (l.fire i).vfid = l.vfid := by
  obtain ⟨_, _, _, h⟩ := l.fire_eq i; rw [h]

/-- Without single-step the end of an instruction only puts the slot back. -/
theorem settle_next (s : State) (sl : Slot) (i : Instr) (lat : Nat) (h : sl.line.step = false) :
    settle s sl i lat = .next (s.putCur { sl with readyAt := s.coreCycle s.run.1 + lat, held := none }) := by
  simp [settle, h]

theorem complete_next (s : State) (sl : Slot) (i : Instr) (lat : Nat) (h : sl.line.step = false) :
    complete s sl i lat
      = .next (s.putCur { sl with line := sl.line.fire i, readyAt := s.coreCycle s.run.1 + lat, held := none }) := by
  simp [complete, settle_next, h]

/-- A branch whose target passes R15 sets pc; one that fails traps with pc as it was. -/
theorem branch_next (s : State) (sl : Slot) (i : Instr) (lat : Nat) (t : Word) (f : Line → Line)
    (ht : checkTarget t = none) (h : (f sl.line).step = false) :
    branch s sl i lat t f = .next (s.putCur { sl with
      line := { f sl.line with pc := t.extractLsb' 0 48 }, readyAt := s.coreCycle s.run.1 + lat, held := none }) := by
  simp [branch, ht, settle, h]

theorem branch_trap (s : State) (sl : Slot) (i : Instr) (lat : Nat) (t : Word) (f : Line → Line) (x : TrapInfo)
    (ht : checkTarget t = some x) : branch s sl i lat t f = trapOut s sl i x.cause x.tval := by
  simp [branch, ht, trapInfoOut]

/-! ## Guards (R68, R71) -/

theorem withCur_some (s : State) (sl : Slot) (k : Slot → Out) (h : s.cur? = some sl) : withCur s k = k sl := by
  simp [withCur, h]

theorem guarded_on (s : State) (sl : Slot) (i : Instr) (p : Pre) (k : Slot → Out) (h : s.cur? = some sl)
    (g : guardHolds p sl.line = true) : guarded s i p k = k sl := by
  simp [guarded, withCur, h, g]

theorem guarded_off (s : State) (sl : Slot) (i : Instr) (p : Pre) (k : Slot → Out) (h : s.cur? = some sl)
    (g : guardHolds p sl.line = false) : guarded s i p k = complete s sl i latA := by
  simp [guarded, withCur, h, g]

theorem privileged_on (s : State) (sl : Slot) (i : Instr) (p : Pre) (k : Slot → Out) (h : s.cur? = some sl)
    (u : sl.line.supervisor = true) (g : guardHolds p sl.line = true) : privileged s i p k = k sl := by
  simp [privileged, withCur, h, u, g]

theorem privileged_user (s : State) (sl : Slot) (i : Instr) (p : Pre) (k : Slot → Out) (h : s.cur? = some sl)
    (u : sl.line.supervisor = false) : privileged s i p k = trapOut s sl i causePriv i.packed := by
  simp [privileged, withCur, h, u]

/-- An instruction whose whole effect is on the line leaves the rest of the machine alone. -/
theorem lineOp_next (s : State) (sl : Slot) (i : Instr) (p : Pre) (lat : Nat) (f : Line → Line) (h : s.cur? = some sl)
    (g : guardHolds p sl.line = true) (st : (f sl.line).step = false) :
    lineOp s i p lat f
      = .next (s.putCur { sl with line := (f sl.line).fire i, readyAt := s.coreCycle s.run.1 + lat, held := none }) := by
  rw [lineOp, guarded_on s sl i p _ h g, complete_next _ _ _ _ st]

/-- The bound on a context's next issue changes readyAt of its slot, where it is still in its way, and nothing else (R86). -/
theorem State.notBefore_cases (s : State) (c w : Nat) (who : Who) (n : Nat) : s.notBefore c w who n = s ∨
    ∃ x, s.slot? c w = some x ∧ x.who = who ∧
      s.notBefore c w who n = s.putSlot c w { x with readyAt := Nat.max x.readyAt n } := by
  unfold State.notBefore
  cases h : s.slot? c w with
  | none => exact .inl rfl
  | some x =>
    by_cases e : x.who = who
    · exact .inr ⟨x, rfl, e, by simp [e]⟩
    · exact .inl (by simp [e])

theorem State.notBefore_mem (s : State) (c w : Nat) (who : Who) (n : Nat) : (s.notBefore c w who n).mem = s.mem := by
  obtain h | ⟨x, -, -, h⟩ := s.notBefore_cases c w who n <;> rw [h]
  exact s.putSlot_mem c w _

/-! ## Taking an exception (R278, R281, R286) -/

/-- In a context a trap clears what held the slot and goes to the fault domain. -/
theorem takeTrap_ctx (s : State) (c w : Nat) (sl : Slot) (v i : Nat) (cause : BitVec 16) (tval : Word)
    (tinfo : BitVec 16) (acc : Nat) (h : sl.who = .ctx v i) :
    s.takeTrap c w sl cause tval tinfo acc
      = (s.putSlot c w { sl with held := none }).faultLine v i sl.line cause tval tinfo := by
  simp [State.takeTrap, h]

/-- In a handler it goes to the handler record and frees the way. -/
theorem takeTrap_handler (s : State) (c w : Nat) (sl : Slot) (k x n v : Nat) (cause : BitVec 16) (tval : Word)
    (tinfo : BitVec 16) (acc : Nat) (h : sl.who = .handler k x n v) (hc : cause ≠ causeMemUncorr) :
    s.takeTrap c w sl cause tval tinfo acc = s.handlerTrap c w sl cause tval tinfo acc := by
  simp [State.takeTrap, h, hc]

/-- The fields that a trap writes in the line, and no other. -/
theorem Line.trapped_fields (l : Line) (cause : BitVec 16) (tval : Word) (tinfo : BitVec 16) :
    (l.trapped cause tval tinfo).tcause = cause ∧ (l.trapped cause tval tinfo).tval = tval
      ∧ (l.trapped cause tval tinfo).tinfo = tinfo ∧ (l.trapped cause tval tinfo).pc = l.pc
      ∧ (l.trapped cause tval tinfo).g = l.g ∧ (l.trapped cause tval tinfo).pw = l.pw :=
  ⟨rfl, rfl, rfl, rfl, rfl, rfl⟩

/-! ## Checking a target (R15) -/

theorem checkTarget_none_iff (t : Word) : checkTarget t = none ↔
    t.extractLsb' 61 3 = 0 ∧ t.extractLsb' 48 13 = 0 ∧ t.getLsbD 0 = false := by
  unfold checkTarget
  by_cases h1 : t.extractLsb' 61 3 = 0 <;> by_cases h2 : t.extractLsb' 48 13 = 0 <;>
    cases h3 : t.getLsbD 0 <;> simp_all

end Sys2Proof.Machine
end

