-- ==== Sys2Proof/Laws/Keep.lean ====
section
/-! SUPPORT. Keep: what the shared operations of the device leave alone, and that those which write memory keep its
canonical form. -/
namespace Sys2Proof.Machine

set_option Elab.async false

/-- What every step of a fold keeps, the fold keeps. -/
theorem foldl_keeps {α β : Type} (P : α → Prop) (f : α → β → α) (hf : ∀ a b, P a → P (f a b)) (l : List β) (a : α)
    (h : P a) : P (l.foldl f a) := by
  induction l generalizing a with
  | nil => exact h
  | cons b t ih => exact ih _ (hf _ _ h)

/-! ## Operations that write no memory -/

/-- A wake takes waiters from the list, draws free values and sends events, nothing else (R427). -/
theorem State.wake_eq (s : State) (loc : Loc) (n : Nat) (must : Waiter → Bool) :
    ∃ ws es d, s.wake loc n must = { s with waiters := ws, events := es, draws := d } := by
  refine foldl_keeps (fun t : State => ∃ ws es d, t = { s with waiters := ws, events := es, draws := d }) _ ?_ _ s
    ⟨s.waiters, s.events, s.draws, rfl⟩
  rintro _ w ⟨ws, es, d, rfl⟩
  dsimp only
  split_ifs
  · exact ⟨_, _, _, rfl⟩
  · exact ⟨_, _, _, rfl⟩
  · exact ⟨_, _, _, rfl⟩
  · exact ⟨_, _, _, rfl⟩

@[simp] theorem State.wake_mem (s : State) (loc : Loc) (n : Nat) (must : Waiter → Bool) :
    (s.wake loc n must).mem = s.mem := by
  obtain ⟨_, _, _, h⟩ := s.wake_eq loc n must; rw [h]
@[simp] theorem State.wake_cores (s : State) (loc : Loc) (n : Nat) (must : Waiter → Bool) :
    (s.wake loc n must).cores = s.cores := by
  obtain ⟨_, _, _, h⟩ := s.wake_eq loc n must; rw [h]
@[simp] theorem State.wake_clusters (s : State) (loc : Loc) (n : Nat) (must : Waiter → Bool) :
    (s.wake loc n must).clusters = s.clusters := by
  obtain ⟨_, _, _, h⟩ := s.wake_eq loc n must; rw [h]
@[simp] theorem State.wake_vfs (s : State) (loc : Loc) (n : Nat) (must : Waiter → Bool) :
    (s.wake loc n must).vfs = s.vfs := by
  obtain ⟨_, _, _, h⟩ := s.wake_eq loc n must; rw [h]
@[simp] theorem State.wake_ctxs (s : State) (loc : Loc) (n : Nat) (must : Waiter → Bool) :
    (s.wake loc n must).ctxs = s.ctxs := by
  obtain ⟨_, _, _, h⟩ := s.wake_eq loc n must; rw [h]
@[simp] theorem State.wake_llc (s : State) (loc : Loc) (n : Nat) (must : Waiter → Bool) :
    (s.wake loc n must).llc = s.llc := by
  obtain ⟨_, _, _, h⟩ := s.wake_eq loc n must; rw [h]

@[simp] theorem State.capture_mem (s : State) (v addr code : Nat) : (s.capture v addr code).mem = s.mem := by
  unfold State.capture; dsimp only; split_ifs <;> rfl
@[simp] theorem State.capture_cores (s : State) (v addr code : Nat) : (s.capture v addr code).cores = s.cores := by
  unfold State.capture; dsimp only; split_ifs <;> rfl
@[simp] theorem State.capture_ctxs (s : State) (v addr code : Nat) : (s.capture v addr code).ctxs = s.ctxs := by
  unfold State.capture; dsimp only; split_ifs <;> rfl

@[simp] theorem State.countErr_mem (s : State) (v addr code : Nat) : (s.countErr v addr code).mem = s.mem := by
  simp [State.countErr]
@[simp] theorem State.countErr_cores (s : State) (v addr code : Nat) : (s.countErr v addr code).cores = s.cores := by
  simp [State.countErr]
@[simp] theorem State.countErr_ctxs (s : State) (v addr code : Nat) : (s.countErr v addr code).ctxs = s.ctxs := by
  simp [State.countErr]

/-- Counting an event adds at most one increment (R382). -/
theorem State.count_eq (s : State) (v code n : Nat) : ∃ l, s.count v code n = { s with increments := s.increments ++ l } := by
  unfold State.count State.countOf
  dsimp only
  split_ifs
  · exact ⟨[Increment.mk v code n none], rfl⟩
  · exact ⟨[], by simp⟩

@[simp] theorem State.count_mem (s : State) (v code n : Nat) : (s.count v code n).mem = s.mem := by
  obtain ⟨_, h⟩ := s.count_eq v code n; rw [h]
@[simp] theorem State.count_cores (s : State) (v code n : Nat) : (s.count v code n).cores = s.cores := by
  obtain ⟨_, h⟩ := s.count_eq v code n; rw [h]
@[simp] theorem State.count_clusters (s : State) (v code n : Nat) : (s.count v code n).clusters = s.clusters := by
  obtain ⟨_, h⟩ := s.count_eq v code n; rw [h]
@[simp] theorem State.count_ctxs (s : State) (v code n : Nat) : (s.count v code n).ctxs = s.ctxs := by
  obtain ⟨_, h⟩ := s.count_eq v code n; rw [h]
@[simp] theorem State.count_vfs (s : State) (v code n : Nat) : (s.count v code n).vfs = s.vfs := by
  obtain ⟨_, h⟩ := s.count_eq v code n; rw [h]
@[simp] theorem State.count_rcbs (s : State) (v code n : Nat) : (s.count v code n).rcbs = s.rcbs := by
  obtain ⟨_, h⟩ := s.count_eq v code n; rw [h]

@[simp] theorem State.hyper_mem (s : State) (node name : Nat) : (s.hyper node name).mem = s.mem := rfl
@[simp] theorem State.interrupt_mem (s : State) (v e : Nat) : (s.interrupt v e).mem = s.mem := rfl
@[simp] theorem State.setFlag_mem (s : State) (cl v bit : Nat) : (s.setFlag cl v bit).mem = s.mem := rfl
@[simp] theorem State.putLlc_mem (s : State) (l : LlcLine) : (s.putLlc l).mem = s.mem := rfl
@[simp] theorem State.putRcb_mem (s : State) (r : Rcb) : (s.putRcb r).mem = s.mem := rfl
@[simp] theorem State.recall_mem (s : State) (l : LlcLine) (m : BitVec 16) (inval : Bool) (e : Option Nat) :
    (s.recall l m inval e).1.mem = s.mem := rfl
@[simp] theorem State.dropCopies_mem (s : State) (v l : Nat) : (s.dropCopies v l).mem = s.mem := rfl
@[simp] theorem State.cacheS2_mem (s : State) (v g : Nat) (w : Bool) : (s.cacheS2 v g w).mem = s.mem := by
  unfold State.cacheS2; split <;> rfl

@[simp] theorem State.dropEvent_mem (s : State) (d v slot : Nat) : (s.dropEvent d v slot).mem = s.mem := by
  unfold State.dropEvent
  dsimp only
  rw [State.count_mem]
  split <;> rfl

@[simp] theorem State.yEvent_mem (s : State) (d v cls port : Nat) (fields : List Word) :
    (s.yEvent d v cls port fields).mem = s.mem := by
  refine foldl_keeps (fun t : State => t.mem = s.mem) _ ?_ _ s rfl
  intro t slot ht
  dsimp only
  split
  · exact ht
  · split_ifs <;> simp [ht]

@[simp] theorem State.queuePull_mem (s : State) (v i : Nat) (l : Line) : (s.queuePull v i l).mem = s.mem := by
  unfold State.queuePull
  dsimp only
  split
  iterate 3 · split_ifs <;> rfl
  · rfl

@[simp] theorem State.startFetch_mem (s : State) (v i : Nat) : (s.startFetch v i).mem = s.mem := by
  unfold State.startFetch
  split
  · rfl
  · split <;> rfl

/-! ## Operations that keep the canonical form -/

theorem State.hostMerge_wf (s : State) (h : Nat) (data : BitVec 512) (dirty : BitVec 16) (hm : s.mem.wf = true) :
    (s.hostMerge h data dirty).mem.wf = true := by
  unfold State.hostMerge
  split
  · exact hm
  · refine foldl_keeps (fun m : Memory => m.wf = true) _ (fun m k hk => ?_) _ _ hm
    dsimp only
    split_ifs
    · exact Memory.setPoison_wf _ _ _ (Memory.write_wf _ _ _ _ hk)
    · exact Memory.write_wf _ _ _ _ hk
    · exact hk

theorem State.hostRecall_wf (s : State) (h : Nat) (inval : Bool) (e : Option Nat) (hm : s.mem.wf = true) :
    (s.hostRecall h inval e).mem.wf = true := by
  unfold State.hostRecall
  dsimp only
  split
  · exact hm
  · exact s.hostMerge_wf _ _ _ hm

theorem State.lineToMemory_wf (s : State) (l : LlcLine) (h : s.mem.wf = true) : (s.lineToMemory l).mem.wf = true :=
  foldl_keeps (fun m : Memory => m.wf = true) _
    (fun _ _ hm => Memory.setPoison_wf _ _ _ (Memory.setFull_wf _ _ _ hm)) _ _ (Memory.write_wf _ _ _ _ h)

theorem State.keepLine_wf (s : State) (l : LlcLine) (b : Bool) (h : s.mem.wf = true) : (s.keepLine l b).mem.wf = true := by
  unfold State.keepLine
  split
  · rw [State.cacheS2_mem]; exact h
  · split
    · exact h
    · split
      · rw [State.cacheS2_mem]; exact h
      · split
        · exact s.lineToMemory_wf l h
        · exact h

theorem State.touchLlc_wf (s : State) (v gpa : Nat) (write noAlloc fetch : Bool) (h : s.mem.wf = true) :
    (s.touchLlc v gpa write noAlloc fetch).mem.wf = true := by
  unfold State.touchLlc
  split
  · exact h
  · split
    · rw [State.count_mem]; exact h
    · split
      · exact h
      · dsimp only
        split
        · rw [State.yEvent_mem, State.count_mem]; exact h
        · refine State.keepLine_wf _ _ _ ?_
          rw [State.yEvent_mem, State.count_mem]; exact h

theorem State.touchAll_wf (s : State) (v : Nat) (gpas : List Nat) (write : Bool) (h : s.mem.wf = true) :
    (s.touchAll v gpas write).mem.wf = true :=
  foldl_keeps (fun t : State => t.mem.wf = true) _ (fun t _ ht => t.touchLlc_wf _ _ _ _ _ ht) _ s h

theorem State.putWord_wf (s : State) (loc : Loc) (w : Word8) (sec : Bool) (n : Nat) (h : s.mem.wf = true) :
    (s.putWord loc w sec n).mem.wf = true := by
  cases loc with
  | scratch c p => exact Memory.putWord_wf _ _ _ h
  | cluster k p => exact Memory.putWord_wf _ _ _ h
  | paged v gpa =>
    simp only [State.putWord]
    split
    · split
      · exact h
      · split
        · exact h
        · exact Memory.putWord_wf _ _ _ (State.hostRecall_wf _ _ _ _ h)
    · split
      · exact h
      · exact State.keepLine_wf _ _ _ h

theorem State.performWord_wf (s : State) (loc : Loc) (n : Nat) (w w' : Word8) (sec : Bool) (h : s.mem.wf = true) :
    (s.performWord loc n w w' sec).mem.wf = true := by
  simpa [State.performWord] using s.putWord_wf loc w' sec n h

theorem State.storeBytes_wf (s : State) (v : Nat) (loc : Loc) (n val : Nat) (sec : Bool) (h : s.mem.wf = true) :
    (s.storeBytes v loc n val sec).mem.wf = true := by
  unfold State.storeBytes
  split
  · simpa using h
  · split_ifs
    · simpa using h
    · simpa using h
    · exact s.performWord_wf _ _ _ _ _ h

theorem State.gpaWrite_wf (s : State) (v gpa : Nat) (val : Word) (h : s.mem.wf = true) :
    (s.gpaWrite v gpa val).mem.wf = true := by
  unfold State.gpaWrite
  split
  · simpa using h
  · exact s.performWord_wf _ _ _ _ _ h

theorem State.gpaWriteThrough_wf (s : State) (v gpa : Nat) (val : Word) (h : s.mem.wf = true) :
    (s.gpaWriteThrough v gpa val).mem.wf = true := by
  unfold State.gpaWriteThrough
  split
  · exact s.gpaWrite_wf _ _ _ h
  · split
    · rw [State.countErr_mem]; exact h
    · have h1 := s.gpaWrite_wf v gpa val h
      dsimp only
      split
      · exact h1
      · split
        · exact h1
        · split
          · rw [State.putLlc_mem]; exact Memory.putWord_wf _ _ _ h1
          · exact Memory.putWord_wf _ _ _ h1

theorem State.headraceMarks_wf (s : State) (v linear : Nat) (write : Bool) (h : s.mem.wf = true) :
    (s.headraceMarks v linear write).mem.wf = true := by
  unfold State.headraceMarks
  split
  · exact h
  · split
    · exact h
    · dsimp only
      generalize (_ ||| _ ||| _ : Word) = e'
      split
      · exact h
      · exact s.gpaWrite_wf _ _ _ h

theorem State.rcbWrite_wf (s : State) (v addr dw : Nat) (val : Word) (h : s.mem.wf = true) :
    (s.rcbWrite v addr dw val).mem.wf = true := by
  unfold State.rcbWrite
  split
  · exact h
  · exact State.gpaWriteThrough_wf _ _ _ _ (s.headraceMarks_wf _ _ _ h)

theorem State.rcbUpdate_wf (s : State) (v addr dw : Nat) (f : Word → Word) (h : s.mem.wf = true) :
    (s.rcbUpdate v addr dw f).mem.wf = true := by
  unfold State.rcbUpdate
  split
  · exact h
  · exact s.rcbWrite_wf _ _ _ _ h

theorem State.writeCopy_wf (s : State) (v i : Nat) (l : Line) (h : s.mem.wf = true) : (s.writeCopy v i l).mem.wf = true :=
  foldl_keeps (fun t : State => t.mem.wf = true) _ (fun t _ ht => t.gpaWrite_wf _ _ _ ht) _ _ (s.touchAll_wf _ _ _ h)

theorem State.setLine_wf (s : State) (v i : Nat) (l : Line) (h : s.mem.wf = true) : (s.setLine v i l).mem.wf = true := by
  unfold State.setLine
  split
  · split
    · exact h
    · exact h
  · exact h
  · exact h
  · exact s.writeCopy_wf _ _ _ h
  · exact h

theorem State.readyLine_wf (s : State) (v i : Nat) (l : Line) (h : s.mem.wf = true) : (s.readyLine v i l).mem.wf = true := by
  simpa [State.readyLine] using s.setLine_wf v i _ h

/-! ## Taking an exception, waiting, completing -/

@[simp] theorem State.completionFlags_mem (s : State) (c v port : Nat) (d e : Word) :
    (s.completionFlags c v port d e).mem = s.mem := by
  unfold State.completionFlags
  dsimp only
  split_ifs <;> simp

@[simp] theorem State.completionHeld_mem (s : State) (c : Nat) (e : Completion) : (s.completionHeld c e).mem = s.mem := by
  simp [State.completionHeld]

@[simp] theorem State.abandon_mem (s : State) (c : Nat) (w : Who) : (s.abandon c w).mem = s.mem :=
  foldl_keeps (fun t : State => t.mem = s.mem) _ (fun _ _ ht => by simpa using ht) _ s rfl

@[simp] theorem State.forget_mem (s : State) (c : Nat) (w : Who) : (s.forget c w).mem = s.mem := s.abandon_mem c w
@[simp] theorem State.freeHandler_mem (s : State) (c w : Nat) (who : Who) : (s.freeHandler c w who).mem = s.mem :=
  s.forget_mem c who
@[simp] theorem State.register_mem (s : State) (w : Waiter) : (s.register w).mem = s.mem := rfl
@[simp] theorem State.request_mem (s : State) (v g : Nat) (acc : Access) (r : Requester) (q : Word) (x : BitVec 16) :
    (s.request v g acc r q x).mem = s.mem := rfl

@[simp] theorem waitSlot_mem (s : State) (sl : Slot) (k : WaitKind) (a : BitVec 28) : (waitSlot s sl k a).mem = s.mem := by
  simp [waitSlot]

theorem State.writeUpcall_wf (s : State) (v ring slot : Nat) (id tval : Word) (pc : BitVec 48) (cause tinfo : BitVec 16)
    (acc : Nat) (h : s.mem.wf = true) : (s.writeUpcall v ring slot id tval pc cause tinfo acc).mem.wf = true := by
  unfold State.writeUpcall
  exact State.gpaWrite_wf _ _ _ _ (State.gpaWrite_wf _ _ _ _ (State.gpaWrite_wf _ _ _ _ (State.gpaWrite_wf _ _ _ _
    (State.gpaWrite_wf _ _ _ _ (State.gpaWrite_wf _ _ _ _ (State.touchAll_wf _ _ _ _ h))))))

theorem State.handlerTrap_wf (s : State) (c w : Nat) (sl : Slot) (cause : BitVec 16) (tval : Word) (tinfo : BitVec 16)
    (acc : Nat) (h : s.mem.wf = true) : (s.handlerTrap c w sl cause tval tinfo acc).mem.wf = true := by
  unfold State.handlerTrap
  simp only [State.freeHandler_mem, State.setFlag_mem]
  split_ifs
  · exact h
  · split
    · exact h
    · exact State.writeUpcall_wf _ _ _ _ _ _ _ _ _ _ h

theorem State.reportFault_wf (s : State) (v rcb : Nat) (id : Word) (cause tinfo : BitVec 16) (h : s.mem.wf = true) :
    (s.reportFault v rcb id cause tinfo).mem.wf = true := by
  unfold State.reportFault
  split
  · exact h
  · dsimp only
    refine State.rcbUpdate_wf _ _ _ _ _ ?_
    split
    · exact State.rcbWrite_wf _ _ _ _ _ (State.rcbUpdate_wf _ _ _ _ _ h)
    · exact State.rcbUpdate_wf _ _ _ _ _ h

theorem State.deliverFault_wf (s : State) (v i rcb : Nat) (l : Line) (h : s.mem.wf = true) :
    (s.deliverFault v i rcb l).mem.wf = true := by
  unfold State.deliverFault
  split
  · exact State.reportFault_wf _ _ _ _ _ _ h
  · exact h

theorem State.faultLine_wf (s : State) (v i : Nat) (l : Line) (cause : BitVec 16) (tval : Word) (tinfo : BitVec 16)
    (h : s.mem.wf = true) : (s.faultLine v i l cause tval tinfo).mem.wf = true := by
  unfold State.faultLine
  refine State.deliverFault_wf _ _ _ _ _ ?_
  split
  · rw [State.countErr_mem]; exact State.setLine_wf _ _ _ _ (by simpa using h)
  · exact State.setLine_wf _ _ _ _ (by simpa using h)

/-- Taking an exception keeps memory canonical. -/
theorem State.takeTrap_wf (s : State) (c w : Nat) (sl : Slot) (cause : BitVec 16) (tval : Word) (tinfo : BitVec 16)
    (acc : Nat) (h : s.mem.wf = true) : (s.takeTrap c w sl cause tval tinfo acc).mem.wf = true := by
  unfold State.takeTrap
  split
  · refine State.handlerTrap_wf _ _ _ _ _ _ _ _ ?_
    split_ifs <;> simpa using h
  · exact State.faultLine_wf _ _ _ _ _ _ _ h

@[simp] theorem State.ringWait_wf (s : State) (v i : Nat) (l : Line) (a : Nat) (tval : Word) (tinfo : BitVec 16) (linear : Nat)
    (h : s.mem.wf = true) : (s.ringWait v i l a tval tinfo linear).mem.wf = true := State.setLine_wf _ _ _ _ h

theorem State.pageFaultLine_wf (s : State) (v i : Nat) (l : Line) (tval : Word) (tinfo : BitVec 16) (acc : Access)
    (linear : Nat) (h : s.mem.wf = true) : (s.pageFaultLine v i l tval tinfo acc linear).mem.wf = true := by
  have ha : (s.abandon (s.ccoreOf v l) (.ctx v i)).mem.wf = true := by simpa using h
  unfold State.pageFaultLine
  dsimp only
  split
  · exact State.ringWait_wf _ _ _ _ _ _ _ _ ha
  · split
    · exact State.faultLine_wf _ _ _ _ _ _ _ h
    · split
      · exact State.faultLine_wf _ _ _ _ _ _ _ h
      · split
        · exact State.setLine_wf _ _ _ _ ha
        · split
          · exact State.ringWait_wf _ _ _ _ _ _ _ _ ha
          · exact State.writeUpcall_wf _ _ _ _ _ _ _ _ _ _ (State.setLine_wf _ _ _ _ ha)

theorem State.pageFault_wf (s : State) (c w : Nat) (sl : Slot) (tval : Word) (tinfo : BitVec 16) (acc : Access)
    (linear : Nat) (h : s.mem.wf = true) : (s.pageFault c w sl tval tinfo acc linear).mem.wf = true := by
  unfold State.pageFault
  split
  · exact State.handlerTrap_wf _ _ _ _ _ _ _ _ h
  · exact State.pageFaultLine_wf _ _ _ _ _ _ _ _ h

/-- An outcome whose next state, if it has one, holds canonical memory. -/
def Out.Canonical (o : Out) : Prop := ∀ t, o = .next t → t.mem.wf = true

@[simp] theorem canonical_next (s : State) : Out.Canonical (.next s) ↔ s.mem.wf = true :=
  ⟨fun h => h s rfl, fun h _ e => by cases e; exact h⟩

theorem trapOut_canonical (s : State) (sl : Slot) (i : Instr) (cause : BitVec 16) (tval : Word) (h : s.mem.wf = true) :
    Out.Canonical (trapOut s sl i cause tval) := by
  rw [trapOut, canonical_next]; exact State.takeTrap_wf _ _ _ _ _ _ _ _ h

theorem settle_canonical (s : State) (sl : Slot) (i : Instr) (lat : Nat) (h : s.mem.wf = true) :
    Out.Canonical (settle s sl i lat) := by
  unfold settle
  dsimp only
  split
  · rw [canonical_next]; exact State.takeTrap_wf _ _ _ _ _ _ _ _ (by simpa using h)
  · rw [canonical_next]; simpa using h

theorem complete_canonical (s : State) (sl : Slot) (i : Instr) (lat : Nat) (h : s.mem.wf = true) :
    Out.Canonical (complete s sl i lat) := settle_canonical _ _ _ _ h

theorem branch_canonical (s : State) (sl : Slot) (i : Instr) (lat : Nat) (t : Word) (f : Line → Line)
    (h : s.mem.wf = true) : Out.Canonical (branch s sl i lat t f) := by
  unfold branch
  split
  · exact trapOut_canonical _ _ _ _ _ h
  · exact settle_canonical _ _ _ _ h

theorem waitOut_canonical (s : State) (sl : Slot) (k : WaitKind) (a : BitVec 28) (h : s.mem.wf = true) :
    Out.Canonical (waitOut s sl k a) := by
  rw [waitOut, canonical_next, waitSlot_mem]; exact h

theorem waitOrTrap_canonical (s : State) (sl : Slot) (i : Instr) (k : WaitKind) (a : BitVec 28) (q : Word)
    (h : s.mem.wf = true) : Out.Canonical (waitOrTrap s sl i k a q) := by
  unfold waitOrTrap
  split_ifs
  · exact trapOut_canonical _ _ _ _ _ h
  · exact waitOut_canonical _ _ _ _ h

theorem missOut_canonical (s : State) (sl : Slot) (x : BitVec 16) (q : Word) (a : Nat) (acc : Access)
    (h : s.mem.wf = true) : Out.Canonical (missOut s sl x q a acc) := by
  rw [missOut, canonical_next]; simpa using h

theorem memFaultOut_canonical (s : State) (sl : Slot) (i : Instr) (e : MemFault) (loc : Loc) (q : Word) (acc : Access)
    (h : s.mem.wf = true) : Out.Canonical (memFaultOut s sl i e loc q acc) := by
  cases e with
  | world => exact trapOut_canonical _ _ _ _ _ h
  | stage2 => rw [memFaultOut, memFaultAt, canonical_next]; simpa using h

/-- Under its guard an instruction keeps memory canonical if its effect does. -/
theorem guarded_canonical (s : State) (i : Instr) (p : Pre) (k : Slot → Out) (h : s.mem.wf = true)
    (hk : ∀ sl, Out.Canonical (k sl)) : Out.Canonical (guarded s i p k) := by
  unfold guarded withCur
  split
  · rwa [canonical_next]
  · dsimp only
    split_ifs
    · exact hk _
    · exact complete_canonical _ _ _ _ h

theorem privileged_canonical (s : State) (i : Instr) (p : Pre) (k : Slot → Out) (h : s.mem.wf = true)
    (hk : ∀ sl, Out.Canonical (k sl)) : Out.Canonical (privileged s i p k) := by
  unfold privileged withCur
  split
  · rwa [canonical_next]
  · dsimp only
    split_ifs
    · exact hk _
    · exact complete_canonical _ _ _ _ h
    · exact trapOut_canonical _ _ _ _ _ h

theorem lineOp_canonical (s : State) (i : Instr) (p : Pre) (lat : Nat) (f : Line → Line) (h : s.mem.wf = true) :
    Out.Canonical (lineOp s i p lat f) :=
  guarded_canonical _ _ _ _ h fun _ => complete_canonical _ _ _ _ h

theorem access_canonical (s : State) (sl : Slot) (i : Instr) (q : Word) (n : Nat) (need : Need) (acc : Access)
    (k : Seg → Loc → Bool → Out) (h : s.mem.wf = true) (hk : ∀ g l b, Out.Canonical (k g l b)) :
    Out.Canonical (access s sl i q n need acc k) := by
  unfold access
  split
  · exact trapOut_canonical _ _ _ _ _ h
  · exact missOut_canonical _ _ _ _ _ _ h
  · rw [canonical_next]; exact State.pageFault_wf _ _ _ _ _ _ _ _ h
  · split_ifs
    · rwa [canonical_next]
    · exact hk _ _ _

theorem State.clearUpcall_wf (s : State) (v core slot : Nat) (h : s.mem.wf = true) :
    (s.clearUpcall v core slot).mem.wf = true := State.gpaWrite_wf _ _ _ _ (State.touchLlc_wf _ _ _ _ _ _ h)

/-- Returning from an exception keeps memory canonical. -/
theorem State.resume_wf (s : State) (v i : Nat) (h : s.mem.wf = true) : (s.resume v i).mem.wf = true := by
  unfold State.resume
  split
  · exact h
  · exact State.readyLine_wf _ _ _ _ h

end Sys2Proof.Machine
end

