-- ==== Sys2Proof/Laws/PerInstr.lean ====
section
/-! SUPPORT. Per instruction: the base parcel of every encoded form is no prefix parcel (R60, R64: op 15 is a prefix), and
a page-0 form has no xop (R63). -/
namespace Sys2Proof.Laws.Encoding

set_option Elab.async false

/-- What the lemmas of this file say of one instruction. -/
def Statement (i : Instr) : Prop :=
  match i.use with
  | none => True
  | some (_, u) => i.code.2.extractLsb' 12 4 ≠ 15 ∧ (u.page = 0 → i.code.1 = 0)

theorem append_toNat {v w : Nat} (x : BitVec v) (y : BitVec w) : (x ++ y).toNat = x.toNat * 2 ^ w + y.toNat := by
  rw [BitVec.toNat_append, Nat.shiftLeft_eq, mul_comm, Nat.two_pow_add_eq_or_of_lt y.isLt]

theorem top_append {w : Nat} (op : BitVec 4) (y : BitVec w) : (op ++ y).extractLsb' w 4 = op := by
  apply BitVec.eq_of_toNat_eq
  rw [BitVec.extractLsb'_toNat, append_toNat, Nat.shiftRight_eq_div_pow, Nat.mul_comm, Nat.mul_add_div (by positivity),
    Nat.div_eq_of_lt y.isLt]
  simpa using op.isLt

theorem f3_op (op : BitVec 4) (mn d a b : BitVec 3) : (f3 op mn d a b).extractLsb' 12 4 = op := by
  have h : f3 op mn d a b = (op ++ (mn ++ d ++ a ++ b : BitVec 12) : BitVec 16) := by
    apply BitVec.eq_of_toNat_eq
    have h0 := append_toNat (op ++ mn ++ d ++ a) b
    have h1 := append_toNat (op ++ mn ++ d) a
    have h2 := append_toNat (op ++ mn) d
    have h3 := append_toNat op mn
    have h4 := append_toNat op (mn ++ d ++ a ++ b)
    have h5 := append_toNat (mn ++ d ++ a) b
    have h6 := append_toNat (mn ++ d) a
    have h7 := append_toNat mn d
    unfold f3
    norm_num at h0 h1 h2 h3 h4 h5 h6 h7 ⊢
    omega
  rw [h]
  exact top_append _ _

theorem fi_op (op : BitVec 4) (d a : BitVec 3) (imm : BitVec 6) : (fi op d a imm).extractLsb' 12 4 = op := by
  have h : fi op d a imm = (op ++ (d ++ a ++ imm : BitVec 12) : BitVec 16) := by
    apply BitVec.eq_of_toNat_eq
    have h0 := append_toNat (op ++ d ++ a) imm
    have h1 := append_toNat (op ++ d) a
    have h2 := append_toNat op d
    have h3 := append_toNat op (d ++ a ++ imm)
    have h4 := append_toNat (d ++ a) imm
    have h5 := append_toNat d a
    unfold fi
    norm_num at h0 h1 h2 h3 h4 h5 ⊢
    omega
  rw [h]
  exact top_append _ _

theorem fw_op (op : BitVec 4) (d : BitVec 3) (imm : BitVec 9) : (fw op d imm).extractLsb' 12 4 = op := by
  have h : fw op d imm = (op ++ (d ++ imm : BitVec 12) : BitVec 16) := by
    apply BitVec.eq_of_toNat_eq
    have h0 := append_toNat (op ++ d) imm
    have h1 := append_toNat op d
    have h2 := append_toNat op (d ++ imm)
    have h3 := append_toNat d imm
    unfold fw
    norm_num at h0 h1 h2 h3 ⊢
    omega
  rw [h]
  exact top_append _ _

theorem fb_op (op : BitVec 4) (p : BitVec 3) (s : BitVec 1) (off : BitVec 8) : (fb op p s off).extractLsb' 12 4 = op := by
  have h : fb op p s off = (op ++ (p ++ s ++ off : BitVec 12) : BitVec 16) := by
    apply BitVec.eq_of_toNat_eq
    have h0 := append_toNat (op ++ p ++ s) off
    have h1 := append_toNat (op ++ p) s
    have h2 := append_toNat op p
    have h3 := append_toNat op (p ++ s ++ off)
    have h4 := append_toNat (p ++ s) off
    have h5 := append_toNat p s
    unfold fb
    norm_num at h0 h1 h2 h3 h4 h5 ⊢
    omega
  rw [h]
  exact top_append _ _

theorem fj_op (op : BitVec 4) (l : BitVec 1) (off : BitVec 11) : (fj op l off).extractLsb' 12 4 = op := by
  have h : fj op l off = (op ++ (l ++ off : BitVec 12) : BitVec 16) := by
    apply BitVec.eq_of_toNat_eq
    have h0 := append_toNat (op ++ l) off
    have h1 := append_toNat op l
    have h2 := append_toNat op (l ++ off)
    have h3 := append_toNat l off
    unfold fj
    norm_num at h0 h1 h2 h3 ⊢
    omega
  rw [h]
  exact top_append _ _

theorem fs_op (op : BitVec 4) (k : BitVec 2) (d a : BitVec 3) (sh : BitVec 4) : (fs op k d a sh).extractLsb' 12 4 = op := by
  have h : fs op k d a sh = (op ++ (k ++ d ++ a ++ sh : BitVec 12) : BitVec 16) := by
    apply BitVec.eq_of_toNat_eq
    have h0 := append_toNat (op ++ k ++ d ++ a) sh
    have h1 := append_toNat (op ++ k ++ d) a
    have h2 := append_toNat (op ++ k) d
    have h3 := append_toNat op k
    have h4 := append_toNat op (k ++ d ++ a ++ sh)
    have h5 := append_toNat (k ++ d ++ a) sh
    have h6 := append_toNat (k ++ d) a
    have h7 := append_toNat k d
    unfold fs
    norm_num at h0 h1 h2 h3 h4 h5 h6 h7 ⊢
    omega
  rw [h]
  exact top_append _ _

theorem fl_op (op : BitVec 4) (i : BitVec 1) (c : BitVec 3) (len : BitVec 8) : (fl op i c len).extractLsb' 12 4 = op := by
  have h : fl op i c len = (op ++ (i ++ c ++ len : BitVec 12) : BitVec 16) := by
    apply BitVec.eq_of_toNat_eq
    have h0 := append_toNat (op ++ i ++ c) len
    have h1 := append_toNat (op ++ i) c
    have h2 := append_toNat op i
    have h3 := append_toNat op (i ++ c ++ len)
    have h4 := append_toNat (i ++ c) len
    have h5 := append_toNat i c
    unfold fl
    norm_num at h0 h1 h2 h3 h4 h5 ⊢
    omega
  rw [h]
  exact top_append _ _

theorem fy_op (op : BitVec 4) (mn a : BitVec 3) (imm : BitVec 6) : (fy op mn a imm).extractLsb' 12 4 = op := by
  have h : fy op mn a imm = (op ++ (mn ++ a ++ imm : BitVec 12) : BitVec 16) := by
    apply BitVec.eq_of_toNat_eq
    have h0 := append_toNat (op ++ mn ++ a) imm
    have h1 := append_toNat (op ++ mn) a
    have h2 := append_toNat op mn
    have h3 := append_toNat op (mn ++ a ++ imm)
    have h4 := append_toNat (mn ++ a) imm
    have h5 := append_toNat mn a
    unfold fy
    norm_num at h0 h1 h2 h3 h4 h5 ⊢
    omega
  rw [h]
  exact top_append _ _

theorem fc_op (op : BitVec 4) (d a : BitVec 3) (t : BitVec 4) : (fc op d a t).extractLsb' 12 4 = op := by
  have h : fc op d a t = (op ++ (d ++ a ++ t ++ (0 : BitVec 2) : BitVec 12) : BitVec 16) := by
    apply BitVec.eq_of_toNat_eq
    have h0 := append_toNat (op ++ d ++ a ++ t) (0 : BitVec 2)
    have h1 := append_toNat (op ++ d ++ a) t
    have h2 := append_toNat (op ++ d) a
    have h3 := append_toNat op d
    have h4 := append_toNat op (d ++ a ++ t ++ (0 : BitVec 2))
    have h5 := append_toNat (d ++ a ++ t) (0 : BitVec 2)
    have h6 := append_toNat (d ++ a) t
    have h7 := append_toNat d a
    unfold fc
    norm_num at h0 h1 h2 h3 h4 h5 h6 h7 ⊢
    omega
  rw [h]
  exact top_append _ _

theorem fr_op (op : BitVec 4) (k : BitVec 2) (h : BitVec 8) (x : BitVec 2) : (fr op k h x).extractLsb' 12 4 = op := by
  have h : fr op k h x = (op ++ (k ++ h ++ x : BitVec 12) : BitVec 16) := by
    apply BitVec.eq_of_toNat_eq
    have h0 := append_toNat (op ++ k ++ h) x
    have h1 := append_toNat (op ++ k) h
    have h2 := append_toNat op k
    have h3 := append_toNat op (k ++ h ++ x)
    have h4 := append_toNat (k ++ h) x
    have h5 := append_toNat k h
    unfold fr
    norm_num at h0 h1 h2 h3 h4 h5 ⊢
    omega
  rw [h]
  exact top_append _ _

theorem ft_op (op : BitVec 4) (mn : BitVec 3) (h : BitVec 25) : (ft op mn h).extractLsb' 12 4 = op := by
  have e : ft op mn h = (op ++ (mn ++ (0 : BitVec 4) ++ h.extractLsb' 0 5 : BitVec 12) : BitVec 16) := by
    apply BitVec.eq_of_toNat_eq
    have h0 := append_toNat (op ++ mn ++ (0 : BitVec 4)) (h.extractLsb' 0 5)
    have h1 := append_toNat (op ++ mn) (0 : BitVec 4)
    have h2 := append_toNat op mn
    have h3 := append_toNat op (mn ++ (0 : BitVec 4) ++ h.extractLsb' 0 5)
    have h4 := append_toNat (mn ++ (0 : BitVec 4)) (h.extractLsb' 0 5)
    have h5 := append_toNat mn (0 : BitVec 4)
    unfold ft
    norm_num at h0 h1 h2 h3 h4 h5 ⊢
    omega
  rw [e]
  exact top_append _ _

/-! ## One lemma per constructor -/

theorem add a b c d : Statement (.add a b c d) :=
  ⟨fun h => absurd ((f3_op _ _ _ _ _).symm.trans h) (by decide), fun _ => rfl⟩
theorem sub a b c d : Statement (.sub a b c d) :=
  ⟨fun h => absurd ((f3_op _ _ _ _ _).symm.trans h) (by decide), fun _ => rfl⟩
theorem and a b c d : Statement (.and a b c d) :=
  ⟨fun h => absurd ((f3_op _ _ _ _ _).symm.trans h) (by decide), fun _ => rfl⟩
theorem or a b c d : Statement (.or a b c d) :=
  ⟨fun h => absurd ((f3_op _ _ _ _ _).symm.trans h) (by decide), fun _ => rfl⟩
theorem xor a b c d : Statement (.xor a b c d) :=
  ⟨fun h => absurd ((f3_op _ _ _ _ _).symm.trans h) (by decide), fun _ => rfl⟩
theorem shl a b c d : Statement (.shl a b c d) :=
  ⟨fun h => absurd ((f3_op _ _ _ _ _).symm.trans h) (by decide), fun _ => rfl⟩
theorem shr a b c d : Statement (.shr a b c d) :=
  ⟨fun h => absurd ((f3_op _ _ _ _ _).symm.trans h) (by decide), fun _ => rfl⟩
theorem sar a b c d : Statement (.sar a b c d) :=
  ⟨fun h => absurd ((f3_op _ _ _ _ _).symm.trans h) (by decide), fun _ => rfl⟩
theorem mul a b c d : Statement (.mul a b c d) :=
  ⟨fun h => absurd ((f3_op _ _ _ _ _).symm.trans h) (by decide), fun _ => rfl⟩
theorem mulh a b c d : Statement (.mulh a b c d) :=
  ⟨fun h => absurd ((f3_op _ _ _ _ _).symm.trans h) (by decide), fun _ => rfl⟩
theorem mulhn a b c d : Statement (.mulhn a b c d) :=
  ⟨fun h => absurd ((f3_op _ _ _ _ _).symm.trans h) (by decide), fun _ => rfl⟩
theorem min a b c d : Statement (.min a b c d) :=
  ⟨fun h => absurd ((f3_op _ _ _ _ _).symm.trans h) (by decide), fun _ => rfl⟩
theorem max a b c d : Statement (.max a b c d) :=
  ⟨fun h => absurd ((f3_op _ _ _ _ _).symm.trans h) (by decide), fun _ => rfl⟩
theorem minn a b c d : Statement (.minn a b c d) :=
  ⟨fun h => absurd ((f3_op _ _ _ _ _).symm.trans h) (by decide), fun _ => rfl⟩
theorem maxn a b c d : Statement (.maxn a b c d) :=
  ⟨fun h => absurd ((f3_op _ _ _ _ _).symm.trans h) (by decide), fun _ => rfl⟩
theorem andn a b c d : Statement (.andn a b c d) :=
  ⟨fun h => absurd ((f3_op _ _ _ _ _).symm.trans h) (by decide), fun _ => rfl⟩
theorem addi a b c d : Statement (.addi a b c d) :=
  ⟨fun h => absurd ((fi_op _ _ _ _).symm.trans h) (by decide), fun _ => rfl⟩
theorem movi a b c : Statement (.movi a b c) :=
  ⟨fun h => absurd ((fw_op _ _ _).symm.trans h) (by decide), fun _ => rfl⟩
theorem andi a b c d : Statement (.andi a b c d) :=
  ⟨fun h => absurd ((fi_op _ _ _ _).symm.trans h) (by decide), fun _ => rfl⟩
theorem shli a b c d : Statement (.shli a b c d) :=
  ⟨fun h => absurd ((fs_op _ _ _ _ _).symm.trans h) (by decide), fun _ => rfl⟩
theorem shri a b c d : Statement (.shri a b c d) :=
  ⟨fun h => absurd ((fs_op _ _ _ _ _).symm.trans h) (by decide), fun _ => rfl⟩
theorem sari a b c d : Statement (.sari a b c d) :=
  ⟨fun h => absurd ((fs_op _ _ _ _ _).symm.trans h) (by decide), fun _ => rfl⟩
theorem rori a b c d : Statement (.rori a b c d) :=
  ⟨fun h => absurd ((fs_op _ _ _ _ _).symm.trans h) (by decide), fun _ => rfl⟩
theorem cmpEq a b c d : Statement (.cmpEq a b c d) :=
  ⟨fun h => absurd ((f3_op _ _ _ _ _).symm.trans h) (by decide), fun _ => rfl⟩
theorem cmpNe a b c d : Statement (.cmpNe a b c d) :=
  ⟨fun h => absurd ((f3_op _ _ _ _ _).symm.trans h) (by decide), fun _ => rfl⟩
theorem cmpLt a b c d : Statement (.cmpLt a b c d) :=
  ⟨fun h => absurd ((f3_op _ _ _ _ _).symm.trans h) (by decide), fun _ => rfl⟩
theorem cmpGe a b c d : Statement (.cmpGe a b c d) :=
  ⟨fun h => absurd ((f3_op _ _ _ _ _).symm.trans h) (by decide), fun _ => rfl⟩
theorem cmpLo a b c d : Statement (.cmpLo a b c d) :=
  ⟨fun h => absurd ((f3_op _ _ _ _ _).symm.trans h) (by decide), fun _ => rfl⟩
theorem cmpHs a b c d : Statement (.cmpHs a b c d) :=
  ⟨fun h => absurd ((f3_op _ _ _ _ _).symm.trans h) (by decide), fun _ => rfl⟩
theorem cmpTst a b c d : Statement (.cmpTst a b c d) :=
  ⟨fun h => absurd ((f3_op _ _ _ _ _).symm.trans h) (by decide), fun _ => rfl⟩
theorem cmpNtst a b c d : Statement (.cmpNtst a b c d) :=
  ⟨fun h => absurd ((f3_op _ _ _ _ _).symm.trans h) (by decide), fun _ => rfl⟩
theorem ldzB a b c d : Statement (.ldzB a b c d) :=
  ⟨fun h => absurd ((f3_op _ _ _ _ _).symm.trans h) (by decide), fun _ => rfl⟩
theorem ldsB a b c d : Statement (.ldsB a b c d) :=
  ⟨fun h => absurd ((f3_op _ _ _ _ _).symm.trans h) (by decide), fun _ => rfl⟩
theorem ldzH a b c d : Statement (.ldzH a b c d) :=
  ⟨fun h => absurd ((f3_op _ _ _ _ _).symm.trans h) (by decide), fun _ => rfl⟩
theorem ldsH a b c d : Statement (.ldsH a b c d) :=
  ⟨fun h => absurd ((f3_op _ _ _ _ _).symm.trans h) (by decide), fun _ => rfl⟩
theorem ldzW a b c d : Statement (.ldzW a b c d) :=
  ⟨fun h => absurd ((f3_op _ _ _ _ _).symm.trans h) (by decide), fun _ => rfl⟩
theorem ldsW a b c d : Statement (.ldsW a b c d) :=
  ⟨fun h => absurd ((f3_op _ _ _ _ _).symm.trans h) (by decide), fun _ => rfl⟩
theorem ldD a b c d : Statement (.ldD a b c d) :=
  ⟨fun h => absurd ((f3_op _ _ _ _ _).symm.trans h) (by decide), fun _ => rfl⟩
theorem stB a b c d : Statement (.stB a b c d) :=
  ⟨fun h => absurd ((f3_op _ _ _ _ _).symm.trans h) (by decide), fun _ => rfl⟩
theorem stH a b c d : Statement (.stH a b c d) :=
  ⟨fun h => absurd ((f3_op _ _ _ _ _).symm.trans h) (by decide), fun _ => rfl⟩
theorem stW a b c d : Statement (.stW a b c d) :=
  ⟨fun h => absurd ((f3_op _ _ _ _ _).symm.trans h) (by decide), fun _ => rfl⟩
theorem stD a b c d : Statement (.stD a b c d) :=
  ⟨fun h => absurd ((f3_op _ _ _ _ _).symm.trans h) (by decide), fun _ => rfl⟩
theorem br a b c d : Statement (.br a b c d) :=
  ⟨fun h => absurd ((fb_op _ _ _ _).symm.trans h) (by decide), fun _ => rfl⟩
theorem jmp a b : Statement (.jmp a b) :=
  ⟨fun h => absurd ((fj_op _ _ _).symm.trans h) (by decide), fun _ => rfl⟩
theorem call a b : Statement (.call a b) :=
  ⟨fun h => absurd ((fj_op _ _ _).symm.trans h) (by decide), fun _ => rfl⟩
theorem loop a b c d : Statement (.loop a b c d) :=
  ⟨fun h => absurd ((fl_op _ _ _ _).symm.trans h) (by decide), fun _ => rfl⟩
theorem paddH a b c d : Statement (.paddH a b c d) :=
  ⟨fun h => absurd ((f3_op _ _ _ _ _).symm.trans h) (by decide), fun _ => rfl⟩
theorem psubH a b c d : Statement (.psubH a b c d) :=
  ⟨fun h => absurd ((f3_op _ _ _ _ _).symm.trans h) (by decide), fun _ => rfl⟩
theorem paddsH a b c d : Statement (.paddsH a b c d) :=
  ⟨fun h => absurd ((f3_op _ _ _ _ _).symm.trans h) (by decide), fun _ => rfl⟩
theorem psubsH a b c d : Statement (.psubsH a b c d) :=
  ⟨fun h => absurd ((f3_op _ _ _ _ _).symm.trans h) (by decide), fun _ => rfl⟩
theorem pminH a b c d : Statement (.pminH a b c d) :=
  ⟨fun h => absurd ((f3_op _ _ _ _ _).symm.trans h) (by decide), fun _ => rfl⟩
theorem pmaxH a b c d : Statement (.pmaxH a b c d) :=
  ⟨fun h => absurd ((f3_op _ _ _ _ _).symm.trans h) (by decide), fun _ => rfl⟩
theorem pmulH a b c d : Statement (.pmulH a b c d) :=
  ⟨fun h => absurd ((f3_op _ _ _ _ _).symm.trans h) (by decide), fun _ => rfl⟩
theorem pavgH a b c d : Statement (.pavgH a b c d) :=
  ⟨fun h => absurd ((f3_op _ _ _ _ _).symm.trans h) (by decide), fun _ => rfl⟩
theorem mov a b c : Statement (.mov a b c) :=
  ⟨fun h => absurd ((f3_op _ _ _ _ _).symm.trans h) (by decide), fun _ => rfl⟩
theorem rdp a b : Statement (.rdp a b) :=
  ⟨fun h => absurd ((f3_op _ _ _ _ _).symm.trans h) (by decide), fun _ => rfl⟩
theorem wrp a b : Statement (.wrp a b) :=
  ⟨fun h => absurd ((f3_op _ _ _ _ _).symm.trans h) (by decide), fun _ => rfl⟩
theorem rdsr a b c : Statement (.rdsr a b c) :=
  ⟨fun h => absurd ((f3_op _ _ _ _ _).symm.trans h) (by decide), fun _ => rfl⟩
theorem wrsr a b c : Statement (.wrsr a b c) :=
  ⟨fun h => absurd ((f3_op _ _ _ _ _).symm.trans h) (by decide), fun _ => rfl⟩
theorem sel a b c d : Statement (.sel a b c d) :=
  ⟨fun h => absurd ((f3_op _ _ _ _ _).symm.trans h) (by decide), fun _ => rfl⟩
theorem ret a : Statement (.ret a) :=
  ⟨fun h => absurd ((f3_op _ _ _ _ _).symm.trans h) (by decide), fun _ => rfl⟩
theorem jr a b : Statement (.jr a b) :=
  ⟨fun h => absurd ((f3_op _ _ _ _ _).symm.trans h) (by decide), fun _ => rfl⟩
theorem nop a : Statement (.nop a) :=
  ⟨fun h => absurd ((fy_op _ _ _ _).symm.trans h) (by decide), fun _ => rfl⟩
theorem yield a : Statement (.yield a) :=
  ⟨fun h => absurd ((fy_op _ _ _ _).symm.trans h) (by decide), fun _ => rfl⟩
theorem fence a : Statement (.fence a) :=
  ⟨fun h => absurd ((fy_op _ _ _ _).symm.trans h) (by decide), fun _ => rfl⟩
theorem trap a b : Statement (.trap a b) :=
  ⟨fun h => absurd ((fy_op _ _ _ _).symm.trans h) (by decide), fun _ => rfl⟩
theorem exit a : Statement (.exit a) :=
  ⟨fun h => absurd ((fy_op _ _ _ _).symm.trans h) (by decide), fun _ => rfl⟩
theorem brk a b : Statement (.brk a b) :=
  ⟨fun h => absurd ((fy_op _ _ _ _).symm.trans h) (by decide), fun _ => rfl⟩
theorem sleep a b : Statement (.sleep a b) :=
  ⟨fun h => absurd ((fy_op _ _ _ _).symm.trans h) (by decide), fun _ => rfl⟩
theorem fadd a b c d e : Statement (.fadd a b c d e) :=
  ⟨fun h => absurd ((f3_op _ _ _ _ _).symm.trans h) (by decide), fun h => absurd h (by decide)⟩
theorem fsub a b c d e : Statement (.fsub a b c d e) :=
  ⟨fun h => absurd ((f3_op _ _ _ _ _).symm.trans h) (by decide), fun h => absurd h (by decide)⟩
theorem fmul a b c d e : Statement (.fmul a b c d e) :=
  ⟨fun h => absurd ((f3_op _ _ _ _ _).symm.trans h) (by decide), fun h => absurd h (by decide)⟩
theorem fdiv a b c d e : Statement (.fdiv a b c d e) :=
  ⟨fun h => absurd ((f3_op _ _ _ _ _).symm.trans h) (by decide), fun h => absurd h (by decide)⟩
theorem fmin a b c d e : Statement (.fmin a b c d e) :=
  ⟨fun h => absurd ((f3_op _ _ _ _ _).symm.trans h) (by decide), fun h => absurd h (by decide)⟩
theorem fmax a b c d e : Statement (.fmax a b c d e) :=
  ⟨fun h => absurd ((f3_op _ _ _ _ _).symm.trans h) (by decide), fun h => absurd h (by decide)⟩
theorem fma a b c d e : Statement (.fma a b c d e) :=
  ⟨fun h => absurd ((f3_op _ _ _ _ _).symm.trans h) (by decide), fun h => absurd h (by decide)⟩
theorem fsqrt a b c d : Statement (.fsqrt a b c d) :=
  ⟨fun h => absurd ((f3_op _ _ _ _ _).symm.trans h) (by decide), fun h => absurd h (by decide)⟩
theorem fabs a b c d : Statement (.fabs a b c d) :=
  ⟨fun h => absurd ((f3_op _ _ _ _ _).symm.trans h) (by decide), fun h => absurd h (by decide)⟩
theorem fneg a b c d : Statement (.fneg a b c d) :=
  ⟨fun h => absurd ((f3_op _ _ _ _ _).symm.trans h) (by decide), fun h => absurd h (by decide)⟩
theorem exp2 a b c d : Statement (.exp2 a b c d) :=
  ⟨fun h => absurd ((f3_op _ _ _ _ _).symm.trans h) (by decide), fun h => absurd h (by decide)⟩
theorem log2 a b c d : Statement (.log2 a b c d) :=
  ⟨fun h => absurd ((f3_op _ _ _ _ _).symm.trans h) (by decide), fun h => absurd h (by decide)⟩
theorem rcp a b c d : Statement (.rcp a b c d) :=
  ⟨fun h => absurd ((f3_op _ _ _ _ _).symm.trans h) (by decide), fun h => absurd h (by decide)⟩
theorem rsqrt a b c d : Statement (.rsqrt a b c d) :=
  ⟨fun h => absurd ((f3_op _ _ _ _ _).symm.trans h) (by decide), fun h => absurd h (by decide)⟩
theorem fclass a b c d : Statement (.fclass a b c d) :=
  ⟨fun h => absurd ((f3_op _ _ _ _ _).symm.trans h) (by decide), fun h => absurd h (by decide)⟩
theorem fcmpEq a b c d e f : Statement (.fcmpEq a b c d e f) :=
  ⟨fun h => absurd ((f3_op _ _ _ _ _).symm.trans h) (by decide), fun h => absurd h (by decide)⟩
theorem fcmpLt a b c d e f : Statement (.fcmpLt a b c d e f) :=
  ⟨fun h => absurd ((f3_op _ _ _ _ _).symm.trans h) (by decide), fun h => absurd h (by decide)⟩
theorem fcmpLe a b c d e f : Statement (.fcmpLe a b c d e f) :=
  ⟨fun h => absurd ((f3_op _ _ _ _ _).symm.trans h) (by decide), fun h => absurd h (by decide)⟩
theorem fcmpUn a b c d e f : Statement (.fcmpUn a b c d e f) :=
  ⟨fun h => absurd ((f3_op _ _ _ _ _).symm.trans h) (by decide), fun h => absurd h (by decide)⟩
theorem fcvt a b c d e : Statement (.fcvt a b c d e) :=
  ⟨fun h => absurd ((fc_op _ _ _ _).symm.trans h) (by decide), fun h => absurd h (by decide)⟩
theorem padd a b c d e : Statement (.padd a b c d e) :=
  ⟨fun h => absurd ((f3_op _ _ _ _ _).symm.trans h) (by decide), fun h => absurd h (by decide)⟩
theorem psub a b c d e : Statement (.psub a b c d e) :=
  ⟨fun h => absurd ((f3_op _ _ _ _ _).symm.trans h) (by decide), fun h => absurd h (by decide)⟩
theorem padds a b c d e : Statement (.padds a b c d e) :=
  ⟨fun h => absurd ((f3_op _ _ _ _ _).symm.trans h) (by decide), fun h => absurd h (by decide)⟩
theorem psubs a b c d e : Statement (.psubs a b c d e) :=
  ⟨fun h => absurd ((f3_op _ _ _ _ _).symm.trans h) (by decide), fun h => absurd h (by decide)⟩
theorem paddn a b c d e : Statement (.paddn a b c d e) :=
  ⟨fun h => absurd ((f3_op _ _ _ _ _).symm.trans h) (by decide), fun h => absurd h (by decide)⟩
theorem psubn a b c d e : Statement (.psubn a b c d e) :=
  ⟨fun h => absurd ((f3_op _ _ _ _ _).symm.trans h) (by decide), fun h => absurd h (by decide)⟩
theorem pavg a b c d e : Statement (.pavg a b c d e) :=
  ⟨fun h => absurd ((f3_op _ _ _ _ _).symm.trans h) (by decide), fun h => absurd h (by decide)⟩
theorem pabs a b c d : Statement (.pabs a b c d) :=
  ⟨fun h => absurd ((f3_op _ _ _ _ _).symm.trans h) (by decide), fun h => absurd h (by decide)⟩
theorem pmul a b c d e : Statement (.pmul a b c d e) :=
  ⟨fun h => absurd ((f3_op _ _ _ _ _).symm.trans h) (by decide), fun h => absurd h (by decide)⟩
theorem pmulh a b c d e : Statement (.pmulh a b c d e) :=
  ⟨fun h => absurd ((f3_op _ _ _ _ _).symm.trans h) (by decide), fun h => absurd h (by decide)⟩
theorem pmin a b c d e : Statement (.pmin a b c d e) :=
  ⟨fun h => absurd ((f3_op _ _ _ _ _).symm.trans h) (by decide), fun h => absurd h (by decide)⟩
theorem pmax a b c d e : Statement (.pmax a b c d e) :=
  ⟨fun h => absurd ((f3_op _ _ _ _ _).symm.trans h) (by decide), fun h => absurd h (by decide)⟩
theorem pminn a b c d e : Statement (.pminn a b c d e) :=
  ⟨fun h => absurd ((f3_op _ _ _ _ _).symm.trans h) (by decide), fun h => absurd h (by decide)⟩
theorem pmaxn a b c d e : Statement (.pmaxn a b c d e) :=
  ⟨fun h => absurd ((f3_op _ _ _ _ _).symm.trans h) (by decide), fun h => absurd h (by decide)⟩
theorem pdot a b c d e : Statement (.pdot a b c d e) :=
  ⟨fun h => absurd ((f3_op _ _ _ _ _).symm.trans h) (by decide), fun h => absurd h (by decide)⟩
theorem psll a b c d e : Statement (.psll a b c d e) :=
  ⟨fun h => absurd ((f3_op _ _ _ _ _).symm.trans h) (by decide), fun h => absurd h (by decide)⟩
theorem psrl a b c d e : Statement (.psrl a b c d e) :=
  ⟨fun h => absurd ((f3_op _ _ _ _ _).symm.trans h) (by decide), fun h => absurd h (by decide)⟩
theorem psra a b c d e : Statement (.psra a b c d e) :=
  ⟨fun h => absurd ((f3_op _ _ _ _ _).symm.trans h) (by decide), fun h => absurd h (by decide)⟩
theorem pshuf a b c d e : Statement (.pshuf a b c d e) :=
  ⟨fun h => absurd ((f3_op _ _ _ _ _).symm.trans h) (by decide), fun h => absurd h (by decide)⟩
theorem ppack a b c d e : Statement (.ppack a b c d e) :=
  ⟨fun h => absurd ((f3_op _ _ _ _ _).symm.trans h) (by decide), fun h => absurd h (by decide)⟩
theorem punpk a b c d e : Statement (.punpk a b c d e) :=
  ⟨fun h => absurd ((f3_op _ _ _ _ _).symm.trans h) (by decide), fun h => absurd h (by decide)⟩
theorem pcmpeq a b c d e : Statement (.pcmpeq a b c d e) :=
  ⟨fun h => absurd ((f3_op _ _ _ _ _).symm.trans h) (by decide), fun h => absurd h (by decide)⟩
theorem pcmpgt a b c d e : Statement (.pcmpgt a b c d e) :=
  ⟨fun h => absurd ((f3_op _ _ _ _ _).symm.trans h) (by decide), fun h => absurd h (by decide)⟩
theorem cmpxEq a b c d e : Statement (.cmpxEq a b c d e) :=
  ⟨fun h => absurd ((f3_op _ _ _ _ _).symm.trans h) (by decide), fun h => absurd h (by decide)⟩
theorem cmpxNe a b c d e : Statement (.cmpxNe a b c d e) :=
  ⟨fun h => absurd ((f3_op _ _ _ _ _).symm.trans h) (by decide), fun h => absurd h (by decide)⟩
theorem cmpxLt a b c d e : Statement (.cmpxLt a b c d e) :=
  ⟨fun h => absurd ((f3_op _ _ _ _ _).symm.trans h) (by decide), fun h => absurd h (by decide)⟩
theorem cmpxGe a b c d e : Statement (.cmpxGe a b c d e) :=
  ⟨fun h => absurd ((f3_op _ _ _ _ _).symm.trans h) (by decide), fun h => absurd h (by decide)⟩
theorem cmpxLo a b c d e : Statement (.cmpxLo a b c d e) :=
  ⟨fun h => absurd ((f3_op _ _ _ _ _).symm.trans h) (by decide), fun h => absurd h (by decide)⟩
theorem cmpxHs a b c d e : Statement (.cmpxHs a b c d e) :=
  ⟨fun h => absurd ((f3_op _ _ _ _ _).symm.trans h) (by decide), fun h => absurd h (by decide)⟩
theorem cmpxTst a b c d e : Statement (.cmpxTst a b c d e) :=
  ⟨fun h => absurd ((f3_op _ _ _ _ _).symm.trans h) (by decide), fun h => absurd h (by decide)⟩
theorem cmpxNtst a b c d e : Statement (.cmpxNtst a b c d e) :=
  ⟨fun h => absurd ((f3_op _ _ _ _ _).symm.trans h) (by decide), fun h => absurd h (by decide)⟩
theorem tadd a b c d : Statement (.tadd a b c d) :=
  ⟨fun h => absurd ((ft_op _ _ _).symm.trans h) (by decide), fun h => absurd h (by decide)⟩
theorem tsub a b c d : Statement (.tsub a b c d) :=
  ⟨fun h => absurd ((ft_op _ _ _).symm.trans h) (by decide), fun h => absurd h (by decide)⟩
theorem tmul a b c d : Statement (.tmul a b c d) :=
  ⟨fun h => absurd ((ft_op _ _ _).symm.trans h) (by decide), fun h => absurd h (by decide)⟩
theorem tfma a b c d : Statement (.tfma a b c d) :=
  ⟨fun h => absurd ((ft_op _ _ _).symm.trans h) (by decide), fun h => absurd h (by decide)⟩
theorem tmin a b c d : Statement (.tmin a b c d) :=
  ⟨fun h => absurd ((ft_op _ _ _).symm.trans h) (by decide), fun h => absurd h (by decide)⟩
theorem tmax a b c d : Statement (.tmax a b c d) :=
  ⟨fun h => absurd ((ft_op _ _ _).symm.trans h) (by decide), fun h => absurd h (by decide)⟩
theorem tsel a b c d : Statement (.tsel a b c d) :=
  ⟨fun h => absurd ((ft_op _ _ _).symm.trans h) (by decide), fun h => absurd h (by decide)⟩
theorem tcvt a b c : Statement (.tcvt a b c) :=
  ⟨fun h => absurd ((ft_op _ _ _).symm.trans h) (by decide), fun h => absurd h (by decide)⟩
theorem texp2 a b c : Statement (.texp2 a b c) :=
  ⟨fun h => absurd ((ft_op _ _ _).symm.trans h) (by decide), fun h => absurd h (by decide)⟩
theorem tlog2 a b c : Statement (.tlog2 a b c) :=
  ⟨fun h => absurd ((ft_op _ _ _).symm.trans h) (by decide), fun h => absurd h (by decide)⟩
theorem trcp a b c : Statement (.trcp a b c) :=
  ⟨fun h => absurd ((ft_op _ _ _).symm.trans h) (by decide), fun h => absurd h (by decide)⟩
theorem tcopy a b c : Statement (.tcopy a b c) :=
  ⟨fun h => absurd ((ft_op _ _ _).symm.trans h) (by decide), fun h => absurd h (by decide)⟩
theorem tredSum a b c : Statement (.tredSum a b c) :=
  ⟨fun h => absurd ((ft_op _ _ _).symm.trans h) (by decide), fun h => absurd h (by decide)⟩
theorem tredMax a b c : Statement (.tredMax a b c) :=
  ⟨fun h => absurd ((ft_op _ _ _).symm.trans h) (by decide), fun h => absurd h (by decide)⟩
theorem tscale a b c d : Statement (.tscale a b c d) :=
  ⟨fun h => absurd ((ft_op _ _ _).symm.trans h) (by decide), fun h => absurd h (by decide)⟩
theorem tfill a b c : Statement (.tfill a b c) :=
  ⟨fun h => absurd ((ft_op _ _ _).symm.trans h) (by decide), fun h => absurd h (by decide)⟩
theorem tmask a b c d : Statement (.tmask a b c d) :=
  ⟨fun h => absurd ((ft_op _ _ _).symm.trans h) (by decide), fun h => absurd h (by decide)⟩
theorem push a b c d : Statement (.push a b c d) :=
  ⟨fun h => absurd ((f3_op _ _ _ _ _).symm.trans h) (by decide), fun h => absurd h (by decide)⟩
theorem pop a b c d : Statement (.pop a b c d) :=
  ⟨fun h => absurd ((f3_op _ _ _ _ _).symm.trans h) (by decide), fun h => absurd h (by decide)⟩
theorem peek a b c d : Statement (.peek a b c d) :=
  ⟨fun h => absurd ((f3_op _ _ _ _ _).symm.trans h) (by decide), fun h => absurd h (by decide)⟩
theorem rwaitF a b c : Statement (.rwaitF a b c) :=
  ⟨fun h => absurd ((fr_op _ _ _ _).symm.trans h) (by decide), fun h => absurd h (by decide)⟩
theorem rwaitE a b c : Statement (.rwaitE a b c) :=
  ⟨fun h => absurd ((fr_op _ _ _ _).symm.trans h) (by decide), fun h => absurd h (by decide)⟩
theorem radvP a b c : Statement (.radvP a b c) :=
  ⟨fun h => absurd ((fr_op _ _ _ _).symm.trans h) (by decide), fun h => absurd h (by decide)⟩
theorem radvC a b c : Statement (.radvC a b c) :=
  ⟨fun h => absurd ((fr_op _ _ _ _).symm.trans h) (by decide), fun h => absurd h (by decide)⟩
theorem hdef a b c d : Statement (.hdef a b c d) :=
  ⟨fun h => absurd ((fr_op _ _ _ _).symm.trans h) (by decide), fun h => absurd h (by decide)⟩
theorem hrd a b c d : Statement (.hrd a b c d) :=
  ⟨fun h => absurd ((fr_op _ _ _ _).symm.trans h) (by decide), fun h => absurd h (by decide)⟩
theorem hmov a b c : Statement (.hmov a b c) :=
  ⟨fun h => absurd ((fr_op _ _ _ _).symm.trans h) (by decide), fun h => absurd h (by decide)⟩
theorem send a b c d : Statement (.send a b c d) :=
  ⟨fun h => absurd ((f3_op _ _ _ _ _).symm.trans h) (by decide), fun h => absurd h (by decide)⟩
theorem hret a : Statement (.hret a) :=
  ⟨fun h => absurd ((f3_op _ _ _ _ _).symm.trans h) (by decide), fun h => absurd h (by decide)⟩
theorem ldfe a b c d : Statement (.ldfe a b c d) :=
  ⟨fun h => absurd ((f3_op _ _ _ _ _).symm.trans h) (by decide), fun h => absurd h (by decide)⟩
theorem ldff a b c d : Statement (.ldff a b c d) :=
  ⟨fun h => absurd ((f3_op _ _ _ _ _).symm.trans h) (by decide), fun h => absurd h (by decide)⟩
theorem stfe a b c d : Statement (.stfe a b c d) :=
  ⟨fun h => absurd ((f3_op _ _ _ _ _).symm.trans h) (by decide), fun h => absurd h (by decide)⟩
theorem stef a b c d : Statement (.stef a b c d) :=
  ⟨fun h => absurd ((f3_op _ _ _ _ _).symm.trans h) (by decide), fun h => absurd h (by decide)⟩
theorem feSet a b c : Statement (.feSet a b c) :=
  ⟨fun h => absurd ((f3_op _ _ _ _ _).symm.trans h) (by decide), fun h => absurd h (by decide)⟩
theorem feClr a b c : Statement (.feClr a b c) :=
  ⟨fun h => absurd ((f3_op _ _ _ _ _).symm.trans h) (by decide), fun h => absurd h (by decide)⟩
theorem feRd a b c d : Statement (.feRd a b c d) :=
  ⟨fun h => absurd ((f3_op _ _ _ _ _).symm.trans h) (by decide), fun h => absurd h (by decide)⟩
theorem waddrEq a b c : Statement (.waddrEq a b c) :=
  ⟨fun h => absurd ((f3_op _ _ _ _ _).symm.trans h) (by decide), fun h => absurd h (by decide)⟩
theorem waddrNe a b c : Statement (.waddrNe a b c) :=
  ⟨fun h => absurd ((f3_op _ _ _ _ _).symm.trans h) (by decide), fun h => absurd h (by decide)⟩
theorem barArrive a b : Statement (.barArrive a b) :=
  ⟨fun h => absurd ((f3_op _ _ _ _ _).symm.trans h) (by decide), fun h => absurd h (by decide)⟩
theorem barWait a b c : Statement (.barWait a b c) :=
  ⟨fun h => absurd ((f3_op _ _ _ _ _).symm.trans h) (by decide), fun h => absurd h (by decide)⟩
theorem joinDec a b : Statement (.joinDec a b) :=
  ⟨fun h => absurd ((f3_op _ _ _ _ _).symm.trans h) (by decide), fun h => absurd h (by decide)⟩
theorem joinWait a b : Statement (.joinWait a b) :=
  ⟨fun h => absurd ((f3_op _ _ _ _ _).symm.trans h) (by decide), fun h => absurd h (by decide)⟩
theorem cflush a b c : Statement (.cflush a b c) :=
  ⟨fun h => absurd ((f3_op _ _ _ _ _).symm.trans h) (by decide), fun h => absurd h (by decide)⟩
theorem cinval a b c : Statement (.cinval a b c) :=
  ⟨fun h => absurd ((f3_op _ _ _ _ _).symm.trans h) (by decide), fun h => absurd h (by decide)⟩
theorem amoAdd a b c d e : Statement (.amoAdd a b c d e) :=
  ⟨fun h => absurd ((f3_op _ _ _ _ _).symm.trans h) (by decide), fun h => absurd h (by decide)⟩
theorem amoAnd a b c d e : Statement (.amoAnd a b c d e) :=
  ⟨fun h => absurd ((f3_op _ _ _ _ _).symm.trans h) (by decide), fun h => absurd h (by decide)⟩
theorem amoOr a b c d e : Statement (.amoOr a b c d e) :=
  ⟨fun h => absurd ((f3_op _ _ _ _ _).symm.trans h) (by decide), fun h => absurd h (by decide)⟩
theorem amoXor a b c d e : Statement (.amoXor a b c d e) :=
  ⟨fun h => absurd ((f3_op _ _ _ _ _).symm.trans h) (by decide), fun h => absurd h (by decide)⟩
theorem amoMin a b c d e : Statement (.amoMin a b c d e) :=
  ⟨fun h => absurd ((f3_op _ _ _ _ _).symm.trans h) (by decide), fun h => absurd h (by decide)⟩
theorem amoMax a b c d e : Statement (.amoMax a b c d e) :=
  ⟨fun h => absurd ((f3_op _ _ _ _ _).symm.trans h) (by decide), fun h => absurd h (by decide)⟩
theorem amoMinn a b c d e : Statement (.amoMinn a b c d e) :=
  ⟨fun h => absurd ((f3_op _ _ _ _ _).symm.trans h) (by decide), fun h => absurd h (by decide)⟩
theorem amoMaxn a b c d e : Statement (.amoMaxn a b c d e) :=
  ⟨fun h => absurd ((f3_op _ _ _ _ _).symm.trans h) (by decide), fun h => absurd h (by decide)⟩
theorem amoSwap a b c d e : Statement (.amoSwap a b c d e) :=
  ⟨fun h => absurd ((f3_op _ _ _ _ _).symm.trans h) (by decide), fun h => absurd h (by decide)⟩
theorem amoCas a b c d e : Statement (.amoCas a b c d e) :=
  ⟨fun h => absurd ((f3_op _ _ _ _ _).symm.trans h) (by decide), fun h => absurd h (by decide)⟩
theorem redAdd a b c d : Statement (.redAdd a b c d) :=
  ⟨fun h => absurd ((f3_op _ _ _ _ _).symm.trans h) (by decide), fun h => absurd h (by decide)⟩
theorem redRd a b c d : Statement (.redRd a b c d) :=
  ⟨fun h => absurd ((f3_op _ _ _ _ _).symm.trans h) (by decide), fun h => absurd h (by decide)⟩
theorem mig a b : Statement (.mig a b) :=
  ⟨fun h => absurd ((f3_op _ _ _ _ _).symm.trans h) (by decide), fun h => absurd h (by decide)⟩
theorem spawn a b c : Statement (.spawn a b c) :=
  ⟨fun h => absurd ((f3_op _ _ _ _ _).symm.trans h) (by decide), fun h => absurd h (by decide)⟩
theorem rdsrPriv a b c : Statement (.rdsrPriv a b c) :=
  ⟨fun h => absurd ((fi_op _ _ _ _).symm.trans h) (by decide), fun h => absurd h (by decide)⟩
theorem wrsrPriv a b c : Statement (.wrsrPriv a b c) :=
  ⟨fun h => absurd ((fi_op _ _ _ _).symm.trans h) (by decide), fun h => absurd h (by decide)⟩
theorem eret a : Statement (.eret a) :=
  ⟨fun h => absurd ((f3_op _ _ _ _ _).symm.trans h) (by decide), fun h => absurd h (by decide)⟩
theorem upret a b : Statement (.upret a b) :=
  ⟨fun h => absurd ((f3_op _ _ _ _ _).symm.trans h) (by decide), fun h => absurd h (by decide)⟩
theorem tlbinv a b c : Statement (.tlbinv a b c) :=
  ⟨fun h => absurd ((f3_op _ _ _ _ _).symm.trans h) (by decide), fun h => absurd h (by decide)⟩
theorem seginv a b : Statement (.seginv a b) :=
  ⟨fun h => absurd ((f3_op _ _ _ _ _).symm.trans h) (by decide), fun h => absurd h (by decide)⟩
theorem sltWr a b c : Statement (.sltWr a b c) :=
  ⟨fun h => absurd ((f3_op _ _ _ _ _).symm.trans h) (by decide), fun h => absurd h (by decide)⟩
theorem capmint a b c d : Statement (.capmint a b c d) :=
  ⟨fun h => absurd ((f3_op _ _ _ _ _).symm.trans h) (by decide), fun h => absurd h (by decide)⟩
theorem rdtick a b : Statement (.rdtick a b) :=
  ⟨fun h => absurd ((f3_op _ _ _ _ _).symm.trans h) (by decide), fun h => absurd h (by decide)⟩
theorem cxld a b c d : Statement (.cxld a b c d) :=
  ⟨fun h => absurd ((f3_op _ _ _ _ _).symm.trans h) (by decide), fun h => absurd h (by decide)⟩
theorem cxst a b c d : Statement (.cxst a b c d) :=
  ⟨fun h => absurd ((f3_op _ _ _ _ _).symm.trans h) (by decide), fun h => absurd h (by decide)⟩
theorem ymark a b : Statement (.ymark a b) :=
  ⟨fun h => absurd ((f3_op _ _ _ _ _).symm.trans h) (by decide), fun h => absurd h (by decide)⟩
theorem yrd a b c : Statement (.yrd a b c) :=
  ⟨fun h => absurd ((f3_op _ _ _ _ _).symm.trans h) (by decide), fun h => absurd h (by decide)⟩
theorem yctl a b c : Statement (.yctl a b c) :=
  ⟨fun h => absurd ((f3_op _ _ _ _ _).symm.trans h) (by decide), fun h => absurd h (by decide)⟩
theorem cflRd a b : Statement (.cflRd a b) :=
  ⟨fun h => absurd ((f3_op _ _ _ _ _).symm.trans h) (by decide), fun h => absurd h (by decide)⟩
theorem cflClr a b : Statement (.cflClr a b) :=
  ⟨fun h => absurd ((f3_op _ _ _ _ _).symm.trans h) (by decide), fun h => absurd h (by decide)⟩
theorem mmFmt a b : Statement (.mmFmt a b) := trivial
theorem mmMul a b : Statement (.mmMul a b) := trivial
theorem mmRowAdvance a b : Statement (.mmRowAdvance a b) := trivial
theorem slGather a : Statement (.slGather a) := trivial
theorem slScatter a : Statement (.slScatter a) := trivial
theorem slScatadd a : Statement (.slScatadd a) := trivial
theorem flCopy a : Statement (.flCopy a) := trivial
theorem flFill a : Statement (.flFill a) := trivial
theorem boTopk a : Statement (.boTopk a) := trivial
theorem boMerge a : Statement (.boMerge a) := trivial
theorem qnBag a : Statement (.qnBag a) := trivial
theorem ywLoad a : Statement (.ywLoad a) := trivial
theorem ywAttach a : Statement (.ywAttach a) := trivial
theorem ywDetach a : Statement (.ywDetach a) := trivial
theorem ywDump a : Statement (.ywDump a) := trivial
theorem completionDelivery a : Statement (.completionDelivery a) := trivial
theorem fillResponse a : Statement (.fillResponse a) := trivial
theorem contextEvent a : Statement (.contextEvent a) := trivial
theorem sleepWake a b : Statement (.sleepWake a b) := trivial
theorem hostAddrPoll a b : Statement (.hostAddrPoll a b) := trivial
theorem probeAnswer a b : Statement (.probeAnswer a b) := trivial
theorem fenceDrain a b : Statement (.fenceDrain a b) := trivial
theorem storeQueuePerform a b : Statement (.storeQueuePerform a b) := trivial
theorem stage1Walk a b : Statement (.stage1Walk a b) := trivial
theorem llcMiss a b c d : Statement (.llcMiss a b c d) := trivial
theorem pageResponse a b c : Statement (.pageResponse a b c) := trivial
theorem reclass a : Statement (.reclass a) := trivial
theorem dirLoadMiss a b c d : Statement (.dirLoadMiss a b c d) := trivial
theorem dirStoreOwnership a b c d : Statement (.dirStoreOwnership a b c d) := trivial
theorem dirWriteBack a b c d : Statement (.dirWriteBack a b c d) := trivial
theorem dirCoreEvict a b c : Statement (.dirCoreEvict a b c) := trivial
theorem hostRead a b : Statement (.hostRead a b) := trivial
theorem hostWrite a b c d : Statement (.hostWrite a b c d) := trivial
theorem tailraceWalk a : Statement (.tailraceWalk a) := trivial
theorem frameAssign a b c d : Statement (.frameAssign a b c d) := trivial
theorem frameRelease a : Statement (.frameRelease a) := trivial
theorem frameScrubDone a : Statement (.frameScrubDone a) := trivial
theorem contextEviction a b : Statement (.contextEviction a b) := trivial
theorem contextPull a : Statement (.contextPull a) := trivial
theorem contextWriteBack a b : Statement (.contextWriteBack a b) := trivial
theorem contextFetch a b : Statement (.contextFetch a b) := trivial
theorem migrationArrival a : Statement (.migrationArrival a) := trivial
theorem arrivalAck a b : Statement (.arrivalAck a b) := trivial
theorem launchDelivery a b : Statement (.launchDelivery a b) := trivial
theorem faultHandlerStart a : Statement (.faultHandlerStart a) := trivial
theorem messageArrival a b : Statement (.messageArrival a b) := trivial
theorem messageHandlerStart a : Statement (.messageHandlerStart a) := trivial
theorem watchDelivery a b : Statement (.watchDelivery a b) := trivial
theorem qtailDoorbell a b c : Statement (.qtailDoorbell a b c) := trivial
theorem wqLaunch a b : Statement (.wqLaunch a b) := trivial
theorem wqGang a b : Statement (.wqGang a b) := trivial
theorem wqEntryPoll a b : Statement (.wqEntryPoll a b) := trivial
theorem wqEntryTimeout a b : Statement (.wqEntryTimeout a b) := trivial
theorem errClear a b : Statement (.errClear a b) := trivial
theorem rcbAdmit a b : Statement (.rcbAdmit a b) := trivial
theorem rcbFinish a b : Statement (.rcbFinish a b) := trivial
theorem cycleBudgetAbort a b : Statement (.cycleBudgetAbort a b) := trivial
theorem deadlinePass a b : Statement (.deadlinePass a b) := trivial
theorem sliceEnd a : Statement (.sliceEnd a) := trivial
theorem vfSwitchSweep a : Statement (.vfSwitchSweep a) := trivial
theorem scratchpadScrub a : Statement (.scratchpadScrub a) := trivial
theorem scratchpadScrubEnd a : Statement (.scratchpadScrubEnd a) := trivial
theorem clusterMemoryFill a : Statement (.clusterMemoryFill a) := trivial
theorem clusterMemoryFillEnd a : Statement (.clusterMemoryFillEnd a) := trivial
theorem gangReady a b : Statement (.gangReady a b) := trivial
theorem gangAbort a b : Statement (.gangAbort a b) := trivial
theorem gangReadyDeadline a : Statement (.gangReadyDeadline a) := trivial
theorem gangStart a : Statement (.gangStart a) := trivial
theorem filterRun a b : Statement (.filterRun a b) := trivial
theorem yarrowTickEvent a b c : Statement (.yarrowTickEvent a b c) := trivial
theorem yarrowBudgetWindow a : Statement (.yarrowBudgetWindow a) := trivial
theorem triggerWrite a : Statement (.triggerWrite a) := trivial
theorem counterIncrement a : Statement (.counterIncrement a) := trivial
theorem split a : Statement (.split a) := trivial
theorem merge a : Statement (.merge a) := trivial
theorem vfNodeWrite a b : Statement (.vfNodeWrite a b) := trivial
theorem ctxSegmentWrite a b c : Statement (.ctxSegmentWrite a b c) := trivial
theorem bankMaskWrite a b c : Statement (.bankMaskWrite a b c) := trivial
theorem vfReset a : Statement (.vfReset a) := trivial
theorem fmBind a b : Statement (.fmBind a b) := trivial
theorem fmUnbind a : Statement (.fmUnbind a) := trivial
theorem parityError a b : Statement (.parityError a b) := trivial
theorem linkRetrain a b : Statement (.linkRetrain a b) := trivial
theorem replayTimeout a b : Statement (.replayTimeout a b) := trivial
theorem replayRecordError a b : Statement (.replayRecordError a b) := trivial
theorem contextLineLost a b : Statement (.contextLineLost a b) := trivial
theorem patrolScrub a b : Statement (.patrolScrub a b) := trivial
theorem fvClear a : Statement (.fvClear a) := trivial
theorem wassign : Statement .wassign := trivial
theorem setw : Statement .setw := trivial
theorem stage a : Statement (.stage a) := trivial
theorem commit : Statement .commit := trivial
theorem attest : Statement .attest := trivial
theorem setsec : Statement .setsec := trivial
theorem moduleReset : Statement .moduleReset := trivial
theorem mgmtSession a : Statement (.mgmtSession a) := trivial
theorem powerCapWrite a : Statement (.powerCapWrite a) := trivial
theorem throttleLevelChange a b : Statement (.throttleLevelChange a b) := trivial
theorem thermalTrip a : Statement (.thermalTrip a) := trivial
theorem globalTick : Statement .globalTick := trivial
theorem tickUnsynchronised : Statement .tickUnsynchronised := trivial
theorem cxlPortDown a : Statement (.cxlPortDown a) := trivial
theorem registerWrite a b : Statement (.registerWrite a b) := trivial
theorem illegalEncoding a : Statement (.illegalEncoding a) := trivial
theorem partialCommandAbandon a b c : Statement (.partialCommandAbandon a b c) := trivial
theorem arrivalToContextL2 a : Statement (.arrivalToContextL2 a) := trivial
theorem powerLoss : Statement .powerLoss := trivial
theorem linkRetry a : Statement (.linkRetry a) := trivial

end Sys2Proof.Laws.Encoding
end

