-- ==== Sys2Proof/Tests/Slice0.lean ====
section
/-! SUPPORT. Tests: decoding of words written out from the manual's tables, terms that `wellFormed` refuses, and for every
statement a concrete state that meets its hypotheses, clause by clause, with the value that the manual gives there. -/
namespace Sys2Proof.Tests
open Sys2Proof.Machine Sys2Proof.Claims

set_option Elab.async false

/-! ## Small states -/

/-- The state that an operation answers. -/
def gives (o : Out) (f : State → Bool) : Bool :=
  match o with
  | .next t => f t
  | _ => false

/-- The segment registers of the test context: code, scratchpad, cluster memory, module memory, homed, capacity and host
memory. -/
def segs : List Seg :=
  [Seg.mk true 0 (2 ^ 48) false false true false false .code,
   Seg.mk true 0 0x20000 true true false true true .scratch,
   Seg.mk true 0 0x200000 true true false true true .cluster,
   Seg.mk true 0 (2 ^ 40) true true false true true .plain,
   Seg.mk true 0 0x100000 true true false true true .homed,
   Seg.mk true 0 (2 ^ 40) true true false true true .capacity,
   Seg.mk true (2 ^ 47) (2 ^ 40) true true false true false .plain,
   Seg.invalid]

/-- A pointer of a segment register and an offset. -/
def ptr (sel off : Nat) : Word := BitVec.ofNat 64 (sel * 2 ^ 61 + off)

/-- The line of the test context: pc 0x100, user mode, the given registers. -/
def lineOf (g : Vector Word 8) : Line := { Line.blank with pc := 0x100, vfid := 3, g := g }

def slotOf (l : Line) : Slot := Slot.mk l (.ctx 3 5) segs true 0 0 false 0 none false 0x8000

/-- Context 5 of VF 3, which holds the root partition, in way 0 of core 0, with stage 1 off. -/
def on (l : Line) : State :=
  { State.reset with
    cores := [(0, { Core.reset with ways := [(0, slotOf l)], resident := some 3 })]
    vfs := [(3, { Vf.reset with node := 1, st := 1, ctxbase := 0x100000, ctxlen := 64 })]
    ctxs := [(3 * 2 ^ 40 + 5, Ctx.mk (.l1 0 0) 0x8000 none false none false none)]
    parts := [(1, { Part.idle with resident := some 3, sliceEnd := 1000 })] }

def g0 : Vector Word 8 := #v[0, 0xFFFFFFFFFFFFFFFF, 2, 0x8000000000000000, 7, 0x3F800000, 0x40000000, 0x200]
def l0 : Line := lineOf g0
def s0 : State := on l0
def sl0 : Slot := slotOf l0

/-- A guard on predicate 0, sense true. -/
def gd : Pre := Pre.mk (some (Guard.mk 0 0)) none []

theorem test_ready : Ready s0 sl0 Pre.plain := ⟨by decide +kernel, by decide +kernel, by decide +kernel⟩

/-- The register of the issuing context after an operation. -/
def reg (o : Out) (r : BitVec 3) (v : Word) : Bool := gives o fun t => t.cur?.any fun x => x.line.reg r = v
def pcIs (o : Out) (v : Nat) : Bool := gives o fun t => t.cur?.any fun x => x.line.pc.toNat = v
def trapsWith (o : Out) (cause : BitVec 16) (tval : Word) : Bool :=
  gives o fun t => t.cur?.any fun x => x.line.tcause = cause && x.line.tval = tval && x.line.wt = .upcall
def waits (o : Out) (k : WaitKind) : Bool := gives o fun t => t.cur?.any fun x => x.line.wt = k

/-! ## Integer forms (R88 to R94) -/

theorem test_add_wraps : (∃ f, intForm (.add Pre.plain 4 1 2) = some (Pre.plain, 4, 1, 2, f, 8)) ∧
    reg (exec (.add Pre.plain 4 1 2) s0) 4 1 = true := ⟨⟨_, rfl⟩, by decide +kernel⟩
theorem test_sub_wraps : reg (exec (.sub Pre.plain 4 0 2) s0) 4 0xFFFFFFFFFFFFFFFE = true := by decide +kernel
theorem test_sar_keeps_sign : reg (exec (.sar Pre.plain 4 3 2) s0) 4 0xE000000000000000 = true := by decide +kernel
theorem test_mulh_signed : reg (exec (.mulh Pre.plain 4 1 1) s0) 4 0 = true := by decide +kernel
theorem test_mulhn_unsigned : reg (exec (.mulhn Pre.plain 4 1 1) s0) 4 0xFFFFFFFFFFFFFFFE = true := by decide +kernel
theorem test_min_signed : reg (exec (.min Pre.plain 4 3 2) s0) 4 0x8000000000000000 = true := by decide +kernel
theorem test_minn_unsigned : reg (exec (.minn Pre.plain 4 3 2) s0) 4 2 = true := by decide +kernel
theorem test_addi_negative : (∃ v, moveForm (.addi Pre.plain 4 2 0x3F) l0 = some (Pre.plain, 4, v)) ∧
    reg (exec (.addi Pre.plain 4 2 0x3F) s0) 4 1 = true := ⟨⟨_, rfl⟩, by decide +kernel⟩
theorem test_rori : reg (exec (.rori Pre.plain 4 2 2) s0) 4 0x8000000000000000 = true := by decide +kernel
theorem test_wrp_keeps_p0 : gives (exec (.wrp Pre.plain 2) s0) (fun t => t.cur?.any fun x => x.line.pw = 3) = true := by
  decide +kernel
theorem test_sel_guarded_off : s0.cur? = some sl0 ∧ sl0.line.step = false ∧
    reg (exec (.sel (Pre.mk (some (Guard.mk 1 0)) none []) 4 1 2) s0) 4 2 = true := by decide +kernel
theorem test_cmp_signed : (∃ c, cmpForm (.cmpLt Pre.plain 1 3 2) = some (Pre.plain, 1, 3, 2, c)) ∧
    gives (exec (.cmpLt Pre.plain 1 3 2) s0) (fun t => t.cur?.any fun x => x.line.pw = 3) = true :=
  ⟨⟨_, rfl⟩, by decide +kernel⟩
theorem test_cmp_p0_discards : gives (exec (.cmpNe Pre.plain 0 2 2) s0) (fun t => t.cur?.any fun x => x.line.pw = 1) = true :=
  by decide +kernel
theorem test_cmpx_high : gives (exec (.cmpxLo Pre.plain 3 7 2 3) s0)
    (fun t => t.cur?.any fun x => x.line.pw = 0x80000001) = true := by decide +kernel

/-! ## Packed forms (R110 to R112) -/

theorem test_padds_saturates : (∃ f, laneForm (.padds Pre.plain 0 4 3 3) = some f ∧ f.pre = Pre.plain) ∧
    (Instr.padds Pre.plain 0 4 3 3).wellFormed = true ∧ reg (exec (.padds Pre.plain 0 4 3 3) s0) 4 0x8000000000000000 = true ∧
    gives (exec (.padds Pre.plain 0 4 3 3) s0) (fun t => t.cur?.any fun x => x.line.fcsr = 0x100) = true :=
  ⟨⟨_, rfl, rfl⟩, by decide +kernel, by decide +kernel, by decide +kernel⟩
theorem test_paddH_wraps : (∃ f, laneForm (.paddH Pre.plain 4 1 2) = some f ∧ f.pre = Pre.plain) ∧
    reg (exec (.paddH Pre.plain 4 1 2) s0) 4 0xFFFFFFFFFFFF0001 = true := ⟨⟨_, rfl, rfl⟩, by decide +kernel⟩
theorem test_pdot : Ready s0 sl0 Pre.plain ∧ (0 : BitVec 2) ≠ 3 ∧ reg (exec (.pdot Pre.plain 0 4 1 2) s0) 4 5 = true :=
  ⟨test_ready, by decide, by decide +kernel⟩
theorem test_pshuf : reg (exec (.pshuf Pre.plain 0 4 6 2) s0) 4 0 = true := by decide +kernel
theorem test_ppack : ((1 : BitVec 2) = 1 ∨ (1 : BitVec 2) = 2) ∧ reg (exec (.ppack Pre.plain 1 4 7 2) s0) 4 0x000000020000007F = true ∧
    gives (exec (.ppack Pre.plain 1 4 7 2) s0) (fun t => t.cur?.any fun x => x.line.fcsr = 0x100) = true := by decide +kernel
theorem test_punpk : reg (exec (.punpk Pre.plain 2 4 2 4) s0) 4 0x0000000700000002 = true := by decide +kernel

/-! ## Float forms (R113 to R121) -/

theorem test_fadd : (∃ r, floatForm (.fadd Pre.plain 0 4 5 6) l0 = some (Pre.plain, 4, r, 12)) ∧
    reg (exec (.fadd Pre.plain 0 4 5 6) s0) 4 0x40400000 = true := ⟨⟨_, rfl⟩, by decide +kernel⟩
theorem test_fdiv_by_zero : reg (exec (.fdiv Pre.plain 0 4 5 0) s0) 4 0x7F800000 = true ∧
    gives (exec (.fdiv Pre.plain 0 4 5 0) s0) (fun t => t.cur?.any fun x => x.line.fcsr = 0x40) = true := by decide +kernel
theorem test_fcmp : (∃ c nv, fcmpForm (.fcmpLt Pre.plain 0 0 1 5 6) l0 = some (Pre.plain, 1, c, nv)) ∧
    gives (exec (.fcmpLt Pre.plain 0 0 1 5 6) s0) (fun t => t.cur?.any fun x => x.line.pw = 3) = true :=
  ⟨⟨_, _, rfl⟩, by decide +kernel⟩
theorem test_rounding_hypothesis : 0 < 1 := by decide
theorem test_overflow : (0 : BitVec 2) ≠ 3 ∧ 1 < 5 ∧ 0 < 1 ∧ ((fmtOf 0).bias : Int) + 1 ≤ (Nat.log2 1 : Int) + 128 ∧
    (fmtOf 0).deliver 1 false (.num false 1 128) = (0x7F7FFFFF, 0x028) := by decide +kernel
theorem test_nan : (FVal.nan true).isNaN = true ∧ (fmtOf 0).addOp 0 false (.nan true) (.zero false) = (0x7FC00000, 0x80) ∧
    (fmtOf 0).fmaOp 0 false (.zero false) (.zero false) (.nan true) = (0x7FC00000, 0x80) := by decide +kernel

/-! ## Control (R15, R16, R95 to R109) -/

theorem test_rdsr_ctxid : reg (exec (.rdsr Pre.plain 4 7) s0) 4 0x30000000005 = true := by decide +kernel
theorem test_wrsr_offset_even : (1 : BitVec 3) ≠ 7 ∧ ((1 : BitVec 3) ≠ 0 ∨ (l0.reg 4).toNat % 8 < 5) ∧
    gives (exec (.wrsr Pre.plain 4 1) s0) (fun t => t.cur?.any fun x => x.line.lb0 = 6) = true := by decide +kernel
theorem test_wrsr_rm_traps : ((0 : BitVec 3) = 0 ∧ 5 ≤ (l0.reg 4).toNat % 8) ∧ trapsWith (exec (.wrsr Pre.plain 4 0) s0) 0x01 7 = true :=
  by decide +kernel
theorem test_jr : (∃ f, jumpForm (.jr Pre.plain 7) l0 = some (Pre.plain, true, 0x200, f)) ∧ targetCause 0x200 = none ∧
    pcIs (exec (.jr Pre.plain 7) s0) 0x200 = true := ⟨⟨_, rfl⟩, by decide +kernel, by decide +kernel⟩
theorem test_jr_traps : (∃ f, jumpForm (.jr Pre.plain 4) l0 = some (Pre.plain, true, 7, f)) ∧ targetCause 7 = some 0x05 ∧
    trapsWith (exec (.jr Pre.plain 4) s0) 0x05 7 = true := ⟨⟨_, rfl⟩, by decide +kernel, by decide +kernel⟩
theorem test_br_untaken : (∃ t f, jumpForm (.br Pre.plain 1 0 4) l0 = some (Pre.plain, false, t, f)) ∧
    pcIs (exec (.br Pre.plain 1 0 4) s0) 0x102 = true := ⟨⟨_, _, rfl⟩, by decide +kernel⟩
theorem test_call_links : reg (exec (.call Pre.plain 4) s0) 7 0x102 = true ∧ pcIs (exec (.call Pre.plain 4) s0) 0x10A = true :=
  by decide +kernel
theorem test_loop_opens : Pre.plain.immU (3 : BitVec 8) = (3 : Nat) ∧ nextPc l0 (.loop Pre.plain 0 2 3) + 2 * 3 < 2 ^ 32 ∧
    gives (exec (.loop Pre.plain 0 2 3) s0)
      (fun t => t.cur?.any fun x => x.line.lb0 = 0x102 && x.line.le0 = 0x106 && x.line.lc0 = 2) = true := by decide +kernel
theorem test_loop_of_none : pcIs (exec (.loop Pre.plain 1 0 3) s0) 0x108 = true := by decide +kernel
theorem test_loop_beyond : 2 ^ 32 ≤ nextPc { l0 with pc := 0xFFFFFFFC } (.loop Pre.plain 0 2 1) + 2 * 1 ∧
    trapsWith (exec (.loop Pre.plain 0 2 1) (on { l0 with pc := 0xFFFFFFFC })) 0x0D 0xFFFFFFFC = true := by decide +kernel
theorem test_loop_fires : pcIs (exec (.nop Pre.plain) (on { l0 with lb0 := 0x80, le0 := 0x100, lc0 := 2 })) 0x80 = true ∧
    pcIs (exec (.nop Pre.plain) (on { l0 with lb0 := 0x80, le0 := 0x100, lc0 := 1 })) 0x102 = true := by decide +kernel
theorem test_yield : gives (exec (.yield Pre.plain) s0) (fun t => t.cur?.any fun x => x.yieldUntil = 32 && x.readyAt = 8) = true :=
  by decide +kernel
theorem test_sleep_done : (l0.reg 0).toNat ≤ s0.tick ∧ pcIs (exec (.sleep Pre.plain 0) s0) 0x102 = true := by decide +kernel
theorem test_sleep_waits : s0.tick < (l0.reg 4).toNat ∧ sl0.who = .ctx 3 5 ∧ (s0.ctx? 3 5).isSome = true ∧
    waits (exec (.sleep Pre.plain 4) s0) .sleep = true := by decide +kernel

/-- A handler of VF 3 in way 60 of core 0. -/
def hline : Line := { l0 with handler := true, supervisor := true }
def hslot : Slot := { slotOf hline with who := .handler 0 0 0 3 }
def hs : State := { s0 with run := (0, 60), cores := [(0, { Core.reset with ways := [(60, hslot)], resident := some 3 })] }

theorem test_sleep_in_handler : Ready hs hslot Pre.plain ∧ hs.tick < (hline.reg 4).toNat ∧ hslot.who = .handler 0 0 0 3 ∧
    gives (exec (.sleep Pre.plain 4) hs) (fun t => (t.slot? 0 60).isNone) = true :=
  ⟨⟨by decide +kernel, by decide +kernel, by decide +kernel⟩, by decide +kernel, rfl, by decide +kernel⟩
theorem test_trap_code : Pre.plain.immU (5 : BitVec 6) = (5 : Nat) ∧ 5 < 2 ^ 16 ∧
    trapsWith (exec (.trap Pre.plain 5) s0) 0x0F 0x1000005 = true ∧ pcIs (exec (.trap Pre.plain 5) s0) 0x102 = true := by
  decide +kernel
def stepping : Line := { l0 with step := true }
theorem test_single_step : (∃ f, intForm (.add Pre.plain 4 1 2) = some (Pre.plain, 4, 1, 2, f, 8)) ∧
    (on stepping).cur? = some (slotOf stepping) ∧ guardHolds Pre.plain stepping = true ∧
    ((on stepping).core 0).partialPort (.ctx 3 5) = none ∧
    trapsWith (exec (.add Pre.plain 4 1 2) (on stepping)) 0x0E 0x102 = true :=
  ⟨⟨_, rfl⟩, by decide +kernel, by decide +kernel, by decide +kernel, by decide +kernel⟩

/-! ## Loads and stores (R29, R30, R135 to R139) -/

/-- The test context with a pointer in g1 and a value in g2. -/
def lp (a v : Word) : Line := lineOf #v[0, a, v, 5, 7, 0x3F800000, 0x40000000, 0x200]
def sp (a v : Word) : State := on (lp a v)
def slp (a v : Word) : Slot := slotOf (lp a v)
def sg (k : Nat) : Seg := (segs[k]?).getD Seg.invalid

theorem ready_sp (a v : Word) (m : Memory) : Ready { sp a v with mem := m } (slp a v) Pre.plain := ⟨rfl, rfl, rfl⟩

/-- The word at scratchpad byte 0x100 of core 0 holds a value. -/
def mem1 (v : Nat) : Memory := Memory.reset.write (scratchKey 0 0x100) 8 v

theorem test_ld_past_limit : plainForm (.ldD Pre.plain 4 1 0) = some (Pre.plain, 1, 0, 8, needLoad) ∧
    refusedBy (sp (ptr 1 0x1FFF9) 0) (slp (ptr 1 0x1FFF9) 0) (pointer Pre.plain (lp (ptr 1 0x1FFF9) 0) 1 0 8) 8 needLoad = some 0x03 ∧
    trapsWith (exec (.ldD Pre.plain 4 1 0) (sp (ptr 1 0x1FFF9) 0)) 0x03 (ptr 1 0x1FFF9) = true := by decide +kernel
theorem test_st_handle_table : refusedBy (sp (ptr 1 0x1F000) 0) (slp (ptr 1 0x1F000) 0) (ptr 1 0x1F000) 1 needStore = some 0x04 ∧
    refusedBy (sp (ptr 1 0x1EFFF) 0) (slp (ptr 1 0x1EFFF) 0) (ptr 1 0x1EFFF) 1 needStore = none := by decide +kernel
theorem test_ld_misaligned : refusedBy (sp (ptr 1 0x104) 0) (slp (ptr 1 0x104) 0) (ptr 1 0x104) 8 needLoad = some 0x05 ∧
    trapsWith (exec (.ldD Pre.plain 4 1 0) (sp (ptr 1 0x104) 0)) 0x05 (ptr 1 0x104) = true := by decide +kernel
theorem test_fe_through_capacity : refusedBy (sp (ptr 5 0x100) 0) (slp (ptr 5 0x100) 0) (ptr 5 0x100) 8 needFeRead = some 0x0A := by
  decide +kernel

/-- A load of the test context reaches its scratchpad. -/
theorem reaches_scratch (n : Nat) (need : Need) (acc : Access) (m : Memory) (v : Word)
    (h : ({ sp (ptr 1 0x100) v with mem := m }).reach 0 0 (slp (ptr 1 0x100) v) (ptr 1 0x100) n need acc true (ptr 1 0x100)
      = .ok (sg 1) (.scratch 0 0x100) false) :
    Reaches { sp (ptr 1 0x100) v with mem := m } (slp (ptr 1 0x100) v) (ptr 1 0x100) n need acc (sg 1) (.scratch 0 0x100) false :=
  ⟨h, rfl⟩

theorem test_ld_scratch : loadForm (.ldsB Pre.plain 4 1 0) = some (Pre.plain, 4, 1, 0, 1, true) ∧
    ({ sp (ptr 1 0x100) 0 with mem := mem1 0x80 }).forward 0 (.ctx 3 5) (.scratch 0 0x100) 1 = .none ∧
    ({ sp (ptr 1 0x100) 0 with mem := mem1 0x80 }).mayPerform 0 (.ctx 3 5) (.scratch 0 0x100) 1 none = true ∧
    (mem1 0x80).poisoned (scratchKey 0 0x100) = false ∧
    reg (exec (.ldsB Pre.plain 4 1 0) { sp (ptr 1 0x100) 0 with mem := mem1 0x80 }) 4 0xFFFFFFFFFFFFFF80 = true := by
  decide +kernel

/-- One store of 8 bytes queued at a place. -/
def queued (loc : Loc) (v : Word) (what : Post) : Posted :=
  Posted.mk (.ctx 3 5) 3 loc 8 v what none false .scratch false false false false false none 0
def withQueue (s : State) (e : Posted) : State := s.setCore 0 { s.core 0 with stores := [e] }

theorem test_ld_forwarded :
    (withQueue (sp (ptr 1 0x100) 0) (queued (.scratch 0 0x100) 0x8001 .store)).forward 0 (.ctx 3 5) (.scratch 0 0x100) 2 = .value 0x8001 ∧
    reg (exec (.ldsH Pre.plain 4 1 0) (withQueue (sp (ptr 1 0x100) 0) (queued (.scratch 0 0x100) 0x8001 .store))) 4
      0xFFFFFFFFFFFF8001 = true := by decide +kernel

/-- Core 0 holds line 4 of VF 3 in its data cache, and the LLC holds it. -/
def cached : State :=
  let s := sp (ptr 3 0x108) 0
  { s.setCore 0 { s.core 0 with cache := [CacheLine.mk 3 4 0xFFFF 0 false false 0 (0x99#512 <<< 64)] } with
    llc := [LlcLine.mk 3 4 0 0xFF 0 9 true false (Dir.mk 1 0 false [0] []) none] }

theorem test_ld_cached : cached.reach 0 0 (slp (ptr 3 0x108) 0) (ptr 3 0x108) 8 needLoad .read true (ptr 3 0x108)
      = .ok (sg 3) (.paged 3 0x108) false ∧
    cached.forward 0 (.ctx 3 5) (.paged 3 0x108) 8 = .none ∧ cached.cacheHit 0 (.paged 3 0x108) 8 = some 0x99 ∧
    cached.mayPerform 0 (.ctx 3 5) (.paged 3 0x108) 8 none = true ∧
    reg (exec (.ldD Pre.plain 4 1 0) cached) 4 0x99 = true := by decide +kernel
theorem test_ld_cached_world : cached.lineView 3 4 false false ≠ .error .world := by decide +kernel

theorem test_ld_fills : (sp (ptr 3 0x108) 0).forward 0 (.ctx 3 5) (.paged 3 0x108) 8 = .none ∧
    (sp (ptr 3 0x108) 0).cacheHit 0 (.paged 3 0x108) 8 = none ∧
    (sp (ptr 3 0x108) 0).clearing (.paged 3 0x108) = false ∧
    waits (exec (.ldD Pre.plain 4 1 0) (sp (ptr 3 0x108) 0)) .fill = true := by decide +kernel
theorem test_ld_fills_place (c p : Nat) : Loc.paged 3 0x108 ≠ Loc.scratch c p := by simp

/-! ## Posted forms and the store queue (R136, R137, R265) -/

theorem test_st_queued : (∃ f, postForm (.stD Pre.plain 2 1 0) (lp (ptr 1 0x100) 7) = some f ∧ f.pre = Pre.plain ∧ f.q = ptr 1 0x100 ∧
      (sp (ptr 1 0x100) 7).reach 0 0 (slp (ptr 1 0x100) 7) f.q f.n f.need f.acc true f.q
        = .ok (sg 1) (.scratch 0 0x100) false ∧
      (f.host ≠ none → (Loc.scratch 0 0x100).host = false) ∧ (f.capacity = false → (sg 1).type ≠ .capacity) ∧
      AtHome (sp (ptr 1 0x100) 7) (slp (ptr 1 0x100) 7) f.homed (sg 1) f.q) ∧
    ((sp (ptr 1 0x100) 7).core 0).stores.length < 32 ∧
    gives (exec (.stD Pre.plain 2 1 0) (sp (ptr 1 0x100) 7)) (fun t => (t.core 0).stores.length = 1 && t.posted = 1) = true :=
  ⟨⟨_, rfl, rfl, by decide +kernel, by decide +kernel, by decide +kernel, by decide +kernel,
    fun h => absurd h (by decide +kernel)⟩, by decide +kernel, by decide +kernel⟩

/-- A full store queue. -/
def fullQueue : State :=
  let s := sp (ptr 1 0x100) 7
  s.setCore 0 { s.core 0 with stores := List.replicate 32 (queued (.scratch 0 0) 0 .store) }

theorem test_st_queue_full : 32 ≤ (fullQueue.core 0).stores.length ∧
    fullQueue.reach 0 0 (slp (ptr 1 0x100) 7) (ptr 1 0x100) 8 needStore .write true (ptr 1 0x100)
      = .ok (sg 1) (.scratch 0 0x100) false ∧
    gives (exec (.stD Pre.plain 2 1 0) fullQueue) (fun t => t = fullQueue) = true := by decide +kernel
theorem test_stfe_meets_home : AtHome (sp (ptr 4 0x40) 7) (slp (ptr 4 0x40) 7) true (sg 4) (ptr 4 0x40) :=
  fun _ _ => by decide +kernel
theorem test_stfe_at_home : (sp (ptr 4 0x40) 7).homeCore 0 3 (sg 4) 0x40 = some 0 ∧
    gives (exec (.stfe Pre.plain 2 1 0) (sp (ptr 4 0x40) 7)) (fun t => (t.core 0).stores.length = 1) = true := by decide +kernel

/-- A posted entry at its place, and what the word holds after it left. -/
def performed (what : Post) : State := withQueue { sp 0 0 with mem := mem1 3 } (queued (.scratch 0 0x100) 0xAB what)

theorem test_queue_store : (performed .store).mem.wf = true ∧
    ((performed .store).core 0).stores[0]? = some (queued (.scratch 0 0x100) 0xAB .store) ∧
    (performed .store).postedReady 0 0 (queued (.scratch 0 0x100) 0xAB .store) = true ∧
    (queued (.scratch 0 0x100) 0xAB .store).release ≠ some 6 ∧ chipKey (.scratch 0 0x100) = some (scratchKey 0 0x100) ∧
    (performed .store).mem.poisoned (scratchKey 0 0x100) = false ∧ scratchKey 0 0x100 % 8 = 0 ∧
    gives (exec (.storeQueuePerform 0 0) (performed .store)) (fun t => t.mem.read (scratchKey 0 0x100) 8 = 0xAB) = true := by
  decide +kernel
theorem test_queue_fe : (performed .stfe).postedReady 0 0 (queued (.scratch 0 0x100) 0xAB .stfe) = true ∧
    (performed .feClr).postedReady 0 0 (queued (.scratch 0 0x100) 0xAB .feClr) = true ∧
    gives (exec (.storeQueuePerform 0 0) (performed .feClr)) (fun t =>
      t.mem.read (scratchKey 0 0x100) 8 = 3 && !t.mem.full (scratchKey 0 0x100)) = true := by decide +kernel

/-! ## Probes (R144 to R159) -/

/-- The word that a probe of scratchpad byte 0x100 tests. -/
def w8 (v : Word) (full poison : Bool) : Word8 := Word8.mk v full poison
def chip (v : Word) (m : Memory) : State := { sp (ptr 1 0x100) v with mem := m }
def here : Loc := .scratch 0 0x100

theorem test_ldfe : (∃ f, probeForm (.ldfe Pre.plain 4 1 0) (lp (ptr 1 0x100) 0) = some f ∧ f.pre = Pre.plain ∧ f.q = ptr 1 0x100 ∧
      (chip 0 (mem1 9)).reach 0 0 (slp (ptr 1 0x100) 0) f.q f.n f.need f.acc true f.q = .ok (sg 1) here false ∧
      (f.host ≠ none → here.host = false) ∧ AtHome (chip 0 (mem1 9)) (slp (ptr 1 0x100) 0) f.homed (sg 1) f.q ∧
      (chip 0 (mem1 9)).mayPerform 0 (.ctx 3 5) here f.n (f.release (sg 1)) = true ∧
      (probing (chip 0 (mem1 9)) 3 here f.write (f.release (sg 1))).word here f.write false = .ok (w8 9 true false) ∧
      ∃ l new, f.result (w8 9 true false) here.off = some (l, new)) ∧
    gives (exec (.ldfe Pre.plain 4 1 0) (chip 0 (mem1 9)))
      (fun t => t.mem.full (scratchKey 0 0x100) = false && t.cur?.any fun x => x.line.reg 4 = 9) = true :=
  ⟨⟨_, rfl, rfl, by decide +kernel, by decide +kernel, by decide +kernel, fun _ h => absurd h (by decide +kernel), by decide +kernel,
    by decide +kernel, _, _, rfl⟩, by decide +kernel⟩

/-- The word is empty. -/
def emptied : Memory := (mem1 9).setFull (scratchKey 0 0x100) false

theorem test_ldfe_waits : (∃ f, probeForm (.ldfe Pre.plain 4 1 0) (lp (ptr 1 0x100) 0) = some f ∧
      (probing (chip 0 emptied) 3 here f.write (f.release (sg 1))).word here f.write false = .ok (w8 9 false false) ∧
      f.result (w8 9 false false) here.off = none ∧ ∃ k a, f.wait = some (k, a)) ∧
    waits (exec (.ldfe Pre.plain 4 1 0) (chip 0 emptied)) .full = true :=
  ⟨⟨_, rfl, by decide +kernel, rfl, _, _, rfl⟩, by decide +kernel⟩
theorem test_ldfe_poisoned :
    trapsWith (exec (.ldfe Pre.plain 4 1 0) (chip 0 ((mem1 9).setPoison (scratchKey 0 0x100) true))) 0x08 (ptr 1 0x100) = true := by
  decide +kernel
theorem test_ldff_keeps_full : gives (exec (.ldff Pre.plain 4 1 0) (chip 0 (mem1 9)))
    (fun t => t.mem = mem1 9 && t.cur?.any fun x => x.line.reg 4 = 9) = true := by decide +kernel
theorem test_stef_waits_when_full : waits (exec (.stef Pre.plain 2 1 0) (chip 8 (mem1 9))) .empty = true ∧
    gives (exec (.stef Pre.plain 2 1 0) (chip 8 emptied))
      (fun t => t.mem.read (scratchKey 0 0x100) 8 = 8 && t.mem.full (scratchKey 0 0x100)) = true := by decide +kernel
theorem test_waddr : pcIs (exec (.waddrEq Pre.plain 1 2) (chip 9 (mem1 9))) 0x104 = true ∧
    waits (exec (.waddrNe Pre.plain 1 2) (chip 9 (mem1 9))) .addr = true := by decide +kernel
theorem test_join_wait : waits (exec (.joinWait Pre.plain 1) (chip 0 (mem1 9))) .join = true ∧
    pcIs (exec (.joinWait Pre.plain 1) (chip 0 Memory.reset)) 0x104 = true := by decide +kernel
theorem test_handler_may_not_wait :
    let l := { lp (ptr 1 0x100) 0 with handler := true, supervisor := true }
    let s : State := { on l with mem := emptied }
    s.cur? = some (slotOf l) ∧
    gives (exec (.ldfe Pre.plain 4 1 0) s) (fun t => t ≠ s) = true := by decide +kernel
theorem test_amo_add_word : reg (exec (.amoAdd Pre.plain 0 4 1 2) (chip 1 (mem1 0x7FFFFFFF))) 4 0x7FFFFFFF = true ∧
    gives (exec (.amoAdd Pre.plain 0 4 1 2) (chip 1 (mem1 0x7FFFFFFF)))
      (fun t => t.mem.read (scratchKey 0 0x100) 8 = 0x80000000) = true := by decide +kernel
theorem test_amo_min_signed : gives (exec (.amoMin Pre.plain 1 4 1 2) (chip 0xFFFFFFFFFFFFFFFF (mem1 5)))
      (fun t => t.mem.read (scratchKey 0 0x100) 8 = 2 ^ 64 - 1) = true ∧
    gives (exec (.amoMinn Pre.plain 1 4 1 2) (chip 0xFFFFFFFFFFFFFFFF (mem1 5)))
      (fun t => t.mem.read (scratchKey 0 0x100) 8 = 5) = true := by decide +kernel
theorem test_amo_cas_differs : reg (exec (.amoCas Pre.plain 1 4 1 2) (chip 1 (mem1 9))) 4 9 = true ∧
    gives (exec (.amoCas Pre.plain 1 4 1 2) (chip 1 (mem1 9))) (fun t => t.mem = mem1 9) = true ∧
    gives (exec (.amoCas Pre.plain 1 4 1 2) (chip 1 (mem1 7))) (fun t => t.mem = mem1 1) = true := by decide +kernel

theorem test_fe_rd : (chip 0 emptied).reach 0 0 (slp (ptr 1 0x100) 0) (ptr 1 0x100) 8 needFeRead .read true (ptr 1 0x100)
      = .ok (sg 1) here false ∧ here.host = false ∧ (chip 0 emptied).mayPerform 0 (.ctx 3 5) here 8 none = true ∧
    (probing (chip 0 emptied) 3 here false none).word here false false = .ok (w8 9 false false) ∧
    reg (exec (.feRd Pre.plain 4 1 0) (chip 0 emptied)) 4 0 = true := by decide +kernel
theorem test_fe_rd_home : AtHome (chip 0 emptied) (slp (ptr 1 0x100) 0) true (sg 1) (ptr 1 0x100) :=
  fun _ h => absurd h (by decide +kernel)

/-- A barrier object whose phase is 4. -/
def barrier4 : Memory := Memory.reset.write (scratchKey 0 0x108) 8 4

theorem test_bar_wait : (chip 4 barrier4).reach 0 0 (slp (ptr 1 0x100) 4) (ptr 1 0x100) 16 needLoad .atomic true (ptr 1 0x100)
      = .ok (sg 1) here false ∧ (chip 4 barrier4).mayPerform 0 (.ctx 3 5) here 16 none = true ∧
    (probing (chip 4 barrier4) 3 here false none).word here false false = .ok (w8 0 true false) ∧
    (probing (chip 4 barrier4) 3 here false none).word (here.plus 8) false false = .ok (w8 4 true false) ∧
    (lp (ptr 1 0x100) 4).handler = false ∧
    waits (exec (.barWait Pre.plain 1 2) (chip 4 barrier4)) .barrier = true ∧
    pcIs (exec (.barWait Pre.plain 1 2) (chip 3 barrier4)) 0x104 = true := by decide +kernel

/-- A handler at a barrier in its awaited phase. -/
theorem test_bar_wait_handler :
    let s : State := { on { lp (ptr 1 0x100) 4 with handler := true, supervisor := true } with mem := barrier4 }
    trapsWith (exec (.barWait Pre.plain 1 2) s) 0x0C (ptr 1 0x100) = true := by decide +kernel
/-- Two contributions of type s32 from cores 9 and 2. -/
def reds2 : State :=
  { chip 0 (mem1 9) with reds := [RedSlot.mk here 9 2 5 0 false, RedSlot.mk here 2 2 6 0 false] }

theorem test_red_rd : reds2.reach 0 0 (slp (ptr 1 0x100) 0) (ptr 1 0x100) 4 needAtomic .atomic true (ptr 1 0x100)
      = .ok (sg 1) here false ∧ (sg 1).type ≠ .capacity ∧ reds2.mayPerform 0 (.ctx 3 5) here 4 none = true ∧
    (probing reds2 3 here true none).word here true false = .ok (w8 9 true false) ∧
    (∀ r ∈ (probing reds2 3 here true none).reds.filter fun r => r.loc = here && r.ty = 2, r.poison = false) ∧
    reg (exec (.redRd Pre.plain 2 4 1) reds2) 4 20 = true := by decide +kernel
theorem test_red_rd_of_none : reg (exec (.redRd Pre.plain 2 4 1) (chip 0 (mem1 9))) 4 9 = true ∧
    gives (exec (.redRd Pre.plain 2 4 1) reds2) (fun t => t.reds = [] && t.mem = mem1 20) = true := by decide +kernel
theorem test_walk_length : 2 ^ 40 ≤ (0x10000000000 : Word).toNat ∧
    trapsWith (exec (.cflush Pre.plain 1 2) (sp (ptr 3 0) 0x10000000000)) 0x03 (ptr 3 0) = true := by decide +kernel
theorem test_walk_posted : (0x200 : Word).toNat < 2 ^ 40 ∧
    (sp (ptr 3 0x1000) 0x200).segCheck 0 3 (slp (ptr 3 0x1000) 0x200).segs (ptr 3 0x1000) 0x200 needLoad false (ptr 3 0x1000)
      = .ok (sg 3, .linear 0x1000) ∧
    gives (exec (.cflush Pre.plain 1 2) (sp (ptr 3 0x1000) 0x200)) (fun t => (t.core 0).walks = 1) = true := by decide +kernel

/-- A line of module memory that the LLC holds with the write grant. -/
def lined : State := { State.reset with llc := [LlcLine.mk 3 4 0 0xFF 0 9 true false (Dir.mk 0 0 false [] []) none] }

theorem test_word_reads_back : hostHalf 0x108 = false ∧ 0x108 % 8 = 0 ∧
    lined.llc? 3 (0x108 / 64) = some (LlcLine.mk 3 4 0 0xFF 0 9 true false (Dir.mk 0 0 false [] []) none) ∧
    lined.secureHpa (9 * 4096) = false ∧
    (lined.putWord (.paged 3 0x108) (w8 0x55 false false) false).word (.paged 3 0x108) false false = .ok (w8 0x55 false false) ∧
    (let s := lined.setVf 3 { lined.vf 3 with node := 1, upcbase := 0x108 }
     s.shows 3 0x108 (w8 4 true false) = w8 7 true false ∧
       (s.putWord (.paged 3 0x108) (w8 4 true false) false).word (.paged 3 0x108) false false = .ok (w8 7 true false)) ∧
    (State.reset.putWord here (w8 7 false true) false).word here false false = .ok (w8 7 false true) := by decide +kernel

/-! ## Tiles (R123 to R133) -/

/-- A tile descriptor: format, rows, columns, stride; its base is scratchpad byte `off`. -/
def tileDw (fmt rows cols stride off : Nat) : Word × Word :=
  (BitVec.ofNat 64 (1 + 4 * fmt + 2 ^ 16 * rows + 2 ^ 32 * cols + 2 ^ 48 * stride), ptr 1 off)

/-- Handle 1: 2 x 2 of f32 at 0; 2: 1 x 2 of f32 at 0x40; 3: 2 x 2 of f32 at 0x80; 4: 2 x 2 of s8 at 0xC0; 5: format 9;
6: misaligned. -/
def tileTable : Tab (Word × Word) :=
  [(1, tileDw 0 2 2 8 0), (2, tileDw 0 1 2 8 0x40), (3, tileDw 0 2 2 8 0x80), (4, tileDw 5 2 2 2 0xC0), (5, tileDw 9 2 2 8 0),
   (6, tileDw 0 2 2 8 2), (7, tileDw 5 2 1 1 0xE0)]

/-- 1.0, 2.0, 1.0, 2.0 in handle 1; 2.0, 1.0 in handle 2; 0x7F in every byte of handle 4. -/
def tileMem : Memory :=
  ((((Memory.reset.write (scratchKey 0 0) 8 0x400000003F800000).write (scratchKey 0 8) 8 0x400000003F800000).write
    (scratchKey 0 0x40) 8 0x3F80000040000000).write (scratchKey 0 0xC0) 4 0x7F7F7F7F)
def ts : State :=
  let s := { s0 with mem := tileMem }
  s.setCore 0 { s.core 0 with handles := tileTable }
theorem ready_ts : Ready ts sl0 Pre.plain := ⟨by decide +kernel, by decide +kernel, by decide +kernel⟩
def byteAt (o : Out) (off n v : Nat) : Bool := gives o fun t => t.mem.read (scratchKey 0 off) n = v

theorem test_handle_faults :
    ts.vectorBusy 0 = false ∧ ts.scrubbing 0 = false ∧
    ((tileForm (.tadd Pre.plain 9 1 2)).bind (handleFault (ts.core 0))) = some (9, 1, 1) ∧
    ((tileForm (.tadd Pre.plain 5 1 2)).bind (handleFault (ts.core 0))) = some (5, 1, 3) ∧
    ((tileForm (.tadd Pre.plain 6 1 2)).bind (handleFault (ts.core 0))) = some (6, 1, 5) ∧
    ((tileForm (.tadd Pre.plain 2 1 2)).bind (handleFault (ts.core 0))) = some (1, 0, 2) ∧
    ((tileForm (.tadd Pre.plain 3 1 7)).bind (handleFault (ts.core 0))) = some (7, 0, 2) ∧
    ((tileForm (.tadd Pre.plain 3 1 2)).bind (handleFault (ts.core 0))) = none ∧
    trapsWith (exec (.tadd Pre.plain 3 1 7) ts) 0x0B 0x207 = true := by decide +kernel

/-- The operands of `tadd` of handles 1 and 2 into 3 (hB broadcast over the rows). -/
def ta1 : Tile := Tile.mk 0 0 2 2 8 (ptr 1 0)
def ta2 : Tile := Tile.mk 0 0 1 2 8 (ptr 1 0x40)
def ta3 : Tile := Tile.mk 0 0 2 2 8 (ptr 1 0x80)

theorem extent_ts (t : Tile) (h : t = ta1 ∨ t = ta2 ∨ t = ta3) (r w : Bool) : ExtentOk ts sl0 t r w := by
  rcases h with rfl | rfl | rfl <;>
    exact ⟨by decide +kernel, by decide +kernel, by decide +kernel, fun _ => by decide +kernel, fun _ => by decide +kernel,
      .inl (by decide +kernel), by decide +kernel⟩

theorem test_tadd : ∃ f, tileForm (.tadd Pre.plain 3 1 2) = some f ∧ Ready ts sl0 f.pre ∧ TilesReady ts sl0 f ta3 :=
  ⟨_, rfl, ready_ts, by decide +kernel, by decide +kernel, by decide +kernel, by decide +kernel, by
    have e1 : operandOf ts (some 1) = some ta1 := by decide +kernel
    have e2 : operandOf ts (some 2) = some ta2 := by decide +kernel
    rintro t (h | h)
    · rw [e1] at h; injection h with h; exact ⟨extent_ts t (.inl h.symm) _ _, h ▸ (by decide +kernel)⟩
    · rw [e2] at h; injection h with h; exact ⟨extent_ts t (.inr (.inl h.symm)) _ _, h ▸ (by decide +kernel)⟩,
    extent_ts ta3 (.inr (.inr rfl)) _ _, fun h => absurd h (by decide), by decide +kernel, by decide +kernel⟩
theorem test_vector_busy : (ts.takeVector 0 0 4).vectorBusy 0 = true ∧
    gives (exec (.tadd gd 3 1 2) (ts.takeVector 0 0 4)) (fun t => t = ts.takeVector 0 0 4) = true := by decide +kernel
/-- Core 0's scratchpad is being scrubbed. -/
def scrubbed (s : State) : State := s.setCore 0 { s.core 0 with scrubUntil := some 128 }
theorem test_scrub_holds : (scrubbed ts).scrubbing 0 = true ∧
    (∀ i ∈ [Instr.tadd gd 3 1 2, .push gd 1 2 3, .rwaitF gd 0 1, .radvC gd 0 1, .hdef gd 1 2 3, .hrd gd 1 2 3, .hmov gd 9 2],
      gives (exec i (scrubbed ts)) (fun t => t = scrubbed ts) = true) := by decide +kernel
theorem test_tadd_broadcast : byteAt (exec (.tadd Pre.plain 3 1 2) ts) 0x80 8 0x4040000040400000 = true ∧
    byteAt (exec (.tadd Pre.plain 3 1 2) ts) 0x88 8 0x4040000040400000 = true := by decide +kernel
theorem test_tsub : byteAt (exec (.tsub Pre.plain 3 1 2) ts) 0x80 8 0x3F800000BF800000 = true := by decide +kernel
theorem test_tmul : byteAt (exec (.tmul Pre.plain 3 1 2) ts) 0x80 8 0x4000000040000000 = true := by decide +kernel
theorem test_tmin : byteAt (exec (.tmin Pre.plain 3 1 2) ts) 0x80 8 0x3F8000003F800000 = true := by decide +kernel
theorem test_tmax : byteAt (exec (.tmax Pre.plain 3 1 2) ts) 0x80 8 0x4000000040000000 = true := by decide +kernel
theorem test_tadd_integer_saturates : byteAt (exec (.tadd Pre.plain 4 4 4) ts) 0xC0 4 0x7F7F7F7F = true ∧
    gives (exec (.tadd Pre.plain 4 4 4) ts) (fun t => t.cur?.any fun x => x.line.fcsr = 0x100) = true := by decide +kernel
theorem test_tfma : byteAt (exec (.tfma Pre.plain 1 1 2) ts) 0 8 0x4080000040400000 = true := by decide +kernel
theorem test_tsel : byteAt (exec (.tsel Pre.plain 3 1 2) ts) 0x80 8 0x3F80000040000000 = true := by decide +kernel
theorem test_tcvt : byteAt (exec (.tcvt Pre.plain 4 1) ts) 0xC0 4 0x02010201 = true := by decide +kernel
theorem test_texp2 : byteAt (exec (.texp2 Pre.plain 3 1) ts) 0x80 8 0x4080000040000000 = true := by decide +kernel
theorem test_tlog2 : byteAt (exec (.tlog2 Pre.plain 3 1) ts) 0x80 8 0x3F80000000000000 = true := by decide +kernel
theorem test_trcp : byteAt (exec (.trcp Pre.plain 3 1) ts) 0x80 8 0x3F0000003F800000 = true := by decide +kernel
theorem test_tcopy : byteAt (exec (.tcopy Pre.plain 3 1) ts) 0x80 8 0x400000003F800000 = true := by decide +kernel
theorem test_tred_sum : byteAt (exec (.tredSum Pre.plain 2 1) ts) 0x40 8 0x4040000040400000 = true := by decide +kernel
theorem test_tred_max : byteAt (exec (.tredMax Pre.plain 2 1) ts) 0x40 8 0x4000000040000000 = true := by decide +kernel
theorem test_tscale : byteAt (exec (.tscale Pre.plain 3 1 6) ts) 0x80 8 0x4080000040000000 = true := by decide +kernel
theorem test_tfill : byteAt (exec (.tfill Pre.plain 3 5) ts) 0x80 8 0x3F8000003F800000 = true := by decide +kernel
theorem test_tmask : byteAt (exec (.tmask Pre.plain 3 1 5) ts) 0x80 8 0x3F80000000000000 = true := by decide +kernel
theorem test_tile_rows : ts.mem.wf = true ∧ ∀ i < 2, ∀ r ∈ ts.rowRuns (placedAt ts sl0 ta3) i, ∀ q ∈ chipKey r.1,
    scratchKey 0 0x7F < q ∨ q + r.2 ≤ scratchKey 0 0x7F := by decide +kernel

/-! ## Fences, migration, exit, spawn (R106 to R108, R153 to R156) -/

/-- An ORDER prefix. -/
def ordered (ord : BitVec 2) (scope : BitVec 3) : Pre := Pre.mk none (some (Order.mk scope ord 0 0 0)) []

theorem test_fence_acquire : (fenceOf (ordered 1 4)).1 = 1 ∧ Ready s0 sl0 (ordered 1 4) :=
  ⟨by decide, by decide +kernel, by decide +kernel, by decide +kernel⟩
theorem test_fence_drained : (fenceOf Pre.plain).1 ≠ 1 ∧ (∀ e ∈ s0.cores, e.2.stores = []) := by decide +kernel
theorem drained_s0 (b : Bool) : Drained s0 sl0.who b := by
  intro e he x hx
  have := test_fence_drained.2 e he
  rw [this] at hx; cases hx
theorem test_fence_pending : ¬ Drained (performed .store) (.ctx 3 5) true ∧ (fenceOf Pre.plain).1 ≠ 1 ∧
    gives (exec (.fence Pre.plain) (performed .store)) (fun t => t.cur?.any fun x => x.held = some (.fence Pre.plain)) = true :=
  ⟨fun h => absurd (h (0, (performed .store).core 0) (by decide +kernel) (queued (.scratch 0 0x100) 0xAB .store) (by decide +kernel)
    (by decide +kernel)) (by decide +kernel), by decide, by decide +kernel⟩

theorem test_mig_limit : ¬ InLimit (slp (ptr 1 0x20000) 0) (ptr 1 0x20000) ∧ InLimit (slp (ptr 1 0x1FFFF) 0) (ptr 1 0x1FFFF) ∧
    trapsWith (exec (.mig Pre.plain 1) (sp (ptr 1 0x20000) 0)) 0x03 (ptr 1 0x20000) = true := by
  unfold InLimit; decide +kernel
theorem test_mig_no_home : InLimit (slp (ptr 3 0) 0) (ptr 3 0) ∧ homeAt (sp (ptr 3 0) 0) (slp (ptr 3 0) 0) (ptr 3 0) = none ∧
    trapsWith (exec (.mig Pre.plain 1) (sp (ptr 3 0) 0)) 0x12 (ptr 3 0) = true := by unfold InLimit; decide +kernel
theorem test_mig_home : InLimit (slp (ptr 1 0) 0) (ptr 1 0) ∧ homeAt (sp (ptr 1 0) 0) (slp (ptr 1 0) 0) (ptr 1 0) = some 0 ∧
    pcIs (exec (.mig Pre.plain 1) (sp (ptr 1 0) 0)) 0x104 = true := by unfold InLimit; decide +kernel
/-- Offset 0x100 of a HOMED segment is logical core 1. -/
theorem test_mig_departs : InLimit (slp (ptr 4 0x100) 0) (ptr 4 0x100) ∧
    homeAt (sp (ptr 4 0x100) 0) (slp (ptr 4 0x100) 0) (ptr 4 0x100) = some 1 ∧ (1 : Nat) ≠ 0 ∧
    (∃ x, (sp (ptr 4 0x100) 0).ctx? 3 5 = some x) ∧ ((sp (ptr 4 0x100) 0).cluster 0).replay.length < 512 ∧
    gives (exec (.mig Pre.plain 1) (sp (ptr 4 0x100) 0)) (fun t => t.placeOf 3 5 = some .flight && t.packets.length = 1) = true :=
  ⟨by unfold InLimit; decide +kernel, by decide +kernel, by decide, ⟨_, rfl⟩, by decide +kernel, by decide +kernel⟩
/-- A handler of VF 3 in way 60 of core 0, with the given line. -/
def hst (l : Line) : State :=
  { on l with run := (0, 60), cores := [(0, { Core.reset with ways := [(60, { slotOf l with who := .handler 0 0 0 3 })], resident := some 3 })] }
theorem test_mig_handler : homeAt (hst { hline with g := (lp (ptr 4 0x100) 0).g }) { hslot with line := { hline with g := (lp (ptr 4 0x100) 0).g } }
    (ptr 4 0x100) = some 1 ∧
    gives (exec (.mig Pre.plain 1) (hst { hline with g := (lp (ptr 4 0x100) 0).g })) (fun t => t.packets = [] && t.placeOf 3 5 ≠ some .flight)
      = true := by decide +kernel

theorem test_exit_handler : (Ready hs hslot Pre.plain ∧ hslot.who = .handler 0 0 0 3) ∧
    gives (exec (.exit Pre.plain) hs) (fun t => t ≠ hs) = true :=
  ⟨⟨⟨by decide +kernel, by decide +kernel, by decide +kernel⟩, rfl⟩, by decide +kernel⟩
theorem test_exit : (∃ x, s0.ctx? 3 5 = some x ∧ x.place = .l1 0 0) ∧ (∀ e ∈ (s0.abandon 0 (.ctx 3 5)).cores, e.2.stores = []) ∧
    gives (exec (.exit Pre.plain) s0) (fun t => t.placeOf 3 5 = some .retired && (t.slot? 0 0).isNone) = true :=
  ⟨⟨_, rfl, by decide +kernel⟩, by decide +kernel, by decide +kernel⟩

/-- The test context's RCB, with `n` of two reservations held. -/
def rcb3 (n : Nat) : Rcb where
  vf := 3
  addr := 0x8000
  parent := 0
  state := .admitted
  spawner := none
  order := 0
  chain := []
  cls := 0
  prio := 0
  deadline := 0
  cbud := 0
  ybud := 0
  fdh := 0
  entry := 0
  dw7 := 0
  arg := 0
  squota := 2
  rbar := 0
  ibase := 0
  lcount := 1
  next := 1
  live := 1
  used := 0
  past := 0
  sused := n
  gang := none
def spawning (n : Nat) : State := { sp (ptr 3 0x4000) 0 with rcbs := [rcb3 n] }

theorem test_spawn : (spawning 1).reach 0 0 (slp (ptr 3 0x4000) 0) (ptr 3 0x4000) 256 needLoad .read true (ptr 3 0x4000)
      = .ok (sg 3) (.paged 3 0x4000) false ∧ (spawning 1).clearing (.paged 3 0x4000) = false ∧
    (spawning 1).rcb? 3 0x8000 = some (rcb3 1) ∧ (rcb3 1).state = .admitted ∧ (rcb3 1).sused < (rcb3 1).squota ∧
    gives (exec (.spawn Pre.plain 2 1) (spawning 1)) (fun t => t.pool.length = 1 && t.cur?.any fun x => x.line.pw = 5) = true := by
  decide +kernel
theorem test_spawn_refused : (spawning 2).rcb? 3 0x8000 = some (rcb3 2) ∧ (rcb3 2).squota ≤ (rcb3 2).sused ∧
    gives (exec (.spawn Pre.plain 2 1) (spawning 2)) (fun t => t.pool = [] && t.cur?.any fun x => x.line.pw = 1) = true := by
  decide +kernel
theorem test_spawn_refused_all : ∀ r, (spawning 2).rcb? 3 (slp (ptr 3 0x4000) 0).rcb = some r → r.state ≠ .admitted ∨ r.squota ≤ r.sused :=
  fun r h => by
    have e : (spawning 2).rcb? 3 (slp (ptr 3 0x4000) 0).rcb = some (rcb3 2) := by decide +kernel
    rw [e] at h; injection h with h; subst h; exact .inr (by decide +kernel)

/-! ## Commands (R167 to R172, R234) -/

/-- A header doubleword of a length. -/
def hdr (len : Nat) : Word := BitVec.ofNat 64 (256 * len)
/-- The test context with a header of a length in g1. -/
def pushing (len : Nat) : State := sp (hdr len) 7
def entry (who : Who) : Completion := Completion.mk who 0 1 0x77 0x88 0x10 none none false

theorem test_push_header : ((pushing 4).core 0).buffers.find 1 = none ∧
    ((pushing 4).core 0).held.length + ((pushing 4).core 0).reserved.length < 1024 ∧ (pushing 4).scrubbing 0 = false ∧
    gives (exec (.push Pre.plain 1 1 2) (pushing 4)) (fun t =>
      (t.core 0).reserved = [(.ctx 3 5, 1)] && ((t.core 0).buffers.find 1).any fun b => b.dws = [hdr 4, 7] && b.need = 4) = true := by
  decide +kernel
theorem test_push_bad_length : (hdr 3).toNat / 2 ^ 8 % 2 ^ 8 ∉ [2, 4, 8] ∧
    trapsWith (exec (.push Pre.plain 1 1 2) (pushing 3)) 0x10 0x101 = true := by decide +kernel
/-- Sixteen commands of the port are outstanding. -/
def pushed16 : State :=
  let s := pushing 4
  s.setCore 0 { s.core 0 with reserved := List.replicate 16 (.ctx 3 5, 1) }
theorem test_push_seventeenth : 16 ≤ ((pushed16.core 0).reserved.filter fun e => e = (.ctx 3 5, 1)).length ∧
    trapsWith (exec (.push Pre.plain 1 1 2) pushed16) 0x10 0x102 = true := by decide +kernel
/-- The completion store is full. -/
def pushFull : State :=
  let s := pushing 4
  s.setCore 0 { s.core 0 with reserved := List.replicate 1024 (.ctx 3 6, 1) }
theorem test_push_store_full : 1024 ≤ (pushFull.core 0).held.length + (pushFull.core 0).reserved.length ∧
    gives (exec (.push Pre.plain 1 1 2) pushFull) (fun t => t = pushFull) = true := by decide +kernel
/-- A push of two doublewords with its completion entry reserved. -/
def headed2 : State := (pushing 2).setCore 0 { (pushing 2).core 0 with reserved := [(.ctx 3 5, 1)] }
theorem test_push_of_two : ((pushing 2).cluster 0).replay.length < 512 ∧
    headed2.cmdClearing (sentCommand headed2 (slp (hdr 2) 7) 1 [hdr 2, 7] (scopeOf Pre.plain)) = false ∧
    gives (exec (.push Pre.plain 1 1 2) (pushing 2)) (fun t =>
      (t.cluster 0).queues.any fun c => c.dws = [hdr 2, 7] && c.port = 1) = true := by decide +kernel
/-- A buffer of the port that needs a length, begun by someone. -/
def pushLater (who : Who) (need : Nat) : State :=
  let s := pushing 4
  s.setCore 0 { s.core 0 with reserved := [(who, 1)], buffers := [(1, Assembly.mk who need [hdr 4, 1] 2 0)] }
theorem test_push_another_owner : (Assembly.mk (.ctx 3 6) 4 [hdr 4, 1] 2 0).owner ≠ .ctx 3 5 ∧
    ((pushLater (.ctx 3 6) 4).core 0).buffers.find 1 = some (Assembly.mk (.ctx 3 6) 4 [hdr 4, 1] 2 0) ∧
    gives (exec (.push Pre.plain 1 1 2) (pushLater (.ctx 3 6) 4)) (fun t => t = pushLater (.ctx 3 6) 4) = true := by decide +kernel
theorem test_push_later : ((pushLater (.ctx 3 5) 8).core 0).buffers.find 1 = some (Assembly.mk (.ctx 3 5) 8 [hdr 4, 1] 2 0) ∧
    2 + 2 < 8 ∧ gives (exec (.push Pre.plain 1 1 2) (pushLater (.ctx 3 5) 8))
      (fun t => ((t.core 0).buffers.find 1).any fun b => b.dws = [hdr 4, 1, hdr 4, 7]) = true := by decide +kernel
theorem test_push_completes : 4 ≤ 2 + 2 ∧ ((pushLater (.ctx 3 5) 4).cluster 0).replay.length < 512 ∧
    (pushLater (.ctx 3 5) 4).cmdClearing (sentCommand (pushLater (.ctx 3 5) 4) (slp (hdr 4) 7) 1 ([hdr 4, 1] ++ [hdr 4, 7])
      (wider 2 (scopeOf Pre.plain))) = false ∧
    gives (exec (.push Pre.plain 1 1 2) (pushLater (.ctx 3 5) 4))
      (fun t => ((t.core 0).buffers.find 1).isNone && (t.cluster 0).queues.length = 1) = true := by decide +kernel

def popping (who : Who) (r : List (Who × Nat)) : State := s0.setCore 0 { s0.core 0 with held := [entry who], reserved := r }
theorem test_pop : ((popping (.ctx 3 5) []).core 0).held.find? (fun e => e.who = .ctx 3 5 && e.port = 1) = some (entry (.ctx 3 5)) ∧
    reg (exec (.pop Pre.plain 1 4 5) (popping (.ctx 3 5) [])) 4 0x77 = true ∧
    reg (exec (.pop Pre.plain 1 4 5) (popping (.ctx 3 5) [])) 5 0x88 = true := by decide +kernel
theorem test_pop_none : (Who.ctx 3 5, 1) ∉ ((popping (.ctx 3 6) []).core 0).reserved ∧
    trapsWith (exec (.pop Pre.plain 1 4 5) (popping (.ctx 3 6) [])) 0x10 0x103 = true := by decide +kernel
theorem test_pop_waits : (Who.ctx 3 5, 1) ∈ ((popping (.ctx 3 6) [(.ctx 3 5, 1)]).core 0).reserved ∧
    (∀ q ∈ ((popping (.ctx 3 6) [(.ctx 3 5, 1)]).core 0).buffers, q.2.owner ≠ .ctx 3 5) ∧
    waits (exec (.pop Pre.plain 1 4 5) (popping (.ctx 3 6) [(.ctx 3 5, 1)])) .pop = true := by decide +kernel
theorem test_pop_handler : (.handler 0 0 0 3, 1) ∈ ((hs.setCore 0 { hs.core 0 with reserved := [(.handler 0 0 0 3, 1)] }).core 0).reserved ∧
    hline.handler = true ∧
    gives (exec (.pop Pre.plain 1 4 5) (hs.setCore 0 { hs.core 0 with reserved := [(.handler 0 0 0 3, 1)] }))
      (fun t => (t.slot? 0 60).all fun x => x.line.wt ≠ .pop) = true := by decide +kernel
theorem test_peek : reg (exec (.peek Pre.plain 1 4 5) (popping (.ctx 3 5) [])) 4 0x77 = true ∧
    reg (exec (.peek Pre.plain 1 4 5) s0) 4 0 = true := by decide +kernel

/-! ## Rings and handles (R187 to R189, R214 to R220) -/

/-- Handle 1: a ring of 4 slots of 16 bytes with its header at scratchpad byte 0x100; 2: a tile. -/
def ringDw1 : Word × Word := (BitVec.ofNat 64 (2 + 256 * 3 + 2 ^ 16 * 16), ptr 1 0x100)
def rngD : Sys2Proof.Machine.Ring := Sys2Proof.Machine.Ring.mk 4 16 0 0 false (ptr 1 0x100)
/-- Its producer has filled `n` slots. -/
def rs (n : Nat) : State :=
  let s := { s0 with mem := Memory.reset.write (scratchKey 0 0x100) 8 (n + 65536 * (n % 4)) }
  s.setCore 0 { s.core 0 with handles := [(1, ringDw1), (2, tileDw 0 2 2 8 0)] }

theorem test_ring_at (adv : Bool) : RingAt (rs 3) sl0 1 adv rngD (sg 1) here := by
  cases adv <;> exact ⟨by decide +kernel, by decide +kernel, by decide +kernel, by decide +kernel, by decide +kernel, by decide +kernel⟩
theorem test_ring_header (adv : Bool) : headerAt (ringState (rs 3) sl0 (sg 1) here adv) here = (0x30003, 0) := by
  cases adv <;> decide +kernel
theorem ready_rs (n : Nat) : Ready (rs n) sl0 Pre.plain := ⟨rfl, rfl, rfl⟩
theorem test_ring_no_ring : ringOf (((rs 3).core 0).handle 2) = none ∧ trapsWith (exec (.rwaitF Pre.plain 0 2) (rs 3)) 0x0B 0x102 = true ∧
    trapsWith (exec (.radvC Pre.plain 0 2) (rs 3)) 0x0B 0x102 = true := by decide +kernel
theorem test_ring_too_many : rngD.slots < (4 : BitVec 4).toNat + 1 ∧ trapsWith (exec (.rwaitF Pre.plain 4 1) (rs 3)) 0x0B 0x601 = true := by
  decide +kernel
theorem test_rwait_f : (2 : BitVec 4).toNat + 1 ≤ filled 0x30003 0 ∧ pcIs (exec (.rwaitF Pre.plain 2 1) (rs 3)) 0x104 = true ∧
    waits (exec (.rwaitF Pre.plain 3 1) (rs 3)) .ring = true := by decide +kernel
theorem test_rwait_e : pcIs (exec (.rwaitE Pre.plain 0 1) (rs 3)) 0x104 = true ∧ waits (exec (.rwaitE Pre.plain 1 1) (rs 3)) .ring = true := by
  decide +kernel
theorem test_radv_p : byteAt (exec (.radvP Pre.plain 0 1) (rs 3)) 0x100 8 4 = true ∧
    trapsWith (exec (.radvP Pre.plain 1 1) (rs 3)) 0x0B 0x701 = true := by decide +kernel
theorem test_radv_c : byteAt (exec (.radvC Pre.plain 2 1) (rs 3)) 0x108 8 0x30003 = true ∧
    trapsWith (exec (.radvC Pre.plain 3 1) (rs 3)) 0x0B 0x701 = true := by decide +kernel
theorem test_ring_handler_traps :
    let s := { hs with mem := (rs 3).mem }
    let s1 := s.setCore 0 { s.core 0 with handles := [(1, ringDw1)] }
    s1.cur? = some hslot ∧ hslot.line.handler = true ∧ gives (exec (.rwaitF Pre.plain 3 1) s1) (fun t => t ≠ s1) = true := by decide +kernel

/-- A descriptor in g1 and g2. -/
def ds (e : Word × Word) : State := on (lineOf #v[0, e.1, e.2, 5, 7, 0, 0, 0])
def ringDwInit : Word × Word := (BitVec.ofNat 64 (2 + 64 + 256 * 3 + 2 ^ 16 * 16 + 2 ^ 32 * 5 + 2 ^ 48 * 4), ptr 1 0x100)
def wordAt (o : Out) (off v : Nat) : Bool := gives o fun t => t.mem.read (scratchKey 0 off) 8 = v

theorem test_hdef_invalid : (BitVec.ofNat 64 3 : Word).toNat % 4 ≠ 0 ∧ tileOf (3, 0) = none ∧ ringOf (3, 0) = none ∧
    trapsWith (exec (.hdef Pre.plain 9 1 2) (ds (3, 0))) 0x0B 0x809 = true := by decide +kernel
theorem test_hdef_tile : (tileOf (tileDw 0 2 2 8 0)).isSome = true ∧
    gives (exec (.hdef Pre.plain 9 1 2) (ds (tileDw 0 2 2 8 0))) (fun t => (t.core 0).handles = [(9, tileDw 0 2 2 8 0)]) = true := by
  decide +kernel
theorem test_hdef_undefines : (0 : Word).toNat % 4 = 0 ∧
    gives (exec (.hdef Pre.plain 1 0 0) (rs 3)) (fun t => (t.core 0).handles = [(2, tileDw 0 2 2 8 0)]) = true := by decide +kernel
theorem test_hdef_init : (ringOf ringDwInit).any Ring.init = true ∧
    (ds ringDwInit).segCheck 0 3 sl0.segs (ptr 1 0x100) 16 needStore false (ptr 1 0x100) = .ok (sg 1, .chip here) ∧
    (ds ringDwInit).clearing here = false ∧ (ds ringDwInit).mayPerform 0 (.ctx 3 5) here 16 (some (homeScope .scratch)) = true ∧
    wordAt (exec (.hdef Pre.plain 9 1 2) (ds ringDwInit)) 0x100 0x10005 = true ∧
    wordAt (exec (.hdef Pre.plain 9 1 2) (ds ringDwInit)) 0x108 4 = true := by decide +kernel
theorem test_hrd : reg (exec (.hrd Pre.plain 1 4 5) (rs 3)) 5 (ptr 1 0x100) = true ∧ reg (exec (.hrd Pre.plain 9 2 5) (rs 3)) 2 0 = true := by
  decide +kernel
theorem test_hmov : gives (exec (.hmov Pre.plain 9 2) (rs 3)) (fun t => (t.core 0).handle 9 = tileDw 0 2 2 8 0) = true := by decide +kernel

/-! ## Messages and returns (R190 to R192, R197, R198) -/

theorem test_send_full :
    let s := (sp (ptr 4 0x100) 0x300).setCore 0 { (sp (ptr 4 0x100) 0x300).core 0 with
      outbound := List.replicate 8 (0, Msg.mk 0 3 false 0 Line.blank 0 [] 0 (.ctx 3 5) 0) }
    8 ≤ (s.core 0).outbound.length ∧ gives (exec (.send Pre.plain 1 2 1) s) (fun t => t = s) = true := by decide +kernel
theorem test_send : (((sp (ptr 4 0x100) 0x300).core 0).outbound.length < 8 ∧ (slp (ptr 4 0x100) 0x300).reply = false ∧
      homeAt (sp (ptr 4 0x100) 0x300) (slp (ptr 4 0x100) 0x300) (ptr 4 0x100) = some 1 ∧
      targetCause ((lp (ptr 4 0x100) 0x300).reg 2) = none) ∧ InLimit (slp (ptr 4 0x100) 0x300) (ptr 4 0x100) ∧
    gives (exec (.send Pre.plain 1 2 1) (sp (ptr 4 0x100) 0x300)) (fun t => (t.core 0).outbound.any fun e =>
      e.1 = 1 && e.2.line.pc = 0x300 && e.2.line.reg 0 = 0x30000000005 && e.2.line.reg 1 = 1 && e.2.line.reg 2 = 0x300
        && e.2.line.reg 3 = 0) = true := by unfold InLimit; decide +kernel
theorem test_send_bad_pc : targetCause ((lp (ptr 4 0x100) 0x301).reg 2) = some 0x05 ∧
    trapsWith (exec (.send Pre.plain 1 2 1) (sp (ptr 4 0x100) 0x301)) 0x05 0x301 = true := by decide +kernel
theorem test_send_checks : ¬ InLimit (slp (ptr 4 0x100000) 0) (ptr 4 0x100000) ∧
    homeAt (sp (ptr 5 0) 0) (slp (ptr 5 0) 0) (ptr 5 0) = none ∧ InLimit (slp (ptr 5 0) 0) (ptr 5 0) ∧
    trapsWith (exec (.send Pre.plain 1 2 1) (sp (ptr 4 0x100000) 0)) 0x03 (ptr 4 0x100000) = true ∧
    trapsWith (exec (.send Pre.plain 1 2 1) (sp (ptr 5 0) 0)) 0x12 (ptr 5 0) = true := by unfold InLimit; decide +kernel
theorem test_send_reply_handler :
    let sl := { hslot with reply := true }
    let s := hs.setCore 0 { hs.core 0 with ways := [(60, sl)] }
    s.cur? = some sl ∧ sl.reply = true ∧ gives (exec (.send Pre.plain 1 2 1) s) (fun t => (t.core 0).outbound = []) = true := by
  decide +kernel

/-- Two contexts of VF 3 in ways 0 and 1 of core 0: 5 issues, and 6 has the line `m`. -/
def two (l m : Line) : State :=
  { on l with
    cores := [(0, { Core.reset with ways := [(0, slotOf l), (1, { slotOf m with who := .ctx 3 6 })], resident := some 3 })]
    ctxs := [(3 * 2 ^ 40 + 5, Ctx.mk (.l1 0 0) 0x8000 none false none false none), (3 * 2 ^ 40 + 6, Ctx.mk (.l1 0 1) 0x8000 none false none false none)] }
/-- A line parked UPCALL with an upcall slot. -/
def parkedLine (k : Nat) : Line := { l0 with wt := .upcall, wtArg := BitVec.ofNat 28 k, tcause := 0x0F }
def id6 : Word := 0x30000000006
/-- A supervisor line with g0 = g1 = a and g2 = b. -/
def sup (a b c : Word) : Line := { lineOf #v[a, a, b, c, 0, 0, 0, 0] with supervisor := true }
theorem ready_two (l m : Line) (h : l.step = false) : Ready (two l m) (slotOf l) Pre.plain := ⟨rfl, rfl, h⟩
theorem super_two (l m : Line) (h : l.step = false) (k : l.supervisor = true) : Super (two l m) (slotOf l) Pre.plain :=
  ⟨ready_two l m h, k⟩
/-- A supervisor handler of VF 3 beside context 6. -/
def hsup (a : Word) (m : Line) : State :=
  let l := { sup a 0 0 with handler := true }
  { two l m with
    run := (0, 60)
    cores := [(0, { Core.reset with ways := [(1, { slotOf m with who := .ctx 3 6 }), (60, { slotOf l with who := .handler 0 0 0 3 })],
                                    resident := some 3 })] }

theorem test_hret : hline.handler = true ∧ gives (exec (.hret Pre.plain) hs) (fun t => (t.slot? 0 60).isNone) = true ∧
    trapsWith (exec (.hret Pre.plain) s0) 0x01 (Instr.packed (.hret Pre.plain)) = true := by decide +kernel
theorem names6 (l m : Line) : Names (two l m) id6 3 6 := 
  ⟨by decide, by decide, by decide, show (6 : Nat) < 64 by decide⟩
theorem test_eret : ParkedAt (hsup id6 (parkedLine 0)) 3 6 0 1 { slotOf (parkedLine 0) with who := .ctx 3 6 } false :=
  ⟨by decide +kernel, by decide +kernel, rfl, by decide +kernel, by decide⟩
theorem test_eret_resumes : gives (exec (.eret Pre.plain) (hsup id6 (parkedLine 0)))
    (fun t => ((t.slot? 0 1).any fun x => x.line.wt = .ready && x.line.tcause = 0x0F) && (t.slot? 0 60).isNone) = true ∧
    trapsWith (exec (.eret Pre.plain) (two (sup id6 0 0) (parkedLine 0))) 0x01 (Instr.packed (.eret Pre.plain)) = true := by
  decide +kernel
theorem test_eret_not_parked : (hsup id6 (parkedLine 2)).parkedSlot 3 6 = some 2 ∧
    gives (exec (.eret Pre.plain) (hsup id6 (parkedLine 2))) (fun t => (t.slot? 0 1).all fun x => x.line.wt = .upcall) = true := by
  decide +kernel
/-- Context 6 parked with an upcall slot beside context 5, the flag of slot 2 set in a ring at 0x8000. -/
def upcalled (slot : Nat) : State :=
  let s := two { l0 with g := (sup id6 0 0).g } (parkedLine slot)
  { s.setVf 3 { s.vf 3 with upcbase := 0x8000 } with llc := [LlcLine.mk 3 0x200 4 0xFF 0 9 true false Dir.empty none] }
theorem test_upret : ParkedAt (upcalled 2) 3 6 0 1 { slotOf (parkedLine 2) with who := .ctx 3 6 } true ∧
    (upcalled 2).word (.paged 3 ((upcalled 2).upcallRing 3 0)) true false ≠ .error .stage2 :=
  ⟨⟨by decide +kernel, by decide +kernel, rfl, by decide +kernel, by decide⟩, by decide +kernel⟩
theorem test_upret_resumes : gives (exec (.upret Pre.plain 0) (upcalled 2)) (fun t =>
      ((t.slot? 0 1).any fun x => x.line.wt = .ready) && (t.gpaWord 3 0x8000).any fun w => w.data = 3) = true ∧
    trapsWith (exec (.upret Pre.plain 0) (upcalled 0)) 0x01 id6 = true := by decide +kernel
theorem test_upret_ring_refused : { upcalled 2 with llc := [] }.word (.paged 3 0x8000) true false = .error .stage2 ∧
    waits (exec (.upret Pre.plain 0) { upcalled 2 with llc := [] }) .xlate = true := by decide +kernel

/-! ## Privileged forms (R194 to R203) -/

theorem test_privileged : privForm (.seginv Pre.plain 0) ∧ privForm (.cxst Pre.plain 0 0 0) ∧ sl0.line.supervisor = false ∧
    trapsWith (exec (.seginv Pre.plain 0) s0) 0x02 (Instr.packed (.seginv Pre.plain 0)) = true :=
  ⟨trivial, trivial, by decide +kernel, by decide +kernel⟩
theorem test_rdsr_config : 1 ≤ (two (sup 0 0 0) l0).nodeOf 3 ∧ (two (sup 0 0 0) l0).nodeOf 3 < 128 ∧
    reg (exec (.rdsrPriv Pre.plain 4 0) (two (sup 0 0 0) l0)) 4 64 = true ∧
    reg (exec (.rdsrPriv Pre.plain 4 1) (two (sup 0 0 0) l0)) 4 (BitVec.ofNat 64 (64 * 2 ^ 32 + 2 ^ 39)) = true := by decide +kernel
theorem test_rdtick : reg (exec (.rdtick Pre.plain 4) { s0 with tick := 77 }) 4 77 = true := by decide +kernel
theorem test_wrsr_cl1lim : gives (exec (.wrsrPriv Pre.plain 0 0) (two (sup 64 0 0) l0)) (fun t => (t.core 0).cl1lim = 64) = true ∧
    trapsWith (exec (.wrsrPriv Pre.plain 0 0) (two (sup 65 0 0) l0)) 0x01 65 = true ∧
    trapsWith (exec (.wrsrPriv Pre.plain 0 0) (two (sup 0x80 0 0) l0)) 0x01 0x80 = true := by decide +kernel
theorem test_wrsr_sstlen : gives (exec (.wrsrPriv Pre.plain 0 3) (two (sup 0x1FFFF 0 0) l0)) (fun t => (t.vf 3).sstlen = 65536) = true ∧
    gives (exec (.wrsrPriv Pre.plain 0 6) (two (sup 0x3FFF 0 0) l0)) (fun t => (t.vf 3).upcbase = 0x2000) = true := by decide +kernel

theorem test_cxld_selector : 16 ≤ (16 : Word).toNat ∧ trapsWith (exec (.cxld Pre.plain 4 1 2) (two (sup id6 16 0) l0)) 0x01 16 = true := by
  decide +kernel
theorem test_cxld_another_vf : (0x40000000006 : Word).toNat < 2 ^ 49 ∧ (0x40000000006 : Word).toNat / 2 ^ 40 ≠ 3 ∧
    trapsWith (exec (.cxld Pre.plain 4 1 2) (two (sup 0x40000000006 0 0) l0)) 0x02 0x40000000006 = true := by decide +kernel
theorem test_cxld_no_context : (0x30000000040 : Word).toNat / 2 ^ 40 = 3 ∧
    ((two (sup 0 0 0) l0).vf 3).ctxlen ≤ (0x30000000040 : Word).toNat % 2 ^ 40 ∧
    trapsWith (exec (.cxld Pre.plain 4 1 2) (two (sup 0x30000000040 0 0) l0)) 0x01 0x30000000040 = true := by decide +kernel
theorem test_cxld : (two (sup id6 10 0) l0).placeOf 3 6 = some (.l1 0 1) ∧ reg (exec (.cxld Pre.plain 4 1 2) (two (sup id6 10 0) l0)) 4 2 = true ∧
    reg (exec (.cxld Pre.plain 4 1 2) (two (sup id6 0 0) l0)) 4 0x100 = true := by decide +kernel
/-- Context 6 lies in a context L2, in a packet, or in memory. -/
def away (a : Word) (p : Place) : State :=
  let s := two (sup id6 a 0) l0
  { s with
    cores := [(0, { Core.reset with ways := [(0, slotOf (sup id6 a 0))], resident := some 3 })]
    clusters := [(0, { Cluster.reset with l2 := [L2Line.mk 3 6 { l0 with pc := 0x444 }] })]
    ctxs := [(3 * 2 ^ 40 + 5, Ctx.mk (.l1 0 0) 0x8000 none false none false none), (3 * 2 ^ 40 + 6, Ctx.mk p 0x8000 none false none false none)]
    llc := [LlcLine.mk 3 (0x100300 / 64) (0x123#512) 0xFF 0 9 true false (Dir.mk 0 0 false [] []) none,
            LlcLine.mk 3 (0x100340 / 64) 0 0xFF 0 9 true false (Dir.mk 0 0 false [] []) none] }
theorem test_cxld_l2 : ((away 0 (.l2 0)).cluster 0).l2.find? (fun e => e.vf = 3 && e.index = 6) = some (L2Line.mk 3 6 { l0 with pc := 0x444 }) ∧
    (away 0 (.l2 0)).placeOf 3 6 = some (.l2 0) ∧ reg (exec (.cxld Pre.plain 4 1 2) (away 0 (.l2 0))) 4 0x444 = true := by decide +kernel
theorem test_cxld_flight : (away 0 .flight).placeOf 3 6 = some .flight ∧
    gives (exec (.cxld Pre.plain 4 1 2) (away 0 .flight)) (fun t => t.cur?.any fun x => x.held = some (.cxld Pre.plain 4 1 2)) = true := by
  decide +kernel
theorem test_cxld_memory : (away 0 .memory).word (.paged 3 (((away 0 .memory).vf 3).ctxbase + 128 * 6 + 8 * 0)) false false
      = .ok (w8 0x123 true false) ∧ reg (exec (.cxld Pre.plain 4 1 2) (away 0 .memory)) 4 0x123 = true := by decide +kernel
theorem test_upret_copy_refused : ¬ CopyReached { away 0 .memory with llc := [] } 3 6 ∧
    gives (exec (.upret Pre.plain 0) { away 0 .memory with llc := [] }) (fun t => t.requests.length = 1 &&
      t.cur?.any fun x => x.line.wt = .xlate) = true :=
  ⟨fun h => h 0 (by decide) (by decide +kernel), by decide +kernel⟩
theorem test_cxst : (parkedLine 0).wt = .upcall ∧
    gives (exec (.cxst Pre.plain 3 1 2) (two (sup id6 1 0x8F) (parkedLine 0))) (fun t => (t.slot? 0 1).any fun x =>
      x.line.pw = 0x8F && x.segsLoaded) = true ∧
    gives (exec (.cxst Pre.plain 3 1 2) (two (sup id6 2 0x100000000) (parkedLine 0))) (fun t => (t.slot? 0 1).any fun x =>
      x.line.sset = 1 && !x.segsLoaded) = true ∧
    trapsWith (exec (.cxst Pre.plain 3 1 2) (two (sup id6 1 0) l0)) 0x01 id6 = true ∧
    trapsWith (exec (.cxst Pre.plain 3 1 2) (two (sup id6 0 7) (parkedLine 0))) 0x05 7 = true ∧
    trapsWith (exec (.cxst Pre.plain 3 1 2) (two (sup id6 2 5) (parkedLine 0))) 0x01 5 = true := by decide +kernel

/-- Context 6 parked UPCALL in the context L2. -/
def awayParked (a : Word) : State :=
  let s := away a (.l2 0)
  s.setCluster 0 { s.cluster 0 with l2 := [L2Line.mk 3 6 (parkedLine 0)] }
theorem test_cxst_l2 : (awayParked 1).placeOf 3 6 = some (.l2 0) ∧
    ((awayParked 1).cluster 0).l2.find? (fun e => e.vf = 3 && e.index = 6) = some (L2Line.mk 3 6 (parkedLine 0)) ∧
    gives (exec (.cxst Pre.plain 0 1 2) (awayParked 1)) (fun t => (t.cluster 0).l2.any fun e => e.line.pw ≠ (parkedLine 0).pw) = true ∧
    trapsWith (exec (.cxst Pre.plain 0 1 2) (away 1 (.l2 0))) 0x01 id6 = true := by decide +kernel
/-- Context 6 in memory, parked UPCALL in its copy, whose words are poisoned as `bad` says. -/
def copied (a : Word) (bad : BitVec 8) : State :=
  { away a .memory with llc := [LlcLine.mk 3 (0x100300 / 64) (0x123#512 ||| 0xC000000000000000#512 <<< 64) 0xFF bad 9 true false
    (Dir.mk 0 0 false [] []) none] }
def copyAt (n : Nat) : Loc := .paged 3 (((copied 0 0).vf 3).ctxbase + 128 * 6 + n)
theorem test_cxst_memory : (copied 1 0).placeOf 3 6 = some .memory ∧
    (copied 1 0).mayPerform 0 (.ctx 3 5) (copyAt 8) 8 none = true ∧
    (copied 1 0).word (copyAt 8) false false = .ok (w8 0xC000000000000000 true false) ∧
    (0xC000000000000000 : Word).toNat / 2 ^ 60 = 12 ∧
    (copied 1 0).word (copyAt 8) true false = .ok (w8 0xC000000000000000 true false) ∧
    gives (exec (.cxst Pre.plain 3 1 2) (copied 1 0)) (fun t =>
      t.word (copyAt 8) false true = .ok (w8 0xC000000000000000 true false)) = true ∧
    trapsWith (exec (.cxst Pre.plain 3 1 2) (away 1 .memory)) 0x01 id6 = true := by decide +kernel
theorem test_cxst_memory_writes : dwWith 1 0xC000000000000000 0x8F = 0xC00000000000008E ∧
    (copied 0 1).word (copyAt 0) false false = .ok (w8 0x123 true true) ∧
    trapsWith (exec (.cxld Pre.plain 4 1 2) (copied 0 1)) 0x08 id6 = true := by decide +kernel

/-- Two micro-TLB entries of VF 3 for pages 4 and 5. -/
def tlbState (a n : Word) : State :=
  let s := two (sup a n 0) l0
  let e (p : Nat) := TlbEntry.mk 0 3 p 0 9 true true false true true false
  { s.setCore 0 { s.core 0 with tlb := [e 4, e 5] } with
    clusters := [(0, { Cluster.reset with tables := [TableEntry.mk 3 1 0 0x7000, TableEntry.mk 3 1 1 0x8000] })] }
theorem test_tlbinv_tables : gives (exec (.tlbinv Pre.plain 1 2) (tlbState 0x4000 0x1000))
    (fun t => (t.cluster 0).tables.map TableEntry.range = [1]) = true := by decide +kernel
theorem test_tlbinv : gives (exec (.tlbinv Pre.plain 1 2) (tlbState 0x4000 0x1000)) (fun t => (t.core 0).tlb.map TlbEntry.lpage = [5]) = true ∧
    gives (exec (.tlbinv Pre.plain 1 2) (tlbState 0x4FFF 2)) (fun t => (t.core 0).tlb = []) = true := by decide +kernel
theorem test_seginv : (¬ (id6.toNat = 2 ^ 64 - 1) ∧ id6.toNat < 2 ^ 49 ∧ id6.toNat / 2 ^ 40 = 3) ∧ Names (two (sup id6 0 0) l0) id6 3 6 ∧
    (∀ e ∈ (two (sup id6 0 0) l0).cores, ∀ x ∈ e.2.ways, ∃ g, (two (sup id6 0 0) l0).loadSet x.2.line.vfid.toNat x.2.line.sset.toNat = .ok g) ∧
    gives (exec (.seginv Pre.plain 1) (two (sup id6 0 0) l0)) (fun t => (t.slot? 0 1).any fun x => x.segs ≠ segs && x.segsLoaded) = true ∧
    trapsWith (exec (.seginv Pre.plain 1) (two (sup 0x40000000006 0 0) l0)) 0x02 0x40000000006 = true :=
  ⟨by decide, names6 _ _, fun e he x hx => ⟨List.replicate 8 Seg.invalid, by revert x; revert e; decide +kernel⟩, by decide +kernel,
    by decide +kernel⟩
/-- The segment-set table lies where stage 2 reaches nothing. -/
def setless (a : Word) : State := (two (sup a 0 0) l0).setVf 3 { (two (sup a 0 0) l0).vf 3 with sstlen := 1, sstbase := 0x200000 }
theorem test_seginv_unreached : (0xFFFFFFFFFFFFFFFF : Word).toNat = 2 ^ 64 - 1 ∧
    (∃ e ∈ (setless 0xFFFFFFFFFFFFFFFF).cores, ∃ x ∈ e.2.ways, ∃ g,
      (setless 0xFFFFFFFFFFFFFFFF).loadSet x.2.line.vfid.toNat x.2.line.sset.toNat = .error g) ∧
    gives (exec (.seginv Pre.plain 1) (setless 0xFFFFFFFFFFFFFFFF)) (fun t => t.requests.length = 1) = true :=
  ⟨by decide, ⟨(0, (setless 0xFFFFFFFFFFFFFFFF).core 0), by decide +kernel, (0, slotOf (sup 0xFFFFFFFFFFFFFFFF 0 0)), by decide +kernel,
    0x200070, by decide +kernel⟩, by decide +kernel⟩

/-- The test context with its region's barrier. -/
def slts (a b bar : Word) : State :=
  { two (sup a b 0) l0 with rcbs := [{ rcb3 0 with rbar := bar.toNat }] }
theorem test_slt_wr : (slts 3 0x40 0x9000).regionBarrier (slotOf (sup 3 0x40 0)) ≠ 0 ∧
    gives (exec (.sltWr Pre.plain 1 2) (slts 3 0x40 0x9000)) (fun t =>
      (t.core 0).sltcur = resetSlots && (t.core 0).sltnew[24]? = some 0x40 && (t.core 0).staged = [(3, 0x9000)]) = true := by
  decide +kernel
theorem test_slt_wr_traps : trapsWith (exec (.sltWr Pre.plain 1 2) (slts 4 0x40 0x9000)) 0x01 4 = true ∧
    trapsWith (exec (.sltWr Pre.plain 1 2) (slts 3 0x40 0)) 0x01 3 = true ∧
    trapsWith (exec (.sltWr Pre.plain 1 2) (slts 3 0xC0 0x9000)) 0x01 0xC0 = true ∧
    trapsWith (exec (.sltWr Pre.plain 1 2) (slts 3 0x41 0x9000)) 0x01 0x41 = true := by decide +kernel
theorem test_capmint : ((0x203 : Word).toNat < 4096 ∧ ¬ (256 ≤ (0x203 : Word).toNat % 256)) ∧
    ((two (sup 0x203 9 0) l0).nodeOf 3 = 1 ∧ ¬ ((9 : Word).toNat ≤ (two (sup 0x203 9 0) l0).tick)) ∧
    ((two (sup 0x203 9 0) l0).cluster (physicalCluster 1 3)).fmt 18 = (Cluster.reset).fmt 18 ∧
    reg (exec (.capmint Pre.plain 4 1 2) (two (sup 0x203 0 0) l0)) 4 0 = true ∧
    trapsWith (exec (.capmint Pre.plain 4 1 2) (two (sup 4096 9 0) l0)) 0x01 4096 = true := by decide +kernel
theorem test_yctl : trapsWith (exec (.yctl Pre.plain 1 2) (two (sup 4 0 0) l0)) 0x01 4 = true ∧
    trapsWith (exec (.yctl Pre.plain 1 2) (two (sup 1 0x1000000000000 0) l0)) 0x01 0x1000000000000 = true ∧
    gives (exec (.yctl Pre.plain 1 2) (two (sup 0x301 0xFFFFFFFFFFFF 0) l0)) (fun t => (t.vf 3).counters.counts[3]? = some 0xFFFFFFFFFFFF) = true := by
  decide +kernel
theorem test_yctl_codes : gives (exec (.yctl Pre.plain 1 2) (two (sup 0xF00 0x60 0) l0)) (fun t => (t.vf 3).counters.codes[15]? = some 0x60) = true ∧
    gives (exec (.yctl Pre.plain 1 2) (two (sup 2 0xFFFF 0) l0)) (fun t => (t.vf 3).counters.enable = 0xFFFF) = true := by decide +kernel
/-- Counter 3 of VF 3 holds 7. -/
def ycounts (a : Word) : State :=
  let s := two (sup a 0 0) l0
  s.setVf 3 { s.vf 3 with counters := { Counters.reset with counts := (List.replicate 16 0).set 3 7 } }
theorem test_yrd : reg (exec (.yrd Pre.plain 4 1) (ycounts 3)) 4 7 = true ∧ trapsWith (exec (.yrd Pre.plain 4 1) (ycounts 16)) 0x01 16 = true ∧
    (ycounts 3).platform.sorrel.package.getLsbD (20 + 0) = false := by decide +kernel
theorem test_yrd_secure :
    let s := { ycounts 3 with platform := { Platform.reset with sorrel := { Sorrel.reset with package := 0x100000 } } }
    s.platform.sorrel.package.getLsbD (20 + 0) = true ∧ (s.vf 3).sec = false ∧ reg (exec (.yrd Pre.plain 4 1) s) 4 0 = true := by
  decide +kernel
/-- The partition of node 65 lies on die 0; its Yarrow is bit 20. -/
theorem test_yrd_die : firstLeaf ((ycounts 3).nodeOf 3) / 16 = 0 ∧ (ycounts 3).platform.sorrel.package.getLsbD 20 = false := by decide +kernel
theorem test_yrd_after_marks :
    let s := ycounts 3
    let s1 := s.setVf 3 { s.vf 3 with counters := { (s.vf 3).counters with codes := (List.replicate 16 0).set 3 0x60, run := 0xFFFF } }
    reg (exec (.yrd Pre.plain 4 1) (s1.countOf 3 0x60 1 (some (.ctx 3 5)))) 4 8 = true := by decide +kernel
theorem test_yrd_fabric :
    let s := ycounts 3
    let s1 := s.setVf 3 { s.vf 3 with counters := { (s.vf 3).counters with codes := (List.replicate 16 0).set 3 0x102 } }
    reg (exec (.yrd Pre.plain 4 1) s1) 4 0 = true := by decide +kernel
theorem test_ymark : pcIs (exec (.ymark Pre.plain 1) s0) 0x104 = true := by decide +kernel
/-- Flag words of VF 3 in clusters 0 and 1, and of VF 4. -/
def cfls (a : Word) : State := { sp a 0 with clusters := [(0, { Cluster.reset with flags := [(3, 5), (4, 8)] }), (1, { Cluster.reset with flags := [(3, 2)] })] }
theorem test_cfl_rd : reg (exec (.cflRd Pre.plain 4) (cfls 1)) 4 7 = true := by decide +kernel
theorem test_cfl_clr : gives (exec (.cflClr Pre.plain 1) (cfls 1)) (fun t =>
    (t.cluster 0).flags = [(3, 4), (4, 8)] && (t.cluster 1).flags = [(3, 2)]) = true := by decide +kernel

/-! ## Engines (R163 to R188, R222 to R259, R374 to R378) -/

/-- A command of context 5 on core 0. -/
def cmdOf (port : Nat) (dws : List Word) (handles : List (Nat × (Word × Word))) : Cmd :=
  Cmd.mk (.ctx 3 5) 3 0 port dws handles segs false false 0 0 2 none 0 none none none [] none 0 false
def head (op len : Nat) : Word := BitVec.ofNat 64 (op + 256 * len + 2 ^ 16 * 7)
/-- It is the only command of cluster 0's engines, or of die 0's. -/
def es (c : Cmd) (m : Memory) : State := { s0 with mem := m, clusters := [(0, { Cluster.reset with queues := [c] })] }
def ed (c : Cmd) (m : Memory) : State := { s0 with mem := m, dies := [(0, { Die.reset with queue := [c] })] }

/-- The machine and the command as it runs. -/
def taken (s : State) (c : Cmd) : State × Cmd :=
  match s.acceptRecord c with
  | some (s0, c1) => (s0.takeCmd 0 0, c1)
  | none => (s, c)
theorem fresh_of (s : State) (c : Cmd) (h : s.mayRun c = true) (f : c.fatal = none ∧ c.ending = none ∧ c.done = 0) : Fresh s c :=
  ⟨⟨h, f.1, f.2.1⟩, f.2.2⟩
theorem goesOn_of (s : State) (c : Cmd) (h : s.mayRun c = true) (f : c.fatal = none ∧ c.ending = none)
    (q : (s.cluster 0).queues[0]? = some c) (r : (s.acceptRecord c).isSome = true) :
    GoesOn s 0 c (taken s c).1 (taken s c).2 :=
  ⟨⟨h, f⟩, by
    obtain ⟨⟨s0, c1⟩, e⟩ := Option.isSome_iff_exists.mp r
    exact ⟨0, s0, q, fun j hj => absurd hj (Nat.not_lt_zero j), by simp [taken, e], by simp [taken, e]⟩⟩
theorem starts_of (s : State) (c : Cmd) (h : s.mayRun c = true) (f : c.fatal = none ∧ c.ending = none ∧ c.done = 0)
    (q : (s.cluster 0).queues[0]? = some c) (r : (s.acceptRecord c).isSome = true) :
    Starts s 0 c (taken s c).1 (taken s c).2 := ⟨goesOn_of s c h ⟨f.1, f.2.1⟩ q r, f.2.2⟩
theorem startsDie_of (s : State) (c : Cmd) (h : s.mayRun c = true) (f : c.fatal = none ∧ c.ending = none ∧ c.done = 0)
    (q : headOf (s.die 0).queue c.port 0 = some (0, c)) : StartsDie s 0 c ((s.publish c).takeDie 0 0) := ⟨fresh_of s c h f, 0, q, rfl⟩
/-- A completion of a status and count set out. -/
def ended (o : Out) (status count : Nat) : Bool :=
  gives o fun t => t.transit.any fun e => e.dw0.toNat / 2 ^ 16 % 16 = status && e.dw0.toNat / 2 ^ 32 = count
/-- Opcode 9 of Sluice. -/
def cBad : Cmd := cmdOf 1 [head 9 4, 0, 0, 0] []
theorem test_unlisted : Starts (es cBad Memory.reset) 0 cBad (taken (es cBad Memory.reset) cBad).1 (taken (es cBad Memory.reset) cBad).2 ∧
    (cBad.dw 0).toNat % 2 ^ 8 ∉ [1, 2, 3] ∧ ended (exec (.slGather 0) (es cBad Memory.reset)) 2 0 = true :=
  ⟨starts_of _ _ (by decide +kernel) (by decide +kernel) (by decide +kernel) (by decide +kernel), by decide +kernel, by decide +kernel⟩

/-- A copy of three bytes of scratchpad one byte up, and a fill of nine bytes with an arrival word. -/
def cCopy : Cmd := cmdOf 2 [head 1 4, ptr 1 0x101, ptr 1 0x100, 3] []
def cFill : Cmd := cmdOf 2 [head 2 8, ptr 1 0x100, 0x0807060504030201, 9, ptr 1 0x200, 0x55, 1, 0] []
def cCopyA : Cmd := cmdOf 2 [head 1 8, ptr 1 0x101, ptr 1 0x100, 3, ptr 1 0x200, 0x55, 1, 0] []
def cNone : Cmd := cmdOf 2 [head 1 4, ptr 1 0x101, ptr 1 0x100, 0] []
def eCopy : State := es cCopy (mem1 0x030201)
def eCopyA : State := es cCopyA (mem1 0x030201)
def eFill : State := es cFill (mem1 0)
theorem test_copy_starts : Starts eCopy 0 cCopy (taken eCopy cCopy).1 (taken eCopy cCopy).2 ∧
    Plain (taken eCopy cCopy).1 0 (taken eCopy cCopy).2 2 1 4 ∧
    OnChip (taken eCopy cCopy).1 (taken eCopy cCopy).2 0 (ptr 1 0x101) 3 needStore (scratchKey 0 0x101) ∧
    OnChip (taken eCopy cCopy).1 (taken eCopy cCopy).2 0 (ptr 1 0x100) 3 needLoad (scratchKey 0 0x100) :=
  ⟨starts_of _ _ (by decide +kernel) (by decide +kernel) (by decide +kernel) (by decide +kernel),
    ⟨by decide +kernel, by decide +kernel, by decide +kernel⟩,
    ⟨by decide, by decide, ⟨sg 1, .scratch 0 0x101, by decide +kernel, by decide +kernel, by decide +kernel⟩,
      fun w _ _ => by rw [show (taken eCopy cCopy).1.mem.poison = [] by decide +kernel]; simp⟩,
    ⟨by decide, by decide, ⟨sg 1, .scratch 0 0x100, by decide +kernel, by decide +kernel, by decide +kernel⟩,
      fun w _ _ => by rw [show (taken eCopy cCopy).1.mem.poison = [] by decide +kernel]; simp⟩⟩
theorem test_copy_overlap : byteAt (exec (.flCopy 0) eCopy) 0x100 4 0x03020101 = true ∧ ended (exec (.flCopy 0) eCopy) 0 3 = true := by
  decide +kernel
theorem test_fill_fields : Plain (taken eFill cFill).1 0 (taken eFill cFill).2 2 2 8 ∧ (fld cFill 3 32 32 = 0 ∧ fld cFill 6 1 63 = 0 ∧
      cFill.dw 7 = 0 ∧ cFill.dw 4 ≠ 0 ∧ (cFill.dw 4).toNat % 8 = 0 ∧ scratchKey 0 0x200 % 8 = 0) ∧
    Apart (scratchKey 0 0x100) 9 (scratchKey 0 0x200) 8 :=
  ⟨⟨by decide +kernel, by decide +kernel, by decide +kernel⟩, by decide +kernel, .inl (by decide +kernel)⟩
theorem test_fill : byteAt (exec (.flFill 0) eFill) 0x108 8 1 = true ∧ byteAt (exec (.flFill 0) eFill) 0x200 8 0x55 = true ∧
    ended (exec (.flFill 0) eFill) 0 9 = true := by decide +kernel
theorem test_copy_arrival : Starts eCopyA 0 cCopyA (taken eCopyA cCopyA).1 (taken eCopyA cCopyA).2 ∧
    Plain (taken eCopyA cCopyA).1 0 (taken eCopyA cCopyA).2 2 1 8 ∧
    (fld cCopyA 3 32 32 = 0 ∧ fld cCopyA 6 1 63 = 0 ∧ cCopyA.dw 7 = 0 ∧ cCopyA.dw 4 ≠ 0) ∧
    byteAt (exec (.flCopy 0) eCopyA) 0x100 4 0x03020101 = true ∧ byteAt (exec (.flCopy 0) eCopyA) 0x200 8 0x55 = true :=
  ⟨starts_of _ _ (by decide +kernel) (by decide +kernel) (by decide +kernel) (by decide +kernel),
    ⟨by decide +kernel, by decide +kernel, by decide +kernel⟩, by decide +kernel, by decide +kernel, by decide +kernel⟩
theorem test_copy_of_none : (taken (es cNone Memory.reset) cNone).2.pointerOk (ptr 1 0x100) = true ∧
    ended (exec (.flCopy 0) (es cNone Memory.reset)) 0 0 = true := by decide +kernel
theorem test_copy_refused : ended (exec (.flCopy 0) (es (cmdOf 2 [head 1 4, ptr 1 0x1EFFF, ptr 1 0x100, 3] []) Memory.reset)) 2 1 = true := by
  decide +kernel

/-- One entry: index tile u32 1 x 1 at 0x40, row tile 1 x 2 at 0x80, table of 4 rows of 8 bytes at 0x200. -/
def slHandles : List (Nat × (Word × Word)) := [(0, tileDw 9 1 1 4 0x40), (1, tileDw 0 1 2 8 0x80)]
def cSl (op ety : Nat) : Cmd :=
  cmdOf 1 [head op 8, BitVec.ofNat 64 (256 + 2 ^ 16 * ety + 2 ^ 32 * 8), ptr 1 0x200, 8, 4, 0, 0, 0] slHandles
/-- The index is 3; the table row holds 7 and 1, the tile row 5 and 2. -/
def slMem : Memory := ((Memory.reset.write (scratchKey 0 0x40) 8 3).write (scratchKey 0 0x218) 8 0x100000007).write (scratchKey 0 0x80) 8 0x200000005
def eSl (op : Nat) : State := es (cSl op 0) slMem
def slS (op : Nat) : State := (taken (eSl op) (cSl op 0)).1
def slC (op : Nat) : Cmd := (taken (eSl op) (cSl op 0)).2
def slIx : Tile := Tile.mk 9 0 1 1 4 (ptr 1 0x40)
def slPool : Tile := Tile.mk 0 0 1 2 8 (ptr 1 0x80)
theorem test_sluice_ready (op : Nat) (h : op = 1 ∨ op = 2 ∨ op = 3) : SluiceReady (slS op) (slC op) slIx slPool ∧ (slC op).dw 5 = 0 := by
  rcases h with rfl | rfl | rfl <;>
    exact ⟨⟨by decide +kernel, by decide +kernel, by decide +kernel, by decide +kernel, by decide +kernel, by decide +kernel,
      by decide +kernel, by decide +kernel, by decide +kernel,
      ⟨by decide +kernel, by decide +kernel, by decide +kernel, fun _ => by decide +kernel, fun _ => by decide +kernel,
        fun _ => by decide +kernel, fun _ => by decide +kernel⟩,
      ⟨by decide +kernel, by decide +kernel, by decide +kernel, fun h => absurd h (by decide), fun h => absurd h (by decide),
        fun h => absurd h (by decide), fun h => absurd h (by decide)⟩⟩, by decide +kernel⟩
theorem clean_sl (op : Nat) (h : op = 1 ∨ op = 2 ∨ op = 3) (w : Nat) : w ∉ (slS op).mem.poison := by
  rcases h with rfl | rfl | rfl <;> rw [show (slS _).mem.poison = [] by decide +kernel] <;> simp
theorem test_sluice_rows (op : Nat) (h : op = 1 ∨ op = 2 ∨ op = 3) :
    ((slS op).tileBits (tileAt (slC op) slIx))[0]? = some 3 ∧
    OnChip (slS op) (slC op) 0 (ptrPlus ((slC op).dw 2) (3 * 8)) 8 (if op = 1 then needLoad else if op = 2 then needStore else needAtomic)
      (scratchKey 0 0x218) ∧
    OnChip (slS op) (slC op) 0 (ptrPlus slPool.base (0 * 8)) 8 (if op = 1 then needStore else needLoad) (scratchKey 0 0x80) := by
  refine ⟨by rcases h with rfl | rfl | rfl <;> decide +kernel,
    ⟨by decide, by rcases h with rfl | rfl | rfl <;> decide +kernel, ⟨sg 1, .scratch 0 0x218, ?_⟩, fun w _ _ => clean_sl op h w⟩,
    ⟨by decide, by decide +kernel, ⟨sg 1, .scratch 0 0x80, ?_⟩, fun w _ _ => clean_sl op h w⟩⟩ <;>
    rcases h with rfl | rfl | rfl <;> exact ⟨by decide +kernel, by decide +kernel, by decide +kernel⟩
theorem test_sluice_apart : Apart (scratchKey 0 0x218) 8 (scratchKey 0 0x80) 8 ∧
    (∀ k, k = scratchKey 0 0x218 ∨ k = scratchKey 0 0x80 → ∀ r ∈ (slS 1).extentRuns (tileAt (slC 1) slIx), ∀ q ∈ chipKey r.1,
      Apart k 8 q r.2) := by
  unfold Apart
  refine ⟨by decide +kernel, ?_⟩
  rintro k (rfl | rfl) <;> decide +kernel
theorem test_gather : byteAt (exec (.slGather 0) (eSl 1)) 0x80 8 0x100000007 = true ∧ ended (exec (.slGather 0) (eSl 1)) 0 1 = true := by
  decide +kernel
theorem test_scatter : byteAt (exec (.slScatter 0) (eSl 2)) 0x218 8 0x200000005 = true := by decide +kernel
/-- The same addition with its entry read, or with its one entry done. -/
def cRow : Cmd := { cSl 3 0 with row := some (ScatterRow.mk (ptr 1 0x218) 0x200000005 []) }
def cAll : Cmd := { cSl 3 0 with done := 1, seq := some 1 }
/-- Both its elements are acknowledged. -/
def eAll : State :=
  (es cAll slMem).setCluster 0 { (es cAll slMem).cluster 0 with
    replay := [Replay.mk 1 (.command cAll) 3 0 (Marks.mk 0 0 2 false false) 0 1000] }
theorem test_scatadd_goes_on : GoesOn (es cRow slMem) 0 cRow (taken (es cRow slMem) cRow).1 (taken (es cRow slMem) cRow).2 ∧
    GoesOn eAll 0 cAll (taken eAll cAll).1 (taken eAll cAll).2 ∧
    (taken (es cRow slMem) cRow).1.unacked (taken (es cRow slMem) cRow).2 < 64 ∧
    (taken eAll cAll).1.unacked (taken eAll cAll).2 = 0 ∧
    ptrPlus (cRow.dw 2) (3 * fld cRow 3 0 40) = ptr 1 0x218 :=
  ⟨goesOn_of _ _ (by decide +kernel) (by decide +kernel) (by decide +kernel) (by decide +kernel),
    goesOn_of _ _ (by decide +kernel) (by decide +kernel) (by decide +kernel) (by decide +kernel), by decide +kernel, by decide +kernel,
    by decide +kernel⟩
theorem test_scatadd : gives (exec (.slScatadd 0) (eSl 3)) (fun t => t.mem = slMem &&
      (t.cluster 0).queues.any fun c => c.row.any fun r => r.ptr = ptr 1 0x218 && r.bits = 0x200000005) = true ∧
    byteAt (exec (.slScatadd 0) (es cRow slMem)) 0x218 8 0x10000000C = true ∧ ended (exec (.slScatadd 0) eAll) 0 1 = true := by
  decide +kernel

/-- Three f32 keys 1.0, NaN, 2.0 at 0, the output row at 0x80; k is 2. -/
def boHandles : List (Nat × (Word × Word)) := [(0, tileDw 0 1 3 12 0), (1, tileDw 9 1 4 16 0x80), (2, tileDw 9 1 4 16 0)]
def cBo : Cmd := cmdOf 3 [head 1 8, BitVec.ofNat 64 (256 + 2 ^ 16 * 2 + 2 ^ 32 * 10), 0, 0, 0, 0, 0, 0] boHandles
def cMerge : Cmd := cmdOf 3 [head 2 8, BitVec.ofNat 64 (2 + 256 + 2 ^ 16 * 2 + 2 ^ 23), 0, 0, 0, 0, 0, 0] boHandles
def boMem : Memory := (Memory.reset.write (scratchKey 0 0) 8 0x7FC000003F800000).write (scratchKey 0 8) 8 0x40000000
/-- The pairs (5, 1) twice. -/
def mergeMem : Memory := (Memory.reset.write (scratchKey 0 0) 8 0x100000005).write (scratchKey 0 8) 8 0x100000005
/-- Its last pass: every pass read 1.0, NaN and 2.0. -/
def cLast : Cmd := { cBo with passes := [[0x3F800000, 0x7FC00000, 0x40000000], [0x3F800000, 0x7FC00000, 0x40000000]] }
def boKeys : Tile := Tile.mk 0 0 1 3 12 (ptr 1 0)
def boOut : Tile := Tile.mk 9 0 1 4 16 (ptr 1 0x80)
theorem test_bolter_ready : BolterReady (taken (es cBo boMem) cBo).1 (taken (es cBo boMem) cBo).2 boKeys boOut ∧
    (taken (es cBo boMem) cBo).1.tileBits (tileAt (taken (es cBo boMem) cBo).2 boKeys) = [0x3F800000, 0x7FC00000, 0x40000000] :=
  ⟨⟨by decide +kernel, by decide +kernel, by decide +kernel, by decide +kernel, by decide +kernel, by decide +kernel,
    ⟨by decide +kernel, by decide +kernel, by decide +kernel, fun _ => by decide +kernel, fun _ => by decide +kernel,
      fun _ => by decide +kernel, fun _ => by decide +kernel⟩,
    ⟨by decide +kernel, by decide +kernel, by decide +kernel, fun h => absurd h (by decide), fun h => absurd h (by decide),
      fun h => absurd h (by decide), fun h => absurd h (by decide)⟩⟩, by decide +kernel⟩
theorem test_topk_reads_again : 0 + 1 < 3 ∧ gives (exec (.boTopk 0) (es cBo boMem)) (fun t =>
    t.mem = boMem && (t.cluster 0).queues.map Cmd.passes = [[[0x3F800000, 0x7FC00000, 0x40000000]]]) = true := by decide +kernel
theorem test_topk : byteAt (exec (.boTopk 0) (es cLast boMem)) 0x80 8 0xC40000000 = true ∧
    byteAt (exec (.boTopk 0) (es cLast boMem)) 0x88 8 0xA3F800000 = true ∧ ended (exec (.boTopk 0) (es cLast boMem)) 0 2 = true := by
  decide +kernel
def mergeKeys : Tile := Tile.mk 9 0 1 4 16 (ptr 1 0)
theorem test_merge_ready : BolterReady (taken (es cMerge mergeMem) cMerge).1 (taken (es cMerge mergeMem) cMerge).2 mergeKeys boOut :=
  ⟨by decide +kernel, by decide +kernel, by decide +kernel, by decide +kernel, by decide +kernel, by decide +kernel,
    ⟨by decide +kernel, by decide +kernel, by decide +kernel, fun _ => by decide +kernel, fun _ => by decide +kernel,
      fun _ => by decide +kernel, fun _ => by decide +kernel⟩,
    ⟨by decide +kernel, by decide +kernel, by decide +kernel, fun h => absurd h (by decide), fun h => absurd h (by decide),
      fun h => absurd h (by decide), fun h => absurd h (by decide)⟩⟩
theorem test_merge_once : byteAt (exec (.boMerge 0) (es cMerge mergeMem)) 0x80 8 0x100000005 = true ∧
    ended (exec (.boMerge 0) (es cMerge mergeMem)) 0 1 = true := by decide +kernel

/-- Table 0 of VF 3: one row of one f32 at 0x2040, its directory at 0x2000; boundaries 0 and 1 at cluster byte 0x200, index 0 at
0x100, the output at 0x40. -/
def cQn : Cmd := cmdOf 4 [head 1 8, 2 ^ 20, ptr 2 0x100, 0, ptr 2 0x200, 0x100000001, ptr 2 0x40, 0] []
def eQn : State :=
  let s := ed cQn ((Memory.reset.write (clusterKey 0 0x200) 8 0x100000000))
  let s1 := s.setVf 3 { s.vf 3 with qdbase := 0x2000, qdlen := 0 }
  { s1 with llc := [LlcLine.mk 3 0x80 (BitVec.ofNat 512 (2 ^ 63 + 0x2040 + 2 ^ 64 * (1 + 2 ^ 40))) 0xFF 0 9 true false (Dir.mk 0 0 false [] []) none,
                    LlcLine.mk 3 0x81 0x40400000 0xFF 0 9 true false (Dir.mk 0 0 false [] []) none] }
def eQn1 : State := (eQn.publish cQn).takeDie 0 0
theorem test_quern_starts : StartsDie eQn 0 cQn eQn1 ∧ Plain eQn1 0 cQn 4 1 8 :=
  ⟨startsDie_of _ _ (by decide +kernel) (by decide +kernel) (by decide +kernel), ⟨by decide +kernel, by decide +kernel, by decide +kernel⟩⟩
theorem test_quern_fields : eQn1.platform.badQuern = [] ∧ (eQn1.llc? 3 (0x2000 / 64)).isSome = true ∧ (eQn1.llc? 3 (0x2008 / 64)).isSome = true ∧
    cQn.dw 7 = 0 ∧ (eQn1.vf 3).s1en = false ∧ fld cQn 1 22 10 = 0 ∧ fld cQn 5 48 16 = 0 ∧ fld cQn 1 16 4 ≤ 3 ∧
    eQn1.word (.paged 3 0x2000) false (cQn.secure && eQn1.blockSecure 0 4) = .ok (w8 0x8000000000002040 true false) ∧
    eQn1.word (.paged 3 0x2008) false (cQn.secure && eQn1.blockSecure 0 4) = .ok (w8 0x10000000001 true false) ∧
    (0x8000000000002040 : Word).toNat / 2 ^ 56 = 128 ∧ (0x10000000001 : Word).toNat % 2 ^ 40 = 1 ∧
    (eQn1.llc? 3 (0x2040 / 64)).isSome = true ∧
    (∀ b < 1, eQn1.mem.read (clusterKey 0 0x200 + 4 * b) 4 ≤ eQn1.mem.read (clusterKey 0 0x200 + 4 * (b + 1)) 4) ∧
    eQn1.word (.paged 3 0x2040) false (cQn.secure && eQn1.blockSecure 0 4) = .ok (w8 0x40400000 true false) := by decide +kernel
theorem test_quern_reach (q : Word) (off n : Nat) (need : Need) (h : (q, off, n, need) = (cQn.dw 4, 0x200, 8, needLoad) ∨
    (q, off, n, need) = (cQn.dw 2, 0x100, 4, needLoad) ∨ (q, off, n, need) = (cQn.dw 6, 0x40, 4, needStore)) :
    OnChip eQn1 cQn 0 q n need (clusterKey 0 off) := by
  have p : eQn1.mem.poison = [] := by decide +kernel
  simp only [Prod.mk.injEq] at h
  rcases h with ⟨rfl, rfl, rfl, rfl⟩ | ⟨rfl, rfl, rfl, rfl⟩ | ⟨rfl, rfl, rfl, rfl⟩
  · exact ⟨by decide, by decide +kernel, ⟨sg 2, .cluster 0 0x200, by decide +kernel, by decide +kernel, by decide +kernel⟩,
      fun w _ _ => by rw [p]; simp⟩
  · exact ⟨by decide, by decide +kernel, ⟨sg 2, .cluster 0 0x100, by decide +kernel, by decide +kernel, by decide +kernel⟩,
      fun w _ _ => by rw [p]; simp⟩
  · exact ⟨by decide, by decide +kernel, ⟨sg 2, .cluster 0 0x40, by decide +kernel, by decide +kernel, by decide +kernel⟩,
      fun w _ _ => by rw [p]; simp⟩
theorem test_quern : gives (exec (.qnBag 0) eQn) (fun t => t.mem.read (clusterKey 0 0x40) 4 = 0x40400000) = true ∧
    ended (exec (.qnBag 0) eQn) 0 1 = true := by decide +kernel

/-- MM.FMT of f32 x f32 into f32, and a product of 1 x 1 tiles in the reset formats (f16 into f32). -/
def cFmt : Cmd := cmdOf 0 [BitVec.ofNat 64 (1 + 256 * 4), 0, 0, 0] []
def mmHandles : List (Nat × (Word × Word)) := [(0, tileDw 1 1 1 2 0), (1, tileDw 1 1 1 2 0x10), (3, tileDw 0 1 1 4 0x20)]
def cMul : Cmd := cmdOf 0 [BitVec.ofNat 64 (2 + 256 * 8), BitVec.ofNat 64 (256 + 2 ^ 24 * 3), 0, 0, 0, 0, 0, 0] mmHandles
/-- 1.5 and 2.0. -/
def mmMem : Memory := (Memory.reset.write (scratchKey 0 0) 8 0x3E00).write (scratchKey 0 0x10) 8 0x4000
def takenMm (s : State) (c : Cmd) : State × Cmd :=
  match s.acceptRecord c with
  | some (s0, c1) => ((s0.setCluster 0 { s0.cluster 0 with turn := 1 }).takeCmd 0 0, c1)
  | none => (s, c)
theorem startsMm_of (s : State) (c : Cmd) (p : c.port = 0) (e : c.src = 0) (t : s.mmNext 0 = some 0)
    (f : c.fatal = none ∧ c.ending = none ∧ c.done = 0) (q : headOf (s.cluster 0).queues 0 0 = some (0, c))
    (r : (s.acceptRecord c).isSome = true) : StartsMm s 0 c (takenMm s c).1 (takenMm s c).2 := by
  obtain ⟨⟨s0, c1⟩, h⟩ := Option.isSome_iff_exists.mp r
  exact ⟨p, by rw [e]; exact t, f, 0, s0, by rw [e]; exact q, by simp [takenMm, h], by simp [takenMm, h, e]⟩
theorem test_fmt_starts : StartsMm (es cFmt Memory.reset) 0 cFmt (takenMm (es cFmt Memory.reset) cFmt).1 (takenMm (es cFmt Memory.reset) cFmt).2 ∧
    (takenMm (es cFmt Memory.reset) cFmt).1.tokenOk 0 (takenMm (es cFmt Memory.reset) cFmt).2 = true ∧
    (takenMm (es cFmt Memory.reset) cFmt).1.worldRefuses 0 (takenMm (es cFmt Memory.reset) cFmt).2 = false ∧ fmtsOk 0 = true ∧
    gives (exec (.mmFmt 0 0) (es cFmt Memory.reset)) (fun t => ((t.cluster 0).fmt 0).fmt = 0 && ((t.cluster 0).fmt 1).fmt = 0x11) = true :=
  ⟨startsMm_of _ _ rfl rfl (by decide +kernel) (by decide +kernel) (by decide +kernel) (by decide +kernel), by decide +kernel,
    by decide +kernel, by decide +kernel, by decide +kernel⟩
def mulS : State := (takenMm (es cMul mmMem) cMul).1
def mulC : Cmd := (takenMm (es cMul mmMem) cMul).2
def mulA : Tile := Tile.mk 1 0 1 1 2 (ptr 1 0)
def mulB : Tile := Tile.mk 1 0 1 1 2 (ptr 1 0x10)
def mulD : Tile := Tile.mk 0 0 1 1 4 (ptr 1 0x20)
theorem reach_mul (t : Tile) (h : t = mulA ∨ t = mulB) : TileReach mulS mulC t true := by
  rcases h with rfl | rfl <;>
    exact ⟨by decide +kernel, by decide +kernel, by decide +kernel, fun _ => by decide +kernel, fun _ => by decide +kernel,
      fun _ => by decide +kernel, fun _ => by decide +kernel⟩
theorem test_mul_ready : MmReady mulS mulC 0x11 mulA mulB mulD none none none ∧ mmMulFields mulC = true ∧
    ((mulS.cluster 0).fmt 0).fmt = 0x11 ∧ (mulC.dw 1).getLsbD 60 = false ∧ mulC.dw 5 = 0 :=
  ⟨⟨by decide +kernel, by decide +kernel, by decide +kernel, by unfold OptTile; decide +kernel, by unfold OptTile; decide +kernel,
    by unfold OptTile; decide +kernel, by decide +kernel, by decide +kernel, by decide +kernel, (fun _ h => nomatch h), (fun _ h => nomatch h),
    (fun _ h => nomatch h), by decide +kernel, by decide +kernel, fun t h => reach_mul t (by simpa using h), by decide +kernel,
    by decide +kernel, (fun _ h => nomatch h)⟩, by decide +kernel, by decide +kernel, by decide +kernel, by decide +kernel⟩
theorem test_mul_place : OnChip mulS mulC 0 (ptrPlus mulD.base (0 * mulD.stride)) mulD.rowLen needStore (scratchKey 0 0x20) ∧
    (mulS.core 0).resident = some 3 :=
  ⟨⟨by decide +kernel, by decide +kernel, ⟨sg 1, .scratch 0 0x20, by decide +kernel, by decide +kernel, by decide +kernel⟩,
    fun w _ _ => by rw [show mulS.mem.poison = [] by decide +kernel]; simp⟩, by decide +kernel⟩
theorem test_mul : byteAt (exec (.mmMul 0 0) (es cMul mmMem)) 0x20 4 0x40400000 = true ∧ ended (exec (.mmMul 0 0) (es cMul mmMem)) 0 1 = true := by
  decide +kernel
/-- A row advance waits on the ring of handle 1, whose producer has filled `n` of its 4 slots. -/
def heldRow : RowHold :=
  RowHold.mk (cmdOf 0 [BitVec.ofNat 64 (2 + 256 * 8), BitVec.ofNat 64 (256 + 2 ^ 24 * 3 + 2 ^ 48), 0, 0, 0, 0, 0, 0] mmHandles)
    ringDw1 0 true [[0]] 0 0
def eHeld (n : Nat) : State := { rs n with clusters := [(0, { Cluster.reset with held := [heldRow] })] }
theorem test_row_advance : ringOf heldRow.ring = some rngD ∧
    ((eHeld 3).setCluster 0 Cluster.reset).segCheck 0 3 segs rngD.base 16 needReadWrite false rngD.base = .ok (sg 1, .chip here) ∧
    ((eHeld 3).setCluster 0 Cluster.reset).headerPoison rngD.base here = none ∧ filled 0x30003 0 < 4 ∧
    heldRow.cmd.arrival = none ∧ (tileOf (heldRow.cmd.handle 3)).isSome = true ∧ heldRow.rows.length = heldRow.row + 1 ∧
    byteAt (exec (.mmRowAdvance 0 0) (eHeld 3)) 0x100 8 4 = true ∧ ended (exec (.mmRowAdvance 0 0) (eHeld 3)) 0 1 = true ∧
    4 ≤ filled 4 0 ∧ gives (exec (.mmRowAdvance 0 0) (eHeld 4)) (fun t => t = eHeld 4) = true := by decide +kernel

/-- Yarrow commands: a program of one instruction of zeros at cluster byte 0x100. -/
def cLoad : Cmd := cmdOf 5 [head 1 4, ptr 2 0x100, 8, 0] []
def cAttach : Cmd := cmdOf 5 [head 2 4, BitVec.ofNat 64 (256 * 4 + 2 ^ 16 * 1024), 0, 0] []
def cDetach : Cmd := cmdOf 5 [head 3 4, 0, 0, 0] []
def cDump : Cmd := cmdOf 5 [head 4 4, 0, ptr 2 0x200, 2056] []
/-- Slot 0 of VF 3 is loaded and has run 9 times. -/
def loadedSlot : Sys2Proof.Machine.Filter := Sys2Proof.Machine.Filter.mk true [0] false 0 0 none [(1, 0x77)] 9 4 0 0
def eYw (c : Cmd) : State :=
  let s := ed c Memory.reset
  s.setDie 0 { s.die 0 with filters := [(24, loadedSlot)] }
theorem test_load_fields : Plain (((eYw cLoad).publish cLoad).takeDie 0 0) 0 cLoad 5 1 4 ∧ cLoad.pointerOk (ptr 2 0x100) = true ∧
    fld cLoad 2 3 7 = 1 ∧ fld cLoad 2 10 54 = 0 ∧ programOk [0] = true ∧
    OnChip (((eYw cLoad).publish cLoad).takeDie 0 0) cLoad 0 (ptr 2 0x100) 4 needLoad (clusterKey 0 0x100) :=
  ⟨⟨by decide +kernel, by decide +kernel, by decide +kernel⟩, by decide +kernel, by decide +kernel, by decide +kernel, by decide +kernel,
    ⟨by decide, by decide +kernel, ⟨sg 2, .cluster 0 0x100, by decide +kernel, by decide +kernel, by decide +kernel⟩,
      fun w _ _ => by rw [show (((eYw cLoad).publish cLoad).takeDie 0 0).mem.poison = [] by decide +kernel]; simp⟩⟩
theorem test_load : gives (exec (.ywLoad 0) (eYw cLoad)) (fun t => let f := t.filter 0 3 0
    f.program = [0] && f.loaded && !f.attached && f.store = []) = true ∧ ended (exec (.ywLoad 0) (eYw cLoad)) 0 1 = true := by decide +kernel
theorem test_attach : (selectorOk 4 1024 = true ∧ ((eYw cAttach).filter 0 3 0).loaded = true) ∧
    gives (exec (.ywAttach 0) (eYw cAttach)) (fun t => (t.filter 0 3 0).attached && (t.filter 0 3 0).cls = 4 && (t.filter 0 3 0).sel = 1024) = true := by
  decide +kernel
theorem test_detach : fld cDetach 1 3 61 = 0 ∧ gives (exec (.ywDetach 0) (eYw cDetach)) (fun t => !(t.filter 0 3 0).attached) = true := by
  decide +kernel
theorem test_dump : fld cDump 3 0 32 = 2056 ∧ gives (exec (.ywDump 0) (eYw (cmdOf 5 [head 4 4, 0, ptr 2 0x200, 12] [])))
      (fun t => t.mem.read (clusterKey 0 0x204) 8 = 0x77) = true ∧
    ended (exec (.ywDump 0) (eYw (cmdOf 5 [head 4 4, 0, ptr 2 0x200, 12] []))) 0 12 = true := by decide +kernel

/-! ## Traps and events (R278 to R284, R313) -/

theorem at_way (l : Line) (w : WaitKind) (a : BitVec 28) : AtWay (on { l with wt := w, wtArg := a }) 3 5 0 0 (slotOf { l with wt := w, wtArg := a }) :=
  ⟨rfl, rfl, rfl⟩
/-- The test context waits. -/
def asleep (w : WaitKind) (a : BitVec 28) : State := on { l0 with wt := w, wtArg := a }

/-- Its RCB names a fault handler, or none. -/
def trapping (fdh : Nat) : State := { s0 with rcbs := [{ rcb3 0 with fdh := fdh }] }
theorem test_trap_listed : (trapping 0x700).fdhOf 3 0x8000 ≠ 0 ∧ (trapping 0).fdhOf 3 0x8000 = 0 ∧ (trapping 0x700).ccoreOf 3 l0 = 0 ∧
    (let t := (trapping 0x700).takeTrap 0 0 sl0 0x0F 5 0 0;
      (t.core 0).deliveries = [.parked 3 5] ∧ t.mem = State.reset.mem) ∧
    ((trapping 0).takeTrap 0 0 sl0 0x0F 5 0 0 |>.core 0).deliveries = [] := by decide +kernel

/-- A completion on its way to the entry that core 0 reserved. -/
def arriving : State :=
  let s := asleep .pop 1
  { s.setCore 0 { s.core 0 with reserved := [(.ctx 3 5, 1)] } with transit := [entry (.ctx 3 5)] }
theorem test_completion : arriving.transit[0]? = some (entry (.ctx 3 5)) ∧ arriving.reservedAt (.ctx 3 5) 1 = some 0 ∧
    (∀ x ∈ arriving.transit.take 0, ¬ (x.who = .ctx 3 5 ∧ x.port = 1)) ∧
    gives (exec (.completionDelivery 0) arriving) (fun t =>
      t.transit = [] && (t.core 0).held = [entry (.ctx 3 5)] && (t.core 0).reserved = [] && t.events = [(.ctx 3 5, .wake .pop)]) = true := by
  decide +kernel

theorem test_completion_of_nobody :
    let s : State := { arriving with transit := [{ entry (.ctx 3 5) with orphan := true }] }
    gives (exec (.completionDelivery 0) s) (fun t => t.transit = [] && (t.core 0).held = [] && (t.core 0).reserved = [(.ctx 3 5, 1)])
      = true := by decide +kernel
/-- A fill of g4 from cluster memory. -/
def fill4 : Fill :=
  Fill.mk (.ctx 3 5) 0 4 0 (.cluster 0 0x40) 1 true (ptr 2 0x40) 0 false false false false false 0 0 none
def filling : State := { asleep .fill 4 with cycle := 10, mem := Memory.reset.write (clusterKey 0 0x40) 8 0x80, fills := [fill4] }
theorem test_fill_response : filling.fills[0]? = some fill4 ∧ fill4.request = none ∧ (asleep .fill 4).placeOf 3 5 = some (.l1 0 0) ∧
    filling.heldBack 0 (.ctx 3 5) (filling.core 0).stores (.cluster 0 0x40) 1 (Loc.cluster 0 0x40).bank none filling.posted = false ∧
    l0.step = false ∧ BitVec.ofNat 28 (fill4.reg.toNat + 8 * fill4.tag.toNat) = 4 ∧ filling.fillRead fill4 = .ok (filling, 0x80, false) ∧
    gives (exec (.fillResponse 0) filling) (fun t => t.fills = [] && t.cur?.any fun x => x.line.wt = .ready && x.line.reg 4 = 0xFFFFFFFFFFFFFF80)
      = true := by decide +kernel
theorem test_fill_waits : { filling with cycle := 9 }.coreCycle 0 < fill4.since + 10 ∧ fill4.since + 10 ≤ filling.coreCycle 0 ∧
    gives (exec (.fillResponse 0) { filling with cycle := 9 }) (fun t => t = { filling with cycle := 9 }) = true := by decide +kernel
theorem test_fill_stale : gives (exec (.fillResponse 0) { s0 with cycle := 10, mem := filling.mem, fills := [fill4] }) (fun t =>
    t.cur? = s0.cur? && ((t.cluster 0).flags.get 3 0).getLsbD 6) = true := by decide +kernel

theorem test_wake : ({ asleep .full 0 with events := [(.ctx 3 5, .wake .full)] }).events[0]? = some (.ctx 3 5, .wake .full) ∧
    gives (exec (.contextEvent 0) { asleep .full 0 with events := [(.ctx 3 5, .wake .full)] })
      (fun t => t.events = [] && t.cur?.any fun x => x.line.wt = .ready) = true ∧
    gives (exec (.contextEvent 0) { asleep .empty 0 with events := [(.ctx 3 5, .wake .full)] })
      (fun t => t.events = [] && t.cur?.any fun x => x.line.wt = .empty) = true := by decide +kernel
/-- The context sleeps until tick 9. -/
def sleeping (tick : Nat) : State := { asleep .sleep 0 with tick := tick, ctxs := [(3 * 2 ^ 40 + 5, Ctx.mk (.l1 0 0) 0x8000 none false (some 9) false none)] }
theorem test_sleep_wake : ((sleeping 9).sleepers 0)[0]? = some (3, 5) ∧ 9 ≤ (sleeping 9).tick ∧
    gives (exec (.sleepWake 0 0) (sleeping 9)) (fun t => t.cur?.any fun x => x.line.wt = .ready) = true ∧
    gives (exec (.sleepWake 0 0) (sleeping 8)) (fun t => t = sleeping 8) = true := by decide +kernel
def polling : State :=
  { asleep .addr 0 with tick := 1024, waiters := [Waiter.mk (.ctx 3 5) .addr (.paged 3 0x800000000000) 8 (some 1024)] }
theorem test_poll : (∃ z ∈ polling.waiters, z.who = .ctx 3 5 ∧ z.kind = .addr ∧ z.poll = some 1024) ∧ 1024 ≤ polling.tick ∧
    gives (exec (.hostAddrPoll 3 5) polling) (fun t => t.waiters = [] && t.cur?.any fun x => x.line.wt = .ready) = true := by decide +kernel
def watched : State := { s0 with ctxs := [(3 * 2 ^ 40 + 5, Ctx.mk (.l1 0 0) 0x8000 (some 0x21) false none false none)] }
theorem test_watch : sl0.line.wt = .ready ∧ sl0.held = none ∧ watched.vectorRuns 0 0 = false ∧
    gives (exec (.watchDelivery 0 0) watched) (fun t => t.cur?.any fun x => x.line.tcause = 0x13 && x.line.tval = 0x21 && x.line.wt = .upcall)
      = true := by decide +kernel

/-- ldfe is in flight. -/
def inFlight : State :=
  let s := chip 0 (mem1 9)
  s.putCur { slp (ptr 1 0x100) 0 with held := some (.ldfe Pre.plain 4 1 0) }
theorem test_probe_answer : (∃ f, probeForm (.ldfe Pre.plain 4 1 0) (lp (ptr 1 0x100) 0) = some f ∧ f.pre = Pre.plain ∧
      (f.n, f.need, f.acc, f.host, f.homed) = (8, needFeBoth, .atomic, some 10, true) ∧
      inFlight.mayPerform 0 (.ctx 3 5) (.scratch 0 0x100) 8 (f.release (sg 1)) = true) ∧
    Lives inFlight (.ctx 3 5) ∧
    (inFlight.slot? 0 0).any (fun x => x.held = some (.ldfe Pre.plain 4 1 0)) = true ∧
    gives (exec (.probeAnswer 0 0) inFlight) (fun t => t.cur?.any fun x => x.line.reg 4 = 9 && x.held = none) = true :=
  ⟨⟨_, rfl, rfl, rfl, by decide +kernel⟩, fun v k h => ⟨Ctx.mk (.l1 0 0) 0x8000 none false none false none, by cases h; exact ⟨rfl, rfl⟩⟩,
    by decide +kernel, by decide +kernel⟩
theorem test_fence_drain : gives (exec (.fenceDrain 0 0) (s0.putCur { sl0 with held := some (.fence Pre.plain) })) (fun t =>
    t.cur?.any fun x => x.held = none && x.line.pc ≠ 0x100) = true ∧
    gives (exec (.fenceDrain 0 0) s0) (fun t => t = s0) = true := by decide +kernel

/-! ## Lines (R308 to R315, R396) -/

/-- cl1lim 0 is below way 0. -/
def crowded : State := s0.setCore 0 { s0.core 0 with cl1lim := 0 }
theorem test_eviction : (crowded.limitWay 0 = some 0 ∧ (crowded.core 0).limitCycle ≤ crowded.cycle) ∧ (crowded.cluster (clusterOf 0)).l2Victim (l2Set 3 5) = none ∧
    gives (exec (.contextEviction 0 0) crowded) (fun t => (t.slot? 0 0).isNone && t.placeOf 3 5 = some (.l2 0) && (t.cluster 0).l2.length = 1)
      = true := by decide +kernel
/-- One set of the context L2 is full; context 6 has stayed longest. -/
def fullSet : State :=
  { s0 with
    clusters := [(0, { Cluster.reset with l2 := (List.range 16).map fun k => L2Line.mk 3 (6 + 512 * k) l0 })]
    ctxs := [(3 * 2 ^ 40 + 6, Ctx.mk (.l2 0) 0x8000 none false none false none)] }
/-- The set is full and every write-back buffer is taken. -/
def crowdedSet : State :=
  { fullSet with
    cores := crowded.cores
    clusters := [(0, { Cluster.reset with
      l2 := (List.range 16).map fun k => L2Line.mk 3 (5 + 512 * (k + 1)) l0
      outgoing := (List.range 16).map fun k => L2Line.mk 3 (8000 + k) l0 })] }
theorem test_eviction_waits : crowdedSet.limitWay 0 = some 0 ∧ (crowdedSet.cluster 0).l2Victim (l2Set 3 5) ≠ none ∧
    16 ≤ (crowdedSet.cluster 0).outgoing.length ∧ gives (exec (.contextEviction 0 0) crowdedSet) (fun t => t = crowdedSet) = true := by
  decide +kernel
/-- VF 3 leaves core 0, which its context 5 is READY on. -/
def leavingCore : State := s0.setCore 0 { s0.core 0 with resident := some 4, switchAt := some 0 }
theorem test_eviction_for_a_switch : leavingCore.switchesOut 0 0 = true ∧
    gives (exec (.contextEviction 0 0) leavingCore) (fun t => t.placeOf 3 5 = some (.l2 0)) = true := by decide +kernel
/-- A line of the set waits in a write-back buffer. -/
def outgoingSet : State := fullSet.setCluster 0 { fullSet.cluster 0 with outgoing := [L2Line.mk 3 6 l0], l2 := [] }
theorem test_write_back_buffer : (outgoingSet.cluster 0).outgoing.find? (fun z => l2Set z.vf z.index = l2Set 3 6) = some (L2Line.mk 3 6 l0) ∧
    ¬ CopyReached outgoingSet 3 6 ∧ gives (exec (.contextWriteBack 0 (l2Set 3 6)) outgoingSet) (fun t =>
      t.clusters = outgoingSet.clusters && t.requests.map PageReq.requester = [.copy (.ctx 3 6)]) = true :=
  ⟨by decide +kernel, fun h => h 0 (by decide) (by decide +kernel), by decide +kernel⟩
/-- The full set gives up the line that has stayed longest. -/
def roomyBuffers : State := { crowdedSet.setCluster 0 { crowdedSet.cluster 0 with outgoing := [] } with ctxs := s0.ctxs }
theorem test_eviction_of_a_full_set : roomyBuffers.limitWay 0 = some 0 ∧
    (roomyBuffers.cluster 0).l2Victim (l2Set 3 5) = some (L2Line.mk 3 517 l0) ∧
    gives (exec (.contextEviction 0 0) roomyBuffers) (fun t => t.placeOf 3 5 = some (.l2 0) &&
      (t.cluster 0).outgoing = [L2Line.mk 3 517 l0] && (t.cluster 0).l2.length = 16) = true := by decide +kernel
/-- The memory copy of context 6 lies in two LLC lines. -/
def copiedSet : State :=
  { outgoingSet with llc := [0x400C, 0x400D].map fun n => LlcLine.mk 3 n 0 0xFF 0 9 true false Dir.empty none }
theorem test_write_back_copy : CopyReached copiedSet 3 6 ∧ (∀ k < 16, CopyWritable copiedSet 3 ((copiedSet.vf 3).ctxbase + 128 * 6 + 8 * k)) ∧
    (copiedSet.vf 3).ctxbase % 128 = 0 ∧
    gives (exec (.contextWriteBack 0 (l2Set 3 6)) copiedSet) (fun t => ((t.gpaWord 3 0x100308).map Word8.data) = some (lineDw l0 1)) = true := by
  refine ⟨by unfold CopyReached; decide +kernel, fun k hk => ?_, by decide +kernel, by decide +kernel⟩
  have h : ∀ k < 16, hostHalf ((copiedSet.vf 3).ctxbase + 128 * 6 + 8 * k) = false ∧
      copiedSet.occAt 3 ((copiedSet.vf 3).ctxbase + 128 * 6 + 8 * k) = false ∧
      (copiedSet.llc? 3 (((copiedSet.vf 3).ctxbase + 128 * 6 + 8 * k) / 64)).any
        (fun l => l.write && !copiedSet.secureHpa (l.frame * 4096)) = true := by decide +kernel
  obtain ⟨a, b, e⟩ := h k hk
  rw [Option.any_eq_true] at e
  obtain ⟨l, hl, e⟩ := e
  simp only [Bool.and_eq_true, Bool.not_eq_true'] at e
  exact ⟨a, b, l, hl, e.1, .inl e.2⟩
/-- Context 6 is READY in the context L2 or in memory and queued for core 0. -/
def pulling (p : Place) : State :=
  let s := away 0 p
  { s with cycle := 5, cores := [(0, { s.core 0 with pulls := [(3, 6, 4)] })] }
theorem test_pull : ((pulling (.l2 0)).core 0).pulls = [(3, 6, 4)] ∧ ((pulling (.l2 0)).lineOf 3 6).any (fun l => l.wt = .ready) = true ∧
    4 < (pulling (.l2 0)).cycle ∧ ((pulling (.l2 0)).core 0).freeOrdinary = some 1 ∧
    gives (exec (.contextPull 0) (pulling (.l2 0))) (fun t => t.placeOf 3 6 = some (.l1 0 1) && (t.cluster 0).l2 = []
      && (t.slot? 0 1).any fun x => x.line.pc = 0x444 && !x.segsLoaded) = true := by decide +kernel
theorem test_fetch_line : ((pulling .memory).core 0).resident = some 3 ∧ ((pulling .memory).copyLine 3 6).any (fun l => l.wt = .ready) = true ∧
    gives (exec (.contextFetch 3 6) (pulling .memory)) (fun t => t.placeOf 3 6 = some (.l1 0 1)
      && (t.slot? 0 1).any fun x => x.line.pc = 0x122 || x.line.pc = 0x123) = true := by decide +kernel
/-- Context 6 travels to core 0, arrived in cycle 0. -/
def packet6 : Packet := Packet.mk false 0 0 3 6 { l0 with wt := .migrate, pc := 0x444 } 0 1 (some 0) [] []
def travelling (cycle : Nat) : State := { away 0 .flight with cycle := cycle, packets := [packet6] }
theorem test_migration : (travelling 0).packetDrained packet6 = true ∧ (travelling 0).admits ((travelling 0).pcore 3 0) packet6 = true ∧
    ((travelling 0).core 0).freeOrdinary = some 1 ∧ (travelling 0).pcore 3 0 = 0 ∧
    gives (exec (.migrationArrival 0) (travelling 0)) (fun t => t.packets = [] && (t.slot? 0 1).any fun x => x.line.wt = .ready && x.line.pc = 0x444)
      = true := by decide +kernel
theorem test_late_arrival : 0 + 64 ≤ (travelling 64).cycle ∧ ((travelling 64).cluster 0).l2Victim (l2Set 3 6) = none ∧
    gives (exec (.arrivalToContextL2 0) (travelling 64)) (fun t => t.packets = [] && t.placeOf 3 6 = some (.l2 0)) = true ∧
    gives (exec (.arrivalToContextL2 0) (travelling 63)) (fun t => t.placeOf 3 6 = some .flight) = true := by decide +kernel
def recorded : State := { s0 with clusters := [(0, { Cluster.reset with replay := [Replay.mk 7 (.packet packet6) 3 0 (Marks.mk 0 0 0 false false) 0 0] })] }
theorem test_ack : Replay.mk 7 (.packet packet6) 3 0 (Marks.mk 0 0 0 false false) 0 0 ∈ (recorded.cluster 0).replay ∧ recorded.packets = [] ∧
    gives (exec (.arrivalAck 0 7) recorded) (fun t => (t.cluster 0).replay = []) = true := by decide +kernel
theorem test_line_lost : (s0.ctx? 3 5).any (fun y => y.place ≠ .retired) = true ∧
    gives (exec (.contextLineLost 3 5) s0) (fun t => t.placeOf 3 5 = some .retired && (t.slot? 0 0).isNone) = true := by decide +kernel

/-! ## Handlers start (R190, R191, R282, R304) -/

def msgOf (reply : Bool) : Msg := Msg.mk 0 3 reply 0x300 { l0 with handler := true, pc := 0x300 } 0 [] 0x8000 (.ctx 3 5) 0
def sent : State := s0.setCore 0 { s0.core 0 with outbound := [(1, msgOf false)] }
theorem test_message_arrival : (∀ x ∈ sent.cores, ∀ e ∈ x.2.outbound, ¬ (e.1 = 1 ∧ e.2.who = .ctx 3 5 ∧ e.2.after < 0)) ∧ (sent.core 0).outbound[0]? = some (1, msgOf false) ∧ sent.drainedBefore (.ctx 3 5) 0 true = true ∧
    (sent.core 1).msgs.length < 32 ∧ ((sent.core 1).msgs.filter fun y => !y.reply).length < 24 ∧
    gives (exec (.messageArrival 0 0) sent) (fun t => (t.core 1).msgs = [msgOf false] && (t.core 0).outbound = []) = true := by decide +kernel
/-- A parked context is listed, and a message of a class waits. -/
def starting (reply : Bool) : State :=
  let s := { two l0 (parkedLine 0) with rcbs := [{ rcb3 0 with fdh := 0x700 }] }
  s.setCore 0 { s.core 0 with deliveries := [.parked 3 6], msgs := [msgOf reply] }
theorem test_reply_first : ((starting true).core 0).freeHandlerLine = some 60 ∧ ((starting true).core 0).message? true = some (0, msgOf true) ∧
    gives (exec (.messageHandlerStart 0) (starting true)) (fun t => (t.core 0).msgs = [] && (t.slot? 0 60).any fun x => x.line.pc = 0x300) = true ∧
    gives (exec (.faultHandlerStart 0) (starting true)) (fun t => (t.slot? 0 60).isNone) = true := by decide +kernel
theorem test_delivery_before_request : ((starting false).core 0).message? true = none ∧
    ((starting false).core 0).delivery? = some (0, .parked 3 6) ∧ (starting false).fdhOf 3 0x8000 ≠ 0 ∧
    gives (exec (.messageHandlerStart 0) (starting false)) (fun t => (t.slot? 0 60).isNone) = true ∧
    gives (exec (.faultHandlerStart 0) (starting false)) (fun t => (t.core 0).deliveries = [] && (t.slot? 0 60).any fun x =>
      x.line.pc = 0x700 && x.line.reg 0 = id6 && x.line.reg 2 = 0x0F && x.line.reg 4 = 0x100) = true := by decide +kernel
theorem test_request_alone :
    let s := s0.setCore 0 { s0.core 0 with msgs := [msgOf false] }
    (s.core 0).message? true = none ∧ (s.core 0).delivery? = none ∧ (s.core 0).message? false = some (0, msgOf false) := by decide +kernel

/-! ## Translation, coherence, host (R342 to R364, R407, R416) -/

/-- Stage 1 of VF 3: a root at 0x10000 whose first entry names the table at 0x20000, whose first entry is a leaf of 1 GiB. -/
def walk6 : Walk := Walk.mk (.ctx 3 5) 0 3 0x5000 .write false (ptr 3 0x5000) 0 false false none false
def walking : State :=
  let s := asleep .xlate 0
  let s1 := s.setVf 3 { s.vf 3 with s1en := true, s1root := 0x10000 }
  { s1 with
    clusters := [(0, { Cluster.reset with walks := [walk6] })]
    llc := [LlcLine.mk 3 0x400 0x20001 0xFF 0 9 true false Dir.empty none, LlcLine.mk 3 0x800 0x77 0xFF 0 10 true false Dir.empty none] }
theorem walks_of (s : State) (w : Walk) (h : (s.cluster 0).walks = [w]) (f : w.request = none ∧ w.stale = false)
    (r : (s.cluster 0).tableFor w.vf w.linear = none) : Walks s 0 0 w :=
  ⟨by rw [h]; rfl, f, by rw [h]; simp, r⟩
theorem test_walk_leaf : Walks walking 0 0 walk6 ∧ LeafAllows (reading walking walk6) walk6 0x20000 3 0x77 ∧
    (0x77 : Word).getLsbD 6 = true ∧ walking.wayOf (.ctx 3 5) = some (0, 0) ∧
    gives (exec (.stage1Walk 0 0) walking) (fun t => (t.core 0).tlb.map TlbEntry.size = [2] && t.events = [(.ctx 3 5, .wake .xlate)]) = true :=
  ⟨walks_of _ _ rfl ⟨rfl, rfl⟩ (by decide +kernel),
    ⟨by decide +kernel, fun h => absurd h (by decide), by decide +kernel, .inr (by decide +kernel)⟩,
    by decide +kernel, by decide +kernel, by decide +kernel⟩
/-- The same page by four tables, its leaf of a 4 KiB page as yet untouched. -/
def walkingFour (leaf : Nat) : State :=
  { walking with llc := [LlcLine.mk 3 0x400 0x20001 0xFF 0 9 true false Dir.empty none,
      LlcLine.mk 3 0x800 0x30001 0xFF 0 9 true false Dir.empty none, LlcLine.mk 3 0xC00 0x40001 0xFF 0 9 true false Dir.empty none,
      LlcLine.mk 3 0x1000 (BitVec.ofNat 512 (2 ^ 320 * leaf)) 0xFF 0 10 true false Dir.empty none] }
theorem test_walk_sets : Walks (walkingFour 0x9017) 0 0 walk6 ∧ LeafAllows (reading (walkingFour 0x9017) walk6) walk6 0x40028 1 0x9017 ∧
    (hostHalf 0x40028 = false ∧ (walkingFour 0x9017).occAt 3 0x40028 = false ∧ (reading (walkingFour 0x9017) walk6).granuleHeld 3 9 = false ∧
    (walkingFour 0x9017).secureHpa (10 * 4096) = false) ∧
    gives (exec (.stage1Walk 0 0) (walkingFour 0x9017)) (fun t => (t.gpaWord 3 0x40028).map Word8.data = some 0x9177) = true :=
  ⟨walks_of _ _ rfl ⟨rfl, rfl⟩ (by decide +kernel),
    ⟨by decide +kernel, fun _ => ⟨by decide +kernel, fun h => absurd h (by decide)⟩, by decide +kernel, .inr (by decide +kernel)⟩,
    by decide +kernel, by decide +kernel⟩
/-- Its leaf gives no right to write; the upcall ring of core 0 has the given occ word 0 and scheduler. -/
def faulting (upcbase : Nat) (occ sched : Nat) : State :=
  let s := walkingFour 0x9013
  let s1 := s.setVf 3 { s.vf 3 with upcbase := upcbase }
  { s1 with llc := s.llc ++
      [LlcLine.mk 3 0x8000 (BitVec.ofNat 512 (occ + 2 ^ 64 * (2 ^ 192 - 1) + 2 ^ 320 * sched)) 0xFF 0 9 true false Dir.empty none,
       LlcLine.mk 3 0x8001 0 0xFF 0 9 true false Dir.empty none] }
theorem test_walk_faults : Walks (faulting 0 0 0) 0 0 walk6 ∧ WalkFaults (reading (faulting 0 0 0) walk6) walk6 ∧
    (reading (faulting 0 0 0) walk6).scheduler 3 ((faulting 0 0 0).upcallRing 3 0) = none ∧
    gives (exec (.stage1Walk 0 0) (faulting 0 0 0)) (fun t => t.cur?.any fun x => x.line.wt = .upcall && x.line.tcause = 0x06) = true :=
  ⟨walks_of _ _ rfl ⟨rfl, rfl⟩ (by decide +kernel),
    .inr ⟨0x40028, 0x9013, 1, by decide +kernel, fun _ => by decide +kernel, .inl (by decide +kernel)⟩, by decide +kernel, by decide +kernel⟩
/-- The state in which walk 6 of a state reads its tables. -/
def ringed (occ sched : Nat) : State := reading (faulting 0x200000 occ sched) walk6
theorem test_walk_upcall : (ringed 3 (3 * 2 ^ 40 + 6)).scheduler 3 0x200000 = some id6 ∧
    (ringed 3 (3 * 2 ^ 40 + 6)).freeUpcall 3 0x200000 = some 2 ∧ RingReached (ringed 3 (3 * 2 ^ 40 + 6)) 3 0x200000 ∧
    RingReached (ringed 3 (3 * 2 ^ 40 + 6)) 3 0x200040 ∧
    gives (exec (.stage1Walk 0 0) (faulting 0x200000 3 (3 * 2 ^ 40 + 6))) (fun t => t.cur?.any fun x => x.line.wt = .upcall && x.line.wtArg = 2)
      = true ∧
    (ringed (2 ^ 64 - 1) (3 * 2 ^ 40 + 6)).freeUpcall 3 0x200000 = none ∧
    gives (exec (.stage1Walk 0 0) (faulting 0x200000 (2 ^ 64 - 1) (3 * 2 ^ 40 + 6))) (fun t => t.waiters.length = 1 &&
      t.cur?.any fun x => x.line.wt = .xlate) = true := by
  unfold RingReached; decide +kernel
/-- Stage 2 reaches no line of the ring, or not that of its first free slot. -/
def unringed (near : Bool) : State :=
  let s := faulting 0x200000 3 (3 * 2 ^ 40 + 6)
  { s with llc := s.llc.filter fun l => l.line ≠ if near then 0x8001 else 0x8000 }
theorem test_walk_ring_refused : ¬ RingReached (reading (unringed false) walk6) 3 0x200000 ∧
    ¬ RingReached (reading (unringed true) walk6) 3 0x200040 ∧ (reading (unringed true) walk6).freeUpcall 3 0x200000 = some 2 ∧
    (∀ near : Bool, gives (exec (.stage1Walk 0 0) (unringed near)) (fun t => t.requests.map PageReq.requester = [.wait (.ctx 3 5)] &&
      t.cur?.any fun x => x.line.wt = .xlate) = true) :=
  ⟨fun h => h (by decide +kernel), fun h => h (by decide +kernel), by decide +kernel, by decide +kernel⟩
/-- Context 6 is HOME, and the hypervisor has been asked for the page of its memory copy. -/
def askedCopy : State :=
  { two l0 l0 with
    ctxs := [(3 * 2 ^ 40 + 6, Ctx.mk .memory 0x8000 none false none false none)]
    requests := [PageReq.mk 4 3 0 0x100 .read (.copy (.ctx 3 6)) 0 0] }
theorem test_copy_response : askedCopy.placeOf 3 6 = some .memory ∧
    gives (exec (.pageResponse 4 0 false) askedCopy) (fun t => t = { askedCopy with requests := [] }) = true ∧
    gives (exec (.pageResponse 4 0 true) askedCopy) (fun t => t.placeOf 3 6 = some .retired) = true := by decide +kernel
def asked : State := { asleep .xlate 0 with requests := [PageReq.mk 4 3 0 9 .read (.wait (.ctx 3 5)) 0x77 0] }
theorem test_page_response : asked.requests.find? (fun x => x.tag = 4 && x.gen.toNat = 0) = some (PageReq.mk 4 3 0 9 .read (.wait (.ctx 3 5)) 0x77 0) ∧
    gives (exec (.pageResponse 4 0 false) asked) (fun t => t.requests = [] && t.events = [(.ctx 3 5, .wake .xlate)]) = true ∧
    gives (exec (.pageResponse 4 0 true) asked) (fun t => t.events = [(.ctx 3 5, .trap 0x07 0x77 0 0)]) = true := by decide +kernel
theorem test_page_response_stale : asked.requests.find? (fun x => x.tag = 4 && x.gen.toNat = 1) = none ∧
    gives (exec (.pageResponse 4 1 true) asked) (fun t => t.requests.length = 1 && t.events = []) = true := by decide +kernel
/-- Guest page 0 of VF 3 is frame 9, which holds 0x55 at byte 64. -/
def missing : State :=
  { s0 with
    mem := Memory.reset.write (9 * 4096 + 64) 8 0x55
    dies := [(0, { Die.reset with s2 := [S2Entry.mk 3 0 9 true true false] })]
    frames := [(9, Frame.mk 3 1 false 0)] }
theorem test_llc_miss : (missing.vf 3).wmask.getLsbD 2 = true ∧ (∀ x ∈ missing.llc, x.place = none) ∧ hostHalf (1 * 64) = false ∧ missing.llc? 3 1 = none ∧ (missing.vf 3).wmask ≠ 0 ∧
    missing.translate2 3 (1 / 64) true = some (9, true) ∧ missing.secureHpa (9 * 4096) = false ∧
    gives (exec (.llcMiss 3 1 true none) missing) (fun t => (t.llc? 3 1).any fun l => l.frame = 9 && l.data = 0x55 && l.write
      && l.place.any fun p => (missing.vf 3).wmask.getLsbD p.2.2) = true := by
  decide +kernel
theorem test_stage2_rights : missing.translate2 3 0 false = some (9, true) ∧ missing.translate2 3 0 false true = none := by
  decide +kernel
theorem test_reclass :
    let s := { s0 with clusters := [(0, { Cluster.reset with reclass := [Reclass.mk 3 9 0x2000 1] })],
                       cores := [(1, { Core.reset with tlb := [TlbEntry.mk 0 3 4 0 9 true true false true true true] })] }
    (s.clusters.flatMap fun c => c.2.reclass.map fun r => (c.1, r))[0]? = some (0, Reclass.mk 3 9 0x2000 1) ∧ s.pcore 3 1 = 1 ∧ s.granuleEntry 1 3 9 = none ∧
    gives (exec (.reclass 0) s) (fun t => (t.cluster 0).reclass = [] && (t.core 1).tlb = []) = true := by decide +kernel

theorem test_reclass_drains :
    let s := { s0 with clusters := [(0, { Cluster.reset with reclass := [Reclass.mk 3 9 0x2000 1] })],
                       cores := [(1, { Core.reset with stores := [queued (.paged 3 0x9008) 0x11 .store], resident := some 3 })],
                       llc := [LlcLine.mk 3 0x240 0 0xFF 0 9 true false Dir.empty none] }
    s.granuleEntry 1 3 9 = some 0 ∧
    gives (exec (.reclass 0) s) (fun t => (t.cluster 0).reclass.length = 1 && (t.core 1).stores = []) = true := by decide +kernel

/-- Line 4 of VF 3 in the LLC, with its PRIV bit 0 and core 1 as its only holder. -/
def sharedLine : State :=
  let l := LlcLine.mk 3 4 0x77 0xFF 0 9 true false (Dir.mk 2 0 false [1] []) none
  { s0.setCore 1 { Core.reset with cache := [CacheLine.mk 3 4 0xFFFF 0 false false 0 0x77], resident := some 3 } with llc := [l] }
theorem test_dir_forms : sharedLine.coreOf 3 0 = true ∧ hostHalf (4 * 64) = false ∧ sharedLine.privateLine 3 4 = false ∧
    (∃ l, sharedLine.lineView 3 4 true false = .ok l) ∧ (∃ l, sharedLine.lineView 3 4 false false = .ok l) ∧ (sharedLine.llc? 3 4).isSome = true :=
  ⟨by decide +kernel, by decide +kernel, by decide +kernel, ⟨_, rfl⟩, ⟨_, rfl⟩, by decide +kernel⟩
theorem test_dir_load : gives (exec (.dirLoadMiss 3 4 0 0x3) sharedLine) (fun t => (t.core 0).valid 3 4 &&& 3 = 3) = true := by decide +kernel
theorem test_dir_store : gives (exec (.dirStoreOwnership 3 4 0 0x3) sharedLine) (fun t =>
    (t.core 0).valid 3 4 &&& 3 = 3 && (t.core 1).valid 3 4 &&& 3 = 0) = true := by decide +kernel
theorem test_dir_evict : gives (exec (.dirCoreEvict 3 4 1) sharedLine) (fun t => (t.core 1).valid 3 4 = 0) = true := by decide +kernel
/-- Core 1 holds word 0 of the line dirty. -/
def dirtyLine : State :=
  let l := LlcLine.mk 3 4 0x77 0xFF 0 9 true false (Dir.mk 2 0 false [] [(1, 1)]) none
  { s0.setCore 1 { Core.reset with cache := [CacheLine.mk 3 4 0xFFFF 1 false false 0 0x88], walks := 1 } with
    llc := [l], rangeWalks := [RangeWalk.mk 1 3 true (some 0x100) [] 4 0 0] }
theorem test_dir_write_back : gives (exec (.dirWriteBack 3 4 1 1) dirtyLine) (fun t =>
    dirtyOf (t.core 1) 3 4 = 0 && (t.llc? 3 4).any fun l => l.data.extractLsb' 0 32 = 0x88#32) = true := by decide +kernel
/-- The walk has passed line 4. -/
def walkedLine : State := { sharedLine with cores := [(1, { Core.reset with walks := 1, resident := some 3, fetch := [FetchEntry.mk (.scratch 1 0x100) 2 0 none] })],
                                            rangeWalks := [RangeWalk.mk 1 3 true (some 0x100) [(.scratch 1 0x100, 4)] 4 0 5] }
theorem test_walk_invalidates : touches 4 0 0x100 0x104 ∧ ¬ touches 4 1 0x100 0x104 ∧
    dirtyLine.walkNext (RangeWalk.mk 1 3 true (some 0x100) [] 4 0 0) = some (4, 4, 0x100, 0x104) ∧
    gives (exec (.tailraceWalk 0) dirtyLine) (fun t => t.rangeWalks.map RangeWalk.cursor = [5] && (t.core 1).valid 3 4 &&& 1 = 0) = true :=
  ⟨by unfold touches; omega, by unfold touches; omega, by decide +kernel, by decide +kernel⟩
theorem test_walk_ends : walkedLine.walkNext (RangeWalk.mk 1 3 true (some 0x100) [(.scratch 1 0x100, 4)] 4 0 5) = none ∧
    gives (exec (.tailraceWalk 0) walkedLine) (fun t => t.rangeWalks = [] && (t.core 1).walks = 0 && (t.core 1).fetch = []) = true := by
  decide +kernel
theorem test_walk_of_nothing : s0.walkNext (RangeWalk.mk 0 3 true (some 0x100) [] 4 0 0) = none ∧ (s0.vf 3).s1en = false ∧
    (s0.core 0).valid 3 4 = 0 := by decide +kernel

theorem test_host_read : (missing.hostReaches (.hub false) (9 * 4096 + 64) = true ∧ frameReserved (9 * 4096 + 64) = false ∧
      missing.secureHpa (9 * 4096 + 64) = false ∧ missing.linesAt (9 * 4096 + 64) = []) ∧
    gives (exec (.hostRead (.hub false) (9 * 4096 + 64)) missing) (fun t => t.hostPort = some 0x55) = true := by decide +kernel
theorem test_host_read_recalls : (dirtyLine.hostReaches (.hub false) (9 * 4096 + 256) = true ∧ frameReserved (9 * 4096 + 256) = false ∧
      dirtyLine.secureHpa (9 * 4096 + 256) = false ∧ (dirtyLine.linesAt (9 * 4096 + 256)).length = 1) ∧
    gives (exec (.hostRead (.hub false) (9 * 4096 + 256)) dirtyLine) (fun t => t.hostPort = some 0x88 && dirtyOf (t.core 1) 3 4 = 0)
      = true := by decide +kernel
theorem test_host_write : missing.mem.wf = true ∧ (missing.mem.word (9 * 4096 + 64)).poison = false ∧
    (∀ u ∈ missing.ownerAddr (9 * 4096 + 66), missing.copyAt u.1 u.2 = none ∧ missing.occAt u.1 u.2 = false) ∧
    gives (exec (.hostWrite (.hub false) (9 * 4096 + 66) 2 0x1234) missing) (fun t => t.mem.read (9 * 4096 + 64) 8 = 0x12340055) = true := by
  decide +kernel
theorem test_host_refused : missing.hostReaches (.hub false) 0x17B400000 = true ∧ frameReserved 0x17B400000 = true ∧
    frameReserved 0x17B3FFFFF = false ∧ gives (exec (.hostRead (.hub false) 0x17B400000) missing) (fun t => t.hostPort = none) = true := by
  decide +kernel
/-- Frame 9 holds the upcall ring of core 0, whose occ words read 1 in bits 0 and 1. -/
def ringFrame : State := missing.setVf 3 { missing.vf 3 with upcbase := 64 }
theorem test_host_reads_occ : (ringFrame.ownerAddr (9 * 4096 + 64)).any (fun a => ringFrame.occAt a.1 a.2) = true ∧
    gives (exec (.hostRead (.hub false) (9 * 4096 + 64)) ringFrame) (fun t => t.hostPort = some 0x57) = true := by decide +kernel
theorem test_host_unreached : missing.hostReaches (.host 0) (9 * 4096 + 64) = false ∧
    gives (exec (.hostRead (.host 0) (9 * 4096 + 64)) missing) (fun t => t.hostPort = missing.hostPort) = true := by decide +kernel
theorem test_frames : missing.frameUsable 8 = true ∧ missing.frameUsable 0x17B400 = false ∧ (missing.frame 8).state = 0 ∧ (missing.frame 9).state = 1 ∧
    gives (exec (.frameAssign 8 3 1 false) missing) (fun t => t.frame 8 = Frame.mk 3 1 false 1 && t.frameStatus = .ok) = true ∧
    gives (exec (.frameAssign 9 3 1 false) missing) (fun t => t.frameStatus = .refused) = true ∧
    gives (exec (.frameRelease 9) missing) (fun t => (t.frame 9).state = 2 && t.frameStatus = .busy) = true ∧
    gives (exec (.frameRelease 8) missing) (fun t => t.frameStatus = .refused) = true := by decide +kernel
theorem test_frame_scrub :
    let s := { missing with frames := [(9, Frame.mk 3 2 false 0)] }
    (s.frame 9).state = 2 ∧ s.mem.wf = true ∧
    gives (exec (.frameScrubDone 9) s) (fun t => (t.frame 9).state = 0 && t.mem = Memory.reset) = true := by decide +kernel

/-! ## Headrace (R318 to R337) -/

/-- The RCB at 0x8000 in LLC lines, by its doublewords. -/
def rcbLines (f : Nat → Nat) : List LlcLine :=
  (List.range 4).map fun j => LlcLine.mk 3 (0x200 + j)
    (BitVec.ofNat 512 (((List.range 8).map fun k => f (8 * j + k) * 2 ^ (64 * k)).sum)) 0xFF 0 9 true false Dir.empty none
/-- One context, SHARE class, quota 2, in the given state. -/
def rcbDws (st : Nat) : Nat → Nat
  | 3 => 2
  | 9 => 1
  | 12 => 2
  | 14 => st
  | _ => 0
/-- Its record. -/
def root (st : RcbState) (next live : Nat) : Rcb := { rcb3 0 with state := st, cls := 2, next := next, live := live }
/-- The RCB in a state code, with records and pool entries. -/
def hr (code : Nat) (rs : List Rcb) (pool : List PoolEntry) : State := { s0 with llc := rcbLines (rcbDws code), rcbs := rs, pool := pool }

theorem held_of (s : State) (v addr : Nat) (h : (s.vf v).s1en = false ∧ addr % 256 = 0 ∧ hostHalf (addr + 255) = false ∧
    ∀ k < 4, (s.llc? v (addr / 64 + k)).any (fun l => l.write) = true) (p : ∀ k < 32, s.rcbWord v addr k ≠ none) (o : ∀ k < 32, s.occAt v (addr + 8 * k) = false) : Held s v addr :=
  ⟨h.1, h.2.1, h.2.2.1, fun k hk => by
    have := h.2.2.2 k hk
    rw [Option.any_eq_true] at this
    obtain ⟨l, h1, h2⟩ := this
    exact ⟨l, h1, h2⟩, p, o⟩
theorem test_held (code : Nat) (rs : List Rcb) (pool : List PoolEntry) (h : code < 5) : Held (hr code rs pool) 3 0x8000 := by
  have : code = 0 ∨ code = 1 ∨ code = 2 ∨ code = 3 ∨ code = 4 := by omega
  apply held_of
  rotate_left
  · rcases this with rfl | rfl | rfl | rfl | rfl
    · exact (by decide +kernel : ∀ k < 32, (hr 0 [] []).rcbWord 3 0x8000 k ≠ none)
    · exact (by decide +kernel : ∀ k < 32, (hr 1 [] []).rcbWord 3 0x8000 k ≠ none)
    · exact (by decide +kernel : ∀ k < 32, (hr 2 [] []).rcbWord 3 0x8000 k ≠ none)
    · exact (by decide +kernel : ∀ k < 32, (hr 3 [] []).rcbWord 3 0x8000 k ≠ none)
    · exact (by decide +kernel : ∀ k < 32, (hr 4 [] []).rcbWord 3 0x8000 k ≠ none)
  · exact (by decide +kernel : ∀ k < 32, (hr 0 [] []).occAt 3 (0x8000 + 8 * k) = false)
  refine ⟨rfl, by decide, by decide +kernel, ?_⟩
  show ∀ k < 4, ((rcbLines (rcbDws code)).find? fun l => l.vf = 3 && l.line = 0x8000 / 64 + k).any (fun l => l.write) = true
  rcases this with rfl | rfl | rfl | rfl | rfl <;> decide +kernel
def codeIs (o : Out) (n : Nat) : Bool := gives o fun t => stateCode t 3 0x8000 = some n

/-- Context 6's RCB at 0x9000 spawned the RCB at 0x8000. -/
def spawned : PoolEntry := PoolEntry.mk 3 0x8000 0x9000 (.ctx 3 6) 0 0 []
theorem test_named : (hr 0 [] [spawned]).rcb? 3 0x8000 = none ∧
    (hr 0 [] [spawned]).pool.find? (fun e => e.vf = 3 && e.child = 0x8000 && (hr 0 [] [spawned]).drainedBefore e.who e.after true) = some spawned ∧
    gives (exec (.rcbAdmit 3 0x8000) (hr 0 [] [spawned])) (fun t => t.pool = [] && (t.rcb? 3 0x8000).any fun r => r.state = .pending && r.parent = 0x9000)
      = true ∧ codeIs (exec (.rcbAdmit 3 0x8000) (hr 0 [] [spawned])) 1 = true := by decide +kernel
theorem test_named_reads : ∃ d, (hr 0 [] [spawned]).readRcb 3 0x8000 = some d ∧ (rcbDw d 14).toNat % 16 = 0 := ⟨_, rfl, by decide +kernel⟩
/-- The spawner's RCB has the fault handler `fdh`; its entry names it as record 7. -/
def reporting (fdh : Nat) : State :=
  hr 3 [{ root .admitted 0 0 with addr := 0x9000, order := 7, fdh := fdh }] [{ spawned with chain := [(7, 0)] }]
theorem test_not_new : (∃ d, (reporting 0x700).readRcb 3 0x8000 = some d ∧ (rcbDw d 14).toNat % 16 ≠ 0) ∧
    ((reporting 0x700).recordOf 7).any (fun p => p.fdh = 0x700) = true ∧
    gives (exec (.rcbAdmit 3 0x8000) (reporting 0x700)) (fun t => t.pool = [] && (t.core 0).deliveries.any fun x => match x with
      | .report 3 0x9000 l => l.pc = 0x700 && l.reg 3 = 0x8000 && l.handler
      | _ => false) = true ∧
    gives (exec (.rcbAdmit 3 0x8000) (reporting 0)) (fun t => t.pool = [] && (t.core 0).deliveries = []) = true :=
  ⟨⟨_, rfl, by decide +kernel⟩, by decide +kernel, by decide +kernel, by decide +kernel⟩

/-- Software has set the state of a PENDING RCB to NEW, and a spawn names it. -/
theorem test_named_already : (hr 0 [root .pending 0 0] [spawned]).rcb? 3 0x8000 ≠ none ∧
    gives (exec (.rcbAdmit 3 0x8000) (hr 0 [root .pending 0 0] [spawned])) (fun t => t.pool = [] && t.rcbs.length = 1 && t.named = 0)
      = true := by decide +kernel
/-- A PENDING root, and one that overlaps it. -/
def pend : State := hr 1 [root .pending 0 0] []
def overlap : State := hr 1 [root .pending 0 0, { root .admitted 0 0 with addr := 0xA000, order := 1 }] []
theorem test_admit_hypotheses : pend.rcb? 3 0x8000 = some (root .pending 0 0) ∧ (pend.vf 3).st ≠ 2 ∧
    ((pend.readRcb 3 0x8000).any fun d => (root .pending 0 0).load (effective d none) = root .pending 0 0) = true ∧
    pend.admissible (root .pending 0 0) = true := by decide +kernel
theorem test_distinct : Distinct pend.rcbs ∧ Distinct overlap.rcbs := by unfold Distinct; decide +kernel
theorem test_well_formed_root : ¬ malformed (rcbDws 1) (rcbDws 1) 0 64 := by
  unfold malformed
  rintro (h | h | h | h | h | h | h | h | h | ⟨k, h1, h2, h⟩ | h | h | h | h | h | h | h)
  all_goals first
    | exact absurd h (by decide)
    | (have : k = 18 ∨ k = 19 ∨ k = 20 ∨ k = 21 ∨ k = 22 ∨ k = 23 ∨ k = 24 ∨ k = 25 ∨ k = 26 ∨ k = 27 ∨ k = 28 ∨ k = 29 ∨ k = 30 := by omega
       rcases this with rfl | rfl | rfl | rfl | rfl | rfl | rfl | rfl | rfl | rfl | rfl | rfl | rfl <;> exact h rfl)
theorem test_malformed_root : malformed (fun k => if k = 3 then 3 else rcbDws 1 k) (fun k => if k = 3 then 3 else rcbDws 1 k) 0 64 := by
  simp [malformed]
theorem test_admitted : codeIs (exec (.rcbAdmit 3 0x8000) pend) 2 = true ∧
    gives (exec (.rcbAdmit 3 0x8000) pend) (fun t => (t.rcb? 3 0x8000).any fun r => r.state = .admitted) = true := by decide +kernel
theorem test_overlap : codeIs (exec (.rcbAdmit 3 0x8000) overlap) 4 = true ∧
    gives (exec (.rcbAdmit 3 0x8000) overlap) (fun t => reason t 3 0x8000 = some 2) = true := by decide +kernel
theorem test_not_admissible :
    let r := { root .pending 0 0 with squota := 2 ^ 31 }
    (hr 1 [r] []).admissible r = false := by decide +kernel
theorem test_launches_nothing :
    let s := { hr 1 [{ root .pending 0 0 with lcount := 0 }] [] with llc := rcbLines fun k => if k = 9 then 0 else rcbDws 1 k }
    gives (exec (.rcbAdmit 3 0x8000) s) (fun t => t.rcbs = [] && stateCode t 3 0x8000 = some 3) = true := by decide +kernel
theorem test_finish : codeIs (exec (.rcbFinish 3 0x8000) (hr 2 [root .admitted 1 0] [])) 3 = true ∧
    gives (exec (.rcbFinish 3 0x8000) (hr 2 [root .admitted 1 1] [])) (fun t => t = hr 2 [root .admitted 1 1] []) = true := by decide +kernel
/-- Its cycle budget is 8 and `n` instructions were issued. -/
def spent (n : Nat) : State := { hr 2 [{ root .admitted 1 0 with ybud := 8, used := n }] [] with ctxs := [] }
theorem test_budget : (spent 8).subtree { root .admitted 1 0 with ybud := 8, used := 8 } = [{ root .admitted 1 0 with ybud := 8, used := 8 }] ∧
    (spent 8).ctxsOf 3 0x8000 = [] ∧ codeIs (exec (.cycleBudgetAbort 3 0x8000) (spent 8)) 4 = true ∧
    gives (exec (.cycleBudgetAbort 3 0x8000) (spent 7)) (fun t => t = spent 7) = true := by decide +kernel
theorem test_deadline :
    let s (tick : Nat) := { hr 2 [{ root .admitted 1 0 with cls := 0, deadline := 9 }] [] with tick := tick }
    gives (exec (.deadlinePass 3 0x8000) (s 10)) (fun t => lateBit t 3 0x8000 = some true) = true ∧
    gives (exec (.deadlinePass 3 0x8000) (s 9)) (fun t => t = s 9) = true := by decide +kernel

/-- An ADMITTED root that delivers context 0. -/
def delivering : State :=
  { hr 2 [root .admitted 0 0] [] with
    vfs := [(3, { Vf.reset with node := 64, st := 1, ctxbase := 0x100000, ctxlen := 64 })]
    parts := [(64, { Part.idle with resident := some 3 })] }
theorem test_launch : delivering.rcb? 3 0x8000 = some (root .admitted 0 0) ∧ (delivering.vf 3).st = 1 ∧ delivering.holdsPart 3 = true ∧
    delivering.ctx? 3 0 = none ∧ (root .admitted 0 0).gang = none ∧
    gives (exec (.launchDelivery 3 0x8000) delivering) (fun t => t.packets.length = 1 && t.placeOf 3 0 = some .flight
      && (t.packets.all fun p => p.dst = 1 && p.launch) && (t.rcb? 3 0x8000).any fun r => r.next = 1 && r.live = 1) = true := by decide +kernel

/-- Queue 2 of VF 3: 2 entries of 64 bytes at 0x9000; one LAUNCH of the RCB at 0x8000. -/
def wq2 : Wq := Wq.mk 0x9000 1 1 0 false [(1, 0)] none
def wqLine (seq kind : Nat) : LlcLine :=
  LlcLine.mk 3 0x240 (BitVec.ofNat 512 (kind + 2 ^ 64 * 0x8000 + (if kind = 2 then 2 ^ 128 * 2048 + 2 ^ 192 * 5 + 2 ^ 256 * 3 else 0) + 2 ^ 448 * seq))
    0xFF 0 9 true false Dir.empty none
def queue (seq kind : Nat) (poll : Option Nat) : State :=
  let s := hr 0 [] []
  let s1 := s.setVf 3 { s.vf 3 with queues := [(2, { wq2 with poll := poll })] }
  { s1 with llc := wqLine seq kind :: s1.llc }
/-- The root's logical device is bound to port 3. -/
def bound (s : State) : State := { s with platform := { s.platform with bindings := [(1, 3)] } }
theorem test_doorbell : ((bound (queue 1 1 none)).deviceVf? 3 = some 0 ∧ (queue 1 1 none).deviceVf? 3 = none ∧
    gives (exec (.qtailDoorbell 3 2 4) (queue 1 1 none)) (fun t => t = queue 1 1 none) = true) ∧
    gives (exec (.qtailDoorbell 3 2 4) (bound (queue 1 1 none))) (fun t =>
    ((t.vf 3).queues.get 2 Wq.reset).qtail = 4 && ((t.vf 3).queues.get 2 Wq.reset).bells = [(1, 0), (4, 0)]) = true := by decide +kernel
theorem test_wq_reading : Claims.Reading (queue 1 1 none) 3 2 wq2 := ⟨by decide +kernel, by decide +kernel, by decide, rfl, by decide⟩
theorem test_wq_entry : EntryIs (queue 1 1 none) 3 wq2 0 1 ∧ EntryIs (queue 1 1 none) 3 wq2 1 0x8000 ∧ EntryIs (queue 1 1 none) 3 wq2 2 0 ∧
    EntryIs (queue 1 1 none) 3 wq2 3 0 ∧ EntryIs (queue 1 1 none) 3 wq2 4 0 ∧ EntryIs (queue 1 1 none) 3 wq2 5 0 ∧
    EntryIs (queue 1 1 none) 3 wq2 6 0 ∧ EntryIs (queue 1 1 none) 3 wq2 7 1 :=
  ⟨⟨true, by decide +kernel⟩, ⟨true, by decide +kernel⟩, ⟨true, by decide +kernel⟩, ⟨true, by decide +kernel⟩, ⟨true, by decide +kernel⟩,
    ⟨true, by decide +kernel⟩, ⟨true, by decide +kernel⟩, ⟨true, by decide +kernel⟩⟩
def entryDws (kind : Nat) (k : Nat) : Word :=
  match k with
  | 0 => BitVec.ofNat 64 kind
  | 1 => 0x8000
  | 2 => if kind = 2 then 2048 else 0
  | 3 => if kind = 2 then 5 else 0
  | 4 => if kind = 2 then 3 else 0
  | 7 => 1
  | _ => 0
theorem test_wq_good : ¬ badEntry (entryDws 1) 0 ∧ ¬ badEntry (entryDws 2) 1 ∧ badEntry (entryDws 2) 2 ∧ badEntry (entryDws 9) 0 := by
  unfold badEntry; decide
theorem test_wq_launch : gives (exec (.wqLaunch 3 2) (queue 1 1 none)) (fun t =>
    ((t.vf 3).queues.get 2 Wq.reset).qhead = 1 && (t.rcb? 3 0x8000).any fun r => r.state = .pending) = true ∧
    gives (exec (.wqLaunch 3 2) (queue 1 9 none)) (fun t => ((t.vf 3).queues.get 2 Wq.reset).err) = true := by decide +kernel
theorem test_wq_gang : 0 + 2048 ≤ (entryDws 2 2).toNat ∧ gives (exec (.wqGang 3 2) (queue 1 2 none)) (fun t =>
    (t.gang? 5).any fun g => g.rcb = some 0 && g.start = 2048 && g.members = 3 && !g.aborted) = true := by decide +kernel
theorem test_wq_poll : gives (exec (.wqLaunch 3 2) (queue 2 1 none)) (fun t => ((t.vf 3).queues.get 2 Wq.reset).poll = some 64) = true ∧
    gives (exec (.wqEntryPoll 3 2) { queue 2 1 (some 64) with tick := 64 }) (fun t => ((t.vf 3).queues.get 2 Wq.reset).poll = some 128) = true ∧
    gives (exec (.wqEntryPoll 3 2) { queue 1 1 (some 64) with tick := 64 }) (fun t => ((t.vf 3).queues.get 2 Wq.reset).poll = none) = true := by
  decide +kernel
theorem test_wq_timeout : gives (exec (.wqEntryTimeout 3 2) { queue 2 1 (some 64) with tick := 4096 }) (fun t =>
    ((t.vf 3).queues.get 2 Wq.reset).err) = true ∧
    gives (exec (.wqEntryTimeout 3 2) { queue 2 1 (some 64) with tick := 4095 }) (fun t => !((t.vf 3).queues.get 2 Wq.reset).err) = true := by
  decide +kernel
theorem test_err_clear :
    let s := (queue 1 1 none).setVf 3 { (queue 1 1 none).vf 3 with queues := [(2, { wq2 with err := true })] }
    gives (exec (.errClear 3 2) (bound s)) (fun t => (t.vf 3).queues = [(2, wq2)]) = true := by decide +kernel

/-- Gang 5 of devices 0 and 1 starts at tick 2048. -/
def gang5 (ready : List Nat) (aborted : Bool) (sent : Bool := false) : Gang := Gang.mk 5 (some 0) 2048 3 ready aborted false true sent
def ganged (ready : List Nat) (aborted : Bool) (tick : Nat) : State :=
  { hr 1 [{ root .pending 0 0 with gang := some 5 }] [] with gangs := [gang5 ready aborted], tick := tick, ctxs := [] }
theorem test_gang_ready : ((ganged [0] false 0).gang 5).ready.contains 1 = false ∧ 1 ≠ (ganged [0] false 0).platform.device ∧
    gives (exec (.gangReady 5 1) (ganged [0] false 0)) (fun t => t.gang? 5 = some (gang5 [0, 1] false)) = true ∧
    gives (exec (.gangReady 5 0) (ganged [0] false 0)) (fun t => t = ganged [0] false 0) = true := by decide +kernel
theorem test_gang_abort : gives (exec (.gangAbort 5 1) (ganged [0] false 0)) (fun t => t.gang? 5 = some (gang5 [0] true)) = true ∧
    (∃ k < 64, (gang5 [0] false).members.getLsbD k = true ∧ k ∉ (gang5 [0] false).ready) ∧
    gives (exec (.gangReadyDeadline 5) (ganged [0] false 1024)) (fun t => t.gang? 5 = some (gang5 [0] true true)) = true ∧
    gives (exec (.gangReadyDeadline 5) (ganged [0] false 1023)) (fun t => t.gang? 5 = some (gang5 [0] false)) = true := by decide +kernel
theorem test_gang_aborts_once : (gang5 [0] true true).sent = true ∧
    gives (exec (.gangReadyDeadline 5) { ganged [0] true 1024 with gangs := [gang5 [0] true true] }) (fun t => t.gangSends = []) = true ∧
    gives (exec (.gangReadyDeadline 5) (ganged [0] true 1024)) (fun t => t.gangSends.length = 2) = true := by decide +kernel
theorem test_gang_start : (∀ k < 64, (gang5 [0, 1] false).members.getLsbD k = true → k ∈ (gang5 [0, 1] false).ready) ∧
    gives (exec (.gangStart 5) (ganged [0, 1] false 2048)) (fun t => t.gang? 5 = none && t.gangs = [{ gang5 [0, 1] false with started := true }]) = true ∧
    gives (exec (.gangStart 5) (ganged [0, 1] false 2047)) (fun t => t = ganged [0, 1] false 2047) = true ∧
    gives (exec (.gangStart 5) (ganged [0] false 2048)) (fun t => t.gangs = [] && reason t 3 0x8000 = some 4) = true := by decide +kernel

/-- Gang 5 has started, and its id is taken again. -/
def startedGang5 : State :=
  { hr 2 [{ root .admitted 0 0 with gang := some 5 }] [] with gangs := [{ gang5 [0, 1] false with started := true }], ctxs := [] }
theorem test_gang_started : startedGang5.gang? 5 = none ∧ startedGang5.startedGang 5 = some { gang5 [0, 1] false with started := true } ∧
    (startedGang5.gangRcb { gang5 [0, 1] false with started := true }).any (fun r => r.parent = 0 && r.addr = 0x8000) = true ∧
    gives (exec (.gangAbort 5 1) startedGang5) (fun t => t.rcbs = [] && reason t 3 0x8000 = some 4) = true := by decide +kernel
theorem test_gang_sends : gives (exec (.gangReadyDeadline 5) (ganged [0] false 1024)) (fun t =>
    GangSend.mk 5 0 true 1024 ∈ t.gangSends && GangSend.mk 5 1 true 1024 ∈ t.gangSends) = true := by decide +kernel
theorem test_gang_own_ready : (ganged [] false 0).platform.device = 0 ∧ (ganged [] false 0).platform.unsync = false ∧
    ((ganged [] false 0).gang 5).admitted = true ∧
    gives (exec (.gangReady 5 0) (ganged [] false 0)) (fun t => t.gang? 5 = some (gang5 [0] false) &&
      GangSend.mk 5 1 false 0 ∈ t.gangSends) = true ∧
    (let s := { ganged [] false 0 with platform := { (ganged [] false 0).platform with unsync := true } }
     gives (exec (.gangReady 5 0) s) (fun t => t = s) = true) := by decide +kernel
theorem test_gang_reused : ((ganged [] false 0).gang 5).rcb ≠ none ∧
    gives (exec (.wqGang 3 2) { queue 1 2 none with gangs := [{ gang5 [1] false with rcb := some 9 }], named := 11 }) (fun t =>
      t.gang? 5 = some (Gang.mk 5 (some 11) 2048 3 [] false false false false)) = true ∧
    gives (exec (.wqGang 3 2) { queue 1 2 none with tick := 1 }) (fun t => (t.gang? 5).any fun g => g.aborted) = true := by decide +kernel

/-! ## Slices, switches, partitions (R207 to R213, R333 to R339, R366 to R373) -/

/-- VF 3 holds the root; VF 4 has work. -/
def slices (tick : Nat) : State :=
  { s0 with
    tick := tick
    vfs := [(3, { Vf.reset with node := 1, st := 1, ctxlen := 64 }), (4, { Vf.reset with node := 1, st := 1, ctxlen := 64, slice := 7 })]
    rcbs := [{ root .admitted 0 0 with vf := 4 }]
    parts := [(1, { Part.idle with resident := some 3, sliceEnd := 1000, gained := 12, hadWork := [3] })] }
theorem test_slice_end : (slices 1000).parts.find 1 = some { Part.idle with resident := some 3, sliceEnd := 1000, gained := 12, hadWork := [3] } ∧
    gives (exec (.sliceEnd 1) (slices 999)) (fun t => t = slices 999) = true := by decide +kernel
/-- The same in the smallest partition. -/
def oneLeaf : State :=
  { slices 1000 with
    vfs := [(3, { Vf.reset with node := 64, st := 1, ctxlen := 64 }), (4, { Vf.reset with node := 64, st := 1, ctxlen := 64, slice := 7 })]
    parts := [(64, { Part.idle with resident := some 3, sliceEnd := 1000, gained := 12, hadWork := [3] })] }
theorem test_slice_goes : gives (exec (.sliceEnd 64) oneLeaf) (fun t => (t.parts.find 64).any (fun q => q.resident = some 4 && q.sliceEnd = 1007)
    && (t.vf 3).account = 12 && (t.core 0).resident = some 4 && (t.core 0).switchAt = some 0 && (t.core 0).scrubDue) = true := by decide +kernel
/-- Core 0 switches from VF 3 to VF 4 since cycle 0. -/
def switching (cycle : Nat) : State :=
  { (s0.setCore 0 { s0.core 0 with resident := some 4, switchAt := some 0, scrubDue := true }) with cycle := cycle }
theorem test_sweep : (switching 32).pinned 0 0 sl0 = false ∧ ((switching 32).outgoing 0).map Prod.fst = [0] ∧
    gives (exec (.vfSwitchSweep 0) (switching 32)) (fun t => t.placeOf 3 5 = some (.l2 0)) = true ∧
    gives (exec (.vfSwitchSweep 0) (switching 31)) (fun t => t = switching 31) = true := by decide +kernel
/-- Nothing of the outgoing VF is left at core 0. -/
def swept : State :=
  { (s0.setCore 0 { Core.reset with resident := some 4, switchAt := some 0, scrubDue := true, handles := [(1, tileDw 0 1 1 4 0)] }) with
    mem := ((mem1 7).setFull (scratchKey 0 0x100) false), parts := [(1, { Part.idle with resident := some 4 })] }
theorem test_scrub : swept.outgoing 0 = [] ∧ (swept.core 0).scrubDue = true ∧ swept.writesComing 4 (inScratch 0) = false ∧
    swept.heldTouches 4 (inScratch 0) = false ∧
    gives (exec (.scratchpadScrub 0) swept) (fun t => t.mem = Memory.reset && (t.core 0).handles = [] && (t.core 0).scrubUntil = some 128) = true := by
  decide +kernel
theorem test_scrub_end :
    let s (cycle : Nat) := { s0.setCore 0 { s0.core 0 with scrubUntil := some 128 } with cycle := cycle }
    gives (exec (.scratchpadScrubEnd 0) (s 128)) (fun t => (t.core 0).scrubUntil = none) = true ∧
    gives (exec (.scratchpadScrubEnd 0) (s 127)) (fun t => t = s 127) = true := by decide +kernel
/-- Cluster 0 is due for its fill; VF 4 keeps bank 1. -/
def toFill : State :=
  { swept with
    mem := (Memory.reset.write (clusterKey 0 0) 8 1).write (clusterKey 0 65536) 8 2
    clusters := [(0, { Cluster.reset with banks := [(4, 2)], fillDue := true })] }
theorem test_fill_banks : (∀ j < 16, toFill.outgoing (16 * 0 + j) = []) ∧ toFill.writesComing 4 (inCluster 0) = false ∧
    toFill.heldTouches 4 (inCluster 0) = false ∧
    gives (exec (.clusterMemoryFill 0) toFill) (fun t =>
      t.mem = Memory.reset.write (clusterKey 0 65536) 8 2 && (t.cluster 0).fillUntil = some 1024) = true := by decide +kernel
theorem test_fill_end :
    let s (cycle : Nat) := { s0 with clusters := [(0, { Cluster.reset with fillUntil := some 1024 })], cycle := cycle }
    gives (exec (.clusterMemoryFillEnd 0) (s 1024)) (fun t => (t.cluster 0).fillUntil = none) = true ∧
    gives (exec (.clusterMemoryFillEnd 0) (s 1023)) (fun t => t = s 1023) = true := by decide +kernel

theorem test_split : 1 < nodeLeaves 1 ∧ nodeLeaves 64 ≤ 1 ∧ s0.frames = [] ∧ s0.clusters = [] ∧
    gives (exec (.split 1) s0) (fun t => (t.parts.find 1).any (fun p => p.split) && t.partStatus = .ok) = true ∧
    gives (exec (.split 64) oneLeaf) (fun t => t.partStatus = .refused) = true ∧
    gives (exec (.split 2) s0) (fun t => t.partStatus = .refused) = true := by decide +kernel
theorem test_split_free : UpperFree s0 1 := fun e _ _ =>
  ⟨fun f hf => absurd hf (by rw [show s0.frames = [] from rfl]; simp), fun k hk => absurd hk (by rw [show s0.clusters = [] from rfl]; simp)⟩
theorem test_split_happens :
    let s := { State.reset with parts := [(1, { Part.idle with split := true })], vfs := [(3, { Vf.reset with node := 1, st := 1 })] }
    gives (exec (.sliceEnd 1) s) (fun t => (t.parts.find 1).isNone && (t.vf 3).node = 2 && t.parts.find 3 = some Part.idle) = true := by
  decide +kernel
/-- A split root that VF 3 holds, and a line of it of core 2048, which departs. -/
def splitHeld : State :=
  { s0 with tick := 1000, parts := [(1, { Part.idle with resident := some 3, sliceEnd := 1000, split := true, gained := 12, hadWork := [3] })] }
theorem test_split_with_a_resident : gives (exec (.sliceEnd 1) splitHeld) (fun t => (t.parts.find 1).isNone && (t.vf 3).node = 2 &&
      t.parts.find 3 = some Part.idle && (t.parts.find 2).any (fun q => !q.split && q.resident = some 3 && q.sliceEnd = 1001000) &&
      (t.vf 3).account = 12) = true ∧
    gives (exec (.sliceEnd 1) { splitHeld with tick := 999 }) (fun t => t = { splitHeld with tick := 999 }) = true := by decide +kernel
def departing : State :=
  { splitHeld with
    cores := [(2048, { Core.reset with ways := [(0, slotOf { l0 with ccore := 2048 })], resident := some 3 })]
    ctxs := [(3 * 2 ^ 40 + 5, Ctx.mk (.l1 2048 0) 0x8000 none false none false none)] }
theorem test_split_moves_a_line : AtWay departing 3 5 2048 0 (slotOf { l0 with ccore := 2048 }) ∧ (departing.vf 3).node = 1 ∧
    nodeCores 1 / 2 = 2048 ∧ departing.inOperation 2048 0 = false ∧ physicalCore 1 0 / 16 = 0 ∧
    (departing.cluster 0).l2Victim (l2Set 3 5) = none ∧
    gives (exec (.sliceEnd 1) departing) (fun t => t.placeOf 3 5 = some (.l2 0) && (t.slot? 2048 0).isNone &&
      (t.cluster 0).l2.any fun e => e.line.ccore = 0) = true :=
  ⟨⟨by decide +kernel, by decide +kernel, rfl⟩, by decide +kernel, by decide +kernel, by decide +kernel, by decide +kernel, by decide +kernel,
    by decide +kernel⟩
/-- Two idle children of the root. -/
def children : State := { State.reset with parts := [(2, Part.idle), (3, Part.idle)], vfs := [(3, { Vf.reset with node := 3, st := 1 })] }
theorem test_merge : IdlePart children 2 ∧ IdlePart children 3 ∧
    gives (exec (.merge 1) children) (fun t => t.parts = [(1, Part.idle)] && (t.vf 3).node = 1) = true ∧
    gives (exec (.merge 2) children) (fun t => t.partStatus = .refused) = true := by
  unfold IdlePart Active Queued
  refine ⟨⟨⟨_, rfl⟩, by decide +kernel⟩, ⟨⟨_, rfl⟩, by decide +kernel⟩, by decide +kernel, by decide +kernel⟩
theorem test_bind : Active s0 3 ∧ ¬ Active children 3 ∧
    gives (exec (.vfNodeWrite 3 1) s0) (fun t => t = s0) = true ∧
    gives (exec (.vfNodeWrite 3 2) { children with parts := [(2, Part.idle), (64, Part.idle)] }) (fun t => (t.vf 3).node = 2) = true ∧
    gives (exec (.vfNodeWrite 3 9) children) (fun t => t = children) = true ∧
    gives (exec (.vfNodeWrite 3 0) children) (fun t => (t.vf 3).node = 0 && (t.vf 3).st = 0) = true := by
  unfold Active; decide +kernel
/-- Cluster 0 is secure, VF 3 is not. -/
def otherWorld : State :=
  { children with parts := [(2, Part.idle)], platform := { Platform.reset with sorrel := { Sorrel.reset with worlds := [(0, 1)] } } }
theorem test_bind_world : (∃ k < nodeClusters 2, (otherWorld.platform.sorrel.worlds.get (physicalCluster 2 k) 0).getLsbD 0 ≠ (otherWorld.vf 3).sec) ∧
    gives (exec (.vfNodeWrite 3 2) otherWorld) (fun t => t = otherWorld) = true :=
  ⟨⟨0, by decide +kernel, by decide +kernel⟩, by decide +kernel⟩
theorem test_ctx_segment : gives (exec (.ctxSegmentWrite 3 false 0x12345) children) (fun t => (t.vf 3).ctxbase = 0x12000) = true ∧
    gives (exec (.ctxSegmentWrite 3 true 9) s0) (fun t => t = s0) = true := by decide +kernel
/-- VF 3 keeps banks 0 and 1 of its cluster, VF 4 bank 2. -/
def banked : State := { toFill with clusters := [(0, { Cluster.reset with banks := [(3, 3), (4, 4)] })], vfs := [(3, { Vf.reset with node := 1, st := 1 })] }
theorem test_bank_mask : (banked.vf 3).node ≠ 0 ∧ 0 < nodeClusters 1 ∧ physicalCluster 1 0 = 0 ∧
    gives (exec (.bankMaskWrite 3 0 4) banked) (fun t => t = banked) = true ∧
    gives (exec (.bankMaskWrite 3 0 1) banked) (fun t => t.mem = Memory.reset.write (clusterKey 0 0) 8 1 && (t.cluster 0).banks.get 3 0 = 1) = true := by
  decide +kernel
theorem test_fv_clear :
    let s := s0.setVf 3 { s0.vf 3 with errs := { ErrBlock.reset with fv := true, nuc := 4 } }
    gives (exec (.fvClear 3) (bound s)) (fun t => (t.vf 3).errs = { ErrBlock.reset with nuc := 4 }) = true := by decide +kernel
theorem test_fm_bind : gives (exec (.fmBind 1 3) s0) (fun t => t.platform.bindings = [(1, 3)]) = true ∧
    gives (exec (.fmBind 1 4) s0) (fun t => t = s0) = true ∧
    gives (exec (.fmUnbind 1) { s0 with platform := { s0.platform with bindings := [(1, 3), (2, 0)] } }) (fun t => t.platform.bindings = [(2, 0)]) = true := by
  decide +kernel
/-- VF 3 has nothing that lives, and a byte in its frame. -/
theorem test_vf_reset_keeps_memory :
    let s := { s0 with ctxs := [], cores := [], mem := Memory.reset.write 0x9000 8 5, frames := [(9, Frame.mk 3 1 false 0)] }
    ¬ Active s 3 ∧ s.packets = [] ∧ (∀ e ∈ s.cores, ∀ x ∈ e.2.ways, x.2.who.vf ≠ 3) ∧ gives (exec (.vfReset 3) s) (fun t => t.frames = s.frames && t.mem.read 0x9000 8 = 5) = true := by
  unfold Active; decide +kernel
theorem test_vf_reset : Distinct delivering.rcbs ∧ gives (exec (.vfReset 3) delivering) (fun t =>
    t.rcbs = [] && t.placeOf 3 5 = some .retired && (t.vf 3).gen = 1 && t.llc = [] && (t.slot? 0 0).isNone && (t.vf 3).st = 1) = true := by
  unfold Distinct; decide +kernel

/-! ## Yarrow (R374 to R384) -/

/-- Slot 0 of VF 3 on die 0 has a program and an event with fields 1, 2, 3, 4. -/
def filterOf (prog : List (BitVec 32)) : Sys2Proof.Machine.Filter := Sys2Proof.Machine.Filter.mk true prog true 4 64 none [(5, 7)] 0 0 0 64
def yrun (prog : List (BitVec 32)) : State :=
  { s0 with dies := [(0, { Die.reset with events := [YEvent.mk 3 0 [1, 2, 3, 4]], filters := [(24, filterOf prog)] })] }
def storeIs (o : Out) (k n : Nat) : Bool := gives o fun t => (t.die 0).filters.find 24 |>.any fun f => storeWord f k = n && f.runs = 1

theorem test_event_at (prog : List (BitVec 32)) : EventAt (yrun prog) 0 0 (YEvent.mk 3 0 [1, 2, 3, 4]) (filterOf prog) :=
  ⟨rfl, (fun _ hy => nomatch hy), rfl⟩
theorem test_budget_left (prog : List (BitVec 32)) : 0 < ((yrun prog).die 0).budget 3 := by show (0 : Int) < 4096; decide
/-- add y4, y1, y2, −1; st [y5 + 9], y4. -/
theorem test_filter_add : storeIs (exec (.filterRun 0 0) (yrun [0b0000_100_001_010_1111111111111111111, 0b1000_000_101_100_0000000000000001001])) 9 4 = true ∧
    yfWord 0 4 1 2 0x7FFFF = 0b0000_100_001_010_1111111111111111111 ∧ yfWord 8 0 5 4 9 = 0b1000_000_101_100_0000000000000001001 := by
  decide +kernel
/-- inc [y4 + 5]. -/
theorem test_filter_inc : storeIs (exec (.filterRun 0 0) (yrun [yfWord 9 0 4 0 5])) 5 8 = true := by decide +kernel
/-- beq y0, y1, +1 is not taken; blt y0, y1, +1 is. -/
theorem test_filter_branch : storeIs (exec (.filterRun 0 0) (yrun [yfWord 10 0 0 1 1, yfWord 9 0 7 0 6])) 6 1 = true ∧
    storeIs (exec (.filterRun 0 0) (yrun [yfWord 11 0 0 1 1, yfWord 9 0 7 0 6])) 6 0 = true := by decide +kernel
theorem test_filter_trigger : gives (exec (.filterRun 0 0) (yrun [yfWord 14 0 0 0 0])) (fun t => t.platform.interrupts = [(3, 2)]) = true ∧
    gives (exec (.filterRun 0 0) (yrun [yfWord 14 0 0 0 (2 + 4 * 5)])) (fun t => ((t.cluster 63).flags.get 3 0).getLsbD 21) = true := by
  decide +kernel
theorem test_filter_dropped :
    let s := (yrun []).setDie 0 { (yrun []).die 0 with left := [(3, 0)] }
    (s.die 0).budget 3 ≤ 0 ∧
    gives (exec (.filterRun 0 0) s) (fun t => (t.die 0).events = [] && ((t.die 0).filters.find 24).any fun f => f.drops = 1 && f.runs = 0) = true := by
  decide +kernel
theorem test_tick_event : (yrun []).holdsPart 3 = true ∧ (yrun []).yarrowOpen 0 3 = true ∧ (filterOf []).cls = 4 ∧
    gives (exec (.yarrowTickEvent 0 3 0) { yrun [] with tick := 64 }) (fun t => (t.die 0).events.length = 2
      && ((t.die 0).filters.find 24).any fun f => f.nextTick = 128) = true ∧
    gives (exec (.yarrowTickEvent 0 3 0) { yrun [] with tick := 63 }) (fun t => (t.die 0).events.length = 1) = true := by decide +kernel
theorem test_budget_window :
    let s := { s0 with tick := 1024, dies := [(0, { Die.reset with left := [(3, -5), (4, 9)], windowEnd := 1024 })] }
    gives (exec (.yarrowBudgetWindow 0) s) (fun t => (t.die 0).budget 3 = 4091 && (t.die 0).budget 4 = 4096 && (t.die 0).windowEnd = 2048) = true := by
  decide +kernel
/-- A trigger write of 0x66 to cluster byte 0x100. -/
def trig : TrigWrite := TrigWrite.mk (cmdOf 5 [head 2 4, 0, ptr 2 0x100, 0] []) 0x66
def triggered : State := { s0 with dies := [(0, { Die.reset with triggers := [trig] })] }
theorem test_trigger_write : OnChip triggered trig.cmd 0 (trig.cmd.dw 2) 8 needStore (clusterKey 0 0x100) ∧
    gives (exec (.triggerWrite 0) triggered) (fun t => t.mem.read (clusterKey 0 0x100) 8 = 0x66) = true :=
  ⟨⟨by decide, by decide +kernel, ⟨sg 2, .cluster 0 0x100, by decide +kernel, by decide +kernel, by decide +kernel⟩,
    fun w _ _ => by rw [show triggered.mem.poison = [] from rfl]; simp⟩, by decide +kernel⟩
/-- Counter 2 of VF 3 runs, selects 0x50 and holds its largest value. -/
def counting : State :=
  let s := { s0 with increments := [Increment.mk 3 0x50 1 none] }
  s.setVf 3 { s.vf 3 with counters := { Counters.reset with
    codes := (List.replicate 16 0).set 2 0x50, counts := (List.replicate 16 0).set 2 0xFFFFFFFFFFFF, run := 4, enable := 4 } }
theorem test_increment : (counting.vf 3).counters.counts.length = 16 ∧ (counting.vf 3).counters.codes.length = 16 ∧
    gives (exec (.counterIncrement 0) counting) (fun t => (t.vf 3).counters.counts[2]? = some 0 && (t.vf 3).counters.ovf = 4
      && t.platform.interrupts = [(3, 1)] && t.increments = []) = true := by decide +kernel

/-! ## Integrity, Sorrel, the platform (R386 to R425) -/

theorem test_parity :
    let c := { cFill with seq := some 1 }
    let s := { s0 with clusters := [(0, { Cluster.reset with queues := [c] })] }
    (∀ c ∈ (s.cluster 0).queues, c.port = 2 → c.seq.isSome = true → s.nodeOf c.vf = 1) ∧
    gives (exec (.parityError 0 2) s) (fun t => counterOf t 1 17 = 1) = true := by decide +kernel
/-- Package link 1 has failed twice within the last millisecond. -/
def failing (fails : List Nat) : State := { s0 with tick := 1000000, platform := { Platform.reset with linkFails := [(1, fails)] } }
theorem test_retrain : (∃ a b, a < b ∧ b < 4 ∧ 1 = 4 * a + b) ∧ 1 ∉ (failing [1, 2]).platform.linksDown ∧
    (failing [1, 2]).outstandingOn 1 = [] ∧
    gives (exec (.linkRetrain 1 false) (failing [1, 2])) (fun t => 1 ∈ t.platform.linksDown) = true ∧
    gives (exec (.linkRetrain 1 false) (failing [0, 2])) (fun t => t.platform.linkFails = [(1, [2, 1000000])] &&
      counterOf t 1 65 = 1) = true :=
  ⟨⟨0, 1, by decide, by decide, by decide⟩, by decide +kernel, by decide +kernel, by decide +kernel, by decide +kernel⟩
theorem test_retry : gives (exec (.linkRetry (.flit 16)) (failing [])) (fun t => counterOf t 1 48 = 1) = true ∧ LinkServes (failing []) 16 1 ∧
    LinkServes (failing []) 1 1 :=
  ⟨by decide +kernel, ⟨⟨_, List.mem_singleton.2 rfl⟩, by decide +kernel⟩, ⟨⟨_, List.mem_singleton.2 rfl⟩, by decide +kernel⟩⟩
theorem test_hand_off : gives (exec (.linkRetry (.corrected 2 5)) s0) (fun t => counterOf t 2 10 = 1) = true ∧
    gives (exec (.linkRetry (.uncorrectable 2 1 (.scratch 0 0x40))) s0) (fun t => counterOf t 2 3 = 1 && t.mem.poisoned (scratchKey 0 0x40)) = true ∧
    gives (exec (.linkRetry (.uncorrectable 2 2 (.cluster 1 0x40))) s0) (fun t => t.mem.poisoned (clusterKey 1 0x40)) = true ∧
    gives (exec (.linkRetry (.uncorrectable 2 0 (.module 0x9040))) missing) (fun t => t.mem.poisoned 0x9040) = true := by decide +kernel
/-- Record 7 of a packet of context 6, unacknowledged after `n` timeouts. -/
def record7 (n deadline : Nat) : Replay := Replay.mk 7 (.packet { packet6 with seq := 7 }) 3 0 (Marks.mk 0 0 0 false false) n deadline
def late (n cycle : Nat) : State :=
  { away 0 .flight with
    cycle := cycle, packets := [{ packet6 with seq := 7 }]
    clusters := [(0, { Cluster.reset with replay := [record7 n 65536] })] }
theorem test_replay : (∀ x ∈ ((late 3 65536).cluster 0).replay, x.seq = 7 → x = record7 3 65536) ∧
    gives (exec (.replayTimeout 0 7) (late 3 65535)) (fun t => t = late 3 65535) = true ∧
    gives (exec (.replayTimeout 0 7) (late 3 65536)) (fun t => (t.cluster 0).replay = [record7 4 131072] && counterOf t 1 18 = 1)
      = true ∧
    gives (exec (.replayRecordError 0 7) (late 0 0)) (fun t => (t.vf 3).gen = 1 && (t.cluster 0).replay = []) = true := by decide +kernel
/-- The fifth timeout of a packet between dies 0 and 1, and of one within die 0. -/
def crossing (dst : Nat) : State :=
  let s := { State.reset with vfs := [(3, { Vf.reset with node := 1, st := 1 })] }
  { s with cycle := 65536, clusters := [(0, { Cluster.reset with
      replay := [Replay.mk 7 (.packet { packet6 with seq := 7, dst := dst }) 3 0 (Marks.mk 0 0 0 false false) 4 65536] })] }
theorem test_fifth_timeout : (crossing 1024).pcore 3 1024 / 1024 = 1 ∧
    gives (exec (.replayTimeout 0 7) (crossing 1024)) (fun t => 1 ∈ t.platform.linksDown) = true ∧
    (crossing 0).pcore 3 0 / 1024 = 0 ∧
    gives (exec (.replayTimeout 0 7) (crossing 0)) (fun t => t.platform.linksDown = [] && t.platform.moduleErrors.length = 1) = true := by
  decide +kernel
/-- The record of a command with one element of two unacknowledged. -/
def sending (cycle : Nat) : State :=
  let c := { cSl 3 0 with seq := some 7, elem := 1, row := some (ScatterRow.mk (ptr 1 0x218) 5 []) }
  { s0 with cycle := cycle, clusters := [(0, { Cluster.reset with
      queues := [c], replay := [Replay.mk 7 (.command c) 3 0 (Marks.mk 0 0 0 false false) 0 65536] })] }
theorem test_command_timeout : ((sending 65536).liveCmd 0 7).any (fun c => 0 < (sending 65536).unacked c) = true ∧
    gives (exec (.replayTimeout 0 7) (sending 65536)) (fun t => counterOf t 1 18 = 1) = true ∧
    gives (exec (.replayTimeout 0 7) (sending 65535)) (fun t => t = sending 65535) = true ∧
    eAll.unacked cAll = 0 ∧ gives (exec (.replayTimeout 0 1) { eAll with cycle := 65536 }) (fun t => t = { eAll with cycle := 65536 }) = true := by
  decide +kernel
theorem test_parity_of_a_die_engine : headOf ((ed cDetach Memory.reset).die 0).queue 5 0 = some (0, cDetach) ∧
    (ed cDetach Memory.reset).released cDetach = true ∧
    gives (exec (.parityError 0 5) (ed cDetach Memory.reset)) (fun t => counterOf t 1 17 = 1) = true := by decide +kernel
theorem test_scrub_verdicts : missing.linesAt 0x9040 = [] ∧
    gives (exec (.patrolScrub (.hbm 0x9040) .corrected) missing) (fun t => counterOf t (missing.countsAt 0x9040) 0 = 1) = true ∧
    gives (exec (.patrolScrub (.hbm 0x9040) .uncorrectable) missing) (fun t => t.mem.poisoned 0x9040 && !t.mem.poisoned 0x9048) = true ∧
    gives (exec (.patrolScrub (.llc 0x9040) .uncorrectable) missing) (fun t => t = missing) = true ∧
    gives (exec (.patrolScrub (.hbm 0x6000000000) .uncorrectable) missing) (fun t => t = missing) = true := by decide +kernel
/-- Frame 9 lies in the LLC. -/
def cachedFrame : State := { missing with llc := [LlcLine.mk 3 1 0x55 0xFF 0 9 true false Dir.empty none] }
theorem test_scrub_of_the_llc : cachedFrame.linesAt 0x9040 ≠ [] ∧
    gives (exec (.patrolScrub (.llc 0x9040) .corrected) cachedFrame) (fun t => counterOf t (cachedFrame.countsAt 0x9040) 2 = 1) = true ∧
    gives (exec (.patrolScrub (.llc 0x9040) .uncorrectable) cachedFrame) (fun t => t.llc.all (fun l => l.poison = 1) &&
      !t.mem.poisoned 0x9040) = true := by decide +kernel

/-- The mailbox runs a command with arguments. -/
def mailbox (cmd : Nat) (args : List Word) : State :=
  { s0 with platform := { Platform.reset with sorrel := { Sorrel.reset with cmd := BitVec.ofNat 64 cmd, go := true, args := args, latched := args } } }
theorem test_runs (cmd : Nat) (args : List Word) (h : cmd < 2 ^ 64) : Runs (mailbox cmd args) cmd :=
  ⟨rfl, by show (BitVec.ofNat 64 cmd).toNat = cmd; simpa using Nat.mod_eq_of_lt h⟩
theorem test_wassign : gives (exec .wassign (mailbox 1 [7, 3, 0, 0, 0])) (fun t =>
    t.platform.sorrel.st = 1 && t.platform.sorrel.worlds = []) = true ∧
    gives (exec .wassign (mailbox 1 [7, 2, 0, 0, 0])) (fun t => t.platform.sorrel.st = 0 && t.platform.sorrel.worlds = [(7, 2)] && !t.platform.sorrel.go)
      = true ∧
    gives (exec .wassign (mailbox 1 [257, 2, 0, 0, 0])) (fun t => t.platform.sorrel.st = 2) = true := by decide +kernel
/-- A host port of the package register, bound or not. -/
theorem test_wassign_package : PackageIdle (mailbox 1 [256, 0x100, 0, 0, 0]) 8 ∧ ¬ PackageIdle (bound (mailbox 1 [256, 0x800, 0, 0, 0])) 11 ∧
    gives (exec .wassign (mailbox 1 [256, 0x100, 0, 0, 0])) (fun t => t.platform.sorrel.package = 0x100 && t.platform.sorrel.st = 0) = true ∧
    gives (exec .wassign (bound (mailbox 1 [256, 0x800, 0, 0, 0]))) (fun t => t.platform.sorrel.st = 1) = true := by
  unfold PackageIdle; decide +kernel
theorem test_setw : gives (exec .setw (mailbox 2 [4, 2, 1, 0, 0])) (fun t => 5 ∈ t.platform.sorrel.regions ∧ 6 ∉ t.platform.sorrel.regions) = true ∧
    gives (exec .setw (mailbox 2 [1245183, 2, 1, 0, 0])) (fun t => t.platform.sorrel.st = 2) = true ∧
    gives (exec .setw { mailbox 2 [0, 1, 1, 0, 0] with frames := [(9, Frame.mk 3 1 false 0)] }) (fun t => t.platform.sorrel.st = 1) = true := by
  decide +kernel
theorem test_stage : ¬ GoodImage Sorrel.reset [1] ∧
    (let s := mailbox 3 []
     let s1 := { s with platform := { s.platform with power := .heldInReset, resetStep := 1 } }
     gives (exec (.stage [1]) s1) (fun t => t.platform.sorrel.st = 3 && !t.platform.sorrel.staged) = true) :=
  ⟨fun h => absurd h.1 (by decide), by decide +kernel⟩
/-- An image of one byte in a secure granule. -/
theorem test_stage_from_memory :
    let s := mailbox 3 [0x200000, 1, 0, 0, 0]
    let s1 := { s with platform := { s.platform with sorrel := { s.platform.sorrel with regions := [1] } } }
    s1.platform.power = .on ∧ s1.argRange 0x200000 1 = true ∧ s.argRange 0x200000 1 = false ∧ s1.linesAt 0x200000 = [] ∧
    gives (exec (.stage []) s1) (fun t => t.platform.sorrel.st = 3 && t.platform.sorrel.staging = [0]) = true ∧
    gives (exec (.stage []) s) (fun t => t.platform.sorrel.st = 2) = true := by decide +kernel
theorem test_commit : (mailbox 4 []).platform.sorrel.staged = false ∧
    gives (exec .commit (mailbox 4 [])) (fun t => t.platform.sorrel.st = 1) = true := by decide +kernel
theorem test_attest : (mailbox 5 [0, 0x200000, 0, 0, 0]).argRange 0x200000 512 = false ∧
    (let s := mailbox 5 [0, 0x200000, 0, 0, 0]
     let s1 := { s with platform := { s.platform with sorrel := { s.platform.sorrel with regions := [1] } } }
     s1.argRange 0x200000 512 = true ∧ frameReserved 0x200000 = false ∧ s1.linesAt 0x200000 = [] ∧ s1.ownerAddr 0x200000 = none) ∧
    gives (exec .attest (mailbox 5 [0, 0x200000, 0, 0, 0])) (fun t => t.platform.sorrel.st = 2) = true := by decide +kernel
/-- A nonce and a quote in a secure granule. -/
theorem test_attest_nonce :
    let s := mailbox 5 [0x200400, 0x200000, 0, 0, 0]
    let s1 := { s with platform := { s.platform with sorrel := { s.platform.sorrel with regions := [1] } } }
    s1.argRange 0x200000 512 = true ∧ s1.argRange 0x200400 32 = true ∧ s1.platform.sorrel.arg 0 ≠ 0 ∧ s1.linesAt 0x200400 = [] ∧
    gives (exec .attest s1) (fun t => t.platform.sorrel.st = 0 && !t.platform.sorrel.go) = true := by decide +kernel
theorem test_setsec : ((mailbox 6 [5, 1, 0, 0, 0]).vf 5).node = 0 ∧ ((mailbox 6 [5, 1, 0, 0, 0]).vf 5).st = 0 ∧
    gives (exec .setsec (mailbox 6 [5, 1, 0, 0, 0])) (fun t => (t.vf 5).sec && t.platform.sorrel.st = 0) = true ∧
    gives (exec .setsec (mailbox 6 [3, 1, 0, 0, 0])) (fun t => !(t.vf 3).sec && t.platform.sorrel.st = 1) = true ∧
    gives (exec .setsec (mailbox 6 [512, 1, 0, 0, 0])) (fun t => t.platform.sorrel.st = 2) = true := by decide +kernel
theorem test_module_reset :
    let s (b : BringUp) : State := { filling with platform := { Platform.reset with device := 5, powerCap := 900, chips := b } }
    gives (exec .moduleReset (s { device := 9, linked := [4], joins := some 77 })) (fun t => t.mem = Memory.reset && t.cores = [] &&
      t.platform.device = 9 && t.platform.linked = [4] && t.tick = 77 && t.platform.powerCap = 2400 && t.platform.power = .on) = true ∧
    gives (exec .moduleReset (s { fails := some 5 })) (fun t => t.platform.power = .heldInReset && t.platform.resetStep = 5 &&
      t.platform.device = 5) = true ∧
    gives (exec .moduleReset (s { cxl := [([8, 4, 32], [32, 128])], neord := [false] })) (fun t =>
      t.platform.cxlTrained.head? = some (8, 32) && t.platform.neordRates.take 2 = [112, 224]) = true ∧
    gives (exec .powerLoss (s {})) (fun t => t.platform.power = .off) = true := by decide +kernel
theorem test_reset_of_a_bad_image :
    let s := { s0 with platform := { Platform.reset with sorrel := { Sorrel.reset with flashValid := false } } }
    gives (exec .moduleReset s) (fun t => t.platform.power = .heldInReset && t.platform.resetStep = 1) = true := by decide +kernel
/-- A byte of host memory and one of HBM. -/
theorem test_reset_keeps_host_memory :
    let s := { s0 with mem := (Memory.reset.write (2 ^ 47) 8 5).write 0 8 7 }
    gives (exec .moduleReset s) (fun t => t.mem.read (2 ^ 47) 8 = 5 && t.mem.read 0 8 = 0) = true := by decide +kernel
theorem test_power_loss_in_commit :
    let s := mailbox 4 []
    let s1 := { s with platform := { s.platform with sorrel := { s.platform.sorrel with staged := true } } }
    s1.platform.sorrel.go = true ∧ s1.platform.sorrel.cmd = 4 ∧
    gives (exec .powerLoss s1) (fun t => !t.platform.sorrel.flashValid) = true := by decide +kernel
theorem test_thermal : gives (exec (.thermalTrip (Reading.mk 109 0 10 0)) s0) (fun t => t = s0) = true ∧
    gives (exec (.thermalTrip (Reading.mk 110 0 10 0)) s0) (fun t => t.cores = []) = true ∧
    gives (exec (.thermalTrip (Reading.mk 20 0 9 0)) s0) (fun t => t.cores = []) = true := by decide +kernel
theorem test_writers : AtWindow (bound s0) 3 (.host 3) ∧ ¬ AtWindow s0 3 (.host 3) ∧ AtWindow s0 3 (.hub false) ∧
    AtControl s0 (.hub false) ∧ ¬ AtControl s0 (.host 3) ∧ AtMailbox s0 (.hub true) ∧ ¬ AtMailbox s0 (.session 7) := by
  have h : s0.hubRuns = true := by decide +kernel
  refine ⟨⟨by decide +kernel, by decide +kernel, by decide +kernel⟩, fun a => absurd a.1 (by decide +kernel), h, ⟨⟨_, rfl⟩, h⟩, ?_, .inl ⟨rfl, h⟩, ?_⟩
  · rintro ⟨⟨_, a⟩, _⟩; cases a
  · rintro (⟨a, _⟩ | ⟨_, a, b, _⟩)
    · cases a
    · cases a; exact absurd b (by decide +kernel)
theorem test_power_cap : gives (exec (.powerCapWrite ⟨.hub false, 799⟩) s0) (fun t => t.platform.powerCap = 800) = true ∧
    gives (exec (.powerCapWrite ⟨.hub false, 2401⟩) s0) (fun t => t.platform.powerCap = 2400) = true ∧
    gives (exec (.powerCapWrite ⟨.host 0, 2000⟩) s0) (fun t => t = s0) = true := by decide +kernel
theorem test_throttle : gives (exec (.throttleLevelChange 1 (Reading.mk 95 0 20 0)) s0)
      (fun t => (t.die 1).pending = some 1 && (t.die 1).throttle = 0) = true ∧
    gives (exec (.throttleLevelChange 1 (Reading.mk 94 2400 20 1)) s0) (fun t => (t.die 1).pending = some 0) = true ∧
    gives (exec (.throttleLevelChange 1 (Reading.mk 20 0 19 0)) s0) (fun t => (t.die 1).pending = some 2) = true := by decide +kernel
theorem test_tick : s0.platform.linked = [] ∧ s0.parts = [(1, { Part.idle with resident := some 3, sliceEnd := 1000 })] ∧
    gives (exec .globalTick s0) (fun t => t.tick = 1 && (t.parts.find 1).any fun q => q.gained = 12) = true ∧
    (let s := s0.setDie 0 { s0.die 0 with pending := some 2 }
     gives (exec .globalTick s) (fun t => (t.die 0).throttle = 2 && (t.parts.find 1).any fun q => q.gained = 12) = true) := by decide +kernel
/-- Device 5 follows device 4, whose count is one ahead. -/
def following (tick : Nat) : State :=
  { s0 with tick := tick, platform := { Platform.reset with device := 5, linked := [4], heard := 1000, slewed := 0, lead := 1 } }
theorem test_follower : (∃ d ∈ (following 10).platform.linked, d < (following 10).platform.device) ∧
    (following 10).tick < (following 10).platform.slewed + 1000 ∧
    gives (exec .globalTick (following 10)) (fun t => t.tick = 11 && !t.platform.unsync) = true := by decide +kernel
theorem test_unsynchronised : gives (exec .tickUnsynchronised s0) (fun t => t = s0) = true ∧
    gives (exec .tickUnsynchronised (following 1001000)) (fun t => t.platform.unsync) = true ∧
    gives (exec .tickUnsynchronised (following 1000999)) (fun t => !t.platform.unsync) = true := by decide +kernel
theorem test_port_down : gives (exec (.cxlPortDown 2) s0) (fun t => 2 ∈ t.platform.portsDown) = true := by decide +kernel
theorem test_session : s0.platform.power ≠ .off := by decide +kernel
theorem test_register_write : gives (exec (.registerWrite ⟨.hub false, .s1root 3⟩ 0x12345) s0) (fun t => (t.vf 3).s1root = 0x12000) = true ∧
    gives (exec (.registerWrite ⟨.host 3, .qbase 3 2⟩ 0x1234) (bound s0)) (fun t => ((t.vf 3).queues.get 2 Wq.reset).qbase = 0x1200) = true ∧
    gives (exec (.registerWrite ⟨.host 3, .qbase 3 2⟩ 0x1234) (bound (queue 1 1 none))) (fun t => t = bound (queue 1 1 none)) = true ∧
    gives (exec (.registerWrite ⟨.host 3, .qbase 3 2⟩ 0x1234) s0) (fun t => t = s0) = true := by decide +kernel
theorem test_anchor : gives (exec (.registerWrite ⟨.provisioning, .anchor (1#256 <<< 200)⟩ 0) s0) (fun t => t.platform.sorrel.anchor = some (1#256 <<< 200)) = true ∧
    gives (exec (.registerWrite ⟨.hub true, .anchor 5⟩ 0) s0) (fun t => t = s0) = true := by decide +kernel
theorem test_mailbox_go :
    let s (cmd : Nat) (st : Power) : State := { s0 with platform := { Platform.reset with
      power := st, resetStep := 1, sorrel := { Sorrel.reset with cmd := BitVec.ofNat 64 cmd, sessions := [7] } } }
    gives (exec (.registerWrite ⟨.session 7, .mboxGo⟩ 1) (s 1 .on)) (fun t => t.platform.sorrel.go) = true ∧
    gives (exec (.registerWrite ⟨.session 7, .mboxGo⟩ 1) (s 1 .heldInReset)) (fun t => t.platform.sorrel.st = 1 && !t.platform.sorrel.go) = true ∧
    gives (exec (.registerWrite ⟨.session 8, .mboxGo⟩ 1) (s 1 .on)) (fun t => t = s 1 .on) = true := by decide +kernel
theorem test_mailbox_busy : gives (exec (.registerWrite ⟨.hub true, .mboxCmd⟩ 2) (mailbox 1 [])) (fun t => t.platform.sorrel.st = 4 && t.platform.sorrel.cmd = 1) = true := by
  decide +kernel

/-! ## Illegal chains, partial commands, frames (R61, R71, R168) -/

/-- The manual's example under R71: ORDER, then GUARD. -/
theorem test_illegal_chain : trapsWith (exec (.illegalEncoding (.chain [0xFD20, 0xF980])) s0) 0x01 0xF980FD20 = true ∧
    gives (exec (.illegalEncoding (.chain [0xFD20, 0xF980])) s0) (fun t => t.cur?.any fun x => x.line.pc = 0x100) = true ∧
    trapsWith (exec (.illegalEncoding (.chain [1, 2, 3, 4, 5])) s0) 0x01 0x0005000400030002 = true := by decide +kernel
/-- A partial command of port 1 since cycle 0, its core switching. -/
def switchingCore : Core :=
  { s0.core 0 with
    resident := some 4
    switchAt := some 0
    reserved := [(.ctx 3 5, 1)]
    buffers := [(1, Assembly.mk (.ctx 3 5) 4 [hdr 4, 1] 2 0)] }
def partialAt (cycle : Nat) : State := { (s0.setCore 0 switchingCore) with cycle := cycle }
theorem test_abandon : gives (exec (.partialCommandAbandon 0 0 1) (partialAt 1024)) (fun t => t = partialAt 1024) = true ∧
    gives (exec (.partialCommandAbandon 0 0 1) (partialAt 1025)) (fun t => (t.core 0).buffers = [] && (t.core 0).reserved = []
      && ((t.core 0).held.all fun e => e.dw0.toNat / 2 ^ 16 % 16 = 2) && ((t.cluster 0).flags.get 3 0).getLsbD 7) = true := by
  decide +kernel
theorem test_frame : regDest (.add Pre.plain 4 1 2) = some 4 ∧ predDest (.cmpEq Pre.plain 1 2 2) = some 1 ∧
    predDest (.fcmpLt Pre.plain 1 0 1 5 6) = some 9 ∧ gives (exec (.add Pre.plain 4 1 2) s0) (fun _ => true) = true := by decide +kernel
theorem test_guarded_off_in_a_scrub : scrubForm (.push gd 1 2 3) ∧ ¬ scrubForm (.add gd 4 1 2) ∧
    gives (exec (.push (Pre.mk (some (Guard.mk 1 0)) none []) 1 2 3) (scrubbed ts)) (fun t => t = scrubbed ts) = true := by
  unfold scrubForm; decide +kernel
theorem test_guarded_off : guardHolds gd l0 = true ∧ guardHolds (Pre.mk (some (Guard.mk 1 0)) none []) l0 = false ∧
    gives (exec (.stD (Pre.mk (some (Guard.mk 1 0)) none []) 2 1 0) s0) (fun t => (t.core 0).stores = []) = true := by
  refine ⟨?_, ?_, ?_⟩ <;> decide +kernel

/-! ## Stepping (R61 to R63) -/

/-- Line 4 of VF 3 holds `addi g4, g2, -1` at offset 0x100, and it is the context's turn. -/
def coded : State :=
  { s0 with agenda := [.issue 0 0], llc := [LlcLine.mk 3 4 0x28BF 0xFF 0 9 false false Dir.empty none] }
theorem test_takes_turn : TakesTurn coded 0 0 sl0 :=
  ⟨by decide +kernel, by decide +kernel, rfl, fun v i y h1 h2 => by
    have h3 : Who.ctx 3 5 = Who.ctx v i := h1
    injection h3 with hv hi
    subst hv; subst hi
    have e : coded.ctx? 3 5 = some (Ctx.mk (.l1 0 0) 0x8000 none false none false none) := by decide +kernel
    rw [e] at h2; injection h2 with h2; subst h2; exact ⟨rfl, rfl⟩⟩
theorem test_fetches : coded.hasSlot 0 = true ∧ (coded.slotTaken 0).slotOrder 0 = [0] ∧ (coded.slotTaken 0).switchesOut 0 0 = false ∧
    (match (fetching (coded.slotTaken 0) 0 0 sl0).fetchParcel 0 0 sl0 0x100 with
    | .ok (_, p) => p = 0x28BF
    | .error _ => false) = true := by decide +kernel
theorem test_step : gives (step coded) (fun t => t.cur?.any fun x => x.line.reg 4 = 1 && x.line.pc = 0x102) = true ∧
    gives (step coded) (fun t => (t.core 0).slotCycle = 1) = true := by decide +kernel
/-- The next instruction is a branch to itself (`br p0, -1`): it issues, and again eight cycles later. -/
def spinning : State := { coded with llc := [LlcLine.mk 3 4 0x70FF 0xFF 0 9 false false Dir.empty none] }
theorem test_branch_to_itself : decode [0x70FF] = .ok (.br Pre.plain 0 0 0xFF, []) ∧
    gives (step spinning) (fun t => t.agenda = [] && t.cur?.any fun x => x.line.pc = 0x100 && x.readyAt = 8 && x.issued) = true := by
  decide +kernel
theorem test_one_issue_a_cycle : (coded.slotTaken 0).cycle < ((coded.slotTaken 0).core 0).slotCycle ∧
    gives (step (coded.slotTaken 0)) (fun t => t = { coded.slotTaken 0 with agenda := [] }) = true := by decide +kernel
/-- The context is at a store while its store queue is full. -/
def heldTurn : State := { fullQueue with agenda := [.issue 0 0], llc := [LlcLine.mk 3 4 0x6688 0xFF 0 9 false false Dir.empty none] }
theorem test_held_turn : decode [0x6688] = .ok (.stD Pre.plain 2 1 0, []) ∧
    gives (step heldTurn) (fun t => t = { heldTurn with agenda := [] }) = true := by decide +kernel
theorem test_step_operation : gives (step { s0 with agenda := [.op .globalTick] }) (fun t => t.tick = 1 && t.agenda = []) = true := by
  decide +kernel
theorem test_step_chips : gives (step { s0 with agenda := [.chips { fails := some 5 }] }) (fun t => t.agenda = [] &&
    t.platform.chips.fails = some 5) = true := by decide +kernel
theorem test_step_encoded : gives (step { s0 with agenda := [.op (.add Pre.plain 4 1 2)] }) (fun t => t = s0) = true := by decide +kernel
theorem test_fetch_parcel : (match coded.reach 0 0 sl0 0x100 2 needFetch .fetch false 0x100 with
      | .ok _ l _ => l = .paged 3 0x100
      | _ => false) = true ∧ (coded.core 0).fetch = [] ∧ coded.dirtyWords 3 4 = 0 ∧
    coded.readBytes (.paged 3 0x100) 2 sl0.secure true = .ok (0x28BF, false) := by decide +kernel
/-- The code segment starts at an odd byte, so the parcel at offset 0x106 lies in two words. -/
def oddSlot : Slot := { sl0 with segs := [Seg.mk true 1 (2 ^ 48) false false true false false .code] }
def oddCode : State := { s0.putSlot 0 0 oddSlot with llc := [LlcLine.mk 3 4 (0x28BF#512 <<< 56) 0xFF 0 9 false false Dir.empty none] }
theorem test_fetch_straddles : ((oddSlot.seg 0).base + 0x106) % 8 = 7 ∧ (match oddCode.fetchParcel 0 0 oddSlot 0x106 with
      | .ok (t, p) => p = 0x28BF && (t.core 0).fetch.map FetchEntry.n = [1, 1]
      | _ => false) = true ∧ (match oddCode.reach 0 0 oddSlot 0x107 1 needFetch .fetch false 0x106 with
      | .ok _ l _ => l = .paged 3 0x108
      | _ => false) = true ∧ oddCode.readBytes (.paged 3 0x108) 1 oddSlot.secure true = .ok (0x28, false) := by decide +kernel
theorem test_reset_wf : State.reset.mem.wf = true := by decide
theorem test_no_power :
    let s := { State.reset with platform := { Platform.reset with power := .off } }
    s.agenda = [] ∧ s.dark ∧ step s = .fault .noPower := ⟨rfl, rfl, rfl⟩

/-! ## Words of the manual's tables (R63 to R81) -/

theorem test_words_page0 :
    decode [0b0000_000_100_100_001] = .ok (.add Pre.plain 4 4 1, []) ∧ decode [0b0001_001_001_010_011] = .ok (.mulh Pre.plain 1 2 3, []) ∧
    decode [0b0010_010_011_111111] = .ok (.addi Pre.plain 2 3 0x3F, []) ∧ decode [0b0011_010_100000001] = .ok (.movi Pre.plain 2 0x101, []) ∧
    decode [0b0100_010_001_011_010] = .ok (.cmpLt Pre.plain 1 3 2, []) ∧ decode [0b0101_011_100_001_010] = .ok (.ldsH Pre.plain 4 1 2, []) ∧
    decode [0b0110_011_010_001_111] = .ok (.stD Pre.plain 2 1 7, []) ∧ decode [0b0111_001_1_00000100] = .ok (.br Pre.plain 1 1 4, []) := by
  decide
theorem test_words_page0_control :
    decode [0b1000_1_00000000100] = .ok (.call Pre.plain 4, []) ∧ decode [0b1001_1_011_00000101] = .ok (.loop Pre.plain 1 3 5, []) ∧
    decode [0b1010_010_001_010_011] = .ok (.paddsH Pre.plain 1 2 3, []) ∧ decode [0b1011_101_001_010_011] = .ok (.sel Pre.plain 1 2 3, []) ∧
    decode [0b1011_011_100_000_111] = .ok (.rdsr Pre.plain 4 7, []) ∧ decode [0b1100_10_100_010_0011] = .ok (.sari Pre.plain 4 2 3, []) ∧
    decode [0b1101_100_010_000011] = .ok (.andi Pre.plain 4 2 3, []) ∧ decode [0b1110_110_100_000000] = .ok (.sleep Pre.plain 4, []) := by
  decide
theorem test_words_prefixes :
    decode [0b1111_10_00001_1_0000, 0b0000_000_100_100_001] = .ok (.add (Pre.mk (some (Guard.mk 1 1)) none []) 4 4 1, []) ∧
    decode [0b1111_11_010_10_1_0_0_00, 0b0110_011_010_001_111] = .ok (.stD (Pre.mk none (some (Order.mk 2 2 1 0 0)) []) 2 1 7, []) ∧
    decode [0b1111_00_0000000001, 0b0010_010_011_000000] = .ok (.addi (Pre.mk none none [1]) 2 3 0, []) := by decide
theorem test_words_page1 :
    decode [0b1111_01_0001_000001, 0b0000_000_001_010_011] = .ok (.fadd Pre.plain 1 1 2 3, []) ∧
    decode [0b1111_01_0001_000010, 0b0001_011_001_010_000] = .ok (.exp2 Pre.plain 2 1 2, []) ∧
    decode [0b1111_01_0001_000100, 0b0010_001_001_010_011] = .ok (.fcmpLt Pre.plain 1 0 1 2 3, []) ∧
    decode [0b1111_01_0001_000100, 0xF3FD, 0b0011_001_010_1000_00] = .ok (.fcvt (Pre.mk none none [0x3FD]) 4 1 2 8, []) := by decide
theorem test_words_page2 :
    decode [0b1111_01_0010_000010, 0b0000_000_001_010_011] = .ok (.padd Pre.plain 2 1 2 3, []) ∧
    decode [0b1111_01_0010_000001, 0b0001_110_001_010_011] = .ok (.pdot Pre.plain 1 1 2 3, []) ∧
    decode [0b1111_01_0010_000000, 0b0010_101_001_010_011] = .ok (.punpk Pre.plain 0 1 2 3, []) ∧
    decode [0b1111_01_0010_000011, 0b0100_010_001_010_011] = .ok (.cmpxLt Pre.plain 3 1 2 3, []) := by decide
/-- The manual's example under R78, and a unary form. -/
theorem test_words_page3 : decode [0xF4C0, 0xF014, 0xF060, 0x000E] = .ok (.tadd Pre.plain 5 6 7, []) ∧
    decode [0xF4C0, 0xF014, 0xF060, 0b0001_001_0000_00000] = .ok (.texp2 Pre.plain 5 6, []) := by decide
theorem test_words_page4 :
    decode [0b1111_01_0100_000000, 0b0000_000_001_010_011] = .ok (.push Pre.plain 1 2 3, []) ∧
    decode [0b1111_01_0100_000010, 0b0001_00_00000101_00] = .ok (.rwaitF Pre.plain 2 5, []) ∧
    decode [0b1111_01_0100_010001, 0b0010_00_00000101_00] = .ok (.hdef Pre.plain 5 1 2, []) ∧
    decode [0b1111_01_0100_000101, 0b0010_10_00000001_11] = .ok (.hmov Pre.plain 1 0xC5, []) ∧
    decode [0b1111_01_0100_000000, 0b0011_000_001_010_011] = .ok (.send Pre.plain 1 2 3, []) := by decide
theorem test_words_page5 :
    decode [0b1111_01_0101_000000, 0b0000_000_001_010_011] = .ok (.ldfe Pre.plain 1 2 3, []) ∧
    decode [0b1111_01_0101_000000, 0b0001_000_000_010_011] = .ok (.waddrEq Pre.plain 2 3, []) ∧
    decode [0b1111_01_0101_000011, 0b0010_000_001_010_011] = .ok (.amoAdd Pre.plain 1 1 2 3, []) ∧
    decode [0b1111_01_0101_000010, 0b0011_010_000_010_011] = .ok (.redAdd Pre.plain 2 2 3, []) ∧
    decode [0b1111_01_0101_000000, 0b0011_101_001_010_000] = .ok (.spawn Pre.plain 1 2, []) := by decide
theorem test_words_page6 :
    decode [0b1111_01_0110_000000, 0b0000_001_000_000110] = .ok (.rdsrPriv Pre.plain 1 6, []) ∧
    decode [0b1111_01_0110_000000, 0b0010_110_001_000_000] = .ok (.rdtick Pre.plain 1, []) ∧
    decode [0b1111_01_0110_000000, 0b0011_001_001_010_011] = .ok (.cxst Pre.plain 1 2 3, []) ∧
    decode [0b1111_01_0110_000000, 0b0011_011_001_010_000] = .ok (.yrd Pre.plain 1 2, []) := by decide
/-- Reserved codes: an op that is no base parcel, an unassigned minor, scope 7, a fifth prefix, PAGE 0, a used must-be-0 field. -/
theorem test_words_refused : (decode [0xFFFF]).toOption = none ∧ (decode [0b0101_111_000_000_000]).toOption = none ∧
    (decode [0xF400]).toOption = none ∧ (decode [0xF000, 0xF000, 0xF000, 0xF000, 0xF000]).toOption = none ∧
    (decode [0b1011_000_001_010_001]).toOption = none ∧ (decode [0xFD20, 0xF980]).toOption = none := by decide
theorem test_round_trip : (Instr.tadd Pre.plain 5 6 7).wellFormed = true ∧ encode (.tadd Pre.plain 5 6 7) = some [0xF4C0, 0xF014, 0xF060, 0x000E] := by
  decide

/-! ## Terms that no encoding stands for -/

theorem test_ill_formed_prefixes : (Instr.add (Pre.mk none none [1]) 1 2 3).wellFormed = false ∧
    (Instr.add (ordered 0 6) 1 2 3).wellFormed = false ∧ (Instr.ldD (ordered 0 7) 1 2 3).wellFormed = false ∧
    (Instr.addi (Pre.mk none none [1, 2, 3, 4, 5]) 1 2 3).wellFormed = false ∧
    (Instr.ldfe (Pre.mk (some (Guard.mk 0 0)) none [1, 2, 3]) 1 2 3).wellFormed = false := by decide
theorem test_ill_formed_orders : (Instr.ldD (ordered 2 6) 1 2 3).wellFormed = false ∧ (Instr.stD (ordered 1 6) 1 2 3).wellFormed = false ∧
    (Instr.fence (ordered 0 6)).wellFormed = false ∧ (Instr.waddrEq (ordered 3 6) 1 2).wellFormed = false ∧
    (Instr.push (ordered 1 2) 1 2 3).wellFormed = false ∧ (Instr.pop (ordered 2 2) 1 2 3).wellFormed = false ∧
    (Instr.amoAdd (Pre.mk none (some (Order.mk 6 0 1 0 0)) []) 1 1 2 3).wellFormed = false := by decide
theorem test_ill_formed_fields : (Instr.loop (Pre.mk none none [0x200]) 0 1 2).wellFormed = false ∧
    (Instr.trap (Pre.mk none none [0x200]) 2).wellFormed = false ∧ (Instr.wrsr Pre.plain 1 7).wellFormed = false ∧
    (Instr.fadd Pre.plain 3 1 2 3).wellFormed = false ∧ (Instr.padd Pre.plain 3 1 2 3).wellFormed = false ∧
    (Instr.ppack Pre.plain 0 1 2 3).wellFormed = false ∧ (Instr.fcvt Pre.plain 9 1 2 0).wellFormed = false ∧
    (Instr.fcvt (Pre.mk none none [1]) 4 1 2 0).wellFormed = false ∧ (Instr.fcvt (Pre.mk none none [128]) 4 1 2 8).wellFormed = false := by decide
theorem test_ill_formed_operands : (Instr.push Pre.plain 6 1 2).wellFormed = false ∧ (Instr.pop Pre.plain 1 2 2).wellFormed = false ∧
    (Instr.peek Pre.plain 1 2 2).wellFormed = false ∧ (Instr.hrd Pre.plain 1 2 2).wellFormed = false ∧
    (Instr.send Pre.plain 1 2 7).wellFormed = false ∧ (Instr.redAdd Pre.plain 1 2 3).wellFormed = false ∧
    (Instr.rdsrPriv Pre.plain 1 7).wellFormed = false ∧ (Instr.wrsrPriv Pre.plain 1 1).wellFormed = false := by decide
end Sys2Proof.Tests
end

/-! # O59: only a module without power stops

`Answers o` says that an outcome is a next state. A lemma for each shared operation of the meanings (checks, waits, traps
and probes answer, and so does the operation where its continuation does) gives `exec_answers`: every operation answers, in
every state (R6). The moves that the machine makes by itself are those operations and five more, so a step can stop only
where `ownTurn` finds the power off (R412, R424). -/

namespace Sys2Proof.Machine

/-- The answer is a next state: neither a fault nor a refusal. -/
def Answers (o : Out) : Prop := ∃ t, o = .next t

@[simp] theorem answers_next (t : State) : Answers (.next t) := ⟨t, rfl⟩

/-! ## The shared operations of an instruction -/

theorem withCur_answers {s : State} {k : Slot → Out} (hk : ∀ sl, Answers (k sl)) : Answers (withCur s k) := by
  unfold withCur
  split
  · exact answers_next _
  · exact hk _

@[simp] theorem trapOut_answers (s : State) (sl : Slot) (i : Instr) (cause : BitVec 16) (tval : Word) :
    Answers (trapOut s sl i cause tval) := answers_next _

@[simp] theorem trapInfoOut_answers (s : State) (sl : Slot) (i : Instr) (t : TrapInfo) : Answers (trapInfoOut s sl i t) :=
  trapOut_answers ..

@[simp] theorem hold_answers (s : State) (sl : Slot) (i : Instr) : Answers (hold s sl i) := answers_next _

@[simp] theorem missOut_answers (s : State) (sl : Slot) (tinfo : BitVec 16) (tval : Word) (a : Nat) (acc : Access) :
    Answers (missOut s sl tinfo tval a acc) := answers_next _

@[simp] theorem fetchMiss_answers (s : State) (sl : Slot) (a off : Nat) (got : List Parcel) :
    Answers (fetchMiss s sl a off got) := missOut_answers ..

@[simp] theorem fetchStage2_answers (s : State) (sl : Slot) (loc : Loc) (off : Nat) (got : List Parcel) :
    Answers (fetchStage2 s sl loc off got) := answers_next _

@[simp] theorem segsStage2_answers (s : State) (sl : Slot) (a : Nat) : Answers (segsStage2 s sl a) := answers_next _

@[simp] theorem settle_answers (s : State) (sl : Slot) (i : Instr) (lat : Nat) : Answers (settle s sl i lat) := by
  unfold settle
  dsimp only
  split <;> exact answers_next _

@[simp] theorem complete_answers (s : State) (sl : Slot) (i : Instr) (lat : Nat) : Answers (complete s sl i lat) :=
  settle_answers ..

@[simp] theorem branch_answers (s : State) (sl : Slot) (i : Instr) (lat : Nat) (t : Word) (f : Line → Line) :
    Answers (branch s sl i lat t f) := by
  unfold branch
  split
  · exact trapInfoOut_answers ..
  · exact settle_answers ..

theorem guarded_answers {s : State} {i : Instr} {p : Pre} {k : Slot → Out} (hk : ∀ sl, Answers (k sl)) :
    Answers (guarded s i p k) :=
  withCur_answers fun sl => by
    split
    · exact hk sl
    · exact complete_answers ..

theorem privileged_answers {s : State} {i : Instr} {p : Pre} {k : Slot → Out} (hk : ∀ sl, Answers (k sl)) :
    Answers (privileged s i p k) :=
  withCur_answers fun sl => by
    split
    · split
      · exact hk sl
      · exact complete_answers ..
    · exact trapOut_answers ..

@[simp] theorem lineOp_answers (s : State) (i : Instr) (p : Pre) (lat : Nat) (f : Line → Line) :
    Answers (lineOp s i p lat f) := guarded_answers fun _ => complete_answers ..

theorem codeTrap_answers (s : State) (i : Instr) (p : Pre) (code : Int) (cause : BitVec 16) :
    Answers (codeTrap s i p code cause) := guarded_answers fun _ => answers_next _

/-! ## Operations on the line alone -/

theorem aluOp_answers (s : State) (i : Instr) (p : Pre) (d a b : BitVec 3) (lat : Nat) (f : Word → Word → Word) :
    Answers (aluOp s i p d a b lat f) := lineOp_answers ..

theorem unaryOp_answers (s : State) (i : Instr) (p : Pre) (d a : BitVec 3) (f : Word → Word) :
    Answers (unaryOp s i p d a f) := lineOp_answers ..

theorem cmpOp_answers (s : State) (i : Instr) (p : Pre) (t : BitVec 5) (a b : BitVec 3) (cond : Word → Word → Bool) :
    Answers (cmpOp s i p t a b cond) := lineOp_answers ..

theorem packedLists_answers (s : State) (i : Instr) (p : Pre) (lat : Nat) (d a b : BitVec 3) (w out : Nat)
    (f : List Nat → List Nat → List (Nat × Bool)) : Answers (packedLists s i p lat d a b w out f) := lineOp_answers ..

theorem packedOp_answers (s : State) (i : Instr) (p : Pre) (lat : Nat) (d a b : BitVec 3) (w : Nat)
    (f : Nat → Nat → Nat × Bool) : Answers (packedOp s i p lat d a b w f) := packedLists_answers ..

theorem funary_answers (s : State) (i : Instr) (p : Pre) (f : Ieee) (d a : BitVec 3) (lat : Nat)
    (op : (rm : Nat) → (fz : Bool) → (bits : Nat) → Rounded) : Answers (funary s i p f d a lat op) := lineOp_answers ..

theorem fbinary_answers (s : State) (i : Instr) (p : Pre) (f : Ieee) (d a b : BitVec 3) (lat : Nat)
    (op : (rm : Nat) → (fz : Bool) → FVal → FVal → Rounded) : Answers (fbinary s i p f d a b lat op) :=
  lineOp_answers ..

theorem fcmpOp_answers (s : State) (i : Instr) (p : Pre) (t : BitVec 5) (f : Ieee) (a b : BitVec 3) (quiet : Bool)
    (rel : FVal → FVal → Bool) : Answers (fcmpOp s i p t f a b quiet rel) := lineOp_answers ..

/-! ## Memory access -/

@[simp] theorem memFaultAt_answers (s : State) (sl : Slot) (i : Instr) (e : MemFault) (loc : Loc) (tval : Word)
    (acc : Access) (linear : Nat) : Answers (memFaultAt s sl i e loc tval acc linear) := by
  cases e with
  | world => exact trapOut_answers ..
  | stage2 => exact answers_next _

@[simp] theorem memFaultOut_answers (s : State) (sl : Slot) (i : Instr) (e : MemFault) (loc : Loc) (tval : Word)
    (acc : Access) : Answers (memFaultOut s sl i e loc tval acc) := memFaultAt_answers ..

theorem access_answers {s : State} {sl : Slot} {i : Instr} {q : Word} {n : Nat} {need : Need} {acc : Access}
    {k : Seg → Loc → Bool → Out} (hk : ∀ g loc priv, Answers (k g loc priv)) :
    Answers (access s sl i q n need acc k) := by
  unfold access
  split
  · exact trapInfoOut_answers ..
  · exact missOut_answers ..
  · exact answers_next _
  · split
    · exact answers_next _
    · exact hk ..

theorem syncAccess_answers {s : State} {sl : Slot} {i : Instr} {q : Word} {n : Nat} {need : Need} {acc : Access}
    {r : Refuses} {k : Seg → Loc → Bool → Out} (hk : ∀ g loc priv, Answers (k g loc priv)) :
    Answers (syncAccess s sl i q n need acc r k) :=
  access_answers fun g loc priv => by
    split
    · exact trapOut_answers ..
    · exact hk ..

@[simp] theorem depart_answers (s : State) (sl : Slot) (v i dest : Nat) : Answers (depart s sl v i dest) := by
  unfold depart
  dsimp only
  split <;> exact answers_next _

@[simp] theorem migrate_answers (s : State) (sl : Slot) (i : Instr) (dest : Nat) (q : Word) :
    Answers (migrate s sl i dest q) := by
  unfold migrate
  split
  · exact trapOut_answers ..
  · exact depart_answers ..

theorem homedAccess_answers {s : State} {sl : Slot} {i : Instr} {q : Word} {n : Nat} {need : Need} {acc : Access}
    {r : Refuses} {k : Seg → Loc → Bool → Out} (hk : ∀ g loc priv, Answers (k g loc priv)) :
    Answers (homedAccess s sl i q n need acc r k) :=
  syncAccess_answers fun g loc priv => by
    split
    · split
      · exact hk ..
      · exact migrate_answers ..
    · exact hk ..

theorem probe_answers {s : State} {sl : Slot} {i : Instr} {loc : Loc} {n : Nat} {write : Bool}
    {release : Option (BitVec 3)} {k : State → Out} (hk : ∀ t, Answers (k t)) :
    Answers (probe s sl i loc n write release k) := by
  unfold probe
  dsimp only
  split
  · exact hold_answers ..
  · split <;> exact hk _

theorem probeWord_answers {s : State} {sl : Slot} {i : Instr} {q : Word} {loc : Loc} {write : Bool} {acc : Access}
    {k : Word8 → Out} (hk : ∀ w, Answers (k w)) : Answers (probeWord s sl i q loc write acc k) := by
  unfold probeWord
  split
  · exact memFaultOut_answers ..
  · exact hk _

/-- A probe of one word: what waits, faults and migrates answers, so the probe does where its effect on the word does. -/
theorem probeOf_answers {s : State} {sl : Slot} {i : Instr} {q : Word} {loc : Loc} {n : Nat} {write : Bool}
    {release : Option (BitVec 3)} {acc : Access} {k : State → Word8 → Out} (hk : ∀ t w, Answers (k t w)) :
    Answers (probe s sl i loc n write release fun t => probeWord t sl i q loc write acc (k t)) :=
  probe_answers fun t => probeWord_answers (hk t)

@[simp] theorem waitOn_answers (s : State) (sl : Slot) (i : Instr) (q : Word) (kind : WaitKind) (arg : BitVec 28)
    (loc : Loc) (n : Nat) (poll : Option Nat) : Answers (waitOn s sl i q kind arg loc n poll) := by
  unfold waitOn
  split
  · exact trapOut_answers ..
  · exact answers_next _

@[simp] theorem post_answers (s : State) (sl : Slot) (i : Instr) (e : Posted) : Answers (post s sl i e) := by
  unfold post
  dsimp only
  split
  · exact answers_next _
  · exact complete_answers ..

@[simp] theorem loadDone_answers (s : State) (sl : Slot) (i : Instr) (d : BitVec 3) (v n : Nat) (signed : Bool) :
    Answers (loadDone s sl i d v n signed) := complete_answers ..

@[simp] theorem issueFill_answers (s : State) (sl : Slot) (i : Instr) (d : BitVec 3) (q : Word) (g : Seg) (loc : Loc)
    (n : Nat) (signed priv : Bool) (hints : Bool × Bool × Bool) :
    Answers (issueFill s sl i d q g loc n signed priv hints) := answers_next _

theorem loadAt_answers (s : State) (sl : Slot) (i : Instr) (d : BitVec 3) (q : Word) (n : Nat) (signed : Bool)
    (hints : Bool × Bool × Bool) (g : Seg) (loc : Loc) (priv : Bool) :
    Answers (loadAt s sl i d q n signed hints g loc priv) := by
  unfold loadAt
  dsimp only
  repeat' split
  all_goals simp

theorem loadOp_answers (s : State) (i : Instr) (p : Pre) (d a b : BitVec 3) (n : Nat) (signed : Bool) :
    Answers (loadOp s i p d a b n signed) := guarded_answers fun _ => access_answers fun _ _ _ => loadAt_answers ..

theorem storeOp_answers (s : State) (i : Instr) (p : Pre) (d a b : BitVec 3) (n : Nat) :
    Answers (storeOp s i p d a b n) := guarded_answers fun _ => access_answers fun _ _ _ => post_answers ..

theorem feProbe_answers (s : State) (i : Instr) (p : Pre) (a b : BitVec 3) (need : Need) (acc : Access)
    (wantFull release : Bool) (effect : Line → Word8 → Line × Option Word8) :
    Answers (feProbe s i p a b need acc wantFull release effect) :=
  guarded_answers fun _ => homedAccess_answers fun _ _ _ => probeOf_answers fun _ _ => by
    repeat' split
    all_goals simp

theorem fePost_answers (s : State) (i : Instr) (p : Pre) (a b : BitVec 3) (what : Post) (data : Line → Word) :
    Answers (fePost s i p a b what data) :=
  guarded_answers fun _ => homedAccess_answers fun _ _ _ => post_answers ..

theorem waddrOp_answers (s : State) (i : Instr) (p : Pre) (a b : BitVec 3) (want : Word → Word → Bool) :
    Answers (waddrOp s i p a b want) :=
  guarded_answers fun _ => syncAccess_answers fun _ _ _ => probeOf_answers fun _ _ => by
    repeat' split
    all_goals simp

theorem amoOp_answers (s : State) (i : Instr) (p : Pre) (sz : BitVec 1) (d a b : BitVec 3) (cxl : Bool)
    (f : (w x y z : Nat) → Option Nat) : Answers (amoOp s i p sz d a b cxl f) :=
  guarded_answers fun _ => homedAccess_answers fun _ _ _ => probeOf_answers fun _ _ => by
    dsimp only
    split
    · exact trapOut_answers ..
    · exact complete_answers ..

theorem syncPost_answers (s : State) (i : Instr) (p : Pre) (a : BitVec 3) (n : Nat) (what : Post) :
    Answers (syncPost s i p a n what) :=
  guarded_answers fun _ => syncAccess_answers fun _ _ _ => post_answers ..

theorem walkOp_answers (s : State) (i : Instr) (p : Pre) (a b : BitVec 3) (inval : Bool) :
    Answers (walkOp s i p a b inval) :=
  guarded_answers fun _ => by
    dsimp only
    repeat' split
    all_goals simp

/-! ## Tiles, rings and commands -/

theorem tileOp_answers (s : State) (i : Instr) (p : Pre) (a b : Option (BitVec 8)) (d : BitVec 8) (sh : TileShape)
    (readsD special : Bool) (f : Line → Tiles → TileVals → List Nat × BitVec 16) :
    Answers (tileOp s i p a b d sh readsD special f) := by
  unfold tileOp
  split
  · exact answers_next _
  · refine guarded_answers fun sl => ?_
    dsimp only
    repeat' split
    all_goals simp

theorem tbin_answers (s : State) (i : Instr) (p : Pre) (hd ha hb : BitVec 8) (fi : Int → Int → Int)
    (ff : Line → Elem → Elem → FVal × BitVec 16) : Answers (tbin s i p hd ha hb fi ff) := tileOp_answers ..

theorem tun_answers (s : State) (i : Instr) (p : Pre) (hd ha : BitVec 8) (special : Bool) (f : Line → Elem → Res) :
    Answers (tun s i p hd ha special f) := tileOp_answers ..

theorem tred_answers (s : State) (i : Instr) (p : Pre) (hd ha : BitVec 8) (f : Line → Bool → List Elem → Res) :
    Answers (tred s i p hd ha f) := tileOp_answers ..

@[simp] theorem pushWords_answers (s : State) (sl : Slot) (i : Instr) (port : Nat) (b : Assembly) (x y : Word)
    (scope : BitVec 3) : Answers (pushWords s sl i port b x y scope) := by
  unfold pushWords
  dsimp only
  repeat' split
  all_goals simp

theorem ringOp_answers {s : State} {i : Instr} {p : Pre} {n : BitVec 4} {h : BitVec 8} {adv : Bool}
    {k : State → Slot → Ring → Loc → Word → Word → Out} (hk : ∀ t sl r loc w0 w1, Answers (k t sl r loc w0 w1)) :
    Answers (ringOp s i p n h adv k) := by
  unfold ringOp
  split
  · exact answers_next _
  · refine guarded_answers fun sl => ?_
    dsimp only
    split
    · exact trapInfoOut_answers ..
    · split
      · exact trapInfoOut_answers ..
      · split
        · exact trapInfoOut_answers ..
        · exact trapOut_answers ..
        · split
          · exact answers_next _
          · refine probe_answers fun t => ?_
            split
            · exact trapOut_answers ..
            · exact hk ..

theorem ringWait_answers (s : State) (i : Instr) (p : Pre) (n : BitVec 4) (h : BitVec 8)
    (ready : Ring → Nat → Bool) : Answers (ringWait s i p n h ready) :=
  ringOp_answers fun _ _ _ _ _ _ => by
    repeat' split
    all_goals simp

@[simp] theorem initRing_answers (s : State) (sl : Slot) (i : Instr) (h : BitVec 8) (e : Word × Word) (r : Ring) :
    Answers (initRing s sl i h e r) := by
  unfold initRing
  dsimp only
  split
  · exact trapInfoOut_answers ..
  · exact trapOut_answers ..
  · split
    · exact answers_next _
    · exact probe_answers fun _ => complete_answers ..

theorem execPush_answers (p : Pre) (port a b : BitVec 3) (s : State) : Answers (execPush p port a b s) := by
  unfold execPush
  dsimp only
  split
  · exact answers_next _
  · refine guarded_answers fun sl => ?_
    repeat' split
    all_goals simp

theorem lineChecks_answers {s : State} {sl : Slot} {i : Instr} {a b : BitVec 3} {k : Nat → Nat → Out}
    (hk : ∀ ix n, Answers (k ix n)) : Answers (lineChecks s sl i a b k) := by
  unfold lineChecks
  dsimp only
  split
  · exact trapOut_answers ..
  · split
    · exact trapInfoOut_answers ..
    · exact hk ..

theorem copyWord_answers {s : State} {sl : Slot} {i : Instr} {q : Word} {gpa : Nat} {write : Bool}
    {k : State → Word8 → Out} (hk : ∀ t w, Answers (k t w)) : Answers (copyWord s sl i q gpa write k) := by
  unfold copyWord
  dsimp only
  split
  · exact hold_answers ..
  · split
    · exact memFaultAt_answers ..
    · split
      · exact trapOut_answers ..
      · exact hk ..

theorem execCxld_answers (p : Pre) (d a b : BitVec 3) (s : State) : Answers (execCxld p d a b s) :=
  privileged_answers fun sl => lineChecks_answers fun ix k => by
    dsimp only
    split
    · exact hold_answers ..
    iterate 3 split <;> simp
    · exact copyWord_answers fun _ _ => complete_answers ..

theorem execCxst_answers (p : Pre) (d a b : BitVec 3) (s : State) : Answers (execCxst p d a b s) :=
  privileged_answers fun sl => lineChecks_answers fun ix k => by
    dsimp only
    split
    · refine copyWord_answers fun t x => ?_
      split
      · exact trapOut_answers ..
      · split
        · exact trapInfoOut_answers ..
        · exact copyWord_answers fun _ _ => complete_answers ..
    · repeat' split
      all_goals simp

/-! ## Steps of the device that several operations share -/

theorem clusterEngineBy_answers (s : State) (cl port : Nat) (ops : Nat → Bool) (run : State → Cmd → Keep → State) :
    Answers (clusterEngineBy s cl port ops run) := by
  unfold clusterEngineBy
  repeat' split
  all_goals exact answers_next _

theorem clusterEngine_answers (s : State) (cl port : Nat) (ops : Nat → Bool) (body : Cmd → Eng (Word × BitVec 16)) :
    Answers (clusterEngine s cl port ops body) := clusterEngineBy_answers ..

theorem dieEngine_answers (s : State) (d port : Nat) (ops : Nat → Bool) (body : Cmd → Eng (Word × BitVec 16)) :
    Answers (dieEngine s d port ops body) := by
  unfold dieEngine
  repeat' split
  all_goals exact answers_next _

theorem mmAccept_answers (s : State) (cl src : Nat) (ops : Nat → Bool) (run : State → Cmd → Keep → State) :
    Answers (mmAccept s cl src ops run) := by
  unfold mmAccept
  repeat' split
  all_goals exact answers_next _

theorem dirRequest_answers (s : State) (v line core : Nat) (f : Except MemFault State) :
    Answers (dirRequest s v line core f) := by
  unfold dirRequest
  repeat' split
  all_goals exact answers_next _

theorem wqRead_answers (vf q : Nat) (s : State) (gang : Bool) (take : Wq → List Word → State) :
    Answers (wqRead vf q s gang take) := by
  unfold wqRead
  dsimp only
  repeat' split
  all_goals exact answers_next _

theorem mailbox_answers (s : State) (code : Nat) (f : Sorrel → State) : Answers (mailbox s code f) := by
  unfold mailbox
  dsimp only
  split <;> exact answers_next _

/-! ## Every encoded instruction answers -/

theorem exec_answers_of_encoded (i : Instr) (s : State) (h : i.use.isSome) : Answers (exec i s) := by
  cases i with dsimp only [exec]
  | add | sub | and | or | xor | shl | shr | sar | mul | mulh | mulhn | min | max | minn | maxn | andn =>
    exact aluOp_answers ..
  | addi | andi | shli | shri | sari | rori | mov => exact unaryOp_answers ..
  | movi | rdp | wrp | nop | pdot | fma | fcvt => exact lineOp_answers ..
  | cmpEq | cmpNe | cmpLt | cmpGe | cmpLo | cmpHs | cmpTst | cmpNtst
  | cmpxEq | cmpxNe | cmpxLt | cmpxGe | cmpxLo | cmpxHs | cmpxTst | cmpxNtst => exact cmpOp_answers ..
  | paddH | psubH | paddsH | psubsH | pminH | pmaxH | pmulH | pavgH
  | padd | psub | padds | psubs | paddn | psubn | pavg | pmul | pmulh | pmin | pmax | pminn | pmaxn
  | psll | psrl | psra | pcmpeq | pcmpgt | pabs => exact packedOp_answers ..
  | pshuf | ppack | punpk =>
    dsimp only [execPshuf, execPpack, execPunpk]
    exact packedLists_answers ..
  | fadd | fsub | fmul | fdiv | fmin | fmax => exact fbinary_answers ..
  | fsqrt | fabs | fneg | exp2 | log2 | rcp | rsqrt | fclass => exact funary_answers ..
  | fcmpEq | fcmpLt | fcmpLe | fcmpUn => exact fcmpOp_answers ..
  | sel => exact withCur_answers fun _ => complete_answers ..
  | trap | brk => exact codeTrap_answers ..
  | tadd | tsub | tmul | tmin | tmax => exact tbin_answers ..
  | tcvt | texp2 | tlog2 | trcp | tscale | tmask => exact tun_answers ..
  | tredSum | tredMax => exact tred_answers ..
  | tfma | tsel | tcopy | tfill => exact tileOp_answers ..
  | ldzB | ldsB | ldzH | ldsH | ldzW | ldsW | ldD => exact loadOp_answers ..
  | stB | stH | stW | stD => exact storeOp_answers ..
  | ldfe | ldff | stef => exact feProbe_answers ..
  | stfe | feSet | feClr => exact fePost_answers ..
  | waddrEq | waddrNe => exact waddrOp_answers ..
  | amoAdd | amoAnd | amoOr | amoXor | amoMin | amoMax | amoMinn | amoMaxn | amoSwap | amoCas =>
    exact amoOp_answers ..
  | barArrive | joinDec => exact syncPost_answers ..
  | cflush | cinval => exact walkOp_answers ..
  | redAdd => exact guarded_answers fun _ => syncAccess_answers fun _ _ _ => post_answers ..
  | feRd => exact guarded_answers fun _ => homedAccess_answers fun _ _ _ => probeOf_answers fun _ _ => complete_answers ..
  | redRd | joinWait =>
    dsimp only [execRedRd, execJoinWait]
    refine guarded_answers fun _ => syncAccess_answers fun _ _ _ => probeOf_answers fun _ _ => ?_
    repeat' split
    all_goals simp
  | barWait =>
    refine guarded_answers fun _ => syncAccess_answers fun _ _ _ => probeOf_answers fun _ _ =>
      probeWord_answers fun _ => ?_
    dsimp only
    repeat' split
    all_goals simp
  | spawn =>
    refine guarded_answers fun _ => access_answers fun _ _ _ => ?_
    dsimp only
    split <;> exact complete_answers ..
  | rdsr | rdtick | cflRd | cflClr | ymark | yield | peek => exact guarded_answers fun _ => complete_answers ..
  | jmp | call | jr | ret => exact guarded_answers fun _ => branch_answers ..
  | wrsr | br | loop | sleep | fence | exit | mig | pop | send | hret | upret | capmint | yrd =>
    dsimp only [execWrsr, execBr, execLoop, execSleep, execFence, execExit, execMig, execPop, execSend, execHret,
      execUpret, execCapmint, execYrd]
    refine guarded_answers fun _ => ?_
    repeat' split
    all_goals simp
  | rdsrPriv | tlbinv => exact privileged_answers fun _ => complete_answers ..
  | wrsrPriv | eret | seginv | sltWr | yctl =>
    dsimp only [execWrsrPriv, execEret, execSeginv, execSltWr, execYctl]
    refine privileged_answers fun _ => ?_
    repeat' split
    all_goals simp
  | cxld => exact execCxld_answers ..
  | cxst => exact execCxst_answers ..
  | push => exact execPush_answers ..
  | rwaitF | rwaitE => exact ringWait_answers ..
  | radvP | radvC =>
    dsimp only [execRadvP, execRadvC]
    refine ringOp_answers fun _ _ _ _ _ _ => ?_
    split
    · exact trapInfoOut_answers ..
    · exact complete_answers ..
  | hdef | hrd | hmov =>
    dsimp only [execHdef, execHrd, execHmov]
    split
    · exact answers_next _
    · refine guarded_answers fun _ => ?_
      repeat' split
      all_goals simp
  | _ => exact absurd h Bool.false_ne_true

/-! ## Every operation of the device answers -/

/-- What an answered probe issues again is the instruction itself, an encoded one, or nothing. -/
theorem answer_eq_exec_or_next (s : State) (i : Instr) :
    i.use.isSome ∧ answer s i = exec i s ∨ answer s i = .next s := by
  cases i with dsimp only [answer, exec]
  | ldzB | ldsB | ldzH | ldsH | ldzW | ldsW | ldD | ldfe | ldff | stef | feRd | waddrEq | waddrNe
  | amoAdd | amoAnd | amoOr | amoXor | amoMin | amoMax | amoMinn | amoMaxn | amoSwap | amoCas | redRd
  | joinWait | barWait | mig | fence | exit => exact .inl ⟨rfl, rfl⟩
  | _ => exact .inr rfl

theorem probeAnswered_eq_exec_or_next (s : State) (i : Instr) :
    i.use.isSome ∧ probeAnswered s i = exec i s ∨ probeAnswered s i = .next s := by
  cases i with dsimp only [probeAnswered, exec]
  | tadd | tsub | tmul | tfma | tmin | tmax | tsel | tcvt | texp2 | tlog2 | trcp | tcopy | tredSum | tredMax | tscale
  | tfill | tmask | rwaitF | rwaitE | radvP | radvC | hdef | cxld | cxst => exact .inl ⟨rfl, rfl⟩
  | fence | mig | exit => exact .inr rfl
  | _ => exact answer_eq_exec_or_next s _

theorem drainAnswered_eq_exec_or_next (s : State) (i : Instr) :
    i.use.isSome ∧ drainAnswered s i = exec i s ∨ drainAnswered s i = .next s := by
  cases i with dsimp only [drainAnswered, exec]
  | fence | mig | exit => exact .inl ⟨rfl, rfl⟩
  | _ => exact .inr rfl

theorem answers_of_eq_exec_or_next {s : State} {i : Instr} {o : Out}
    (h : i.use.isSome ∧ o = exec i s ∨ o = .next s) : Answers o := by
  obtain ⟨hi, rfl⟩ | rfl := h
  · exact exec_answers_of_encoded i s hi
  · exact answers_next s

theorem answerHeld_answers {s : State} {core way : Nat} {f : State → Instr → Out} (hf : ∀ t i, Answers (f t i)) :
    Answers (answerHeld s core way f) := by
  unfold answerHeld
  split
  · exact answers_next _
  · split
    · exact answers_next _
    · split
      · exact answers_next _
      · exact hf ..

theorem exec_answers_of_unencoded (i : Instr) (s : State) (h : i.use = none) : Answers (exec i s) := by
  cases i with dsimp only [exec]
  | fillResponse | storeQueuePerform | contextPull | contextFetch | arrivalToContextL2 | contextLineLost | dirWriteBack
  | dirCoreEvict | fmUnbind | parityError | moduleReset | powerLoss | globalTick => exact answers_next _
  | slGather | slScatter | flCopy | flFill | boMerge => exact clusterEngine_answers ..
  | slScatadd | boTopk => exact clusterEngineBy_answers ..
  | qnBag | ywLoad | ywAttach | ywDetach | ywDump => exact dieEngine_answers ..
  | mmFmt | mmMul => exact mmAccept_answers ..
  | dirLoadMiss | dirStoreOwnership => exact dirRequest_answers ..
  | wqLaunch | wqGang => exact wqRead_answers ..
  | wassign | setw | stage | commit | attest | setsec => exact mailbox_answers ..
  | probeAnswer =>
    exact answerHeld_answers fun t i => answers_of_eq_exec_or_next (probeAnswered_eq_exec_or_next t i)
  | fenceDrain =>
    exact answerHeld_answers fun t i => answers_of_eq_exec_or_next (drainAnswered_eq_exec_or_next t i)
  | illegalEncoding =>
    refine withCur_answers fun _ => ?_
    dsimp only
    repeat' split
    all_goals exact answers_next _
  -- each of these writes out a next state on every branch of its own
  | contextEvent | sleepWake | hostAddrPoll | watchDelivery | contextEviction | contextWriteBack | migrationArrival
  | arrivalAck | partialCommandAbandon | messageArrival | faultHandlerStart | messageHandlerStart
  | completionDelivery | stage1Walk | reclass | llcMiss | pageResponse | hostRead | hostWrite | tailraceWalk
  | frameAssign | frameRelease | frameScrubDone | rcbAdmit | rcbFinish | cycleBudgetAbort | deadlinePass
  | launchDelivery | qtailDoorbell | wqEntryPoll | wqEntryTimeout | errClear | gangReady | gangAbort
  | gangReadyDeadline | gangStart | sliceEnd | vfSwitchSweep | scratchpadScrub | scratchpadScrubEnd
  | clusterMemoryFill | clusterMemoryFillEnd | split | merge | vfNodeWrite | ctxSegmentWrite | bankMaskWrite
  | vfReset | fvClear | fmBind | mmRowAdvance | filterRun | yarrowTickEvent | yarrowBudgetWindow | triggerWrite
  | counterIncrement | linkRetrain | linkRetry | replayTimeout | replayRecordError | patrolScrub | mgmtSession
  | powerCapWrite | throttleLevelChange | thermalTrip | tickUnsynchronised | cxlPortDown | registerWrite =>
    dsimp only [execContextEvent, execSleepWake, execHostAddrPoll, execWatchDelivery, execContextEviction,
      execContextWriteBack, execMigrationArrival, execArrivalAck, execPartialCommandAbandon, execMessageArrival,
      execFaultHandlerStart, execMessageHandlerStart, execCompletionDelivery, execStage1Walk, execReclass,
      execLlcMiss, execPageResponse, execHostRead, execHostWrite, execTailraceWalk, execFrameAssign,
      execFrameRelease, execFrameScrubDone, execRcbAdmit, execRcbFinish, execCycleBudgetAbort, execDeadlinePass,
      execLaunchDelivery, execQtailDoorbell, execWqEntryPoll, execWqEntryTimeout, execErrClear, execGangReady,
      execGangAbort, execGangReadyDeadline, execGangStart, execSliceEnd, execVfSwitchSweep, execScratchpadScrub,
      execScratchpadScrubEnd, execClusterMemoryFill, execClusterMemoryFillEnd, execSplit, execMerge,
      execVfNodeWrite, execCtxSegmentWrite, execBankMaskWrite, execVfReset, execFvClear, execFmBind,
      execMmRowAdvance, execFilterRun, execYarrowTickEvent, execYarrowBudgetWindow, execTriggerWrite,
      execCounterIncrement, execLinkRetrain, execLinkRetry, execReplayTimeout, execReplayRecordError,
      execPatrolScrub, execMgmtSession, execPowerCapWrite, execThrottleLevelChange, execThermalTrip,
      execTickUnsynchronised, execCxlPortDown, execRegisterWrite]
    repeat' split
    all_goals exact answers_next _
  | _ => exact absurd h (Option.some_ne_none _)

theorem exec_answers (i : Instr) (s : State) : Answers (exec i s) := by
  cases h : i.use with
  | none => exact exec_answers_of_unencoded i s h
  | some u => exact exec_answers_of_encoded i s (by simp [h])

/-! ## The machine's own moves -/

/-- Every move of the list answers, in every state. -/
def AllAnswer (ms : List Move) : Prop := ∀ m ∈ ms, ∀ s, Answers (m s)

theorem allAnswer_nil : AllAnswer [] := List.forall_mem_nil _

theorem allAnswer_cons {m : Move} {ms : List Move} (hm : ∀ s, Answers (m s)) (hms : AllAnswer ms) :
    AllAnswer (m :: ms) :=
  List.forall_mem_cons.2 ⟨hm, hms⟩

/-- A list of operations, each in its meaning's own name. -/
theorem allAnswer_execs (is : List Instr) : AllAnswer (is.map exec) :=
  List.forall_mem_map.2 fun i _ => exec_answers i

theorem allAnswer_append {ms ns : List Move} (hm : AllAnswer ms) (hn : AllAnswer ns) : AllAnswer (ms ++ ns) :=
  List.forall_mem_append.2 ⟨hm, hn⟩

theorem allAnswer_map {α : Type} {l : List α} {f : α → Move} (hf : ∀ a s, Answers (f a s)) : AllAnswer (l.map f) :=
  List.forall_mem_map.2 fun a _ => hf a

theorem allAnswer_flatMap {α : Type} {l : List α} {f : α → List Move} (hf : ∀ a, AllAnswer (f a)) :
    AllAnswer (l.flatMap f) := by
  intro m hm
  obtain ⟨a, -, ha⟩ := List.mem_flatMap.1 hm
  exact hf a m ha

theorem allAnswer_filterMap {α : Type} {l : List α} {f : α → Option Move}
    (hf : ∀ a m, f a = some m → ∀ s, Answers (m s)) :
    AllAnswer (l.filterMap f) := by
  intro m hm
  obtain ⟨a, -, ha⟩ := List.mem_filterMap.1 hm
  exact hf a m ha

theorem firstMove_answers {s : State} {ms : List Move} {o : Out} (h : AllAnswer ms) (ho : firstMove s ms = some o) :
    Answers o := by
  induction ms with
  | nil => cases ho
  | cons m ms ih =>
    obtain ⟨hm, hms⟩ := List.forall_mem_cons.1 h
    obtain ⟨t, ht⟩ := hm s
    rw [firstMove, ht] at ho
    dsimp only at ho
    split at ho
    · exact ih hms ho
    · cases ho
      exact answers_next t

theorem placeMove_answers (s : State) : Answers (placeMove s) := by
  unfold placeMove
  split <;> exact answers_next _

theorem strayMove_answers (s : State) : Answers (strayMove s) := by
  unfold strayMove
  split <;> exact answers_next _

theorem lineWriteBack_answers (cl : Nat) (s : State) : Answers (lineWriteBack cl s) := by
  unfold lineWriteBack
  dsimp only
  split <;> exact answers_next _

theorem noteHeldSends_answers (cl : Nat) (s : State) : Answers (noteHeldSends cl s) := by
  unfold noteHeldSends
  dsimp only
  split <;> exact answers_next _

theorem contextMoves_answer (s : State) : AllAnswer s.contextMoves := by
  unfold State.contextMoves
  repeat' apply allAnswer_append
  · exact allAnswer_map fun k => exec_answers (.contextEvent k)
  · exact allAnswer_map fun k => exec_answers (.fillResponse k)
  · exact allAnswer_flatMap fun e => allAnswer_map fun k => exec_answers (.storeQueuePerform e.1 k)
  · refine allAnswer_flatMap fun e => allAnswer_flatMap fun x => allAnswer_append ?_ ?_
    · exact allAnswer_execs [.probeAnswer e.1 x.1, .fenceDrain e.1 x.1, .watchDelivery e.1 x.1]
    · split
      · exact allAnswer_cons (fun _ => answers_next _) allAnswer_nil
      · exact allAnswer_nil
  · exact allAnswer_flatMap fun e => allAnswer_map fun k => exec_answers (.stage1Walk e.1 k)
  · exact allAnswer_cons (exec_answers (.reclass 0)) (allAnswer_cons placeMove_answers
      (allAnswer_cons strayMove_answers allAnswer_nil))
  · exact allAnswer_map fun k => exec_answers (.tailraceWalk k)
  · exact allAnswer_flatMap fun cl => allAnswer_map fun k => exec_answers (.sleepWake cl k)
  · refine allAnswer_filterMap fun w m hm => ?_
    split at hm
    · cases hm
      exact exec_answers (.hostAddrPoll _ _)
    · cases hm

theorem lineMoves_answer (s : State) : AllAnswer s.lineMoves := by
  refine allAnswer_append (allAnswer_append (allAnswer_flatMap fun e => ?_) ?_) (allAnswer_flatMap fun e => ?_)
  · repeat' apply allAnswer_append
    · exact allAnswer_map fun x => exec_answers (.contextEviction e.1 x.1)
    · exact allAnswer_map fun k => exec_answers (.messageArrival e.1 k)
    · exact allAnswer_execs [.faultHandlerStart e.1, .messageHandlerStart e.1, .contextPull e.1]
    · exact allAnswer_map fun q => exec_answers (.contextFetch q.1 q.2.1)
    · exact allAnswer_flatMap fun b => allAnswer_map fun x => exec_answers (.partialCommandAbandon e.1 x.1 b.1)
    · exact allAnswer_execs [.vfSwitchSweep e.1, .scratchpadScrub e.1, .scratchpadScrubEnd e.1]
  · exact allAnswer_flatMap fun k => allAnswer_execs [.migrationArrival k, .arrivalToContextL2 k]
  · refine allAnswer_append ?_ (allAnswer_flatMap fun r => ?_)
    · exact allAnswer_cons (lineWriteBack_answers e.1) (allAnswer_execs [.clusterMemoryFill e.1,
        .clusterMemoryFillEnd e.1])
    · exact allAnswer_execs [.arrivalAck e.1 r.seq, .replayTimeout e.1 r.seq]

theorem engineMoves_answer (s : State) : AllAnswer s.engineMoves := by
  refine allAnswer_append (allAnswer_append (allAnswer_append (allAnswer_flatMap fun e => ?_) ?_)
    (allAnswer_flatMap fun e => ?_)) ?_
  · refine allAnswer_append (allAnswer_append ?_ (allAnswer_flatMap fun src => ?_)) ?_
    · exact allAnswer_map fun k => exec_answers (.mmRowAdvance e.1 k)
    · exact allAnswer_execs [.mmFmt e.1 src, .mmMul e.1 src]
    · exact allAnswer_execs [.slGather e.1, .slScatter e.1, .slScatadd e.1, .flCopy e.1, .flFill e.1, .boTopk e.1,
        .boMerge e.1]
  · exact allAnswer_map fun k => exec_answers (.completionDelivery k)
  · refine allAnswer_append (allAnswer_append ?_ ?_) ?_
    · exact allAnswer_execs [.qnBag e.1, .ywLoad e.1, .ywAttach e.1, .ywDetach e.1, .ywDump e.1, .triggerWrite e.1,
        .yarrowBudgetWindow e.1]
    · exact allAnswer_map fun k => exec_answers (.filterRun e.1 k)
    · exact allAnswer_map fun f => exec_answers (.yarrowTickEvent e.1 (f.1 / 8) (f.1 % 8))
  · exact allAnswer_map fun k => exec_answers (.counterIncrement k)

theorem headraceMoves_answer (s : State) : AllAnswer s.headraceMoves := by
  unfold State.headraceMoves
  repeat' apply allAnswer_append
  · exact allAnswer_map fun e => exec_answers (.rcbAdmit e.vf e.child)
  · exact allAnswer_flatMap fun r => allAnswer_execs [.rcbAdmit r.vf r.addr, .rcbFinish r.vf r.addr,
      .cycleBudgetAbort r.vf r.addr, .deadlinePass r.vf r.addr, .launchDelivery r.vf r.addr]
  · exact allAnswer_map fun r => exec_answers (.cycleBudgetAbort r.vf r.addr)
  · exact allAnswer_flatMap fun e => allAnswer_flatMap fun q =>
      allAnswer_execs [.wqEntryTimeout e.1 q.1, .wqEntryPoll e.1 q.1, .wqLaunch e.1 q.1, .wqGang e.1 q.1]
  · exact allAnswer_flatMap fun g => allAnswer_execs [.gangReady g.id s.platform.device, .gangReadyDeadline g.id,
      .gangStart g.id]
  · exact allAnswer_map fun e => exec_answers (.sliceEnd e.1)

theorem platformMoves_answer (s : State) : AllAnswer s.platformMoves := by
  refine allAnswer_append (allAnswer_append ?_ ?_) ?_
  · exact allAnswer_map fun e => exec_answers (.frameScrubDone e.1)
  · exact allAnswer_execs [.wassign, .setw, .stage [], .commit, .attest, .setsec]
  · exact allAnswer_map fun e => noteHeldSends_answers e.1

theorem dueMove_answers {s : State} {o : Out} (h : s.dueMove = some o) : Answers o :=
  firstMove_answers (allAnswer_append (allAnswer_append (allAnswer_append (allAnswer_append
    (contextMoves_answer s) (lineMoves_answer s)) (engineMoves_answer s)) (headraceMoves_answer s))
    (platformMoves_answer s)) h

/-! ## A core's issue slot -/

theorem issueInstr_answers {s : State} {c w : Nat} {sl : Slot} {i : Instr} {o : Out}
    (h : issueInstr s c w sl i = some o) : Answers o := by
  obtain ⟨t, ht⟩ := exec_answers i (s.prepare c w sl)
  simp only [issueInstr, ht] at h
  split at h
  · cases h
  · cases h
    exact answers_next _

theorem runContext_answers {s : State} {c w : Nat} {b : Bool} {o : Out} (h : runContext s c w = some (b, o)) :
    Answers o := by
  unfold runContext at h
  dsimp only at h
  split at h
  · cases h
  split at h
  · cases h
  split at h
  · cases h
    exact answers_next _
  split at h
  · cases h
    exact segsStage2_answers ..
  split at h
  · obtain ⟨o', ho', heq⟩ := Option.map_eq_some_iff.1 h
    cases heq
    exact issueInstr_answers ho'
  · cases h
    exact exec_answers (.illegalEncoding _) _
  · cases h
    exact fetchMiss_answers ..
  · cases h
    exact fetchStage2_answers ..

theorem takeTurn_answers {s : State} {c w : Nat} {o : Out} (h : takeTurn s c w = some o) : Answers o := by
  unfold takeTurn at h
  split at h
  · cases h
    exact answers_next _
  split at h
  · cases h
  · cases h
    exact answers_next _
  next hrun =>
    cases h
    exact runContext_answers hrun

theorem coreSlot_answers {s : State} {c w : Nat} {o : Out} (h : coreSlot s c = some (w, o)) : Answers o := by
  obtain ⟨w', -, hw⟩ := List.exists_of_findSome?_eq_some h
  obtain ⟨o', ho', heq⟩ := Option.map_eq_some_iff.1 hw
  cases heq
  exact takeTurn_answers ho'

theorem coreTurn_answers (s : State) (c : Nat) : Answers (coreTurn s c) := by
  unfold coreTurn
  split
  next h => exact coreSlot_answers h
  next => exact answers_next _

theorem issueTurn_answers (s : State) (c w : Nat) : Answers (issueTurn s c w) := by
  unfold issueTurn
  split
  · exact answers_next _
  split
  next h =>
    split
    · exact coreSlot_answers h
    · exact answers_next _
  next => exact answers_next _

/-! ## A step -/

theorem endCycle_answers (s : State) : Answers (endCycle s) := by
  unfold endCycle
  dsimp only
  split
  · exact exec_answers .globalTick _
  · exact answers_next _

theorem ownTurn_dark {s : State} (h : s.dark) : ownTurn s = .fault .noPower := by
  rw [State.dark] at h
  rw [ownTurn, h]

theorem ownTurn_answers {s : State} (h : ¬ s.dark) : Answers (ownTurn s) := by
  unfold ownTurn
  split
  next hoff => exact absurd hoff h
  next => exact answers_next s
  next =>
    split
    next hdue => exact dueMove_answers hdue
    next =>
      split
      · exact coreTurn_answers ..
      · exact endCycle_answers s

/-- A step answers a next state or finds the agenda empty and the power off. -/
theorem step_answers {s : State} (h : ¬ (s.agenda = [] ∧ s.dark)) : Answers (step s) := by
  unfold step
  split
  · split
    · exact exec_answers ..
    · exact answers_next _
  · exact issueTurn_answers ..
  · exact answers_next _
  next hempty => exact ownTurn_answers fun hdark => h ⟨hempty, hdark⟩

theorem stops_iff_not_answers (s : State) : Stops s ↔ ¬ Answers (step s) := not_exists.symm

theorem stops_iff (s : State) : Stops s ↔ s.agenda = [] ∧ s.dark := by
  rw [stops_iff_not_answers]
  constructor
  · exact fun h => by_contra fun hn => h (step_answers hn)
  · rintro ⟨hempty, hdark⟩ ⟨t, ht⟩
    rw [step, hempty, ownTurn_dark hdark] at ht
    cases ht

/-- Settles O59: every meaning ends in a next state on each of its branches, and so does every move that the machine makes
on its own; `ownTurn` of a module without power is the one place that answers a fault. -/
theorem onlyAModuleWithoutPowerStops : Obligations.OnlyAModuleWithoutPowerStops :=
  ⟨exec_answers, stops_iff⟩

end Sys2Proof.Machine

/-! # O3: the float forms write their rows' results

Every page-1 form that writes a register is a `lineOp` whose function of the line is `Line.putFloat` of its row's
result (`exec_floatForm`), and such an operation completes with nothing but that register and the flags changed (R113,
R114). The rows of R118 and R119 that name bits arithmetically agree with the meanings' bit operations on every pattern
that fits the format. -/

namespace Sys2Proof.Machine
open Sys2Proof.Claims

/-! ## The sources of a page-1 form (R113) -/

theorem fmtOf_width (f : BitVec 2) : (fmtOf f).width = fmtWidth f := by
  revert f; decide

theorem fbits_fmtOf (f : BitVec 2) (w : Word) : fbits (fmtOf f) w = srcBits f w := by
  rw [fbits, fmtOf_width, fmtWidth, srcBits]
  split <;> rfl

theorem srcBits_lt (f : BitVec 2) (w : Word) : srcBits f w < 2 ^ fmtWidth f := by
  rw [← fbits_fmtOf, fbits, fmtOf_width]
  exact Nat.mod_lt _ (by positivity)

/-! ## What a page-1 form does with the line (R114) -/

/-- A line operation that leaves a float result completes with that result, its flags, and nothing else. -/
theorem lineOp_putFloat {s : State} {sl : Slot} {p : Pre} (hr : Ready s sl p) (i : Instr) (lat : Nat) {f : Line → Line}
    {d : BitVec 3} {r : Rounded} (hf : f sl.line = sl.line.putFloat d r) :
    lineOp s i p lat f = .next (after s sl i
      { sl.line.setReg d (BitVec.ofNat 64 r.1) with fcsr := sl.line.fcsr ||| r.2 } lat) := by
  have hstep : (f sl.line).step = false := by rw [hf]; exact hr.free
  rw [lineOp_next s sl i p lat f hr.here hr.guard hstep, hf]
  rfl

theorem funary_eq_lineOp (s : State) (i : Instr) (p : Pre) (f : BitVec 2) (d a : BitVec 3) (lat : Nat)
    (op : (rm : Nat) → (fz : Bool) → (bits : Nat) → Rounded) :
    funary s i p (fmtOf f) d a lat op
      = lineOp s i p lat fun l => l.putFloat d (op l.rm.toNat l.fz (srcBits f (l.reg a))) := by
  simp only [funary, fbits_fmtOf, Line.rmode]

theorem fbinary_eq_lineOp (s : State) (i : Instr) (p : Pre) (f : BitVec 2) (d a b : BitVec 3) (lat : Nat)
    (op : (rm : Nat) → (fz : Bool) → FVal → FVal → Rounded) :
    fbinary s i p (fmtOf f) d a b lat op
      = lineOp s i p lat fun l => l.putFloat d (op l.rm.toNat l.fz (srcVal f l a) (srcVal f l b)) := by
  simp only [fbinary, fbits_fmtOf, Line.rmode, srcVal]

theorem execFma_eq_lineOp (s : State) (p : Pre) (f : BitVec 2) (d a b : BitVec 3) :
    execFma p f d a b s = lineOp s (.fma p f d a b) p latF fun l =>
      l.putFloat d ((fmtOf f).fmaOp l.rm.toNat l.fz (srcVal f l a) (srcVal f l b) (srcVal f l d)) := by
  simp only [execFma, fbits_fmtOf, Line.rmode, srcVal]

theorem execFcvt_eq_lineOp (s : State) (p : Pre) (src : BitVec 4) (d a : BitVec 3) (dst : BitVec 4) :
    execFcvt p src d a dst s = lineOp s (.fcvt p src d a dst) p latF fun l =>
      let r := convert (tagFmt src) (tagFmt dst) l.rm.toNat l.fz (fcvtScale p) (l.reg a).toNat
      l.putFloat d (r.1.toNat, r.2) := by
  simp only [execFcvt, Line.rmode, Line.putFloat, BitVec.ofNat_toNat, BitVec.setWidth_eq]

/-! ## The rows that name bits (R118, R119) -/

/-- Adding the sign bit modulo the width flips it. -/
theorem fneg_bits (f : BitVec 2) {x : Nat} (hx : x < 2 ^ fmtWidth f) :
    (x + 2 ^ ((fmtOf f).width - 1)) % 2 ^ (fmtOf f).width
      = if x < 2 ^ (fmtWidth f - 1) then x + 2 ^ (fmtWidth f - 1) else x - 2 ^ (fmtWidth f - 1) := by
  have hw : 2 ^ fmtWidth f = 2 * 2 ^ (fmtWidth f - 1) := by
    rw [← pow_succ', Nat.sub_add_cancel (by rw [fmtWidth]; split <;> decide)]
  rw [fmtOf_width]
  split
  next hlow => exact Nat.mod_eq_of_lt (by omega)
  next hhigh => rw [Nat.mod_eq_sub_mod (by omega), Nat.mod_eq_of_lt (by omega)]; omega

/-- The masks of R119 are one-hot: each is the power of its class bit. -/
theorem two_pow_classBit (neg top expZero fracZero quiet : Bool) : 2 ^ classBit neg top expZero fracZero quiet =
    if top then if fracZero then (if neg then 1 else 128) else if quiet then 512 else 256
    else if expZero then if fracZero then (if neg then 8 else 16) else if neg then 4 else 32
    else if neg then 2 else 64 := by
  revert neg top expZero fracZero quiet; decide

/-- On a bit pattern the model's mask is that of its class (R119). -/
theorem classMask_eq_two_pow (f : BitVec 2) (x : Nat) : (fmtOf f).classMask x = 2 ^ classOf f x := by
  rw [classOf, two_pow_classBit, Ieee.classMask]
  simp only [decide_eq_true_eq, ← Nat.not_lt, ite_not]

/-! ## All forms -/

/-- Each page-1 form that writes a register does so with the result of its row, and touches only the line. -/
theorem exec_floatForm {i : Instr} {l : Line} {p : Pre} {d : BitVec 3} {r : Nat × BitVec 16} {lat : Nat}
    (h : floatForm i l = some (p, d, r, lat)) (s : State) :
    ∃ f : Line → Line, exec i s = lineOp s i p lat f ∧ f l = l.putFloat d r := by
  unfold floatForm at h
  split at h <;> cases h
  next => exact ⟨_, (exec_fadd ..).trans (fbinary_eq_lineOp ..), rfl⟩
  next => exact ⟨_, (exec_fsub ..).trans (fbinary_eq_lineOp ..), rfl⟩
  next => exact ⟨_, (exec_fmul ..).trans (fbinary_eq_lineOp ..), rfl⟩
  next => exact ⟨_, (exec_fma ..).trans (execFma_eq_lineOp ..), rfl⟩
  next => exact ⟨_, (exec_fdiv ..).trans (fbinary_eq_lineOp ..), rfl⟩
  next => exact ⟨_, (exec_fmin ..).trans (fbinary_eq_lineOp ..), rfl⟩
  next => exact ⟨_, (exec_fmax ..).trans (fbinary_eq_lineOp ..), rfl⟩
  next => exact ⟨_, (exec_fsqrt ..).trans (funary_eq_lineOp ..), rfl⟩
  next => exact ⟨_, (exec_exp2 ..).trans (funary_eq_lineOp ..), rfl⟩
  next => exact ⟨_, (exec_log2 ..).trans (funary_eq_lineOp ..), rfl⟩
  next => exact ⟨_, (exec_rcp ..).trans (funary_eq_lineOp ..), rfl⟩
  next => exact ⟨_, (exec_rsqrt ..).trans (funary_eq_lineOp ..), rfl⟩
  next => exact ⟨_, (exec_fabs ..).trans (funary_eq_lineOp ..), by rw [fmtOf_width]⟩
  next => exact ⟨_, (exec_fneg ..).trans (funary_eq_lineOp ..), by rw [fneg_bits _ (srcBits_lt ..)]⟩
  next => exact ⟨_, (exec_fclass ..).trans (funary_eq_lineOp ..), by rw [classMask_eq_two_pow]⟩
  next => exact ⟨_, (exec_fcvt ..).trans (execFcvt_eq_lineOp ..), rfl⟩

/-- Settles O3: a float form is a line operation that puts its row's result and flags, and such an operation
completes. -/
theorem floatFormsWriteTheirResult : Obligations.FloatFormsWriteTheirResult := by
  intro i p d r lat s sl hform hready
  obtain ⟨f, hexec, hf⟩ := exec_floatForm hform s
  rw [hexec, lineOp_putFloat hready i lat hf]

end Sys2Proof.Machine

/-! # O5: rounding follows the mode

`quantise` cuts a magnitude into whole units and a rest, and codes how the rest compares with half a unit
(`quantise_cuts`); each mode's bounds then follow from the four codes, over any unit (R41). A magnitude of 2^(bias + 1)
or more passes the overflow test whatever its rounding does (R40), and a NaN operand makes the exact result a quiet NaN,
whose delivery is the canonical one (R38, R116). -/

namespace Sys2Proof.Machine

/-! ## The five modes (R41) -/

/-- The whole units that are delivered for `q` units and a rest with code `c`. -/
def roundedUnits (rm : Nat) (neg : Bool) (q c : Nat) : Nat := q + if roundsUp rm neg q c then 1 else 0

theorem roundsUp_even (neg : Bool) (q c : Nat) :
    roundsUp 0 neg q c = (decide (c = 3) || (decide (c = 2) && decide (q % 2 = 1))) := by
  cases c <;> rfl

theorem roundsUp_zero (neg : Bool) (q c : Nat) : roundsUp 1 neg q c = false := by
  cases c <;> rfl

theorem roundsUp_down (neg : Bool) (q c : Nat) : roundsUp 2 neg q c = (neg && decide (c ≠ 0)) := by
  cases c <;> simp [roundsUp]

theorem roundsUp_up (neg : Bool) (q c : Nat) : roundsUp 3 neg q c = (!neg && decide (c ≠ 0)) := by
  cases c <;> simp [roundsUp]

theorem roundsUp_away (neg : Bool) (q c : Nat) : roundsUp 4 neg q c = decide (2 ≤ c) := by
  cases c <;> rfl

/-- The codes by which `quantise` compares a rest with half a unit. -/
inductive RestCode (half rest : Nat) : Nat → Prop where
  | exact (h : rest = 0) : RestCode half rest 0
  | below (h0 : 0 < rest) (h : rest < half) : RestCode half rest 1
  | tie (h : rest = half) : RestCode half rest 2
  | above (h : half < rest) : RestCode half rest 3

/-- A magnitude `m` as `q` units and a rest below one unit, with the code `c` of the rest. -/
structure Cut (m unit q c half rest : Nat) : Prop where
  unit_eq : unit = 2 * half
  mag_eq : m = q * unit + rest
  rest_lt : rest < unit
  code : RestCode half rest c

/-- For a unit above the magnitude's own exponent, the cut is Euclidean division. -/
theorem quantise_cuts (m k : Nat) (e : Int) (hk : 0 < k) :
    Cut m (2 ^ k) (quantise m e (e + k) false).1 (quantise m e (e + k) false).2 (2 ^ (k - 1)) (m % 2 ^ k) := by
  have hunit : 2 ^ k = 2 * 2 ^ (k - 1) := by rw [← pow_succ', Nat.sub_add_cancel hk]
  have hq : quantise m e (e + k) false = (m / 2 ^ k,
      if m % 2 ^ k = 0 then 0 else if m % 2 ^ k < 2 ^ (k - 1) then 1
      else if m % 2 ^ k = 2 ^ (k - 1) then 2 else 3) := by
    simp [quantise, hk.ne']
  rw [hq]
  refine ⟨hunit, (Nat.div_add_mod' ..).symm, Nat.mod_lt _ (by positivity), ?_⟩
  dsimp only
  split_ifs with h0 h1 h2
  · exact .exact h0
  · exact .below (Nat.pos_of_ne_zero h0) h1
  · exact .tie h2
  · exact .above (by omega)

/-- Rounding towards zero. -/
def IsFloor (m unit x : Nat) : Prop := x ≤ m ∧ m < x + unit

/-- Rounding away from zero. -/
def IsCeil (m unit x : Nat) : Prop := m ≤ x ∧ x < m + unit

/-- Rounding to the nearest unit, of two the even one. -/
def IsNearestEven (m unit x : Nat) : Prop :=
  2 * x ≤ 2 * m + unit ∧ 2 * m ≤ 2 * x + unit ∧
    (2 * x = 2 * m + unit ∨ 2 * m = 2 * x + unit → x / unit % 2 = 0)

/-- Rounding to the nearest unit, of two the one further from zero. -/
def IsNearestAway (m unit x : Nat) : Prop := 2 * x ≤ 2 * m + unit ∧ 2 * m < 2 * x + unit

section
variable {m unit q c half rest : Nat}

theorem Cut.unit_pos (h : Cut m unit q c half rest) : 0 < unit := Nat.zero_lt_of_lt h.rest_lt

/-- Whole units alone are the magnitude rounded towards zero. -/
theorem Cut.isFloor (h : Cut m unit q c half rest) : IsFloor m unit (q * unit) := by
  obtain ⟨-, hm, hrest, -⟩ := h
  constructor <;> omega

/-- One more unit whenever a rest is left is the magnitude rounded away from zero. -/
theorem Cut.isCeil (h : Cut m unit q c half rest) :
    IsCeil m unit ((q + if c ≠ 0 then 1 else 0) * unit) := by
  obtain ⟨hhalf, hm, hrest, hcode⟩ := h
  cases hcode <;> simp [IsCeil, Nat.add_mul] <;> omega

theorem Cut.isNearestEven (h : Cut m unit q c half rest) (neg : Bool) :
    IsNearestEven m unit (roundedUnits 0 neg q c * unit) := by
  have hunit := h.unit_pos
  obtain ⟨hhalf, hm, hrest, hcode⟩ := h
  rw [IsNearestEven, Nat.mul_div_cancel _ hunit, roundedUnits, roundsUp_even]
  cases hcode with
  | exact h0 | below h0 hb => simp; omega
  | above ha => simp [Nat.add_mul]; omega
  | tie ht => rcases Nat.mod_two_eq_zero_or_one q with hq | hq <;> simp [hq, Nat.add_mul] <;> omega

theorem Cut.isNearestAway (h : Cut m unit q c half rest) (neg : Bool) :
    IsNearestAway m unit (roundedUnits 4 neg q c * unit) := by
  obtain ⟨hhalf, hm, hrest, hcode⟩ := h
  rw [IsNearestAway, roundedUnits, roundsUp_away]
  cases hcode <;> simp [Nat.add_mul] <;> omega

end

theorem roundedUnits_zero (neg : Bool) (q c : Nat) : roundedUnits 1 neg q c = q := by
  rw [roundedUnits, roundsUp_zero]; rfl

theorem roundedUnits_down (neg : Bool) (q c : Nat) :
    roundedUnits 2 neg q c = if neg then q + (if c ≠ 0 then 1 else 0) else q := by
  cases neg <;> simp [roundedUnits, roundsUp_down]

theorem roundedUnits_up (neg : Bool) (q c : Nat) :
    roundedUnits 3 neg q c = if neg then q else q + (if c ≠ 0 then 1 else 0) := by
  cases neg <;> simp [roundedUnits, roundsUp_up]

/-! ## Overflow (R40) -/

/-- A rounding that carries only raises the exponent, so a magnitude of 2^(bias + 1) or more overflows in every mode. -/
theorem Ieee.roundNum_overflow (f : Ieee) (rm : Nat) (fz neg : Bool) (m : Nat) (e : Int) (sticky : Bool)
    (h : (f.bias : Int) + 1 ≤ (Nat.log2 m : Int) + e) :
    f.roundNum rm fz neg m e sticky =
      (if rm = 0 || 4 ≤ rm || (rm = 2 && neg) || (rm = 3 && !neg) then f.infBits neg else f.maxBits neg,
        flagOF ||| flagNX) := by
  unfold Ieee.roundNum
  dsimp only
  exact if_pos (by split_ifs <;> omega)

/-! ## NaN operands (R38, R116) -/

theorem FVal.isNaN_iff (x : FVal) : x.isNaN = true ↔ ∃ s, x = .nan s := by
  cases x <;> simp [FVal.isNaN]

@[simp] theorem FVal.isNaN_neg (x : FVal) : x.neg.isNaN = x.isNaN := by cases x <;> rfl
@[simp] theorem FVal.signals_neg (x : FVal) : x.neg.signals = x.signals := by cases x <;> rfl

/-- An exact sum with a NaN is a quiet one, and invalid where an operand signals. -/
theorem FVal.add_of_nan (rm : Nat) {x y : FVal} (h : x.isNaN = true ∨ y.isNaN = true) :
    FVal.add rm x y = (.nan false, flagIf (x.signals || y.signals) flagNV) := by
  simp only [FVal.isNaN_iff] at h
  obtain ⟨s, rfl⟩ | ⟨s, rfl⟩ := h
  · rfl
  · cases x <;> rfl

theorem FVal.mul_of_nan {x y : FVal} (h : x.isNaN = true ∨ y.isNaN = true) :
    FVal.mul x y = (.nan false, flagIf (x.signals || y.signals) flagNV) := by
  simp only [FVal.isNaN_iff] at h
  obtain ⟨s, rfl⟩ | ⟨s, rfl⟩ := h
  · rfl
  · cases x <;> rfl

theorem Ieee.div_of_nan (f : Ieee) (rm : Nat) (fz : Bool) {x y : FVal} (h : x.isNaN = true ∨ y.isNaN = true) :
    f.div rm fz x y = (f.canonNaN, flagIf (x.signals || y.signals) flagNV) := by
  simp only [FVal.isNaN_iff] at h
  obtain ⟨s, rfl⟩ | ⟨s, rfl⟩ := h
  · rfl
  · cases x <;> rfl

/-- An exact product is never a signalling NaN. -/
theorem FVal.mul_quiet (x y : FVal) : (FVal.mul x y).1.signals = false := by
  unfold FVal.mul
  split <;> rfl

theorem flagIf_eq_zero_or (b : Bool) (fl : BitVec 16) : flagIf b fl = 0 ∨ flagIf b fl = fl := by
  cases b
  · exact .inl rfl
  · exact .inr rfl

/-- An exact product raises NV or nothing. -/
theorem FVal.mul_flags (x y : FVal) : (FVal.mul x y).2 = 0 ∨ (FVal.mul x y).2 = flagNV := by
  unfold FVal.mul
  split
  case h_1 | h_2 => exact flagIf_eq_zero_or ..
  case h_4 | h_5 => exact .inr rfl
  all_goals exact .inl rfl

theorem Ieee.finish_nan (f : Ieee) (rm : Nat) (fz s : Bool) (fl : BitVec 16) :
    f.finish rm fz (.nan s, fl) = (f.canonNaN, fl) := by
  simp [Ieee.finish, Ieee.deliver]

theorem Ieee.addOp_of_nan (f : Ieee) (rm : Nat) (fz : Bool) {x y : FVal} (h : x.isNaN = true ∨ y.isNaN = true) :
    f.addOp rm fz x y = (f.canonNaN, flagIf (x.signals || y.signals) flagNV) := by
  rw [Ieee.addOp, FVal.add_of_nan rm h, Ieee.finish_nan]

theorem Ieee.subOp_of_nan (f : Ieee) (rm : Nat) (fz : Bool) {x y : FVal} (h : x.isNaN = true ∨ y.isNaN = true) :
    f.subOp rm fz x y = (f.canonNaN, flagIf (x.signals || y.signals) flagNV) := by
  rw [Ieee.subOp, FVal.add_of_nan rm (by rwa [FVal.isNaN_neg]), Ieee.finish_nan, FVal.signals_neg]

theorem Ieee.mulOp_of_nan (f : Ieee) (rm : Nat) (fz : Bool) {x y : FVal} (h : x.isNaN = true ∨ y.isNaN = true) :
    f.mulOp rm fz x y = (f.canonNaN, flagIf (x.signals || y.signals) flagNV) := by
  rw [Ieee.mulOp, FVal.mul_of_nan h, Ieee.finish_nan]

theorem f32_decode_canonNaN (fz : Bool) : f32.decode fz f32.canonNaN = .nan false := by
  revert fz; decide

/-- A narrower format divides in f32, whose canonical NaN it reads as a quiet one and delivers as its own (R59). -/
theorem Ieee.divOp_of_nan (f : Ieee) (rm : Nat) (fz : Bool) {x y : FVal} (h : x.isNaN = true ∨ y.isNaN = true) :
    f.divOp rm fz x y = (f.canonNaN, flagIf (x.signals || y.signals) flagNV) := by
  unfold Ieee.divOp
  split
  next hf => rw [hf, Ieee.div_of_nan _ _ _ h]
  next => simp [Ieee.div_of_nan _ _ _ h, f32_decode_canonNaN, Ieee.deliver]

/-- The flags of an fma with a NaN: those of its product, and NV where the addend signals. -/
theorem Ieee.fmaOp_of_nan (f : Ieee) (rm : Nat) (fz : Bool) {x y z : FVal}
    (h : x.isNaN = true ∨ y.isNaN = true ∨ z.isNaN = true) :
    f.fmaOp rm fz x y z = (f.canonNaN, (FVal.mul x y).2 ||| flagIf z.signals flagNV) := by
  have hsum : (FVal.mul x y).1.isNaN = true ∨ z.isNaN = true := by
    rw [← or_assoc] at h
    exact h.imp_left fun hxy => by rw [FVal.mul_of_nan hxy]; rfl
  rw [Ieee.fmaOp, FVal.add_of_nan rm hsum, Ieee.finish_nan, FVal.mul_quiet, Bool.false_or]

theorem FVal.isNaN_of_signals {x : FVal} (h : x.signals = true) : x.isNaN = true := by
  cases x with
  | nan => rfl
  | inf | zero | num => cases h

/-- A signalling operand of an fma sets NV, through the product or through the sum. -/
theorem fma_flags_of_signals {x y z : FVal} (h : x.signals = true ∨ y.signals = true ∨ z.signals = true) :
    (FVal.mul x y).2 ||| flagIf z.signals flagNV = flagNV := by
  rw [← or_assoc] at h
  obtain hxy | hz := h
  · have hor : (x.signals || y.signals) = true := Bool.or_eq_true_iff.mpr hxy
    rw [FVal.mul_of_nan (hxy.imp FVal.isNaN_of_signals FVal.isNaN_of_signals), hor]
    cases z.signals <;> rfl
  · rw [hz]
    obtain hm | hm := FVal.mul_flags x y <;> rw [hm] <;> rfl

/-- The canonical NaNs of R36's table. -/
theorem canonNaN_fmtOf {f : BitVec 2} (h : f ≠ 3) :
    (fmtOf f).canonNaN = if f = 0 then 0x7FC00000 else if f = 1 then 0x7E00 else 0x7FC0 := by
  revert f; decide

/-! ## The statement -/

/-- The five modes over one unit: modes 1 to 3 by sign, then to nearest (R41). -/
theorem Cut.modes {m unit q c half rest : Nat} (h : Cut m unit q c half rest) (neg : Bool) :
    let r (rm : Nat) : Nat := roundedUnits rm neg q c * unit
    IsFloor m unit (r 1) ∧ (r 2 = r 1 ∨ neg = true) ∧ (neg = true → IsCeil m unit (r 2)) ∧
      (r 3 = r 1 ∨ neg = false) ∧ (neg = false → IsCeil m unit (r 3)) ∧
      IsNearestEven m unit (r 0) ∧ IsNearestAway m unit (r 4) := by
  dsimp only
  rw [roundedUnits_zero, roundedUnits_down, roundedUnits_up]
  refine ⟨h.isFloor, ?_, ?_, ?_, ?_, h.isNearestEven neg, h.isNearestAway neg⟩
  · cases neg <;> simp
  · rintro rfl
    exact h.isCeil
  · cases neg <;> simp
  · rintro rfl
    exact h.isCeil

theorem deliver_overflow (f : Ieee) {rm : Nat} (fz neg : Bool) (m : Nat) (e : Int) (hrm : rm < 5)
    (h : (f.bias : Int) + 1 ≤ (Nat.log2 m : Int) + e) :
    f.deliver rm fz (.num neg m e) =
      (if rm = 0 ∨ rm = 4 ∨ (rm = 2 ∧ neg = true) ∨ (rm = 3 ∧ neg = false) then f.infBits neg
        else f.infBits neg - 1, 0x028) := by
  have h4 : 4 ≤ rm ↔ rm = 4 := by omega
  rw [Ieee.deliver, f.roundNum_overflow rm fz neg m e false h]
  simp [h4, or_assoc, Ieee.maxBits, flagOF, flagNX]

/-- Settles O5: the modes by the cut of a magnitude into units and a rest, overflow by the exponent of the unrounded
magnitude, NaN operands by the quiet NaN that every exact operation makes of them. -/
theorem roundingFollowsTheMode : Obligations.RoundingFollowsTheMode := by
  refine ⟨fun m k e neg hk => (quantise_cuts m k e hk).modes neg,
    fun f rm fz neg m e _ hrm _ hover => deliver_overflow _ fz neg m e hrm hover, fun f rm fz x y z hf => ?_⟩
  dsimp only
  rw [← canonNaN_fmtOf hf]
  refine ⟨fun hxy r hr => ?_, fun hxyz => ?_⟩
  · have hop : r = ((fmtOf f).canonNaN, flagIf (x.signals || y.signals) flagNV) := by
      simpa [Ieee.addOp_of_nan _ rm fz hxy, Ieee.subOp_of_nan _ rm fz hxy, Ieee.mulOp_of_nan _ rm fz hxy,
        Ieee.divOp_of_nan _ rm fz hxy] using hr
    rw [hop]
    exact ⟨rfl, rfl⟩
  · rw [Ieee.fmaOp_of_nan _ rm fz hxyz]
    exact ⟨rfl, fma_flags_of_signals⟩

end Sys2Proof.Machine

/-! # O1: the integer forms write their rows' results

Every form of R88 to R94 is a `lineOp`, and such an operation completes with its function of the line and nothing else
(`lineOp_after`). What is left is arithmetic: each row's word operation is the row's number modulo 2^64. -/

namespace Sys2Proof.Machine
open Sys2Proof.Claims

/-! ## Operations on the line alone (R86, R101) -/

/-- A context that is ready issues under its guard. -/
theorem guarded_ready {s : State} {sl : Slot} {p : Pre} (hr : Ready s sl p) (i : Instr) (k : Slot → Out) :
    guarded s i p k = k sl :=
  guarded_on s sl i p k hr.here hr.guard

/-- A line operation completes with the line it computes, where it leaves single-step alone. -/
theorem lineOp_after {s : State} {sl : Slot} {p : Pre} (hr : Ready s sl p) (i : Instr) (lat : Nat) {f : Line → Line}
    (hstep : (f sl.line).step = sl.line.step) : lineOp s i p lat f = .next (after s sl i (f sl.line) lat) :=
  lineOp_next s sl i p lat f hr.here hr.guard (hstep.trans hr.free)

/-- A completion from the issuing slot, with the line as the instruction leaves it. -/
theorem complete_after {s : State} {sl : Slot} {p : Pre} (hr : Ready s sl p) (t : State) (i : Instr) (lat : Nat)
    {l : Line}
    (hstep : l.step = sl.line.step) : complete t { sl with line := l } i lat = .next (after t sl i l lat) :=
  complete_next t { sl with line := l } i lat (hstep.trans hr.free)

/-! ## Words as numbers modulo 2^64 (R88 to R90) -/

theorem ofInt_toNat (x : Word) : BitVec.ofInt 64 (x.toNat : Int) = x := by simp

theorem sub_eq_ofInt (x y : Word) : x - y = BitVec.ofInt 64 ((x.toNat : Int) - y.toNat) := by
  rw [Int.sub_eq_add_neg, BitVec.ofInt_add, BitVec.ofInt_neg, ofInt_toNat, ofInt_toNat, BitVec.sub_eq_add_neg]

theorem shiftLeft_eq_ofInt (x : Word) (k : Nat) : x <<< k = BitVec.ofInt 64 ((x.toNat * 2 ^ k : Nat) : Int) := by
  apply BitVec.eq_of_toNat_eq
  rw [BitVec.ofInt_natCast, BitVec.toNat_ofNat, BitVec.toNat_shiftLeft, Nat.shiftLeft_eq]

theorem ushiftRight_eq_ofInt (x : Word) (k : Nat) : x >>> k = BitVec.ofInt 64 ((x.toNat / 2 ^ k : Nat) : Int) := by
  rw [BitVec.ofInt_natCast, ← Nat.shiftRight_eq_div_pow, ← BitVec.toNat_ushiftRight, BitVec.ofNat_toNat,
    BitVec.setWidth_eq]

theorem sshiftRight_eq_ofInt (x : Word) (k : Nat) : x.sshiftRight k = BitVec.ofInt 64 (x.toInt / 2 ^ k) := by
  rw [BitVec.sshiftRight_eq, Int.shiftRight_eq_div_pow]; norm_cast

theorem and_not_eq_ofInt (x y : Word) :
    x &&& ~~~y = BitVec.ofInt 64 ((x.toNat &&& (2 ^ 64 - 1 - y.toNat) : Nat) : Int) := by
  rw [BitVec.ofInt_natCast, ← BitVec.toNat_not, ← BitVec.toNat_and, BitVec.ofNat_toNat, BitVec.setWidth_eq]

/-- The two halves of a rotation do not overlap, so OR adds them. -/
theorem rotateRight_eq_ofInt (x : Word) {k : Nat} (hk : k < 64) :
    x.rotateRight k = BitVec.ofInt 64 ((x.toNat : Int) / 2 ^ k + x.toNat * 2 ^ (64 - k)) := by
  have hlow : (x >>> k) &&& (x <<< (64 - k)) = 0#64 := by
    ext j hj
    simp only [BitVec.getElem_and, BitVec.getElem_ushiftRight, BitVec.getElem_shiftLeft, BitVec.getElem_zero]
    by_cases h : j < 64 - k
    · simp [h]
    · simp [BitVec.getLsbD_of_ge x (k + j) (by omega)]
  rw [BitVec.rotateRight_def, Nat.mod_eq_of_lt hk, ← BitVec.add_eq_or_of_and_eq_zero _ _ hlow, BitVec.ofInt_add,
    ushiftRight_eq_ofInt, shiftLeft_eq_ofInt]
  norm_cast

theorem min_eq_ofInt (x y : Word) : (if x.slt y then x else y) = BitVec.ofInt 64 (min x.toInt y.toInt) := by
  rw [BitVec.slt_eq_decide, min_def_lt, apply_ite (BitVec.ofInt 64)]
  simp

theorem max_eq_ofInt (x y : Word) : (if x.slt y then y else x) = BitVec.ofInt 64 (max x.toInt y.toInt) := by
  rw [BitVec.slt_eq_decide, max_def_lt, apply_ite (BitVec.ofInt 64)]
  simp

theorem minn_eq_ofInt (x y : Word) : (if x.ult y then x else y) = BitVec.ofInt 64 (min (x.toNat : Int) y.toNat) := by
  rw [BitVec.ult_eq_decide, min_def_lt, apply_ite (BitVec.ofInt 64)]
  simp

theorem maxn_eq_ofInt (x y : Word) : (if x.ult y then y else x) = BitVec.ofInt 64 (max (x.toNat : Int) y.toNat) := by
  rw [BitVec.ult_eq_decide, max_def_lt, apply_ite (BitVec.ofInt 64)]
  simp

/-! ## The rows of R88 -/

/-- Each form of R88 is a register operation whose word function is its row's number modulo 2^64. -/
theorem exec_intForm {i : Instr} {p : Pre} {d a b : BitVec 3} {f : Word → Word → Int} {lat : Nat}
    (h : intForm i = some (p, d, a, b, f, lat)) (s : State) :
    ∃ g : Word → Word → Word, exec i s = aluOp s i p d a b lat g ∧ ∀ x y, g x y = BitVec.ofInt 64 (f x y) := by
  unfold intForm at h
  split at h <;> cases h
  next => exact ⟨_, exec_add .., fun x y => by simp [BitVec.ofInt_add]⟩
  next => exact ⟨_, exec_sub .., sub_eq_ofInt⟩
  next => exact ⟨_, exec_and .., fun x y => by simp⟩
  next => exact ⟨_, exec_or .., fun x y => by simp⟩
  next => exact ⟨_, exec_xor .., fun x y => by simp⟩
  next => exact ⟨_, exec_shl .., fun x y => shiftLeft_eq_ofInt ..⟩
  next => exact ⟨_, exec_shr .., fun x y => ushiftRight_eq_ofInt ..⟩
  next => exact ⟨_, exec_sar .., fun x y => sshiftRight_eq_ofInt ..⟩
  next => exact ⟨_, exec_mul .., fun x y => by simp [BitVec.ofInt_mul]⟩
  next => exact ⟨_, exec_mulh .., fun x y => rfl⟩
  next => exact ⟨_, exec_mulhn .., fun x y => by norm_cast⟩
  next => exact ⟨_, exec_min .., min_eq_ofInt⟩
  next => exact ⟨_, exec_max .., max_eq_ofInt⟩
  next => exact ⟨_, exec_minn .., minn_eq_ofInt⟩
  next => exact ⟨_, exec_maxn .., maxn_eq_ofInt⟩
  next => exact ⟨_, exec_andn .., and_not_eq_ofInt⟩

/-! ## The rows of R89, R90, R92 and R93 -/

theorem shiftAmount_lt (p : Pre) (sh : BitVec 4) : shiftAmount p sh < 64 := by
  unfold shiftAmount
  omega

/-- AND with an immediate is AND with its residue modulo 2^64. -/
theorem and_ofInt (x : Word) (v : Int) :
    x &&& BitVec.ofInt 64 v = BitVec.ofInt 64 ((x.toNat &&& (v % 2 ^ 64).toNat : Nat) : Int) := by
  have hv : (v % 2 ^ 64).toNat = (BitVec.ofInt 64 v).toNat := by rw [BitVec.toNat_ofInt]; rfl
  rw [BitVec.ofInt_natCast, hv, ← BitVec.toNat_and, BitVec.ofNat_toNat, BitVec.setWidth_eq]

/-- The predicate word as R92 reads it: zero-extended, bit 0 as 1. -/
theorem rdp_eq_ofInt (w : BitVec 32) : (w ||| 1).setWidth 64 = BitVec.ofInt 64 ((w.toNat ||| 1 : Nat) : Int) := by
  rw [BitVec.ofInt_natCast, ← BitVec.ofNat_toNat, BitVec.toNat_or]
  rfl

theorem unaryOp_eq_lineOp (s : State) (i : Instr) (p : Pre) (d a : BitVec 3) (f : Word → Word) :
    unaryOp s i p d a f = lineOp s i p latA fun l => l.setReg d (f (l.reg a)) := rfl

/-- Each immediate form and move writes its row's number modulo 2^64, and touches only the line. -/
theorem exec_moveForm {i : Instr} {l : Line} {p : Pre} {d : BitVec 3} {v : Int} (h : moveForm i l = some (p, d, v))
    (s : State) : ∃ f : Line → Line, exec i s = lineOp s i p latA f ∧ f l = l.setReg d (BitVec.ofInt 64 v) := by
  unfold moveForm at h
  split at h <;> cases h
  next => exact ⟨_, (exec_addi ..).trans (unaryOp_eq_lineOp ..), by rw [BitVec.ofInt_add, ofInt_toNat]⟩
  next => exact ⟨_, exec_movi .., rfl⟩
  next => exact ⟨_, (exec_andi ..).trans (unaryOp_eq_lineOp ..), by rw [and_ofInt]⟩
  next => exact ⟨_, (exec_shli ..).trans (unaryOp_eq_lineOp ..),
    by rw [shiftLeft_eq_ofInt, Nat.cast_mul, Nat.cast_pow]; rfl⟩
  next => exact ⟨_, (exec_shri ..).trans (unaryOp_eq_lineOp ..),
    by rw [ushiftRight_eq_ofInt, Int.natCast_ediv, Nat.cast_pow]; rfl⟩
  next => exact ⟨_, (exec_sari ..).trans (unaryOp_eq_lineOp ..), by rw [sshiftRight_eq_ofInt]; rfl⟩
  next => exact ⟨_, (exec_rori ..).trans (unaryOp_eq_lineOp ..),
    by rw [rotateRight_eq_ofInt _ (shiftAmount_lt ..)]; rfl⟩
  next => exact ⟨_, (exec_mov ..).trans (unaryOp_eq_lineOp ..), by rw [ofInt_toNat]⟩
  next => exact ⟨_, exec_rdp .., by rw [rdp_eq_ofInt]⟩

/-! ## sel (R94) -/

/-- sel is never guarded off: its guard picks the source. -/
theorem execSel_next {s : State} {sl : Slot} (p : Pre) (d a b : BitVec 3) (hcur : s.cur? = some sl)
    (hstep : sl.line.step = false) : execSel p d a b s = .next (after s sl (.sel p d a b)
      (sl.line.setReg d (if guardHolds p sl.line then sl.line.reg a else sl.line.reg b)) 8) := by
  rw [execSel, withCur_some s sl _ hcur]
  exact complete_next _ _ _ _ hstep

theorem guardHolds_guard (g : Guard) (o : Option Order) (imms : List (BitVec 10)) (l : Line) :
    guardHolds (Pre.mk (some g) o imms) l = true ↔ l.pred g.idx = decide (g.sense = 0) :=
  beq_iff_eq

/-- Settles O1: every form but sel is a line operation of its row's value, and sel completes without a guard. -/
theorem integerFormsWriteTheirResult : Obligations.IntegerFormsWriteTheirResult := by
  refine ⟨fun i p d a b f lat s sl hform hr => ?_, fun i p d v s sl hform hr => ?_, fun p a s sl hr => ?_,
    fun p s sl hr => ?_, fun o imms g d a b s sl hcur hstep => ⟨?_, ?_⟩⟩
  · obtain ⟨g, hexec, hg⟩ := exec_intForm hform s
    rw [hexec, aluOp, lineOp_after hr i lat rfl, hg]
  · obtain ⟨f, hexec, hf⟩ := exec_moveForm hform s
    rw [hexec, lineOp_after hr i latA (by rw [hf]; rfl), hf]
    rfl
  · exact (exec_wrp ..).trans (lineOp_after hr _ _ rfl)
  · exact (exec_nop ..).trans (lineOp_after hr _ _ rfl)
  · simp only [exec_sel, execSel_next _ d a b hcur hstep, guardHolds_guard]
  · exact (exec_sel ..).trans (execSel_next _ d a b hcur hstep)

end Sys2Proof.Machine

/-! # O2: packed forms work lane by lane

A register made of lanes reads back lane by lane (`laneN_ofLanes`), so a packed form is known by the list of lanes that it
computes (`packedLists_after`). What is left is each lane function's value modulo 2^w and whether it clamps
(`LaneComputes`, R110 to R112). -/

namespace Sys2Proof.Machine
open Sys2Proof.Claims

/-! ## Lanes -/

/-- The number that a list of lanes stands for. -/
def packLanes (w : Nat) (l : List Nat) : Nat := l.foldr (fun v acc => v % 2 ^ w + 2 ^ w * acc) 0

theorem packLanes_lt (w : Nat) (l : List Nat) : packLanes w l < 2 ^ (w * l.length) := by
  induction l with
  | nil => simp [packLanes]
  | cons v t ih =>
    have hv : v % 2 ^ w < 2 ^ w := Nat.mod_lt _ (by positivity)
    have hstep : packLanes w (v :: t) = v % 2 ^ w + 2 ^ w * packLanes w t := rfl
    rw [hstep, List.length_cons, Nat.mul_succ, Nat.add_comm (w * t.length), Nat.pow_add]
    nlinarith

theorem packLanes_lane (w : Nat) {l : List Nat} {k : Nat} (hk : k < l.length) :
    packLanes w l / 2 ^ (w * k) % 2 ^ w = l[k] % 2 ^ w := by
  induction l generalizing k with
  | nil => cases hk
  | cons v t ih =>
    have hstep : packLanes w (v :: t) = v % 2 ^ w + 2 ^ w * packLanes w t := rfl
    cases k with
    | zero => rw [hstep]; simp
    | succ k =>
      have hdiv : packLanes w (v :: t) / 2 ^ w = packLanes w t := by
        rw [hstep, Nat.add_mul_div_left _ _ (by positivity), Nat.div_eq_of_lt (Nat.mod_lt _ (by positivity)),
          Nat.zero_add]
      rw [Nat.mul_succ, Nat.add_comm (w * k), Nat.pow_add, ← Nat.div_div_eq_div_mul, hdiv, List.getElem_cons_succ]
      exact ih (Nat.lt_of_succ_lt_succ hk)

/-- A register made of lanes reads back lane by lane. -/
theorem laneN_ofLanes {w : Nat} {l : List Nat} (hfit : w * l.length ≤ 64) {k : Nat} (hk : k < l.length) :
    laneN w k (ofLanes w l) = l[k] % 2 ^ w := by
  have hlt : packLanes w l < 2 ^ 64 := (packLanes_lt w l).trans_le (Nat.pow_le_pow_right (by decide) hfit)
  have hval : (ofLanes w l).toNat = packLanes w l := by
    rw [ofLanes, BitVec.toNat_ofNat]; exact Nat.mod_eq_of_lt hlt
  rw [laneN, hval, packLanes_lane w hk]

theorem laneN_lt (w k : Nat) (x : Word) : laneN w k x < 2 ^ w := Nat.mod_lt _ (by positivity)

theorem lanes_eq (w : Nat) (x : Word) : lanes w x = (List.range (64 / w)).map fun k => laneN w k x := rfl

/-- A pattern of `w` bits read as signed. -/
def signedLane (w x : Nat) : Int := if x < 2 ^ (w - 1) then (x : Int) else (x : Int) - 2 ^ w

theorem laneInt_eq {w x : Nat} (hx : x < 2 ^ w) : laneInt w x = signedLane w x := by
  simp only [laneInt, IntFmt.decode, Nat.mod_eq_of_lt hx, signedLane, Bool.true_and, decide_eq_true_eq,
    ← Nat.not_lt, ite_not]

theorem signedLane_emod {w x : Nat} (hx : x < 2 ^ w) : signedLane w x % 2 ^ w = x := by
  have hx' : (x : Int) < 2 ^ w := by exact_mod_cast hx
  have hmod : (x : Int) % 2 ^ w = x := Int.emod_eq_of_lt (by positivity) hx'
  unfold signedLane
  split
  · exact hmod
  · rw [Int.sub_emod_right, hmod]

/-! ## Packed forms on lists of lanes -/

/-- A packed form completes with the lanes that it computes, and sets SAT where one of them clamps. -/
theorem packedLists_after {s : State} {sl : Slot} {p : Pre} (hr : Ready s sl p) (i : Instr) (lat : Nat)
    (d a b : BitVec 3) {w out m : Nat} {f : List Nat → List Nat → List (Nat × Bool)} {h : Nat → Nat × Bool}
    (hf : f (lanes w (sl.line.reg a)) (lanes w (sl.line.reg b)) = (List.range m).map h) (hfit : out * m ≤ 64) :
    ∃ v, packedLists s i p lat d a b w out f = .next (after s sl i { sl.line.setReg d v with
        fcsr := sl.line.fcsr ||| flagIf ((List.range m).any fun k => (h k).2) flagSAT } lat) ∧
      ∀ k, k < m → laneN out k v = (h k).1 % 2 ^ out := by
  refine ⟨ofLanes out ((List.range m).map fun k => (h k).1), ?_, fun k hk => ?_⟩
  · rw [packedLists, lineOp_after hr i lat rfl, hf]
    dsimp only
    rw [List.map_map, List.any_map]
    rfl
  · rw [laneN_ofLanes (by simpa using hfit) (by simpa using hk), List.getElem_map, List.getElem_range]

/-- A form that never clamps leaves the flags as they were. -/
theorem packedLists_plain {s : State} {sl : Slot} {p : Pre} (hr : Ready s sl p) (i : Instr) (lat : Nat)
    (d a b : BitVec 3) {w out m : Nat} {f : List Nat → List Nat → List (Nat × Bool)} {r : Nat → Nat}
    (hf : f (lanes w (sl.line.reg a)) (lanes w (sl.line.reg b)) = (List.range m).map fun k => plainLane (r k))
    (hfit : out * m ≤ 64) :
    ∃ v, packedLists s i p lat d a b w out f = .next (after s sl i (sl.line.setReg d v) lat) ∧
      ∀ k, k < m → laneN out k v = r k % 2 ^ out := by
  obtain ⟨v, hnext, hlane⟩ := packedLists_after hr i lat d a b hf hfit
  have hflag : ((List.range m).any fun k => (plainLane (r k)).2) = false := by simp [plainLane]
  have hkeep : sl.line.fcsr ||| flagIf false flagSAT = sl.line.fcsr := BitVec.or_zero
  rw [hflag, hkeep] at hnext
  exact ⟨v, hnext, hlane⟩

/-! ## Lane functions -/

/-- A lane function computes an exact result, wrapped or clamped to `w` bits, and says whether it clamped. -/
def LaneComputes (w : Nat) (exact : (xn yn : Nat) → (xs ys : Int) → Int) (clamp : Option (Int → Int))
    (g : Nat → Nat → Nat × Bool) : Prop :=
  ∀ x y, x < 2 ^ w → y < 2 ^ w →
    let e := exact x y (signedLane w x) (signedLane w y)
    (((g x y).1 % 2 ^ w : Nat) : Int) = clamp.getD id e % 2 ^ w ∧ ((g x y).2 = true ↔ ∃ c, clamp = some c ∧ c e ≠ e)

section
variable {w : Nat} {exact : (xn yn : Nat) → (xs ys : Int) → Int}

theorem emod_two_pow_toNat (w : Nat) (v : Int) : (((v % 2 ^ w).toNat % 2 ^ w : Nat) : Int) = v % 2 ^ w := by
  have hpos : (0 : Int) < 2 ^ w := by positivity
  push_cast
  rw [Int.toNat_of_nonneg (Int.emod_nonneg _ hpos.ne'), Int.emod_emod_of_dvd _ (dvd_refl _)]

/-- A function that never clamps is known by its value modulo 2^w. -/
theorem laneComputes_plain {f : Nat → Nat → Nat}
    (h : ∀ x y, x < 2 ^ w → y < 2 ^ w →
      ((f x y : Nat) : Int) % 2 ^ w = exact x y (signedLane w x) (signedLane w y) % 2 ^ w) :
    LaneComputes w exact none fun x y => plainLane (f x y) :=
  fun x y hx hy => ⟨by simpa [plainLane] using h x y hx hy, by simp [plainLane]⟩

theorem laneComputes_wrap {f : Nat → Nat → Int}
    (h : ∀ x y, x < 2 ^ w → y < 2 ^ w → f x y = exact x y (signedLane w x) (signedLane w y)) :
    LaneComputes w exact none fun x y => wrapLane w (f x y) :=
  fun x y hx hy => ⟨by rw [← h x y hx hy]; exact emod_two_pow_toNat .., by simp [wrapLane]⟩

/-- Clamping to an integer format is clamping to its range, and reports SAT where it changes the value (R34). -/
theorem clamp_eq (t : IntFmt) (hle : t.lo ≤ t.hi) (v : Int) :
    t.clamp v = (clampTo t.lo t.hi v, if clampTo t.lo t.hi v = v then 0 else flagSAT) := by
  unfold IntFmt.clamp
  by_cases hlo : v < t.lo
  · have hc : clampTo t.lo t.hi v = t.lo := by unfold clampTo; omega
    rw [if_pos hlo, hc, if_neg hlo.ne']
  by_cases hhi : t.hi < v
  · have hc : clampTo t.lo t.hi v = t.hi := by unfold clampTo; omega
    rw [if_neg hlo, if_pos hhi, hc, if_neg hhi.ne]
  · have hc : clampTo t.lo t.hi v = v := by unfold clampTo; omega
    rw [if_neg hlo, if_neg hhi, hc, if_pos rfl]

/-- An integer delivered to a format: its clamped bits, and whether it clamped. -/
theorem deliverInt_eq (t : IntFmt) (hle : t.lo ≤ t.hi) (v : Int) :
    ((t.deliverInt v).1, (t.deliverInt v).2 != 0)
      = ((clampTo t.lo t.hi v % 2 ^ t.width).toNat, decide (clampTo t.lo t.hi v ≠ v)) := by
  simp only [IntFmt.deliverInt, clamp_eq t hle v, IntFmt.encode]
  by_cases h : clampTo t.lo t.hi v = v <;> simp [h, flagSAT]

theorem clampS_eq (w : Nat) (v : Int) : clampS w v = ((clampedS w v % 2 ^ w).toNat, decide (clampedS w v ≠ v)) := by
  have hpos : (0 : Int) < 2 ^ (w - 1) := by positivity
  exact deliverInt_eq (IntFmt.mk true w) (by simp only [IntFmt.lo, IntFmt.hi, if_true]; omega) v

theorem clampN_eq (w : Nat) (v : Int) : clampN w v = ((clampedN w v % 2 ^ w).toNat, decide (clampedN w v ≠ v)) := by
  have hpos : (0 : Int) < 2 ^ w := by positivity
  exact deliverInt_eq (IntFmt.mk false w) (by simp only [IntFmt.lo, IntFmt.hi, Bool.false_eq_true, if_false]; omega) v

/-- A function that delivers a value clamped by `c`, and reports SAT where that changes it. -/
theorem laneComputes_clamp {c : Int → Int} {g : Nat → Nat → Nat × Bool} {f : Nat → Nat → Int}
    (hg : ∀ x y, g x y = ((c (f x y) % 2 ^ w).toNat, decide (c (f x y) ≠ f x y)))
    (h : ∀ x y, x < 2 ^ w → y < 2 ^ w → f x y = exact x y (signedLane w x) (signedLane w y)) :
    LaneComputes w exact (some c) g := by
  intro x y hx hy
  rw [hg, h x y hx hy]
  exact ⟨emod_two_pow_toNat .., by simp⟩

end

/-! ## The rows of R110 -/

section
variable (w : Nat)

theorem laneAdd_computes : LaneComputes w (fun x y _ _ => x + y) none (laneAdd w) :=
  laneComputes_wrap fun _ _ _ _ => rfl

theorem laneSub_computes : LaneComputes w (fun x y _ _ => (x : Int) - y) none (laneSub w) :=
  laneComputes_wrap fun _ _ _ _ => rfl

theorem laneMul_computes : LaneComputes w (fun x y _ _ => (x : Int) * y) none (laneMul w) :=
  laneComputes_wrap fun _ _ _ _ => rfl

theorem laneMulh_computes : LaneComputes w (fun _ _ x y => x * y / 2 ^ w) none (laneMulh w) :=
  laneComputes_wrap fun _ _ hx hy => by rw [laneInt_eq hx, laneInt_eq hy]

theorem laneAdds_computes : LaneComputes w (fun _ _ x y => x + y) (some (clampedS w)) (laneAdds w) :=
  laneComputes_clamp (fun _ _ => clampS_eq ..) fun _ _ hx hy => by rw [laneInt_eq hx, laneInt_eq hy]

theorem laneSubs_computes : LaneComputes w (fun _ _ x y => x - y) (some (clampedS w)) (laneSubs w) :=
  laneComputes_clamp (fun _ _ => clampS_eq ..) fun _ _ hx hy => by rw [laneInt_eq hx, laneInt_eq hy]

theorem laneAddn_computes : LaneComputes w (fun x y _ _ => x + y) (some (clampedN w)) (laneAddn w) :=
  laneComputes_clamp (fun _ _ => clampN_eq ..) fun _ _ _ _ => rfl

theorem laneSubn_computes : LaneComputes w (fun x y _ _ => (x : Int) - y) (some (clampedN w)) (laneSubn w) :=
  laneComputes_clamp (fun _ _ => clampN_eq ..) fun _ _ _ _ => rfl

theorem laneAbs_computes :
    LaneComputes w (fun _ _ x _ => |x|) (some (clampedS w)) fun x _ => clampS w (laneInt w x).natAbs :=
  laneComputes_clamp (fun _ _ => clampS_eq ..) fun _ _ hx _ => by rw [laneInt_eq hx, Int.natCast_natAbs]

theorem laneAvg_computes : LaneComputes w (fun x y _ _ => (x + y + 1 : Int) / 2) none (laneAvg w) :=
  laneComputes_plain fun _ _ _ _ => by push_cast; rfl

/-- A lane has the value modulo 2^w of its signed reading. -/
theorem emod_signedLane {x : Nat} (hx : x < 2 ^ w) : (x : Int) % 2 ^ w = signedLane w x % 2 ^ w := by
  rw [signedLane_emod hx]
  exact Int.emod_eq_of_lt (by positivity) (by exact_mod_cast hx)

theorem laneMin_computes : LaneComputes w (fun _ _ x y => Min.min x y) none (laneMin w) :=
  laneComputes_plain fun x y hx hy => by
    rw [laneInt_eq hx, laneInt_eq hy]
    split
    next h => rw [min_eq_left h.le, emod_signedLane w hx]
    next h => rw [min_eq_right (not_lt.mp h), emod_signedLane w hy]

theorem laneMax_computes : LaneComputes w (fun _ _ x y => Max.max x y) none (laneMax w) :=
  laneComputes_plain fun x y hx hy => by
    rw [laneInt_eq hx, laneInt_eq hy]
    split
    next h => rw [max_eq_right h.le, emod_signedLane w hy]
    next h => rw [max_eq_left (not_lt.mp h), emod_signedLane w hx]

theorem laneMinn_computes : LaneComputes w (fun x y _ _ => Min.min (x : Int) y) none (laneMinn w) :=
  laneComputes_plain fun x y _ _ => by
    split
    next h => rw [min_eq_left (by omega)]
    next h => rw [min_eq_right (by omega)]

theorem laneMaxn_computes : LaneComputes w (fun x y _ _ => Max.max (x : Int) y) none (laneMaxn w) :=
  laneComputes_plain fun x y _ _ => by
    split
    next h => rw [max_eq_right (by omega)]
    next h => rw [max_eq_left (by omega)]

theorem laneSll_computes : LaneComputes w (fun x y _ _ => (x : Int) * 2 ^ y) none (laneSll w) :=
  laneComputes_plain fun x y _ _ => by
    split
    next h =>
      have hdvd : (2 : Int) ^ w ∣ x * 2 ^ y := (pow_dvd_pow 2 h).mul_left _
      rw [Int.emod_eq_zero_of_dvd hdvd]; simp
    next => push_cast; rw [Int.emod_emod_of_dvd _ (dvd_refl _)]

theorem laneSrl_computes : LaneComputes w (fun x y _ _ => (x / 2 ^ y : Nat)) none (laneSrl w) :=
  laneComputes_plain fun x y hx _ => by
    split
    next h => rw [Nat.div_eq_of_lt (hx.trans_le (Nat.pow_le_pow_right (by decide) h))]
    next => rfl

theorem signedLane_lt {x : Nat} (hx : x < 2 ^ w) : signedLane w x < 2 ^ w := by
  have hx' : (x : Int) < 2 ^ w := by exact_mod_cast hx
  unfold signedLane
  split <;> omega

theorem le_signedLane (x : Nat) : -2 ^ w ≤ signedLane w x := by
  have hpos : (0 : Int) < 2 ^ w := by positivity
  unfold signedLane
  split <;> omega

/-- A quotient of a number of `w` bits by 2^w or more is its sign. -/
theorem ediv_two_pow {v : Int} {y : Nat} (hlo : -2 ^ w ≤ v) (hhi : v < 2 ^ w) (hy : w ≤ y) :
    v / 2 ^ y = if v < 0 then -1 else 0 := by
  have hle : (2 : Int) ^ w ≤ 2 ^ y := pow_le_pow_right₀ (by decide) hy
  split
  next h => exact Int.ediv_eq_neg_one_of_neg_of_le h (by omega)
  next h => exact Int.ediv_eq_zero_of_lt (by omega) (by omega)

theorem laneSra_computes : LaneComputes w (fun _ y x _ => x / 2 ^ y) none (laneSra w) :=
  laneComputes_wrap fun x y hx _ => by
    rw [laneInt_eq hx]
    change signedLane w x / 2 ^ min y w = signedLane w x / 2 ^ y
    obtain h | h := Nat.le_total y w
    · rw [Nat.min_eq_left h]
    · rw [Nat.min_eq_right h, ediv_two_pow w (le_signedLane w x) (signedLane_lt w hx) h,
        ediv_two_pow w (le_signedLane w x) (signedLane_lt w hx) le_rfl]

/-- All ones stand for −1. -/
theorem maskLane_emod (b : Bool) :
    (((if b then 2 ^ w - 1 else 0 : Nat) : Nat) : Int) % 2 ^ w = (if b then -1 else 0) % 2 ^ w := by
  cases b
  · rfl
  · have hpos : 1 ≤ 2 ^ w := Nat.one_le_two_pow
    simp only [if_true, Nat.cast_sub hpos]
    push_cast
    rw [Int.sub_emod_left]

theorem laneCmpeq_computes : LaneComputes w (fun x y _ _ => if x = y then -1 else 0) none (laneCmpeq w) :=
  laneComputes_plain fun x y _ _ => by
    rw [maskLane_emod]; simp only [beq_iff_eq]

theorem laneCmpgt_computes : LaneComputes w (fun _ _ x y => if y < x then -1 else 0) none (laneCmpgt w) :=
  laneComputes_plain fun x y hx hy => by
    rw [maskLane_emod, laneInt_eq hx, laneInt_eq hy]; simp only [decide_eq_true_eq]

end

theorem laneWidth_eq {w : BitVec 2} (hw : w ≠ 3) : laneWidth w = widthOf w := by
  revert w; decide

/-- Each lane-wise form applies a lane function that computes its row's result. -/
theorem exec_laneForm {i : Instr} {f : LaneForm} (h : laneForm i = some f) (hwf : i.wellFormed = true) (s : State) :
    ∃ g, exec i s = packedOp s i f.pre f.lat f.d f.a f.b f.w g ∧ LaneComputes f.w f.exact f.clamp g := by
  have hfields (p : Bool) {w : BitVec 2} (h : (p && (w != 3)) = true) : laneWidth w = widthOf w :=
    laneWidth_eq (bne_iff_ne.mp (Bool.and_eq_true_iff.mp h).2)
  unfold laneForm at h
  dsimp only at h
  split at h <;> cases h
  next => exact ⟨_, exec_paddH .., laneAdd_computes _⟩
  next => exact ⟨_, exec_psubH .., laneSub_computes _⟩
  next => exact ⟨_, exec_paddsH .., laneAdds_computes _⟩
  next => exact ⟨_, exec_psubsH .., laneSubs_computes _⟩
  next => exact ⟨_, exec_pminH .., laneMin_computes _⟩
  next => exact ⟨_, exec_pmaxH .., laneMax_computes _⟩
  next => exact ⟨_, exec_pmulH .., laneMul_computes _⟩
  next => exact ⟨_, exec_pavgH .., laneAvg_computes _⟩
  all_goals rw [← hfields _ hwf]
  next => exact ⟨_, exec_padd .., laneAdd_computes _⟩
  next => exact ⟨_, exec_psub .., laneSub_computes _⟩
  next => exact ⟨_, exec_padds .., laneAdds_computes _⟩
  next => exact ⟨_, exec_psubs .., laneSubs_computes _⟩
  next => exact ⟨_, exec_pavg .., laneAvg_computes _⟩
  next => exact ⟨_, exec_pmul .., laneMul_computes _⟩
  next => exact ⟨_, exec_pmin .., laneMin_computes _⟩
  next => exact ⟨_, exec_pmax .., laneMax_computes _⟩
  next => exact ⟨_, exec_paddn .., laneAddn_computes _⟩
  next => exact ⟨_, exec_psubn .., laneSubn_computes _⟩
  next => exact ⟨_, exec_pabs .., laneAbs_computes _⟩
  next => exact ⟨_, exec_pmulh .., laneMulh_computes _⟩
  next => exact ⟨_, exec_pminn .., laneMinn_computes _⟩
  next => exact ⟨_, exec_pmaxn .., laneMaxn_computes _⟩
  next => exact ⟨_, exec_psll .., laneSll_computes _⟩
  next => exact ⟨_, exec_psrl .., laneSrl_computes _⟩
  next => exact ⟨_, exec_psra .., laneSra_computes _⟩
  next => exact ⟨_, exec_pcmpeq .., laneCmpeq_computes _⟩
  next => exact ⟨_, exec_pcmpgt .., laneCmpgt_computes _⟩

/-! ## Lane by lane -/

theorem zipWith_lanes {α : Type} (w : Nat) (x y : Word) (g : Nat → Nat → α) :
    List.zipWith g (lanes w x) (lanes w y) = (List.range (64 / w)).map fun k => g (laneN w k x) (laneN w k y) := by
  rw [lanes_eq, lanes_eq, List.zipWith_map, List.zipWith_self]

/-- A form reports SAT where one of its lanes does. -/
theorem LaneForm.sat_iff {f : LaneForm} {g : Nat → Nat → Nat × Bool} (hg : LaneComputes f.w f.exact f.clamp g)
    (x y : Word) :
    f.sat x y ↔ ((List.range (64 / f.w)).any fun k => (g (laneN f.w k x) (laneN f.w k y)).2) = true := by
  have hlane (k : Nat) := (hg (laneN f.w k x) (laneN f.w k y) (laneN_lt ..) (laneN_lt ..)).2
  simp only [LaneForm.sat, List.any_eq_true, List.mem_range, hlane]
  exact ⟨fun ⟨c, hc, k, hk, hne⟩ => ⟨k, hk, c, hc, hne⟩, fun ⟨k, hk, c, hc, hne⟩ => ⟨c, hc, k, hk, hne⟩⟩

/-! ## The other forms (R110) -/

theorem zipWith_dot (w : Nat) (x y : Word) :
    (List.zipWith (fun x y => laneInt w x * laneInt w y) (lanes w x) (lanes w y)).foldl (· + ·) 0
      = dotLanes w x y := by
  rw [zipWith_lanes, ← List.sum_eq_foldl, dotLanes]
  simp only [laneInt_eq (laneN_lt ..)]
  rfl

/-- pshuf picks a lane of g[a] for each lane of g[b]. -/
theorem shuffle_lanes {w : Nat} (hw : 0 < 64 / w) (x y : Word) :
    (lanes w y).map (fun k => plainLane (((lanes w x)[k % (lanes w x).length]?).getD 0))
      = (List.range (64 / w)).map fun k => plainLane (laneN w (laneN w k y % (64 / w)) x) := by
  rw [lanes_eq, lanes_eq, List.map_map]
  refine List.map_congr_left fun k _ => ?_
  have hlt : laneN w k y % (64 / w) < 64 / w := Nat.mod_lt _ hw
  simp [hlt]

/-- ppack clamps the lanes of g[a], then those of g[b]. -/
theorem ppack_lanes {w : Nat} (h128 : 128 / w = 64 / w + 64 / w) (x y : Word) :
    (lanes w x ++ lanes w y).map (fun v => clampS (w / 2) (laneInt w v))
      = (List.range (128 / w)).map fun k => clampS (w / 2) (packSource w k x y) := by
  rw [h128, List.range_add, List.map_append, List.map_append, lanes_eq, lanes_eq, List.map_map, List.map_map,
    List.map_map]
  congr 1
  · refine List.map_congr_left fun k hk => ?_
    rw [Function.comp_apply, laneInt_eq (laneN_lt ..), packSource, if_pos (List.mem_range.mp hk)]
    rfl
  · refine List.map_congr_left fun k _ => ?_
    rw [Function.comp_apply, Function.comp_apply, laneInt_eq (laneN_lt ..), packSource, if_neg (by omega),
      Nat.add_sub_cancel_left]
    rfl

/-- Interleaving puts the k-th elements at 2k and 2k + 1. -/
theorem interleave_map_range (f g : Nat → Nat) (n : Nat) :
    interleave ((List.range n).map f) ((List.range n).map g)
      = (List.range (2 * n)).map fun k => plainLane (if k % 2 = 0 then f (k / 2) else g (k / 2)) := by
  induction n generalizing f g with
  | zero => rfl
  | succ n ih =>
    have hlong : List.range (2 * (n + 1)) = 0 :: 1 :: (List.range (2 * n)).map (· + 2) := by
      rw [Nat.mul_succ, List.range_succ_eq_map, List.range_succ_eq_map, List.map_cons, List.map_map]
      rfl
    rw [List.range_succ_eq_map, hlong]
    simp only [List.map_cons, List.map_map, interleave]
    rw [ih]
    refine congrArg (fun t => plainLane (f 0) :: plainLane (g 0) :: t) (List.map_congr_left fun k _ => ?_)
    simp only [Function.comp_apply, Nat.add_mod_right, Nat.add_div_right k Nat.two_pos]

/-- punpk interleaves the low halves. -/
theorem punpk_lanes (w : Nat) (x y : Word) :
    interleave ((lanes w x).take (32 / w)) ((lanes w y).take (32 / w))
      = (List.range (2 * (32 / w))).map fun k => plainLane (if k % 2 = 0 then laneN w (k / 2) x else laneN w (k / 2) y) := by
  have hle : min (32 / w) (64 / w) = 32 / w := Nat.min_eq_left (Nat.div_le_div_right (by decide))
  rw [lanes_eq, lanes_eq, ← List.map_take, ← List.map_take, List.take_range, hle, interleave_map_range]

/-! ## Widths -/

theorem widthOf_mul {w : BitVec 2} (hw : w ≠ 3) :
    0 < 64 / widthOf w ∧ widthOf w * (64 / widthOf w) = 64 ∧ widthOf w * (2 * (32 / widthOf w)) = 64 := by
  revert w; decide

theorem widthOf_half {w : BitVec 2} (hw : w = 1 ∨ w = 2) :
    w ≠ 3 ∧ widthOf w / 2 * (128 / widthOf w) = 64 ∧ 128 / widthOf w = 64 / widthOf w + 64 / widthOf w := by
  revert w; decide

/-- Settles O2: each form by the list of lanes that it computes. -/
theorem packedFormsWorkLaneByLane : Obligations.PackedFormsWorkLaneByLane := by
  refine ⟨fun i f s sl hform hwf hr => ?_, fun p w d a b s sl hw hr => ?_, fun p w d a b s sl hw hr => ?_,
    fun p w d a b s sl hw hr => ?_, fun p w d a b s sl hw hr => ?_⟩
  · obtain ⟨g, hexec, hg⟩ := exec_laneForm hform hwf s
    obtain ⟨v, hnext, hlane⟩ :=
      packedLists_after hr i f.lat f.d f.a f.b (zipWith_lanes f.w _ _ g) (Nat.mul_div_le 64 f.w)
    refine ⟨v, _, hexec.trans hnext, fun k hk => ?_, fun hsat => ?_, fun hsat => ?_⟩
    · rw [hlane k hk]
      exact (hg _ _ (laneN_lt ..) (laneN_lt ..)).1
    · rw [(LaneForm.sat_iff hg ..).mp hsat]; rfl
    · rw [Bool.eq_false_iff.mpr (mt (LaneForm.sat_iff hg ..).mpr hsat)]; rfl
  · refine (exec_pdot ..).trans ((lineOp_after hr _ latM rfl).trans ?_)
    rw [laneWidth_eq hw]
    dsimp only
    rw [zipWith_dot]
    rfl
  · obtain ⟨hpos, hfit, -⟩ := widthOf_mul hw
    rw [exec_pshuf, execPshuf, laneWidth_eq hw]
    obtain ⟨v, hnext, hlane⟩ := packedLists_plain hr (.pshuf p w d a b) latA d a b
      (f := fun x y => y.map fun k => plainLane ((x[k % x.length]?).getD 0)) (shuffle_lanes hpos _ _) hfit.le
    exact ⟨v, hnext, fun k hk => (hlane k hk).trans (Nat.mod_eq_of_lt (laneN_lt ..))⟩
  · obtain ⟨hw3, hfit, h128⟩ := widthOf_half hw
    rw [exec_ppack, execPpack, laneWidth_eq hw3]
    obtain ⟨v, hnext, hlane⟩ := packedLists_after hr (.ppack p w d a b) latA d a b
      (f := fun x y => (x ++ y).map fun v => clampS (widthOf w / 2) (laneInt (widthOf w) v))
        (ppack_lanes h128 _ _) hfit.le
    refine ⟨v, _, hnext, fun k hk => ?_, ?_⟩
    · rw [hlane k hk, clampS_eq]
      exact emod_two_pow_toNat ..
    · simp only [clampS_eq]
      rfl
  · obtain ⟨-, -, hfit⟩ := widthOf_mul hw
    rw [exec_punpk, execPunpk, laneWidth_eq hw]
    obtain ⟨v, hnext, hlane⟩ := packedLists_plain hr (.punpk p w d a b) latA d a b
      (f := fun x y => interleave (x.take (32 / widthOf w)) (y.take (32 / widthOf w))) (punpk_lanes ..) hfit.le
    refine ⟨v, hnext, fun k hk => ⟨?_, ?_⟩⟩
    · rw [hlane _ (by omega), if_pos (by omega), Nat.mul_div_cancel_left _ (by decide),
        Nat.mod_eq_of_lt (laneN_lt ..)]
    · rw [hlane _ (by omega), if_neg (by omega), Nat.mod_eq_of_lt (laneN_lt ..), show (2 * k + 1) / 2 = k by omega]

end Sys2Proof.Machine

/-! # O4: compares write one predicate

A compare is a `lineOp` that sets one predicate (`cmpOp`, `fcmpOp`), and `Line.setPred` changes that predicate alone
(`Line.pred_setPred`). What is left is each row's condition as a relation of numbers, and the NaNs that set NV. -/

namespace Sys2Proof.Machine
open Sys2Proof.Claims

/-! ## Writing one predicate (R8) -/

theorem Line.pred_of_ne_zero (l : Line) {k : BitVec 5} (hk : k ≠ 0) : l.pred k = l.pw.getLsbD k.toNat := by
  rw [Line.pred, beq_eq_false_iff_ne.mpr hk, Bool.false_or]

theorem getLsbD_oneHot (t k : BitVec 5) : (1#32 <<< t.toNat).getLsbD k.toNat = decide (k.toNat = t.toNat) := by
  revert t k; decide

/-- Setting or clearing one bit of a predicate word reads back at that bit alone. -/
theorem getLsbD_setBit (w : BitVec 32) (t k : BitVec 5) (b : Bool) :
    (if b then w ||| (1#32 <<< t.toNat) else w &&& ~~~(1#32 <<< t.toNat)).getLsbD k.toNat
      = if k.toNat = t.toNat then b else w.getLsbD k.toNat := by
  have hk : k.toNat < 32 := k.isLt
  cases b <;> by_cases ht : k.toNat = t.toNat <;>
    simp only [Bool.false_eq_true, if_true, if_false, BitVec.getLsbD_or, BitVec.getLsbD_and, BitVec.getLsbD_not,
      getLsbD_oneHot, ht, hk] <;> simp

/-- A write to a predicate reads back there, P[0] aside, and leaves every other predicate as it was. -/
theorem Line.pred_setPred (l : Line) (t k : BitVec 5) (b : Bool) :
    (l.setPred t b).pred k = if k.toNat = t.toNat ∧ k ≠ 0 then b else l.pred k := by
  by_cases hk : k = 0
  · rw [if_neg fun h => h.2 hk, hk, Line.pred_zero, Line.pred_zero]
  · rw [Line.pred_of_ne_zero _ hk, Line.pred_of_ne_zero _ hk, Line.setPred]
    split
    next ht =>
      have hne : k.toNat ≠ t.toNat := fun e => hk ((BitVec.eq_of_toNat_eq e).trans (eq_of_beq ht))
      rw [if_neg fun h => hne h.1]
    next => rw [getLsbD_setBit]; simp only [hk, ne_eq, not_false_eq_true, and_true]

/-- Only the predicate word changes. -/
theorem Line.setPred_eq (l : Line) (t : BitVec 5) (b : Bool) : l.setPred t b = { l with pw := (l.setPred t b).pw } := by
  unfold Line.setPred; split <;> rfl

/-! ## The rows of R91 -/

theorem lowPred_toNat (d : BitVec 3) : (lowPred d).toNat = d.toNat := by
  revert d; decide

theorem anyPred_toNat (q : BitVec 2) (d : BitVec 3) : (anyPred q d).toNat = q.toNat * 8 + d.toNat := by
  revert q d; decide

theorem beq_eq_decide_toNat (x y : Word) : (x == y) = decide (x.toNat = y.toNat) := by
  rw [beq_eq_decide, decide_eq_decide, BitVec.toNat_inj]

theorem and_beq_zero_eq_decide (x y : Word) : ((x &&& y) == 0) = decide (x.toNat &&& y.toNat = 0) := by
  rw [beq_eq_decide_toNat, BitVec.toNat_and]; rfl

theorem not_slt_eq_decide (x y : Word) : (!x.slt y) = decide (y.toInt ≤ x.toInt) := by
  rw [BitVec.slt_eq_decide, ← decide_not, decide_eq_decide, Int.not_lt]

theorem not_ult_eq_decide (x y : Word) : (!x.ult y) = decide (y.toNat ≤ x.toNat) := by
  rw [BitVec.ult_eq_decide, ← decide_not, decide_eq_decide, Nat.not_lt]

theorem bne_eq_decide_toNat (x y : Word) : (x != y) = decide (x.toNat ≠ y.toNat) := by
  rw [bne, beq_eq_decide_toNat, decide_not]

theorem and_bne_zero_eq_decide (x y : Word) : ((x &&& y) != 0) = decide (x.toNat &&& y.toNat ≠ 0) := by
  rw [bne, and_beq_zero_eq_decide, decide_not]

/-- Each integer compare writes its row's predicate with its row's condition. -/
theorem exec_cmpForm {i : Instr} {p : Pre} {t : Nat} {a b : BitVec 3} {c : Word → Word → Bool}
    (h : cmpForm i = some (p, t, a, b, c)) (s : State) :
    ∃ (u : BitVec 5) (g : Word → Word → Bool), exec i s = cmpOp s i p u a b g ∧ u.toNat = t ∧ ∀ x y, g x y = c x y := by
  unfold cmpForm at h
  split at h <;> cases h
  next => exact ⟨_, _, exec_cmpEq .., lowPred_toNat _, beq_eq_decide_toNat⟩
  next => exact ⟨_, _, exec_cmpNe .., lowPred_toNat _, bne_eq_decide_toNat⟩
  next => exact ⟨_, _, exec_cmpLt .., lowPred_toNat _, fun _ _ => BitVec.slt_eq_decide⟩
  next => exact ⟨_, _, exec_cmpGe .., lowPred_toNat _, not_slt_eq_decide⟩
  next => exact ⟨_, _, exec_cmpLo .., lowPred_toNat _, fun _ _ => BitVec.ult_eq_decide⟩
  next => exact ⟨_, _, exec_cmpHs .., lowPred_toNat _, not_ult_eq_decide⟩
  next => exact ⟨_, _, exec_cmpTst .., lowPred_toNat _, and_bne_zero_eq_decide⟩
  next => exact ⟨_, _, exec_cmpNtst .., lowPred_toNat _, and_beq_zero_eq_decide⟩
  next => exact ⟨_, _, exec_cmpxEq .., anyPred_toNat .., beq_eq_decide_toNat⟩
  next => exact ⟨_, _, exec_cmpxNe .., anyPred_toNat .., bne_eq_decide_toNat⟩
  next => exact ⟨_, _, exec_cmpxLt .., anyPred_toNat .., fun _ _ => BitVec.slt_eq_decide⟩
  next => exact ⟨_, _, exec_cmpxGe .., anyPred_toNat .., not_slt_eq_decide⟩
  next => exact ⟨_, _, exec_cmpxLo .., anyPred_toNat .., fun _ _ => BitVec.ult_eq_decide⟩
  next => exact ⟨_, _, exec_cmpxHs .., anyPred_toNat .., not_ult_eq_decide⟩
  next => exact ⟨_, _, exec_cmpxTst .., anyPred_toNat .., and_bne_zero_eq_decide⟩
  next => exact ⟨_, _, exec_cmpxNtst .., anyPred_toNat .., and_beq_zero_eq_decide⟩

/-! ## The rows of R120 -/

theorem fcmpOp_eq_lineOp (s : State) (i : Instr) (p : Pre) (t : BitVec 5) (f : BitVec 2) (a b : BitVec 3) (quiet : Bool)
    (rel : FVal → FVal → Bool) :
    fcmpOp s i p t (fmtOf f) a b quiet rel = lineOp s i p latA fun l =>
      (l.setPred t (rel (srcVal f l a) (srcVal f l b))).raise (flagIf (if quiet then
        (srcVal f l a).signals || (srcVal f l b).signals else (srcVal f l a).isNaN || (srcVal f l b).isNaN) flagNV) := by
  simp only [fcmpOp, fbits_fmtOf, srcVal]

theorem FVal.not_unordered (x y : FVal) : (!x.unordered y) = (!x.isNaN && !y.isNaN) := Bool.not_or ..

/-- Each float compare writes its row's predicate with its row's condition, and raises NV by its row's NaNs. -/
theorem exec_fcmpForm {i : Instr} {l : Line} {p : Pre} {t : Nat} {c nv : Bool} (h : fcmpForm i l = some (p, t, c, nv))
    (s : State) : ∃ (u : BitVec 5) (f : Line → Line), exec i s = lineOp s i p latA f ∧ u.toNat = t ∧
      f l = (l.setPred u c).raise (flagIf nv flagNV) := by
  unfold fcmpForm at h
  split at h <;> cases h
  next => exact ⟨_, _, (exec_fcmpEq ..).trans (fcmpOp_eq_lineOp ..), anyPred_toNat .., by rw [FVal.not_unordered]; rfl⟩
  next => exact ⟨_, _, (exec_fcmpLt ..).trans (fcmpOp_eq_lineOp ..), anyPred_toNat .., by rw [FVal.not_unordered]; rfl⟩
  next => exact ⟨_, _, (exec_fcmpLe ..).trans (fcmpOp_eq_lineOp ..), anyPred_toNat .., by rw [FVal.not_unordered]; rfl⟩
  next => exact ⟨_, _, (exec_fcmpUn ..).trans (fcmpOp_eq_lineOp ..), anyPred_toNat .., rfl⟩

/-- Settles O4: a compare sets the predicate of its row to its row's condition, and such an operation changes nothing
else of the line but the flags. -/
theorem comparesWriteOnePredicate : Obligations.ComparesWriteOnePredicate := by
  refine ⟨fun i p t a b c s sl hform hr => ?_, fun i p t c nv s sl hform hr => ?_⟩
  · obtain ⟨u, g, hexec, rfl, hg⟩ := exec_cmpForm hform s
    refine ⟨(sl.line.setPred u (c (sl.line.reg a) (sl.line.reg b))).pw, ?_, fun k => ?_⟩
    · rw [hexec, cmpOp, lineOp_after hr i latA (Line.setPred_step ..), hg, ← Line.setPred_eq]
      rfl
    · rw [← Line.setPred_eq, Line.pred_setPred]
  · obtain ⟨u, f, hexec, rfl, hf⟩ := exec_fcmpForm hform s
    refine ⟨(sl.line.setPred u c).pw, ?_, fun k => ?_⟩
    · rw [hexec, lineOp_after hr i latA (by rw [hf]; simp), hf, Line.setPred_eq]
      rfl
    · rw [← Line.setPred_eq, Line.pred_setPred]

end Sys2Proof.Machine

/-! # O7: branches check their target

Each form of R97 to R99 is a `branch` to its row's target, or a completion where br is not taken (`exec_jumpForm`); a
branch goes to a target that passes R15, and traps with the first check that fails (`checkTarget_eq`). -/

namespace Sys2Proof.Machine
open Sys2Proof.Claims

/-! ## The checks of R15 -/

theorem extractLsb'_ne_zero_iff (t : Word) (lo n : Nat) :
    (t.extractLsb' lo n != 0) = true ↔ t.toNat / 2 ^ lo % 2 ^ n ≠ 0 := by
  rw [bne_iff_ne, ne_eq, ← BitVec.toNat_inj, BitVec.extractLsb'_toNat, Nat.shiftRight_eq_div_pow]
  rfl

theorem getLsbD_zero_iff (t : Word) : t.getLsbD 0 = true ↔ t.toNat % 2 = 1 := by
  rw [BitVec.getLsbD, Nat.testBit_zero, decide_eq_true_eq]

/-- The checks of R15 as bounds on the target, in their order. -/
theorem checkTarget_eq (t : Word) : checkTarget t = (targetCause t).map fun c => TrapInfo.mk c t := by
  have hlt : t.toNat < 2 ^ 64 := t.isLt
  have hseg : (t.extractLsb' 61 3 != 0) = true ↔ 2 ^ 61 ≤ t.toNat := by
    rw [extractLsb'_ne_zero_iff]; omega
  have hoff (h : ¬ 2 ^ 61 ≤ t.toNat) : (t.extractLsb' 48 13 != 0) = true ↔ 2 ^ 48 ≤ t.toNat := by
    rw [extractLsb'_ne_zero_iff]; omega
  unfold checkTarget targetCause
  by_cases h1 : 2 ^ 61 ≤ t.toNat
  · rw [if_pos (hseg.mpr h1), if_pos h1]; rfl
  rw [if_neg (mt hseg.mp h1), if_neg h1]
  by_cases h2 : 2 ^ 48 ≤ t.toNat
  · rw [if_pos ((hoff h1).mpr h2), if_pos h2]; rfl
  rw [if_neg (mt (hoff h1).mp h2), if_neg h2]
  by_cases h3 : t.toNat % 2 = 1
  · rw [if_pos ((getLsbD_zero_iff t).mpr h3), if_pos h3]; rfl
  · rw [if_neg (mt (getLsbD_zero_iff t).mp h3), if_neg h3]; rfl

/-! ## Taking a branch -/

theorem branch_branched {s : State} {sl : Slot} {p : Pre} (hr : Ready s sl p) (i : Instr) (lat : Nat) {t : Word}
    {f : Line → Line} (ht : targetCause t = none) (hstep : (f sl.line).step = sl.line.step) :
    branch s sl i lat t f = .next (branched s sl { f sl.line with pc := BitVec.ofNat 48 t.toNat } lat) :=
  branch_next s sl i lat t f (by rw [checkTarget_eq, ht]; rfl) (hstep.trans hr.free)

theorem branch_trapped (s : State) (sl : Slot) (i : Instr) (lat : Nat) {t : Word} (f : Line → Line) {c : BitVec 16}
    (ht : targetCause t = some c) : branch s sl i lat t f = .next (trapped s sl i c t) :=
  branch_trap s sl i lat t f ⟨c, t⟩ (by rw [checkTarget_eq, ht]; rfl)

/-! ## The rows of R97 to R99 -/

theorem setWidth_ofNat (n : Nat) : (BitVec.ofNat 48 n).setWidth 64 = BitVec.ofNat 64 (n % 2 ^ 48) := by
  rw [← BitVec.ofNat_toNat, BitVec.toNat_ofNat]

/-- Each form of R97 to R99 branches to its row's target where it is taken, and completes otherwise. -/
theorem exec_jumpForm {i : Instr} {p : Pre} {taken : Bool} {t : Word} {f : Line → Line} {s : State} {sl : Slot}
    (h : jumpForm i sl.line = some (p, taken, t, f)) (hr : Ready s sl p) :
    exec i s = (if taken then branch s sl i latA t f else complete s sl i latA) ∧ (f sl.line).step = sl.line.step := by
  unfold jumpForm at h
  split at h <;> cases h
  next => exact ⟨(exec_br ..).trans (guarded_ready hr ..), rfl⟩
  next => exact ⟨(exec_jmp ..).trans (guarded_ready hr ..), rfl⟩
  next => exact ⟨(exec_call ..).trans <| (guarded_ready hr ..).trans (by rw [← setWidth_ofNat]; rfl), rfl⟩
  next => exact ⟨(exec_ret ..).trans (guarded_ready hr ..), rfl⟩
  next => exact ⟨(exec_jr ..).trans (guarded_ready hr ..), rfl⟩

/-- Settles O7: a form of R97 to R99 is a branch to its row's target or a completion, and a branch checks its target. -/
theorem branchesCheckTheirTarget : Obligations.BranchesCheckTheirTarget := by
  intro i p taken t f s sl hform hr
  obtain ⟨hexec, hstep⟩ := exec_jumpForm hform hr
  rw [hexec]
  refine ⟨?_, ?_, ?_⟩
  · rintro rfl ht
    exact branch_branched hr i latA ht hstep
  · rintro c rfl ht
    exact branch_trapped s sl i latA f ht
  · rintro rfl
    exact complete_after hr s i latA rfl

end Sys2Proof.Machine

/-! # O8: loops open and fire

`Line.fire` and the program of R101 test the same two conditions, one on numbers and one on words (`Line.fire_eq_firing`).
A `loop` traps, branches past its body or completes by its end and its count (`exec_loop_eq`, R100). -/

namespace Sys2Proof.Machine
open Sys2Proof.Claims

/-! ## Firing (R101) -/

theorem bne_zero_eq_decide (c : BitVec 32) : (c != 0) = decide (1 ≤ c.toNat) := by
  rw [Bool.eq_iff_iff, bne_iff_ne, decide_eq_true_eq, ne_eq, ← BitVec.toNat_inj]
  exact Nat.pos_iff_ne_zero.symm

theorem bne_one_eq_decide {c : BitVec 32} (hc : 1 ≤ c.toNat) : (c != 1) = decide (1 < c.toNat) := by
  rw [Bool.eq_iff_iff, bne_iff_ne, decide_eq_true_eq, ne_eq, ← BitVec.toNat_inj]
  change ¬c.toNat = 1 ↔ 1 < c.toNat
  omega

theorem beq_eq_decide_some (j k : BitVec 1) : (j == k) = decide (some j = some k) := by
  revert j k; decide

/-- Firing is the program of R101, where `opens` says which loop the instruction opens. -/
theorem Line.fire_eq_firing (l : Line) (i : Instr) (opens : BitVec 1 → Bool)
    (hopens : ∀ k, opens k = decide (loopOpened i = some k)) :
    l.fire i = { l with
      pc := BitVec.ofNat 48 (firing l (l.baseOff i) (l.nextOff i) opens).1
      lc1 := (firing l (l.baseOff i) (l.nextOff i) opens).2.1
      lc0 := (firing l (l.baseOff i) (l.nextOff i) opens).2.2 } := by
  have hat (le lc : BitVec 32) (k : BitVec 1) :
      (decide (l.baseOff i = le.toNat) && lc != 0 && decide (loopOpened i ≠ some k))
        = (decide (l.baseOff i = le.toNat) && decide (1 ≤ lc.toNat) && !opens k) := by
    rw [bne_zero_eq_decide, hopens, decide_not]
  have hone {le lc : BitVec 32} {k : BitVec 1}
      (h : (decide (l.baseOff i = le.toNat) && decide (1 ≤ lc.toNat) && !opens k) = true) :
      (lc != 1) = decide (1 < lc.toNat) := by
    simp only [Bool.and_eq_true, decide_eq_true_eq] at h
    exact bne_one_eq_decide h.1.2
  cases h1 : (decide (l.baseOff i = l.le1.toNat) && decide (1 ≤ l.lc1.toNat) && !opens 1) <;>
    cases h0 : (decide (l.baseOff i = l.le0.toNat) && decide (1 ≤ l.lc0.toNat) && !opens 0)
  case false.false => simp only [Line.fire, firing, hat, h1, h0]; rfl
  case false.true =>
    simp only [Line.fire, firing, hat, h1, h0, hone h0]
    by_cases hc : 1 < l.lc0.toNat <;> simp [hc]
  case true.false =>
    simp only [Line.fire, firing, hat, h1, h0, hone h1]
    by_cases hc : 1 < l.lc1.toNat <;> simp [hc]
  case true.true =>
    simp only [Line.fire, firing, hat, h1, h0, hone h1, hone h0]
    by_cases hc1 : 1 < l.lc1.toNat <;> by_cases hc0 : 1 < l.lc0.toNat <;> simp [hc1, hc0]

/-! ## Opening (R100) -/

/-- A loop whose end lies at or beyond 2^32 traps; with a count of 0 it branches past its body, else it completes. -/
theorem exec_loop_eq {p : Pre} {k : BitVec 1} {c : BitVec 3} {len : BitVec 8} {L : Nat} {s : State} {sl : Slot}
    (hL : p.immU len = L) (hr : Ready s sl p) :
    exec (.loop p k c len) s =
      let i : Instr := .loop p k c len
      let lb := nextPc sl.line i
      let opened (x : Line) : Line := x.openLoop k (BitVec.ofNat 32 lb) (BitVec.ofInt 32 (lb + 2 * L - 2 : Int))
        (BitVec.ofNat 32 (sl.line.reg c).toNat)
      if 2 ^ 32 ≤ lb + 2 * L then .next (trapped s sl i 0x0D (BitVec.ofNat 64 sl.line.pc.toNat))
      else if BitVec.ofNat 32 (sl.line.reg c).toNat = 0 then branch s sl i latA (BitVec.ofNat 64 (lb + 2 * L)) opened
      else complete s { sl with line := opened sl.line } i latA := by
  have hend (n : Nat) : (2 ^ 32 ≤ (n : Int) + 2 * L) ↔ 2 ^ 32 ≤ n + 2 * L := by omega
  have htarget (n : Nat) : BitVec.ofInt 64 ((n : Int) + 2 * L) = BitVec.ofNat 64 (n + 2 * L) := by
    rw [← BitVec.ofInt_natCast]; push_cast; rfl
  rw [exec_loop, execLoop, guarded_ready hr, hL]
  simp only [BitVec.ofNat_toNat, hend, htarget]
  rfl

theorem targetCause_even {n : Nat} (hlt : n < 2 ^ 32) (heven : n % 2 = 0) : targetCause (BitVec.ofNat 64 n) = none := by
  have hn : (BitVec.ofNat 64 n).toNat = n := by rw [BitVec.toNat_ofNat]; omega
  rw [targetCause, hn, if_neg (by omega), if_neg (by omega), if_neg (by omega)]

theorem Line.openLoop_step (l : Line) (k : BitVec 1) (lb le n : BitVec 32) : (l.openLoop k lb le n).step = l.step := by
  unfold Line.openLoop; split <;> rfl

/-- A branch to an even offset below 2^32 is taken. -/
theorem branch_to_offset {s : State} {sl : Slot} {p : Pre} (hr : Ready s sl p) (i : Instr) (lat : Nat) {n : Nat}
    {f : Line → Line} (hlt : n < 2 ^ 32) (heven : n % 2 = 0) (hstep : (f sl.line).step = sl.line.step) :
    branch s sl i lat (BitVec.ofNat 64 n) f
      = .next (branched s sl { f sl.line with pc := BitVec.ofNat 48 n } lat) := by
  rw [branch_branched hr i lat (targetCause_even hlt heven) hstep, BitVec.toNat_ofNat, Nat.mod_eq_of_lt (by omega)]

/-- Settles O8: a loop by its end and its count; firing by the two tests of R101's program. -/
theorem loopsOpenAndFire : Obligations.LoopsOpenAndFire := by
  refine ⟨fun p k c len L s sl hL hr => ⟨fun hend => ?_, fun hend hn => ?_, fun hend hn heven => ?_⟩, fun l i => ?_⟩
  · exact (exec_loop_eq hL hr).trans (if_pos hend)
  · refine (exec_loop_eq hL hr).trans ((if_neg (Nat.not_le.mpr hend)).trans ((if_neg hn).trans ?_))
    exact complete_after hr s _ latA (Line.openLoop_step ..)
  · refine (exec_loop_eq hL hr).trans ((if_neg (Nat.not_le.mpr hend)).trans ((if_pos hn).trans ?_))
    exact branch_to_offset hr _ latA hend heven (Line.openLoop_step ..)
  · refine l.fire_eq_firing i _ fun k => ?_
    cases i with
    | loop p j c len => exact beq_eq_decide_some j k
    | _ => rfl

end Sys2Proof.Machine

/-! # What the device's own operations leave alone

Writes of memory by the device, counts, events, flags and the abandoning of partial commands change neither who issues nor
where a line lies. `Undisturbed s t` lists what such an operation keeps; it composes, so a lemma for each operation gives
the frame of migration, retirement and spawn (O18, O19). -/

namespace Sys2Proof.Machine

/-- From `s` to `t` the issuing way, the cycles, the lines in their ways, the places of contexts, the named RCBs, the
launch pool, the packets and the nodes of VFs stay as they were, and no waiter comes. -/
structure Undisturbed (s t : State) : Prop where
  run : t.run = s.run
  cycle : t.cycle = s.cycle
  skipped : ∀ d, (t.die d).skipped = (s.die d).skipped
  ways : ∀ c, (t.core c).ways = (s.core c).ways
  ctxs : t.ctxs = s.ctxs
  rcbs : t.rcbs = s.rcbs
  pool : t.pool = s.pool
  packets : t.packets = s.packets
  node : ∀ v, (t.vf v).node = (s.vf v).node
  waiters : t.waiters ⊆ s.waiters

/-- The whole fields of the state in which `Undisturbed` says that something stays. -/
def State.undisturbedFields (s : State) :=
  (s.run, s.cycle, s.dies, s.cores, s.ctxs, s.rcbs, s.pool, s.packets, s.vfs, s.waiters)

namespace Undisturbed

theorem of_fields {s t : State} (h : t.undisturbedFields = s.undisturbedFields) : Undisturbed s t := by
  simp only [State.undisturbedFields, Prod.mk.injEq] at h
  obtain ⟨hrun, hcycle, hdies, hcores, hctxs, hrcbs, hpool, hpackets, hvfs, hwaiters⟩ := h
  exact ⟨hrun, hcycle, fun d => by rw [State.die, hdies, State.die],
    fun c => by rw [State.core, hcores, State.core], hctxs,
    hrcbs, hpool, hpackets, fun v => by rw [State.vf, hvfs, State.vf], fun w hw => hwaiters ▸ hw⟩

theorem refl (s : State) : Undisturbed s s := of_fields rfl

theorem trans {s t u : State} (h : Undisturbed s t) (k : Undisturbed t u) : Undisturbed s u where
  run := k.run.trans h.run
  cycle := k.cycle.trans h.cycle
  skipped d := (k.skipped d).trans (h.skipped d)
  ways c := (k.ways c).trans (h.ways c)
  ctxs := k.ctxs.trans h.ctxs
  rcbs := k.rcbs.trans h.rcbs
  pool := k.pool.trans h.pool
  packets := k.packets.trans h.packets
  node v := (k.node v).trans (h.node v)
  waiters := List.Subset.trans k.waiters h.waiters

/-- A fold of operations that disturb nothing disturbs nothing. -/
theorem foldl {β : Type} (f : State → β → State) (hf : ∀ t b, Undisturbed t (f t b)) (l : List β) (s : State) :
    Undisturbed s (l.foldl f s) :=
  foldl_keeps (Undisturbed s) f (fun t b h => h.trans (hf t b)) l s (refl s)

theorem coreCycle {s t : State} (h : Undisturbed s t) (c : Nat) : t.coreCycle c = s.coreCycle c := by
  rw [State.coreCycle, h.cycle, h.skipped, State.coreCycle]

theorem slot {s t : State} (h : Undisturbed s t) (c w : Nat) : t.slot? c w = s.slot? c w := by
  rw [State.slot?, h.ways, State.slot?]

theorem ctx {s t : State} (h : Undisturbed s t) (v i : Nat) : t.ctx? v i = s.ctx? v i := by
  rw [State.ctx?, h.ctxs, State.ctx?]

theorem placeOf {s t : State} (h : Undisturbed s t) (v i : Nat) : t.placeOf v i = s.placeOf v i := by
  rw [State.placeOf, h.ctx, State.placeOf]

theorem rcb {s t : State} (h : Undisturbed s t) (v a : Nat) : t.rcb? v a = s.rcb? v a := by
  rw [State.rcb?, h.rcbs, State.rcb?]

theorem lcore {s t : State} (h : Undisturbed s t) (v c : Nat) : t.lcore v c = s.lcore v c := by
  simp only [State.lcore, State.nodeOf, h.node]

end Undisturbed

/-! ## Updates of one unit -/

section
variable (s : State)

theorem State.setCore_undisturbed (c : Nat) {k : Core} (hk : k.ways = (s.core c).ways := by rfl) :
    Undisturbed s (s.setCore c k) where
  run := rfl
  cycle := rfl
  skipped _ := rfl
  ways j := by
    by_cases hj : j = c
    · rw [hj, State.core_setCore, hk]
    · rw [State.core_setCore_ne _ _ _ _ hj]
  ctxs := rfl
  rcbs := rfl
  pool := rfl
  packets := rfl
  node _ := rfl
  waiters _ h := h

theorem State.setDie_undisturbed (d : Nat) {x : Die} (hx : x.skipped = (s.die d).skipped := by rfl) :
    Undisturbed s (s.setDie d x) where
  run := rfl
  cycle := rfl
  skipped j := by
    by_cases hj : j = d
    · rw [hj, State.die_setDie, hx]
    · rw [State.die, State.setDie, Tab.get_set_ne _ _ _ _ _ hj, State.die]
  ways _ := rfl
  ctxs := rfl
  rcbs := rfl
  pool := rfl
  packets := rfl
  node _ := rfl
  waiters _ h := h

theorem State.setVf_undisturbed (v : Nat) {x : Vf} (hx : x.node = (s.vf v).node := by rfl) :
    Undisturbed s (s.setVf v x) where
  run := rfl
  cycle := rfl
  skipped _ := rfl
  ways _ := rfl
  ctxs := rfl
  rcbs := rfl
  pool := rfl
  packets := rfl
  node j := by
    by_cases hj : j = v
    · rw [hj, State.vf_setVf, hx]
    · rw [State.vf_setVf_ne _ _ _ _ hj]
  waiters _ h := h

theorem State.setCluster_undisturbed (cl : Nat) (k : Cluster) : Undisturbed s (s.setCluster cl k) := .of_fields rfl

theorem Tab.get_map_ways (t : Tab Core) (f : Nat × Core → Nat × Core) (hkey : ∀ e, (f e).1 = e.1)
    (hways : ∀ e, (f e).2.ways = e.2.ways) (c : Nat) :
    (Tab.get (t.map f) c Core.reset).ways = (Tab.get t c Core.reset).ways := by
  induction t with
  | nil => rfl
  | cons e t ih =>
    simp only [List.map_cons, Tab.get, hkey]
    split
    · exact hways e
    · exact ih

/-- A change of every core that leaves the ways alone. -/
theorem State.mapCores_undisturbed (f : Nat × Core → Nat × Core) (hkey : ∀ e, (f e).1 = e.1)
    (hways : ∀ e, (f e).2.ways = e.2.ways) : Undisturbed s { s with cores := s.cores.map f } where
  run := rfl
  cycle := rfl
  skipped _ := rfl
  ways := Tab.get_map_ways s.cores f hkey hways
  ctxs := rfl
  rcbs := rfl
  pool := rfl
  packets := rfl
  node _ := rfl
  waiters _ h := h

/-- A change of memory alone. -/
theorem State.mem_undisturbed (m : Memory) : Undisturbed s { s with mem := m } := .of_fields rfl

theorem State.drawn_undisturbed : Undisturbed s s.drawn := .of_fields rfl

/-! ## Counters, flags and events -/

theorem State.count_undisturbed (v code n : Nat) : Undisturbed s (s.count v code n) := by
  obtain ⟨_, h⟩ := s.count_eq v code n
  rw [h]
  exact .of_fields rfl

theorem State.setFlag_undisturbed (cl v bit : Nat) : Undisturbed s (s.setFlag cl v bit) := s.setCluster_undisturbed ..

theorem State.capture_undisturbed (v addr code : Nat) : Undisturbed s (s.capture v addr code) := by
  unfold State.capture
  dsimp only
  split
  · exact .refl s
  · exact (s.setVf_undisturbed v (x := { s.vf v with errs := _ })).trans (.of_fields rfl)

theorem State.countErr_undisturbed (v addr code : Nat) : Undisturbed s (s.countErr v addr code) :=
  (s.setVf_undisturbed v).trans (State.capture_undisturbed ..)

theorem State.dropEvent_undisturbed (d v slot : Nat) : Undisturbed s (s.dropEvent d v slot) := by
  unfold State.dropEvent
  dsimp only
  split
  · exact s.count_undisturbed ..
  · exact (s.setDie_undisturbed d).trans (State.count_undisturbed ..)

theorem State.yEvent_undisturbed (d v cls port : Nat) (fields : List Word) :
    Undisturbed s (s.yEvent d v cls port fields) := by
  refine .foldl _ (fun t slot => ?_) _ s
  dsimp only
  split
  next => exact .refl t
  next f _ =>
    generalize (if f.attached && f.cls = cls then { f with seen := f.seen + 1 } else f) = f'
    have hseen := t.setDie_undisturbed d (x := { t.die d with filters := (t.die d).filters.set (8 * v + slot) f' })
    split_ifs
    · exact hseen
    · exact hseen.trans (State.dropEvent_undisturbed ..)
    · exact hseen.trans (State.setDie_undisturbed _ d)
    · exact hseen.trans (State.dropEvent_undisturbed ..)

/-- A wake takes waiters from the list and brings none. -/
theorem State.wake_undisturbed (loc : Loc) (n : Nat) (must : Waiter → Bool) : Undisturbed s (s.wake loc n must) := by
  refine .foldl _ (fun t w => ?_) _ s
  have hgone (d : Nat) (es : List (Who × Event)) :
      Undisturbed t { t with draws := d, waiters := t.waiters.erase w, events := es } :=
    ⟨rfl, rfl, fun _ => rfl, fun _ => rfl, rfl, rfl, rfl, rfl, fun _ => rfl, List.erase_subset⟩
  dsimp only
  split_ifs
  · exact hgone ..
  · exact hgone ..
  · exact .of_fields rfl
  · exact .refl t

/-! ## Lines of the LLC and of the core caches -/

theorem State.cacheS2_undisturbed (v gpage : Nat) (write : Bool) : Undisturbed s (s.cacheS2 v gpage write) := by
  unfold State.cacheS2
  split
  · exact .refl s
  · exact s.setDie_undisturbed _

theorem State.dropCopies_undisturbed (v line : Nat) : Undisturbed s (s.dropCopies v line) :=
  s.mapCores_undisturbed _ (fun _ => rfl) fun _ => rfl

theorem State.putLlc_undisturbed (l : LlcLine) : Undisturbed s (s.putLlc l) := .of_fields rfl

theorem State.keepLine_undisturbed (l : LlcLine) (noAlloc : Bool) : Undisturbed s (s.keepLine l noAlloc) := by
  unfold State.keepLine
  split_ifs
  · exact (s.dropCopies_undisturbed ..).trans ((State.putLlc_undisturbed ..).trans (State.cacheS2_undisturbed ..))
  · exact s.putLlc_undisturbed l
  · exact (s.putLlc_undisturbed l).trans (State.cacheS2_undisturbed ..)
  · exact s.mem_undisturbed _
  · exact .refl s

theorem State.recall_undisturbed (l : LlcLine) (m : BitVec 16) (inval : Bool) (e : Option Nat) :
    Undisturbed s (s.recall l m inval e).1 := by
  refine s.mapCores_undisturbed _ (fun x => ?_) fun x => ?_
  all_goals
    split
    · rfl
    · split_ifs <;> rfl

theorem State.hostMerge_undisturbed (h : Nat) (data : BitVec 512) (dirty : BitVec 16) :
    Undisturbed s (s.hostMerge h data dirty) := by
  unfold State.hostMerge
  split
  · exact .refl s
  · exact s.mem_undisturbed _

theorem State.hostRecall_undisturbed (h : Nat) (inval : Bool) (e : Option Nat) :
    Undisturbed s (s.hostRecall h inval e) := by
  have hmerge : Undisturbed s (if s.hostDirty h = 0 then s else s.hostMerge h (s.hostOverlay h 0) (s.hostDirty h)) := by
    split
    · exact .refl s
    · exact s.hostMerge_undisturbed ..
  exact hmerge.trans (State.mapCores_undisturbed _ _ (fun _ => rfl) fun _ => rfl)

/-! ## Writes of memory -/

theorem State.putWord_undisturbed (loc : Loc) (w : Word8) (secure : Bool) (n : Nat) :
    Undisturbed s (s.putWord loc w secure n) := by
  cases loc with
  | scratch | cluster => exact s.mem_undisturbed _
  | paged v gpa =>
    simp only [State.putWord]
    split
    · split
      · exact .refl s
      · split
        · exact .refl s
        · exact (s.hostRecall_undisturbed ..).trans (State.mem_undisturbed ..)
    · split
      · exact .refl s
      · exact (s.recall_undisturbed ..).trans (State.keepLine_undisturbed ..)

theorem State.performWord_undisturbed (loc : Loc) (n : Nat) (w w' : Word8) (secure : Bool) :
    Undisturbed s (s.performWord loc n w w' secure) :=
  (s.putWord_undisturbed ..).trans (State.wake_undisturbed ..)

theorem State.gpaWrite_undisturbed (v gpa : Nat) (val : Word) : Undisturbed s (s.gpaWrite v gpa val) := by
  unfold State.gpaWrite
  split
  · exact s.countErr_undisturbed ..
  · exact s.performWord_undisturbed ..

theorem State.gpaWriteThrough_undisturbed (v gpa : Nat) (val : Word) :
    Undisturbed s (s.gpaWriteThrough v gpa val) := by
  have hwrite := s.gpaWrite_undisturbed v gpa val
  unfold State.gpaWriteThrough
  split
  · exact hwrite
  · split
    · exact s.countErr_undisturbed ..
    · dsimp only
      split
      · exact hwrite
      · split_ifs
        · exact hwrite
        · exact hwrite.trans (.of_fields rfl)
        · exact hwrite.trans (.of_fields rfl)

theorem State.touchLlc_undisturbed (v gpa : Nat) (write noAlloc fetch : Bool) :
    Undisturbed s (s.touchLlc v gpa write noAlloc fetch) := by
  unfold State.touchLlc
  split
  · exact .refl s
  · split
    · exact s.count_undisturbed ..
    · split
      · exact .refl s
      · have hmiss (die : Nat) (fields : List Word) : Undisturbed s ((s.drawn.count v 0x41 1).yEvent die v 3 0 fields) :=
          (s.drawn_undisturbed.trans (State.count_undisturbed ..)).trans (State.yEvent_undisturbed ..)
        dsimp only
        split
        · exact hmiss ..
        · exact (hmiss ..).trans (State.keepLine_undisturbed ..)

theorem State.touchAll_undisturbed (v : Nat) (gpas : List Nat) (write : Bool) :
    Undisturbed s (s.touchAll v gpas write) :=
  .foldl _ (fun t _ => t.touchLlc_undisturbed ..) _ s

theorem State.writeCopy_undisturbed (v i : Nat) (l : Line) : Undisturbed s (s.writeCopy v i l) :=
  (s.touchAll_undisturbed ..).trans (.foldl _ (fun t _ => t.gpaWrite_undisturbed ..) _ _)

/-! ## Headrace's writes of an RCB (R318) -/

theorem State.headraceMarks_undisturbed (v linear : Nat) (write : Bool) :
    Undisturbed s (s.headraceMarks v linear write) := by
  unfold State.headraceMarks
  split
  · exact .refl s
  · split
    · exact .refl s
    · dsimp only
      generalize (_ ||| _ ||| _ : Word) = e
      split
      · exact .refl s
      · exact s.gpaWrite_undisturbed ..

theorem State.rcbWrite_undisturbed (v addr dw : Nat) (val : Word) : Undisturbed s (s.rcbWrite v addr dw val) := by
  unfold State.rcbWrite
  split
  · exact .refl s
  · exact (s.headraceMarks_undisturbed ..).trans (State.gpaWriteThrough_undisturbed ..)

theorem State.rcbUpdate_undisturbed (v addr dw : Nat) (f : Word → Word) :
    Undisturbed s (s.rcbUpdate v addr dw f) := by
  unfold State.rcbUpdate
  split
  · exact .refl s
  · exact s.rcbWrite_undisturbed ..

theorem State.rcbField_undisturbed (v addr dw lo n val : Nat) : Undisturbed s (s.rcbField v addr dw lo n val) :=
  s.rcbUpdate_undisturbed ..

/-! ## Partial commands (R168) -/

theorem State.completionFlags_undisturbed (c v port : Nat) (dw0 dw1 : Word) :
    Undisturbed s (s.completionFlags c v port dw0 dw1) := by
  have hflag : Undisturbed s (if (dw0.extractLsb' 16 4).toNat = 0 then s else s.setFlag (clusterOf c) v port) := by
    split
    · exact .refl s
    · exact s.setFlag_undisturbed ..
  unfold State.completionFlags
  dsimp only
  split
  · exact hflag.trans (State.countErr_undisturbed ..)
  · exact hflag

theorem State.completionHeld_undisturbed (c : Nat) (e : Completion) : Undisturbed s (s.completionHeld c e) :=
  (s.completionFlags_undisturbed ..).trans ((State.count_undisturbed ..).trans (State.yEvent_undisturbed ..))

theorem State.abandon_undisturbed (c : Nat) (w : Who) : Undisturbed s (s.abandon c w) :=
  .foldl _ (fun t _ => (t.setCore_undisturbed c).trans
    ((State.setFlag_undisturbed ..).trans (State.completionHeld_undisturbed ..))) _ s

theorem State.forget_undisturbed (c : Nat) (w : Who) : Undisturbed s (s.forget c w) :=
  (s.abandon_undisturbed c w).trans (State.setCore_undisturbed _ c)

end

end Sys2Proof.Machine

/-! # O18: fences wait, and migration departs

A fence and a `mig` at home complete, or are held until their context's earlier accesses are performed (`drained_iff`,
R106). Any other `mig` traps or departs: `depart` abandons and forgets what its core holds for the context, frees the way
and sends the line (`depart_next`, R153, R154). -/

namespace Sys2Proof.Machine
open Sys2Proof.Claims

/-! ## Fences (R106) -/

theorem fenceOrder_eq (p : Pre) : fenceOrder p = fenceOf p := by
  unfold fenceOrder fenceOf
  cases p.order <;> rfl

theorem drained_iff (s : State) (w : Who) (adaptive : Bool) : s.drained w adaptive = true ↔ Drained s w adaptive := by
  simp only [State.drained, Drained, List.all_eq_true, Bool.or_eq_true, Bool.and_eq_true, decide_eq_true_eq,
    Bool.not_eq_true', ne_eq, imp_iff_not_or]

theorem exec_fence_eq {p : Pre} {s : State} {sl : Slot} (hr : Ready s sl p) :
    exec (.fence p) s =
      if (fenceOf p).1 = 1 then complete s sl (.fence p) latA
      else if !s.drained sl.who (5 ≤ (fenceOf p).2.toNat) then hold s sl (.fence p)
      else complete (if (fenceOf p).2 = 6 then s.systemRelease s.run.1 sl.line.vfid.toNat else s) sl (.fence p) latA := by
  rw [exec_fence, execFence, guarded_ready hr, fenceOrder_eq]
  rfl

/-! ## Pointers (R29, R30) -/

theorem ptrSeg_eq (q : Word) : ptrSeg q = q.toNat / 2 ^ 61 := by
  have hlt : q.toNat < 2 ^ 64 := q.isLt
  rw [ptrSeg, BitVec.extractLsb'_toNat, Nat.shiftRight_eq_div_pow]
  omega

theorem ptrOff_eq (q : Word) : ptrOff q = q.toNat % 2 ^ 48 := by
  rw [ptrOff, BitVec.extractLsb'_toNat, Nat.shiftRight_zero]

theorem ptrHigh_iff (q : Word) : ptrHigh q = true ↔ q.toNat / 2 ^ 48 % 2 ^ 13 ≠ 0 := extractLsb'_ne_zero_iff ..

theorem limitCheck_iff (sl : Slot) (q : Word) : limitCheck (sl.seg (ptrSeg q)) q 1 = true ↔ InLimit sl q := by
  rw [limitCheck, ptrSeg_eq, ptrOff_eq, Bool.and_eq_true, Bool.and_eq_true, decide_eq_true_eq, Bool.not_eq_true',
    ← Bool.not_eq_true, ptrHigh_iff, not_not, InLimit, and_assoc]

/-! ## mig (R153, R154) -/

section
variable {p : Pre} {a : BitVec 3} {s : State} {sl : Slot} (hr : Ready s sl p)
include hr

theorem exec_mig_refused (h : ¬ InLimit sl (sl.line.reg a)) :
    exec (.mig p a) s = .next (trapped s sl (.mig p a) 0x03 (sl.line.reg a)) := by
  rw [exec_mig, execMig, guarded_ready hr]
  dsimp only
  rw [Bool.eq_false_iff.mpr (mt (limitCheck_iff ..).mp h)]
  rfl

/-- Past the limit check, the home of the pointer decides. -/
theorem exec_mig_inLimit (h : InLimit sl (sl.line.reg a)) :
    exec (.mig p a) s = (homeAt s sl (sl.line.reg a)).elim (trapOut s sl (.mig p a) causeMigrate (sl.line.reg a)) fun c =>
      if c ≠ s.run.1 then migrate s sl (.mig p a) c (sl.line.reg a)
      else if !s.drained sl.who false then hold s sl (.mig p a)
      else complete (s.abandon s.run.1 sl.who) sl (.mig p a) latA := by
  rw [exec_mig, execMig, guarded_ready hr]
  dsimp only
  rw [(limitCheck_iff ..).mpr h, homeAt, ← ptrSeg_eq, ← ptrOff_eq]
  cases s.homeCore s.run.1 sl.line.vfid.toNat (sl.seg (ptrSeg (sl.line.reg a))) (ptrOff (sl.line.reg a)) <;> rfl

end

/-! ## Departure (R154, R173, R308) -/

theorem Tab.find_erase_same {α : Type} (t : Tab α) (k : Nat) : Tab.find (Tab.erase t k) k = none := by
  induction t with
  | nil => rfl
  | cons e t ih =>
    by_cases h : e.1 = k
    · simpa [Tab.erase, h] using ih
    · simpa [Tab.erase, h, Tab.find] using ih

/-- A freed way holds no line. -/
@[simp] theorem State.slot_freeWay (s : State) (c w : Nat) : (s.freeWay c w).slot? c w = none := by
  rw [State.slot?, State.freeWay, State.core_setCore, Tab.find_erase_same]

/-- A line as it sets out for a core (R154). -/
def Line.departing (l : Line) (dst : Nat) : Line :=
  { l with wt := .migrate, wtArg := BitVec.ofNat 28 dst, ccore := BitVec.ofNat 12 dst }

/-- What a departing context leaves behind: its core forgets it, and its way is free. -/
def State.vacated (s : State) (w : Who) : State := ((s.abandon s.run.1 w).forget s.run.1 w).freeWay s.run.1 s.run.2

theorem State.forgotten_undisturbed (s : State) (w : Who) : Undisturbed s ((s.abandon s.run.1 w).forget s.run.1 w) :=
  (s.abandon_undisturbed ..).trans (State.forget_undisturbed ..)

@[simp] theorem State.vacated_packets (s : State) (w : Who) : (s.vacated w).packets = s.packets :=
  (s.forgotten_undisturbed w).packets
@[simp] theorem State.vacated_ctx (s : State) (w : Who) (v k : Nat) : (s.vacated w).ctx? v k = s.ctx? v k :=
  (s.forgotten_undisturbed w).ctx v k
@[simp] theorem State.vacated_mem (s : State) (w : Who) : (s.vacated w).mem = s.mem := by
  simp [State.vacated]
@[simp] theorem State.slot_vacated (s : State) (w : Who) : (s.vacated w).slot? s.run.1 s.run.2 = none :=
  State.slot_freeWay ..

@[simp] theorem State.sendPacket_ctx (s : State) (p : Packet) (v k : Nat) : (s.sendPacket p).ctx? v k = s.ctx? v k := rfl
@[simp] theorem State.sendPacket_mem (s : State) (p : Packet) : (s.sendPacket p).mem = s.mem := rfl
@[simp] theorem State.sendPacket_slot (s : State) (p : Packet) (c w : Nat) : (s.sendPacket p).slot? c w = s.slot? c w := rfl

@[simp] theorem State.sendPacket_packets (s : State) (p : Packet) :
    (s.sendPacket p).packets = s.packets ++ [{ p with seq := (s.cluster p.cluster).nextSeq }] := rfl

/-- The packet in which a context's line departs, before the send numbers it. -/
def State.departure (s : State) (l : Line) (v k dest : Nat) : Packet where
  launch := false
  src := s.lcore v s.run.1
  dst := s.lcore v dest
  vf := v
  index := k
  line := l.departing (s.lcore v dest)
  cluster := clusterOf s.run.1
  seq := 0
  arrived := none
  completions := ((s.abandon s.run.1 (.ctx v k)).core s.run.1).held.filter fun e => e.who = .ctx v k
  reserved := ((s.abandon s.run.1 (.ctx v k)).core s.run.1).reserved.filter fun e => e.1 = .ctx v k

/-- A departure: the context leaves its core, and a packet with its line sets out. -/
theorem depart_eq {s : State} {v k : Nat} {x : Ctx} (sl : Slot) (dest : Nat) (hx : s.ctx? v k = some x)
    (hroom : (s.cluster (clusterOf s.run.1)).replay.length < 512) :
    depart s sl v k dest = .next ((((s.vacated (.ctx v k)).sendPacket (s.departure sl.line v k dest)).setCtx v k
      { x with place := .flight }).count v 0x21 1) := by
  have hfull : (s.cluster (clusterOf s.run.1)).full = false := by
    rw [Cluster.full, decide_eq_false_iff_not, Nat.not_le]; exact hroom
  have hx' : (s.vacated (.ctx v k)).ctx? v k = some x := by rw [State.vacated_ctx, hx]
  rw [State.vacated] at hx'
  simp only [depart, hfull, Bool.false_eq_true, if_false, (s.abandon_undisturbed ..).lcore, State.sendPacket_ctx, hx']
  rfl

/-- A departing context's line is in a packet to its destination, and its way is free. -/
theorem depart_next {s : State} {sl : Slot} {v k dest : Nat} {x : Ctx} (hx : s.ctx? v k = some x)
    (hroom : (s.cluster (clusterOf s.run.1)).replay.length < 512) :
    ∃ t pk, depart s sl v k dest = .next t ∧ t.packets = s.packets ++ [pk] ∧ pk.launch = false ∧ pk.vf = v ∧
      pk.index = k ∧ pk.dst = s.lcore v dest ∧ pk.arrived = none ∧ pk.line = sl.line.departing (s.lcore v dest) ∧
      t.slot? s.run.1 s.run.2 = none ∧ t.placeOf v k = some .flight ∧ t.mem = s.mem := by
  have hcount := State.count_undisturbed
  refine ⟨_, { s.departure sl.line v k dest with seq := ((s.vacated (.ctx v k)).cluster (clusterOf s.run.1)).nextSeq },
    depart_eq sl dest hx hroom, (hcount ..).packets.trans ?_, rfl, rfl, rfl, rfl, rfl, rfl,
    ((hcount ..).slot ..).trans ?_, ((hcount ..).placeOf ..).trans ?_, ?_⟩
  · rw [State.setCtx_packets, State.sendPacket_packets, State.vacated_packets]
    rfl
  · rw [State.slot?, State.core_setCtx, ← State.slot?, State.sendPacket_slot, State.slot_vacated]
  · rw [State.placeOf, State.ctx_setCtx]; rfl
  · rw [State.count_mem, State.setCtx_mem, State.sendPacket_mem, State.vacated_mem]

/-- Settles O18: a fence by its order and by what is drained; mig by its pointer's limit, its home and who migrates. -/
theorem fencesWaitAndMigrationDeparts : Obligations.FencesWaitAndMigrationDeparts := by
  refine ⟨fun p s sl hr => ⟨fun ho => ?_, fun ho hd => ?_, fun ho hd => ?_⟩,
    fun p a s sl hr => ⟨exec_mig_refused hr, fun hin hhome => ?_, fun hin hhome hd => ?_,
      fun c hin hhome hc => ⟨?_, ?_⟩⟩⟩
  · rw [exec_fence_eq hr]
    exact (if_pos ho).trans (complete_after hr s _ latA rfl)
  · rw [exec_fence_eq hr, if_neg ho, (drained_iff ..).mpr hd]
    exact complete_after hr _ _ latA rfl
  · rw [exec_fence_eq hr, if_neg ho, Bool.eq_false_iff.mpr (mt (drained_iff ..).mp hd)]
    rfl
  · rw [exec_mig_inLimit hr hin, hhome]
    rfl
  · rw [exec_mig_inLimit hr hin, hhome, Option.elim_some, if_neg (not_not.mpr rfl), (drained_iff ..).mpr hd]
    exact complete_after hr _ _ latA rfl
  · intro k w n v hwho
    rw [exec_mig_inLimit hr hin, hhome, Option.elim_some, if_pos hc, migrate, hwho]
    rfl
  · intro v k x hwho hx hroom
    rw [exec_mig_inLimit hr hin, hhome, Option.elim_some, if_pos hc, migrate, hwho]
    exact depart_next hx hroom

end Sys2Proof.Machine

/-! # O19: exit retires its context, and spawn draws on its quota

Retirement writes the line home, frees its way, drops what waits for the context and records it (`retire_eq`); only the
freeing and the record disturb anything (R32, R108). A spawn from a quota with a reservation left changes the RCB's record
and the pool, besides the RCB's own words (R156). -/

namespace Sys2Proof.Machine
open Sys2Proof.Claims

/-! ## Retirement (R32, R329) -/

theorem State.dropWatch_undisturbed (s : State) (v : Nat) (tval : Word) : Undisturbed s (s.dropWatch v tval) :=
  s.dropEvent_undisturbed ..

theorem State.dropWatches_undisturbed (s : State) (v i : Nat) : Undisturbed s (s.dropWatches v i) := by
  refine .foldl _ (fun t e => ?_) _ s
  split
  · split_ifs
    · exact t.dropWatch_undisturbed ..
    · exact .refl t
  · exact .refl t

/-- Dropping what waits for a context leaves every line in its way. -/
theorem State.dropEvents_undisturbed (s : State) (v i : Nat) : Undisturbed s (s.dropEvents v i) := by
  have hcores := (s.dropWatches v i).mapCores_undisturbed (fun e => (e.1, { e.2 with
      pulls := e.2.pulls.filter fun q => !(q.1 = v && q.2.1 = i)
      deliveries := e.2.deliveries.filter fun d => d ≠ .parked v i })) (fun _ => rfl) fun _ => rfl
  exact (s.dropWatches_undisturbed v i).trans
    { hcores with waiters := List.filter_subset_self _ }

theorem State.dropEvents_waiters (s : State) (v i : Nat) : ∀ w ∈ (s.dropEvents v i).waiters, w.who ≠ .ctx v i := by
  intro w hw
  exact of_decide_eq_true (List.mem_filter.mp hw).2

/-- An RCB's live count is Headrace's record and a word of the RCB: only the records change besides. -/
theorem State.setLive_eq (s : State) (v addr : Nat) (f : Nat → Nat) :
    ∃ rs, Undisturbed { s with rcbs := rs } (s.setLive v addr f) := by
  unfold State.setLive
  split
  · exact ⟨s.rcbs, .refl s⟩
  · dsimp only
    split
    · exact ⟨s.rcbs, s.rcbUpdate_undisturbed ..⟩
    · exact ⟨_, State.rcbUpdate_undisturbed ..⟩

theorem State.unlive_eq (s : State) (v : Nat) (c : Ctx) :
    ∃ rs as, Undisturbed { s with rcbs := rs, ancestors := as } (s.unlive v c) := by
  unfold State.unlive
  split
  · obtain ⟨rs, h⟩ := s.setLive_eq v c.rcb (· - 1)
    exact ⟨rs, s.ancestors, h⟩
  · dsimp only
    generalize s.ancestors.map _ = as
    split
    · exact ⟨s.rcbs, as, .refl _⟩
    · obtain ⟨rs, h⟩ := State.setLive_eq { s with ancestors := as } v c.rcb (· - 1)
      exact ⟨rs, as, h⟩

/-- A retiring context's line is in its memory copy too. -/
def State.sentHome (s : State) (v i : Nat) : State := (s.lineOf v i).elim s (s.writeCopy v i)

/-- The line of a retiring context has left its way, and what waited for the context is dropped. -/
def State.leftWay (s : State) (v i c w : Nat) : State := ((s.sentHome v i).freeWay c w).dropEvents v i

/-- The same, with the context's WATCH counted as dropped. -/
def State.unwatched (s : State) (v i c w : Nat) (watch : Option Word) : State :=
  watch.elim (s.leftWay v i c w) ((s.leftWay v i c w).dropWatch v)

theorem State.sentHome_undisturbed (s : State) (v i : Nat) : Undisturbed s (s.sentHome v i) := by
  unfold State.sentHome
  cases s.lineOf v i with
  | none => exact .refl s
  | some l => exact s.writeCopy_undisturbed ..

theorem State.unwatched_undisturbed (s : State) (v i c w : Nat) (watch : Option Word) :
    Undisturbed (s.leftWay v i c w) (s.unwatched v i c w watch) := by
  cases watch with
  | none => exact .refl _
  | some tval => exact State.dropWatch_undisturbed ..

theorem State.removeLine_l1 {s : State} {v i c w : Nat} (h : s.placeOf v i = some (.l1 c w)) :
    s.removeLine v i = s.freeWay c w := by
  rw [State.removeLine, h]

theorem State.retire_eq {s : State} {v i c w : Nat} {x : Ctx} (hx : s.ctx? v i = some x) (hplace : x.place = .l1 c w) :
    s.retire v i
      = ((s.unwatched v i c w x.watch).setCtx v i (Ctx.mk .retired x.rcb none false none false none)).unlive v x := by
  have hfree : (s.sentHome v i).removeLine v i = (s.sentHome v i).freeWay c w := by
    apply State.removeLine_l1
    rw [(s.sentHome_undisturbed v i).placeOf, State.placeOf, hx, Option.map_some, hplace]
  rw [State.unwatched, State.leftWay, ← hfree, State.retire, hx, State.sentHome]
  cases s.lineOf v i <;> rfl

/-- A context that retires from a way leaves it empty, waits for nothing, and is recorded as retired for its RCB. -/
theorem State.retire_spec {s : State} {v i c w : Nat} {x : Ctx} (hx : s.ctx? v i = some x) (hplace : x.place = .l1 c w) :
    (s.retire v i).ctx? v i = some (Ctx.mk .retired x.rcb none false none false none) ∧
      (s.retire v i).slot? c w = none ∧ ∀ y ∈ (s.retire v i).waiters, y.who ≠ .ctx v i := by
  have hwatch := s.unwatched_undisturbed v i c w x.watch
  obtain ⟨rs, as, h⟩ :=
    ((s.unwatched v i c w x.watch).setCtx v i (Ctx.mk .retired x.rcb none false none false none)).unlive_eq v x
  rw [← State.retire_eq hx hplace] at h
  refine ⟨(h.ctx v i).trans (State.ctx_setCtx ..), (h.slot c w).trans ((hwatch.slot c w).trans ?_), fun y hy => ?_⟩
  · rw [State.leftWay, (State.dropEvents_undisturbed ..).slot, State.slot_freeWay]
  · exact State.dropEvents_waiters _ v i y (hwatch.waiters (h.waiters hy))

/-! ## exit (R108) -/

/-- Once what comes before is drained, exit retires its context. -/
theorem exec_exit_retires {p : Pre} {s : State} {sl : Slot} {v k : Nat} (hr : Ready s sl p) (hwho : sl.who = .ctx v k)
    (hd : Drained (s.abandon s.run.1 sl.who) sl.who true) :
    ∃ line, exec (.exit p) s
      = .next (((s.abandon s.run.1 sl.who).putCur { sl with line := line, held := none }).retire v k) := by
  refine ⟨{ sl.line with pc := BitVec.ofNat 48 (sl.line.nextOff (.exit p)) }, ?_⟩
  rw [exec_exit, execExit, guarded_ready hr]
  simp only [hwho] at hd ⊢
  rw [(drained_iff ..).mpr hd]
  rfl

theorem exec_exit_handler {p : Pre} {s : State} {sl : Slot} {c w n v : Nat} (hr : Ready s sl p)
    (hwho : sl.who = .handler c w n v) :
    exec (.exit p) s = .next (trapped s sl (.exit p) 0x01 (Instr.packed (.exit p))) := by
  rw [exec_exit, execExit, guarded_ready hr]
  dsimp only
  rw [hwho]
  rfl

/-! ## spawn (R156) -/

theorem access_reaches {s : State} {sl : Slot} {q : Word} {n : Nat} {need : Need} {acc : Access} {g : Seg} {loc : Loc}
    {priv : Bool} (h : Reaches s sl q n need acc g loc priv) (i : Instr) (k : Seg → Loc → Bool → Out) :
    access s sl i q n need acc k = k g loc priv := by
  simp only [access, h.there, h.kept, Bool.false_eq_true, if_false]

/-- A record replaced by one of the same VF and address reads back. -/
theorem State.rcb_putRcb {s : State} {v a : Nat} {r x : Rcb} (hr : s.rcb? v a = some r) (hx : x.vf = r.vf)
    (ha : x.addr = r.addr) : (s.putRcb x).rcb? v a = some x := by
  have hkey : (fun y : Rcb => decide (y.vf = v) && decide (y.addr = a)) ∘
      (fun y => if y.vf = x.vf && y.addr = x.addr then x else y) = fun y => decide (y.vf = v) && decide (y.addr = a) := by
    funext y
    by_cases hy : y.vf = x.vf ∧ y.addr = x.addr <;> simp [hy]
  rw [State.rcb?] at hr
  rw [State.rcb?, State.putRcb, List.find?_map, hkey, hr, Option.map_some, hx, ha]
  simp

theorem State.setSused_undisturbed (s : State) (r : Rcb) (n : Nat) :
    Undisturbed (s.putRcb { r with sused := n }) (s.setSused r n) :=
  State.rcbField_undisturbed ..

theorem State.spawnFrom_some {s : State} {sl : Slot} {r : Rcb} (hr : s.rcb? sl.line.vfid.toNat sl.rcb = some r)
    (hadm : r.state = .admitted) (hfree : r.sused < r.squota) : s.spawnFrom sl = some r := by
  simp [State.spawnFrom, hr, hadm, hfree]

theorem State.spawnFrom_none {s : State} {sl : Slot}
    (h : ∀ r, s.rcb? sl.line.vfid.toNat sl.rcb = some r → r.state ≠ .admitted ∨ r.squota ≤ r.sused) :
    s.spawnFrom sl = none := by
  unfold State.spawnFrom
  cases hr : s.rcb? sl.line.vfid.toNat sl.rcb with
  | none => rfl
  | some r =>
    refine if_neg fun hc => ?_
    simp only [Bool.and_eq_true, decide_eq_true_eq] at hc
    obtain hadm | hfull := h r hr
    · exact hadm hc.1
    · exact Nat.not_lt.mpr hfull hc.2

/-- The pool entry of a spawned child (R156, R332). -/
def State.spawned (s : State) (sl : Slot) (child : Nat) (r : Rcb) : PoolEntry where
  vf := sl.line.vfid.toNat
  child := child
  parent := r.addr
  who := sl.who
  core := s.run.1
  after := s.posted
  chain := (r.order, r.cbud) :: r.chain

/-- The quota of a region has one reservation more, and the pool one child. -/
def State.reserved (s : State) (r : Rcb) (e : PoolEntry) : State :=
  let t := s.setSused r (r.sused + 1)
  { t with pool := t.pool ++ [e] }

theorem State.rcb_putCur (s : State) (sl : Slot) (v a : Nat) : (s.putCur sl).rcb? v a = s.rcb? v a := rfl

theorem State.reserved_pool (s : State) (r : Rcb) (e : PoolEntry) : (s.reserved r e).pool = s.pool ++ [e] :=
  congrArg (· ++ [e]) (s.setSused_undisturbed r _).pool

theorem State.reserved_rcb {s : State} {v a : Nat} {r : Rcb} (hr : s.rcb? v a = some r) (e : PoolEntry) :
    (s.reserved r e).rcb? v a = some { r with sused := r.sused + 1 } :=
  ((s.setSused_undisturbed r _).rcb v a).trans (State.rcb_putRcb hr rfl rfl)

theorem State.reserved_run (s : State) (r : Rcb) (e : PoolEntry) : (s.reserved r e).run = s.run :=
  (s.setSused_undisturbed r _).run

theorem State.reserved_coreCycle (s : State) (r : Rcb) (e : PoolEntry) (c : Nat) :
    (s.reserved r e).coreCycle c = s.coreCycle c :=
  (s.setSused_undisturbed r _).coreCycle c

section
variable {p : Pre} {d a : BitVec 3} {s : State} {sl : Slot} {g : Seg} {loc : Loc} {priv : Bool} (hr : Ready s sl p)
  (hreach : Reaches s sl (sl.line.reg a) 256 needLoad .read g loc priv)
include hr hreach

theorem exec_spawn_refused (h : s.spawnFrom sl = none) :
    exec (.spawn p d a) s = .next (after s sl (.spawn p d a) (sl.line.setPred (d.setWidth 5) false) 16) := by
  rw [exec_spawn, execSpawn, guarded_ready hr]
  dsimp only
  rw [access_reaches hreach, h]
  exact complete_after hr s _ latSpawn (Line.setPred_step ..)

theorem exec_spawn_taken {r : Rcb} (h : s.spawnFrom sl = some r) :
    exec (.spawn p d a) s
      = .next (after (s.reserved r (s.spawned sl (g.base + (sl.line.reg a).toNat % 2 ^ 48) r)) sl (.spawn p d a)
        (sl.line.setPred (d.setWidth 5) true) 16) := by
  rw [exec_spawn, execSpawn, guarded_ready hr]
  dsimp only
  rw [access_reaches hreach, h, ptrOff_eq]
  exact complete_after hr _ _ latSpawn (Line.setPred_step ..)

end

/-- Settles O19: exit by the retirement of its context, spawn by whether the quota has a reservation free. -/
theorem exitRetiresAndSpawnDrawsOnItsQuota : Obligations.ExitRetiresAndSpawnDrawsOnItsQuota := by
  refine ⟨fun p s sl hr => ⟨fun c w n v hwho => exec_exit_handler hr hwho, fun v k x hwho hx hplace hd => ?_⟩,
    fun p d a s sl g loc priv hr hreach => ⟨fun r hrcb hadm hfree => ?_, fun hnone => ?_⟩⟩
  · obtain ⟨line, hexec⟩ := exec_exit_retires hr hwho hd
    have hx' : ((s.abandon s.run.1 sl.who).putCur { sl with line := line, held := none }).ctx? v k = some x :=
      ((s.abandon_undisturbed ..).ctx v k).trans hx
    obtain ⟨hctx, hslot, hwait⟩ := State.retire_spec hx' hplace
    refine ⟨_, hexec, by rw [State.placeOf, hctx]; rfl, hslot, fun y hy => hwho ▸ hwait y hy, fun y hy => ?_⟩
    cases hctx.symm.trans hy
    exact ⟨rfl, rfl, rfl⟩
  · refine ⟨_, s.spawned sl (g.base + (sl.line.reg a).toNat % 2 ^ 48) r,
      exec_spawn_taken hr hreach (State.spawnFrom_some hrcb hadm hfree), s.reserved_pool r _, rfl, rfl, rfl, rfl,
      ?_, ?_⟩
    · rw [after, State.rcb_putCur, State.reserved_rcb hrcb]
    · rw [after, State.cur_putCur, State.reserved_run, State.reserved_coreCycle]
  · exact exec_spawn_refused hr hreach (State.spawnFrom_none hnone)

end Sys2Proof.Machine

/-! # The page-3 forms as their tables give them

Each page-3 form is a `tileOp` with the operands of `tileForm`, and what it makes of the bits of its operands is, element
by element, the result of its row (R126, R131 to R133): `runsItsRow_of_tileForm`. One lemma stands for each of the model's
shared forms `tbin`, `tun` and `tred`. -/

namespace Sys2Proof.Machine
open Sys2Proof.Claims

/-! ## What a form computes -/

/-- The function by which a form makes its results and flags from the bits that it reads. -/
abbrev TileFn := Line → Tiles → TileVals → List Nat × BitVec 16

/-- A page-3 form as `tileOp` runs it. -/
def runTileForm (f : TileForm) (i : Instr) (g : TileFn) (s : State) : Out :=
  tileOp s i f.pre f.a f.b f.d f.shape f.readsD f.special g

/-- The operands `t` and the bits `v` that a form reads, by element number: `A` of hA, `B` of hB as broadcast, `C` of the
old hD. -/
structure TileGathered (f : TileForm) (t : Tiles) (A B C : Nat → Nat) (v : TileVals) : Prop where
  a : ∀ h, f.a = some h → ∃ x, t.a = some x ∧ v.a = (List.range x.tile.elems).map A
  b : ∀ h, f.b = some h → ∃ x, t.b = some x ∧ v.b = (List.range t.d.tile.elems).map B
  d : f.readsD = true → v.d = (List.range t.d.tile.elems).map C
  elems : ∀ x, t.a = some x → f.shape ≠ .reduce → x.tile.elems = t.d.tile.elems
  rows : ∀ x, t.a = some x → f.shape = .reduce → x.tile.rows = t.d.tile.elems
  cols : ∀ x, t.a = some x → 0 < x.tile.cols

/-- Element by element of hD, `g` gives the results of the instruction's row. -/
def ComputesRow (i : Instr) (f : TileForm) (g : TileFn) : Prop :=
  ∀ l t A B C v, TileGathered f t A B C v →
    g l t v = gatherFlags ((List.range t.d.tile.elems).map
      (tileResult i l ((t.a.map Placed.tile).getD t.d.tile) ((t.b.map Placed.tile).getD t.d.tile) t.d.tile A B C))

/-- An instruction runs as a page-3 form that computes its row. -/
def RunsItsRow (i : Instr) (f : TileForm) (s : State) : Prop := ∃ g, exec i s = runTileForm f i g s ∧ ComputesRow i f g

/-- An element of hA, as a form reads it. -/
theorem Placed.elems_map (x : Placed) (l : Line) (L : List Nat) (A : Nat → Nat) :
    x.elems l (L.map A) = L.map fun e => elemAt l x.tile (A e) :=
  List.map_map ..

/-- Only an integer format reads integers (R123). -/
theorem le_fmt_of_elemAt_int {l : Line} {t : Tile} {bits : Nat} {v : Int} (h : elemAt l t bits = .int v) : 5 ≤ t.fmt := by
  by_contra hlt
  rw [elemAt] at h
  generalize t.fmt = n at h hlt
  have hn : n < 5 := Nat.lt_of_not_le hlt
  interval_cases n <;> cases h

theorem gatherFlags_flagless (bits : List Nat) : gatherFlags (bits.map fun b => (b, 0)) = (bits, 0) := by
  simp [gatherFlags, List.foldl_map, Function.comp_def]

section
variable {p : Pre} {d a b : BitVec 8} {i : Instr} {s : State}

/-! ## Two sources (R131) -/

/-- A result of two elements: exact between integer formats, else the value `r` delivered (R126). -/
def binResult (td : Tile) (l : Line) (fi : Int → Int → Int) (r : FVal × BitVec 16) (x y : Elem) : Nat × BitVec 16 :=
  match x, y with
  | .int u, .int v => if 5 ≤ td.fmt then td.deliver l (.int (fi u v)) else td.deliver l (.val r)
  | _, _ => td.deliver l (.val r)

theorem runsItsRow_of_tbin {fi : Int → Int → Int} {ff : Line → Elem → Elem → FVal × BitVec 16}
    (hexec : exec i s = tbin s i p d a b fi ff)
    (hrow : ∀ l ta tb td A B C e, tileResult i l ta tb td A B C e
      = binResult td l fi (ff l (elemAt l ta (A e)) (elemAt l tb (B e))) (elemAt l ta (A e)) (elemAt l tb (B e))) :
    RunsItsRow i ⟨p, some a, some b, d, false, false, .same⟩ s := by
  refine ⟨_, hexec, fun l t A B C v hv => ?_⟩
  obtain ⟨x, hx, hA⟩ := hv.a a rfl
  obtain ⟨y, hy, hB⟩ := hv.b b rfl
  rw [hv.elems x hx nofun] at hA
  simp only [hx, hy, hA, hB, optElems, Placed.elems_map, List.zip_map', List.map_map, Option.map_some, Option.getD_some]
  refine congrArg gatherFlags (List.map_congr_left fun e _ => ?_)
  rw [hrow, Function.comp]
  generalize elemAt l x.tile (A e) = u, elemAt l y.tile (B e) = w
  cases u with
  | int u =>
    cases w with
    | int w => by_cases hint : 5 ≤ t.d.tile.fmt <;> simp [binResult, fmtIsInt, hint]
    | _ => rfl
  | _ => rfl

theorem ite_lt_eq_min : (fun x y : Int => if y < x then y else x) = Min.min := by
  funext x y; split <;> omega

theorem ite_lt_eq_max : (fun x y : Int => if x < y then y else x) = Max.max := by
  funext x y; split <;> omega

theorem tfma_runsItsRow : RunsItsRow (.tfma p d a b) ⟨p, some a, some b, d, true, false, .same⟩ s := by
  refine ⟨_, exec_tfma .., fun l t A B C v hv => ?_⟩
  obtain ⟨x, hx, hA⟩ := hv.a a rfl
  obtain ⟨y, hy, hB⟩ := hv.b b rfl
  rw [hv.elems x hx nofun] at hA
  simp only [hx, hy, hA, hB, hv.d rfl, optElems, Placed.elems_map, List.zip_map', List.map_map, Option.map_some,
    Option.getD_some]
  refine congrArg gatherFlags (List.map_congr_left fun e _ => ?_)
  simp only [tileResult, Function.comp]
  generalize elemAt l x.tile (A e) = u, elemAt l y.tile (B e) = w, elemAt l t.d.tile (C e) = z
  cases u with
  | int _ =>
    cases w with
    | int _ => cases z <;> rfl
    | _ => rfl
  | _ => rfl

theorem keepsBits_eq (t td : Tile) :
    keepsBits t td = (t.fmt = td.fmt && ((t.fmt ≠ 3 && t.fmt ≠ 4) || t.scale = td.scale)) :=
  congrArg _ (Bool.or_comm ..)

theorem selElem_eq (l : Line) (ta tb td t : Tile) (bits : Nat) :
    selElem l td (fmtIsInt ta.fmt && fmtIsInt tb.fmt) t bits =
    if keepsBits t td then (bits, 0)
    else
      match elemAt l t bits with
      | .int u => if 5 ≤ ta.fmt ∧ 5 ≤ tb.fmt then td.deliver l (.int u) else td.deliver l (passed (elemAt l t bits).val)
      | _ => td.deliver l (passed (elemAt l t bits).val) := by
  rw [selElem, keepsBits_eq]
  split
  · rfl
  · rw [← elemAt]
    cases elemAt l t bits with
    | int u => by_cases ha : 5 ≤ ta.fmt <;> by_cases hb : 5 ≤ tb.fmt <;> simp [passElem, fmtIsInt, ha, hb, Elem.val]
    | _ => rfl

theorem tsel_runsItsRow : RunsItsRow (.tsel p d a b) ⟨p, some a, some b, d, true, false, .same⟩ s := by
  refine ⟨_, exec_tsel .., fun l t A B C v hv => ?_⟩
  obtain ⟨x, hx, hA⟩ := hv.a a rfl
  obtain ⟨y, hy, hB⟩ := hv.b b rfl
  rw [hv.elems x hx nofun] at hA
  simp only [hx, hy, hA, hB, hv.d rfl, Placed.elems_map, List.zip_map', List.map_map, Option.map_some, Option.getD_some,
    selElem_eq]
  refine congrArg gatherFlags (List.map_congr_left fun e _ => ?_)
  rfl

/-! ## One source (R132, R133) -/

theorem runsItsRow_of_tun {special : Bool} {f : Line → Elem → Res} (hexec : exec i s = tun s i p d a special f)
    (hrow : ∀ l ta tb td A B C e, tileResult i l ta tb td A B C e = td.deliver l (f l (elemAt l ta (A e)))) :
    RunsItsRow i ⟨p, some a, none, d, false, special, .same⟩ s := by
  refine ⟨_, hexec, fun l t A B C v hv => ?_⟩
  obtain ⟨x, hx, hA⟩ := hv.a a rfl
  rw [hv.elems x hx nofun] at hA
  simp only [hx, hA, optElems, Placed.elems_map, List.map_map, Option.map_some, Option.getD_some]
  exact congrArg gatherFlags (List.map_congr_left fun e _ => (hrow ..).symm)

theorem tcopy_runsItsRow : RunsItsRow (.tcopy p d a) ⟨p, some a, none, d, false, false, .copy⟩ s := by
  refine ⟨_, exec_tcopy .., fun l t A B C v hv => ?_⟩
  obtain ⟨x, hx, hA⟩ := hv.a a rfl
  rw [hA, hv.elems x hx nofun, ← gatherFlags_flagless, List.map_map]
  rfl

theorem tfill_runsItsRow {k : BitVec 3} : RunsItsRow (.tfill p d k) ⟨p, none, none, d, false, false, .same⟩ s := by
  refine ⟨_, exec_tfill .., fun l t A B C v _ => ?_⟩
  rw [← gatherFlags_flagless, List.map_replicate]
  refine congrArg gatherFlags (List.eq_replicate_iff.2 ⟨by simp, fun r hr => ?_⟩).symm
  obtain ⟨e, -, rfl⟩ := List.mem_map.1 hr
  simp only [tileResult, pow_mul]
  rfl

/-- The number that tmask delivers where its relation holds. -/
theorem ofInt_ite (c : Bool) : FVal.ofInt (if c then 1 else 0) 0 = if c then .num false 1 0 else .zero false := by
  cases c <;> rfl

theorem extractLsb'_relation (w : Word) : (w.extractLsb' 32 2).toNat = w.toNat / 2 ^ 32 % 4 := by
  rw [BitVec.extractLsb'_toNat, Nat.shiftRight_eq_div_pow]

/-! ## Reductions (R132) -/

theorem rowsOf_map_range {α : Type} (cols : Nat) (n : Nat) (x : Nat → α) :
    rowsOf cols n ((List.range (n * cols)).map x)
      = (List.range n).map fun k => (List.range cols).map fun j => x (k * cols + j) := by
  induction n generalizing x with
  | zero => rfl
  | succ n ih =>
    rw [rowsOf, Nat.succ_mul, Nat.add_comm, List.range_add, List.map_append, List.take_left' (by simp),
      List.drop_left' (by simp), List.map_map, ih, List.range_succ_eq_map, List.map_cons, List.map_map]
    simp only [Nat.zero_mul, Nat.add_zero, Function.comp_def, Nat.succ_mul, Nat.add_comm, Nat.add_left_comm]

theorem runsItsRow_of_tred {f : Line → Bool → List Elem → Res} (hexec : exec i s = tred s i p d a f)
    (hrow : ∀ l ta tb td A B C e, 0 < ta.cols → tileResult i l ta tb td A B C e
      = td.deliver l (f l (fmtIsInt ta.fmt) ((List.range ta.cols).map fun j => elemAt l ta (A (e * ta.cols + j))))) :
    RunsItsRow i ⟨p, some a, none, d, false, false, .reduce⟩ s := by
  refine ⟨_, hexec, fun l t A B C v hv => ?_⟩
  obtain ⟨x, hx, hA⟩ := hv.a a rfl
  simp only [hx, hA, Placed.elems_map, Tile.elems, rowsOf_map_range, List.map_map, Option.map_some, Option.getD_some]
  rw [hv.rows x hx rfl]
  exact congrArg gatherFlags (List.map_congr_left fun e _ => (hrow _ _ _ _ _ _ _ _ (hv.cols x hx)).symm)

theorem tredSum_runsItsRow : RunsItsRow (.tredSum p d a) ⟨p, some a, none, d, false, false, .reduce⟩ s := by
  refine runsItsRow_of_tred (exec_tredSum ..) fun l ta tb td A B C e _ => ?_
  simp only [tileResult, rowSum, fmtIsInt, decide_eq_true_eq]
  split
  · exact congrArg (fun n => td.deliver l (.int n)) (List.sum_eq_foldl.trans List.foldl_map)
  · rw [List.length_map, List.length_range]
    rfl

theorem tredMax_runsItsRow : RunsItsRow (.tredMax p d a) ⟨p, some a, none, d, false, false, .reduce⟩ s := by
  refine runsItsRow_of_tred (exec_tredMax ..) fun l ta tb td A B C e hcols => ?_
  have hint : ∀ v, .int v ∈ (List.range ta.cols).map (fun j => elemAt l ta (A (e * ta.cols + j))) → 5 ≤ ta.fmt := by
    intro v hv
    obtain ⟨j, -, hj⟩ := List.mem_map.1 hv
    exact le_fmt_of_elemAt_int hj
  have hne : (List.range ta.cols).map (fun j => elemAt l ta (A (e * ta.cols + j))) ≠ [] := by simpa using hcols.ne'
  simp only [tileResult]
  generalize (List.range ta.cols).map (fun j => elemAt l ta (A (e * ta.cols + j))) = row at hint hne
  match row with
  | [] => exact absurd rfl hne
  | .int u :: t =>
    have hfmt : 5 ≤ ta.fmt := hint u List.mem_cons_self
    simp only [rowMax, fmtIsInt, hfmt, decide_true, if_true]
    congr 3
    funext m w
    cases w with
    | int n => exact (congrFun₂ ite_lt_eq_max m n).symm
    | _ => rfl
  | .float _ :: _ => rfl
  | .log _ :: _ => rfl

end

/-! ## All forms -/

theorem runsItsRow_of_tileForm {i : Instr} {f : TileForm} (h : tileForm i = some f) (s : State) : RunsItsRow i f s := by
  unfold tileForm at h
  split at h <;> cases h
  next => exact runsItsRow_of_tbin (exec_tadd ..) (by intros; rfl)
  next => exact runsItsRow_of_tbin (exec_tsub ..) (by intros; rfl)
  next => exact runsItsRow_of_tbin (exec_tmul ..) (by intros; rfl)
  next => exact runsItsRow_of_tbin (exec_tmin ..) (by rw [ite_lt_eq_min]; intros; rfl)
  next => exact runsItsRow_of_tbin (exec_tmax ..) (by rw [ite_lt_eq_max]; intros; rfl)
  next => exact tfma_runsItsRow
  next => exact tsel_runsItsRow
  next =>
    refine runsItsRow_of_tun (exec_tcvt ..) fun l ta tb td A B C e => ?_
    simp only [tileResult]
    cases elemAt l ta (A e) <;> rfl
  next => exact runsItsRow_of_tun (exec_texp2 ..) (by intros; rfl)
  next => exact runsItsRow_of_tun (exec_tlog2 ..) (by intros; rfl)
  next => exact runsItsRow_of_tun (exec_trcp ..) (by intros; rfl)
  next => exact tcopy_runsItsRow
  next => exact tredSum_runsItsRow
  next => exact tredMax_runsItsRow
  next => exact runsItsRow_of_tun (exec_tscale ..) (by intros; rfl)
  next =>
    refine runsItsRow_of_tun (exec_tmask ..) fun l ta tb td A B C e => ?_
    simp only [tileResult, maskHolds, extractLsb'_relation, ofInt_ite]
    rfl
  next => exact tfill_runsItsRow

end Sys2Proof.Machine

/-! # O16: tile forms check their handles

R124 steps 1 to 4 by the descriptors of the handles: the meanings look each operand up and then test the tiles in turn,
`handleFault` names the first handle that fails. `State.tiles_cases` says that they agree, on the trap and on what is left
to do without one. -/

namespace Sys2Proof.Machine
open Sys2Proof.Claims

/-! ## Operands and handles (R124) -/

/-- The trap of a failed check: its handle, its access kind and its reason. -/
def faultTrap (x : BitVec 8 × Nat × Nat) : TileTrap := (handleTrap x.1 x.2.2, x.2.1)

/-- An operand holds the descriptor of a handle. -/
def HoldsTile (k : Core) (h : BitVec 8 × Nat) (o : Operand) : Prop :=
  o.handle = h.1 ∧ o.acc = h.2 ∧ tileOf (k.handle h.1) = some o.tile

/-- The same of an operand that a form may lack; an operand that is present is a source. -/
def HoldsOptTile (k : Core) (h : Option (BitVec 8)) (o : Option Operand) : Prop :=
  List.Forall₂ (HoldsTile k) (h.toList.map fun x => (x, 0)) o.toList

/-- The handles of a form in the order of its checks, with their access kinds (R124, R289). -/
def handlesOf (f : TileForm) : List (BitVec 8 × Nat) :=
  (f.a.toList ++ f.b.toList).map (fun h => (h, 0)) ++ [(f.d, 1)]

theorem firstBad_singleton (o : Operand) (bad : Tile → Bool) (r : Nat) :
    firstBad [o] bad r = (if bad o.tile then some (o.handle, o.acc, r) else none).map faultTrap := by
  cases h : bad o.tile <;> simp [firstBad, h, faultTrap]

/-- The first operand that fails a test is that of the first handle whose descriptor does. -/
theorem firstBad_eq {k : Core} {hs : List (BitVec 8 × Nat)} {ops : List Operand} (h : List.Forall₂ (HoldsTile k) hs ops)
    (bad : Tile → Bool) (r : Nat) : firstBad ops bad r
      = ((hs.find? fun h => (tileOf (k.handle h.1)).any bad).map fun h => (h.1, h.2, r)).map faultTrap := by
  induction h with
  | nil => rfl
  | cons hn _ ih =>
    obtain ⟨hhandle, hacc, htile⟩ := hn
    rw [firstBad, List.find?_cons, List.find?_cons, htile, Option.any_some]
    split
    · simp [faultTrap, hhandle, hacc]
    · exact ih

theorem operand_error {k : Core} {h : BitVec 8} {acc : Nat} {e : TileTrap} (hop : k.operand h acc = .error e) :
    tileOf (k.handle h) = none ∧ e = faultTrap (h, acc, 1) := by
  unfold Core.operand at hop
  split at hop
  next hnone => cases hop; exact ⟨hnone, rfl⟩
  next => cases hop

theorem operand_ok {k : Core} {h : BitVec 8} {acc : Nat} {o : Operand} (hop : k.operand h acc = .ok o) :
    HoldsTile k (h, acc) o := by
  unfold Core.operand at hop
  split at hop
  next => cases hop
  next hsome => cases hop; exact ⟨rfl, rfl, hsome⟩

theorem optOperand_error {k : Core} {h : Option (BitVec 8)} {e : TileTrap} (hop : optOperand k h = .error e) :
    ∃ x, h = some x ∧ tileOf (k.handle x) = none ∧ e = faultTrap (x, 0, 1) := by
  cases h with
  | none => cases hop
  | some x =>
    unfold optOperand at hop
    dsimp only at hop
    split at hop
    next => cases hop
    next herr => cases hop; exact ⟨x, rfl, operand_error herr⟩

theorem optOperand_ok {k : Core} {h : Option (BitVec 8)} {o : Option Operand} (hop : optOperand k h = .ok o) :
    HoldsOptTile k h o := by
  cases h with
  | none => cases hop; exact .nil
  | some x =>
    unfold optOperand at hop
    dsimp only at hop
    split at hop
    next hok => cases hop; exact .cons (operand_ok hok) .nil
    next => cases hop

/-! ## The checks of steps 1 to 4 -/

theorem tileForm_b_of_a {i : Instr} {f : TileForm} (h : tileForm i = some f) (ha : f.a = none) : f.b = none := by
  unfold tileForm at h
  split at h <;> cases h <;> cases ha
  rfl

theorem HoldsOptTile.tile {k : Core} {h : Option (BitVec 8)} {o : Option Operand} (hn : HoldsOptTile k h o) :
    (h.bind fun x => tileOf (k.handle x)) = o.map Operand.tile := by
  cases h with
  | none => cases o with
    | none => rfl
    | some _ => cases hn
  | some x => cases o with
    | none => cases hn
    | some o =>
      obtain ⟨⟨-, -, htile⟩, -⟩ := List.forall₂_cons.1 hn
      exact htile

theorem HoldsOptTile.eq_none {k : Core} {o : Option Operand} (hn : HoldsOptTile k none o) : o = none := by
  cases o with
  | none => rfl
  | some _ => cases hn

theorem HoldsOptTile.exists_tile {k : Core} {x : BitVec 8} {o : Option Operand} (hn : HoldsOptTile k (some x) o) :
    ∃ t, o = some ⟨x, t, 0⟩ ∧ tileOf (k.handle x) = some t := by
  cases o with
  | none => cases hn
  | some o =>
    obtain ⟨⟨rfl, hacc, htile⟩, -⟩ := List.forall₂_cons.1 hn
    exact ⟨o.tile, congrArg (fun n => Option.some (Operand.mk o.handle o.tile n)) hacc, htile⟩

theorem holdsTile_handlesOf {k : Core} {f : TileForm} {oa ob : Option Operand} {od : Operand} (ha : HoldsOptTile k f.a oa)
    (hb : HoldsOptTile k f.b ob) (hd : HoldsTile k (f.d, 1) od) :
    List.Forall₂ (HoldsTile k) (handlesOf f) (oa.toList ++ ob.toList ++ [od]) := by
  rw [handlesOf, List.map_append]
  exact List.rel_append (List.rel_append ha hb) (.cons hd .nil)

theorem find?_isNone_of_holdsTile {k : Core} {hs : List (BitVec 8 × Nat)} {ops : List Operand}
    (h : List.Forall₂ (HoldsTile k) hs ops) : (hs.find? fun h => (tileOf (k.handle h.1)).isNone) = none := by
  induction h with
  | nil => rfl
  | cons hn _ ih =>
    obtain ⟨-, -, htile⟩ := hn
    rw [List.find?_cons, htile]
    exact ih

theorem handleFault_of_holdsTile {k : Core} {i : Instr} {f : TileForm} (hf : tileForm i = some f) {oa ob : Option Operand}
    {od : Operand} (ha : HoldsOptTile k f.a oa) (hb : HoldsOptTile k f.b ob) (hd : HoldsTile k (f.d, 1) od) :
    (handleFault k f).map faultTrap = operandsBad f.shape oa ob od := by
  have hall := holdsTile_handlesOf ha hb hd
  obtain ⟨hhandle, hacc, htile⟩ := hd
  unfold handleFault operandsBad
  dsimp only
  rw [← handlesOf, find?_isNone_of_holdsTile hall]
  simp only [ha.tile, hb.tile, htile, firstBad_eq hall, Option.map_or, Option.any_map, Option.any_some]
  congr 1
  · simp only [ne_comm]
  congr 2
  cases hfa : f.a with
  | none =>
    rw [hfa] at ha
    rw [tileForm_b_of_a hf hfa] at hb ⊢
    rw [ha.eq_none, hb.eq_none]
    cases f.shape <;> rfl
  | some a =>
    rw [hfa] at ha
    obtain ⟨ta, rfl, -⟩ := ha.exists_tile
    cases f.shape with
    | reduce =>
      rw [shapesBad, firstBad_singleton, hhandle, hacc]
      rfl
    | copy =>
      rw [shapesBad, Option.toList_some, firstBad_singleton]
      rfl
    | same =>
      rw [shapesBad, Option.toList_some, firstBad_singleton]
      cases hfb : f.b with
      | none =>
        rw [hfb] at hb
        simp [firstBad, Tile.sameShape, hb.eq_none]
      | some b =>
        rw [hfb] at hb
        obtain ⟨tb, rfl, -⟩ := hb.exists_tile
        rw [Option.toList_some, firstBad_singleton, ← Option.map_or]
        congr 1
        by_cases hrows : ta.rows = od.tile.rows <;> by_cases hcols : ta.cols = od.tile.cols <;>
          simp [Tile.sameShape, hrows, hcols, Bool.and_or_distrib_left, Bool.or_assoc]

/-- The first handle without a TILE descriptor fails by step 1, whatever the tiles of the others. -/
theorem handleFault_of_missing {k : Core} {f : TileForm} {before rest : List (BitVec 8 × Nat)} {x : BitVec 8 × Nat}
    {ops : List Operand} (hf : handlesOf f = before ++ x :: rest) (hall : List.Forall₂ (HoldsTile k) before ops)
    (hx : tileOf (k.handle x.1) = none) : handleFault k f = some (x.1, x.2, 1) := by
  have hfind : (handlesOf f).find? (fun h => (tileOf (k.handle h.1)).isNone) = some x := by
    rw [hf, List.find?_append, find?_isNone_of_holdsTile hall, Option.none_or,
      List.find?_cons_of_pos (by rw [hx]; rfl)]
  unfold handleFault
  dsimp only
  rw [← handlesOf, hfind]

/-- The operands of a form whose handles all hold a TILE descriptor. -/
structure OperandsFound (k : Core) (f : TileForm) (oa ob : Option Operand) (od : Operand) : Prop where
  a : HoldsOptTile k f.a oa
  b : HoldsOptTile k f.b ob
  d : HoldsTile k (f.d, 1) od

/-- Steps 1 to 4 of R124 end in the trap of the first check that fails, or in operands that pass them all and are then
placed by step 5. -/
theorem State.tiles_cases {i : Instr} {f : TileForm} (hf : tileForm i = some f) (s : State) (c v : Nat)
    (segs : List Seg) :
    (∃ x, handleFault (s.core c) f = some x ∧
      s.tiles c v segs f.a f.b f.d f.shape f.readsD = .error (faultTrap x)) ∨
    handleFault (s.core c) f = none ∧ ∃ oa ob od, OperandsFound (s.core c) f oa ob od ∧
      operandsBad f.shape oa ob od = none ∧
      ∀ pa pb pd, s.optPlace c v segs oa = .ok pa → s.optPlace c v segs ob = .ok pb →
        s.placeTile c v segs od (if f.readsD then needReadWrite else needStore) = .ok pd →
          s.tiles c v segs f.a f.b f.d f.shape f.readsD = .ok ⟨pa, pb, pd⟩ := by
  unfold State.tiles
  dsimp only
  cases ha : optOperand (s.core c) f.a with
  | error e =>
    obtain ⟨y, hfa, hy, rfl⟩ := optOperand_error ha
    exact .inl ⟨_, handleFault_of_missing (x := (y, 0)) (by rw [handlesOf, hfa]; rfl) .nil hy, rfl⟩
  | ok oa =>
    have hna := optOperand_ok ha
    cases hb : optOperand (s.core c) f.b with
    | error e =>
      obtain ⟨y, hfb, hy, rfl⟩ := optOperand_error hb
      exact .inl ⟨_, handleFault_of_missing (x := (y, 0))
        (by rw [handlesOf, hfb, List.map_append, List.append_assoc]; rfl) hna hy, rfl⟩
    | ok ob =>
      have hnb := optOperand_ok hb
      cases hd : (s.core c).operand f.d accDest with
      | error e =>
        obtain ⟨hy, rfl⟩ := operand_error hd
        exact .inl ⟨_, handleFault_of_missing (x := (f.d, 1)) (by rw [handlesOf, List.map_append])
          (List.rel_append hna hnb) hy, rfl⟩
      | ok od =>
        have hnd := operand_ok hd
        have hops := handleFault_of_holdsTile hf hna hnb hnd
        dsimp only
        rw [← hops]
        cases hfault : handleFault (s.core c) f with
        | some x => exact .inl ⟨x, rfl, rfl⟩
        | none =>
          rw [hfault] at hops
          refine .inr ⟨rfl, oa, ob, od, ⟨hna, hnb, hnd⟩, hops.symm, fun pa pb pd hpa hpb hpd => ?_⟩
          rw [hpa, hpb, hpd]
          rfl

/-- Settles O16: a form that is not ready leaves the state as it was, and a failed check of steps 1 to 4 is the trap. -/
theorem tileFormsCheckTheirHandles : Obligations.TileFormsCheckTheirHandles := by
  intro i f h acc r s sl hform
  obtain ⟨g, hexec, -⟩ := runsItsRow_of_tileForm hform s
  rw [hexec, runTileForm, tileOp]
  refine ⟨fun hr hbusy hscrub hfault => ?_, fun hheld => if_pos (by simpa using hheld)⟩
  rw [hbusy, hscrub, if_neg (by decide), guarded_ready hr]
  dsimp only
  obtain ⟨x, hx, htiles⟩ | ⟨hnone, -⟩ := s.tiles_cases hform s.run.1 sl.line.vfid.toNat sl.segs
  · obtain rfl := Option.some.inj (hfault.symm.trans hx)
    rw [htiles]
    rfl
  · rw [hfault] at hnone
    cases hnone

end Sys2Proof.Machine

/-! # What a write of a tile leaves alone (O17)

A tile is written row by row, each row run by run, each run word by word (R129). `LeavesByte key s t` lists what one such
write keeps when byte `key` of on-chip memory lies outside it; it composes, so a lemma for each layer gives the frame of the
whole tile. -/

namespace Sys2Proof.Machine
open Sys2Proof.Claims

/-! ## Bytes of a word (R5) -/

theorem Memory.read_byte (m : Memory) (k : Nat) {n i : Nat} (hi : i < n) :
    m.read k n / 256 ^ i % 256 = (m.get (k + i)).toNat := by
  induction n generalizing k i with
  | zero => omega
  | succ n ih =>
    have hb : (m.get k).toNat < 256 := (m.get k).isLt
    cases i with
    | zero => rw [Memory.read, pow_zero, Nat.div_one, Nat.add_mul_mod_self_left, Nat.mod_eq_of_lt hb,
        Nat.add_zero]
    | succ i =>
      rw [Memory.read, pow_succ', ← Nat.div_div_eq_div_mul, show ((m.get k).toNat + 256 * m.read (k + 1) n) / 256
        = m.read (k + 1) n by omega, ih (k + 1) (by omega), Nat.add_right_comm, Nat.add_assoc]

theorem Memory.get_write_inside (m : Memory) (k v : Nat) {n i : Nat} (hm : m.wf = true) (hi : i < n) :
    (m.write k n v).get (k + i) = BitVec.ofNat 8 (v / 256 ^ i) := by
  induction n generalizing m k v i with
  | zero => omega
  | succ n ih =>
    rw [Memory.write]
    cases i with
    | zero => rw [Memory.get_write_outside _ _ _ _ _ (.inl (by omega)), Nat.add_zero, m.get_put_same _ _ hm, pow_zero,
        Nat.div_one]
    | succ i =>
      rw [show k + (i + 1) = k + 1 + i by omega, ih _ _ _ (m.put_wf _ _ hm) (by omega), Nat.div_div_eq_div_mul, pow_succ']

/-- Byte `i` of a 64-bit word. -/
theorem extractLsb'_ofNat_byte (d : Nat) {i : Nat} (hi : i < 8) :
    (BitVec.ofNat 64 d).extractLsb' (8 * i) 8 = BitVec.ofNat 8 (d / 256 ^ i) := by
  apply BitVec.eq_of_getLsbD_eq
  intro j hj
  rw [show (256 : Nat) ^ i = 2 ^ (8 * i) from (pow_mul 2 8 i).symm, BitVec.getLsbD_extractLsb', BitVec.getLsbD_ofNat,
    BitVec.getLsbD_ofNat, Nat.testBit_div_two_pow, Nat.add_comm j, decide_eq_true (show 8 * i + j < 64 by omega),
    Bool.true_and]

theorem Memory.word_byte (m : Memory) (k : Nat) {i : Nat} (hi : i < 8) :
    (m.word k).data.extractLsb' (8 * i) 8 = m.get (k / 8 * 8 + i) := by
  rw [Memory.word, extractLsb'_ofNat_byte _ hi]
  exact BitVec.eq_of_toNat_eq ((BitVec.toNat_ofNat ..).trans (m.read_byte _ hi))

/-- Replacing bytes of a word keeps its other bytes. -/
theorem Word8.withBytes_byte (w : Word8) (off n v i : Nat) (hi : i < 8) (h : i < off ∨ off + n ≤ i) :
    (w.withBytes off n v).data.extractLsb' (8 * i) 8 = w.data.extractLsb' (8 * i) 8 := by
  apply BitVec.eq_of_getLsbD_eq
  intro j hj
  have hmask : (BitVec.ofNat 64 ((2 ^ (8 * n) - 1) * 2 ^ (8 * off))).getLsbD (8 * i + j) = false := by
    rw [BitVec.getLsbD_ofNat, Nat.testBit_mul_two_pow, Nat.testBit_two_pow_sub_one]
    simp only [Bool.and_eq_false_iff, decide_eq_false_iff_not]
    omega
  have hlt : 8 * i + j < 64 := by omega
  simp only [Word8.withBytes, BitVec.getLsbD_extractLsb', BitVec.getLsbD_or, BitVec.getLsbD_and, BitVec.getLsbD_not, hmask,
    hlt, hj, decide_true, Bool.not_false, Bool.and_true, Bool.and_false, Bool.or_false, Bool.true_and]

/-! ## Writing a word (R141, R142) -/

theorem Memory.get_putWord_outside (m : Memory) (k j : Nat) (w : Word8) (h : j < k / 8 * 8 ∨ k / 8 * 8 + 8 ≤ j) :
    (m.putWord k w).get j = m.get j :=
  m.get_write_outside 8 _ _ _ h

theorem Memory.get_putWord_inside (m : Memory) (k : Nat) (w : Word8) {i : Nat} (hm : m.wf = true) (hi : i < 8) :
    (m.putWord k w).get (k / 8 * 8 + i) = w.data.extractLsb' (8 * i) 8 :=
  (m.get_write_inside _ _ hm hi).trans (by rw [← extractLsb'_ofNat_byte _ hi, BitVec.ofNat_toNat, BitVec.setWidth_eq])

/-- A word written back with `n` bytes replaced from byte `k` on keeps every byte outside them. -/
theorem Memory.get_putWord_withBytes (m : Memory) (k n v j : Nat) (p : Bool) (hm : m.wf = true) (h : j < k ∨ k + n ≤ j) :
    (m.putWord k { (m.word k).withBytes (k % 8) n v with poison := p }).get j = m.get j := by
  by_cases hj : j < k / 8 * 8 ∨ k / 8 * 8 + 8 ≤ j
  · exact m.get_putWord_outside _ _ _ hj
  · obtain ⟨i, rfl⟩ : ∃ i, j = k / 8 * 8 + i := ⟨j - k / 8 * 8, by omega⟩
    have hi : i < 8 := by omega
    rw [m.get_putWord_inside _ _ hm hi]
    exact (Word8.withBytes_byte _ _ _ _ _ hi (by omega)).trans (m.word_byte k hi)

theorem Memory.empty_write (n : Nat) (m : Memory) (k v : Nat) : (m.write k n v).empty = m.empty := by
  induction n generalizing m k v with
  | zero => rfl
  | succ n ih => exact ih _ _ _

/-- A write with the full/empty bit that the word has changes no such bit. -/
theorem Memory.full_putWord (m : Memory) (k j : Nat) (w : Word8) (h : w.full = m.full k) :
    (m.putWord k w).full j = m.full j := by
  have hempty := m.empty_write 8 (k / 8 * 8) w.data.toNat
  by_cases hk : k / 8 ∈ m.empty <;> by_cases hj : j / 8 = k / 8 <;>
    simp [Memory.full, Memory.putWord, Memory.setFull, Memory.setPoison, mem_insertNat, eraseNat, hempty, h, hk, hj]

/-! ## Writing rows (R129) -/

/-- From `s` to `t` byte `key` of memory, every full/empty bit, the LLC and the VFs' nodes stay as they were, and memory
stays canonical. -/
structure LeavesByte (key : Nat) (s t : State) : Prop where
  byte : t.mem.get key = s.mem.get key
  full : ∀ k, t.mem.full k = s.mem.full k
  llc : t.llc = s.llc
  node : ∀ v, t.nodeOf v = s.nodeOf v
  wf : t.mem.wf = true

theorem LeavesByte.refl {key : Nat} {s : State} (h : s.mem.wf = true) : LeavesByte key s s :=
  ⟨rfl, fun _ => rfl, rfl, fun _ => rfl, h⟩

theorem LeavesByte.trans {key : Nat} {s t u : State} (h : LeavesByte key s t) (k : LeavesByte key t u) :
    LeavesByte key s u where
  byte := k.byte.trans h.byte
  full j := (k.full j).trans (h.full j)
  llc := k.llc.trans h.llc
  node v := (k.node v).trans (h.node v)
  wf := k.wf

theorem Undisturbed.nodeOf {s t : State} (h : Undisturbed s t) (v : Nat) : t.nodeOf v = s.nodeOf v := by
  rw [State.nodeOf, h.node, State.nodeOf]

theorem State.countErr_llc (s : State) (v addr code : Nat) : (s.countErr v addr code).llc = s.llc := by
  unfold State.countErr State.capture
  dsimp only
  split_ifs <;> rfl

theorem State.countErr_leavesByte {s : State} (h : s.mem.wf = true) (key v addr code : Nat) :
    LeavesByte key s (s.countErr v addr code) where
  byte := by rw [State.countErr_mem]
  full _ := by rw [State.countErr_mem]
  llc := s.countErr_llc ..
  node := (s.countErr_undisturbed ..).nodeOf
  wf := by rwa [State.countErr_mem]

theorem Loc.off_eq_of_chipKey {loc : Loc} {q : Nat} (h : chipKey loc = some q) : loc.off = q % 8 := by
  cases loc <;> simp only [chipKey, Option.some.injEq, reduceCtorEq] at h <;> subst h <;>
    simp only [Loc.off, scratchKey, clusterKey] <;> omega

theorem chipKey_plus {loc : Loc} {q : Nat} (h : chipKey loc = some q) (n : Nat) : chipKey (loc.plus n) = some (q + n) := by
  cases loc <;> simp only [chipKey, Option.some.injEq, reduceCtorEq] at h <;> subst h <;>
    simp only [Loc.plus, chipKey, scratchKey, clusterKey, Nat.add_assoc]

theorem State.word_of_chipKey {loc : Loc} {q : Nat} (h : chipKey loc = some q) (s : State) (write secure fetch : Bool) :
    s.word loc write secure fetch = .ok (s.mem.word q) := by
  cases loc <;> simp only [chipKey, Option.some.injEq, reduceCtorEq] at h <;> subst h <;> rfl

theorem State.putWord_of_chipKey {loc : Loc} {q : Nat} (h : chipKey loc = some q) (s : State) (w : Word8) (secure : Bool)
    (n : Nat) : s.putWord loc w secure n = { s with mem := s.mem.putWord q w } := by
  cases loc <;> simp only [chipKey, Option.some.injEq, reduceCtorEq] at h <;> subst h <;> rfl

theorem Loc.host_of_chipKey {loc : Loc} {q : Nat} (h : chipKey loc = some q) : loc.host = false := by
  cases loc <;> simp only [chipKey, reduceCtorEq] at h <;> rfl

section
variable {key : Nat} {s : State} (hwf : s.mem.wf = true)
include hwf

theorem State.performWord_leavesByte {loc : Loc} {q n val : Nat} (hq : chipKey loc = some q) (h : key < q ∨ q + n ≤ key)
    (p secure : Bool) :
    LeavesByte key s
      (s.performWord loc n (s.mem.word q) { (s.mem.word q).withBytes loc.off n val with poison := p } secure) := by
  refine ⟨?_, fun k => ?_, ?_, (s.performWord_undisturbed ..).nodeOf, s.performWord_wf _ _ _ _ _ hwf⟩
  all_goals simp only [State.performWord, State.wake_mem, State.wake_llc, State.putWord_of_chipKey hq]
  · rw [Loc.off_eq_of_chipKey hq]
    exact s.mem.get_putWord_withBytes _ _ _ _ _ hwf h
  · exact s.mem.full_putWord _ _ _ rfl

theorem State.storeBytes_leavesByte {loc : Loc} {q n : Nat} (hq : chipKey loc = some q) (h : key < q ∨ q + n ≤ key)
    (v val : Nat) (secure : Bool) : LeavesByte key s (s.storeBytes v loc n val secure) := by
  rw [State.storeBytes, State.word_of_chipKey hq]
  dsimp only
  rw [Loc.host_of_chipKey hq]
  split_ifs
  · exact s.countErr_leavesByte hwf ..
  · exact s.countErr_leavesByte hwf ..
  · exact s.performWord_leavesByte hwf hq h ..

theorem State.storeRun_leavesByte {loc : Loc} {q n : Nat} (hq : chipKey loc = some q) (h : key < q ∨ q + n ≤ key)
    (v val : Nat) (secure : Bool) (fuel : Nat) : LeavesByte key s (s.storeRun v loc n val secure fuel) := by
  induction fuel generalizing s loc q n val with
  | zero => exact .refl hwf
  | succ fuel ih =>
    rw [State.storeRun]
    split
    · exact .refl hwf
    · have hle : Nat.min n (8 - loc.off) ≤ n := Nat.min_le_left ..
      dsimp only
      generalize Nat.min n (8 - loc.off) = m at hle
      have hfirst : key < q ∨ q + m ≤ key := by omega
      have hrest : key < q + m ∨ q + m + (n - m) ≤ key := by omega
      have hword := s.storeBytes_leavesByte hwf hq hfirst v (val % 256 ^ m) secure
      exact hword.trans (ih hword.wf (chipKey_plus hq m) hrest _)

theorem State.writeRuns_leavesByte (v : Nat) (rs : List (Loc × Nat)) (val : Nat)
    (h : ∀ r ∈ rs, ∃ q, chipKey r.1 = some q ∧ (key < q ∨ q + r.2 ≤ key)) :
    LeavesByte key s (s.writeRuns v rs val) := by
  induction rs generalizing s val with
  | nil => exact .refl hwf
  | cons r rs ih =>
    obtain ⟨q, hq, hout⟩ := h r List.mem_cons_self
    have hrun := s.storeRun_leavesByte hwf hq hout v val true (r.2 / 8 + 2)
    exact hrun.trans (ih hrun.wf _ fun x hx => h x (List.mem_cons_of_mem _ hx))

end

/-- Every run of a segment lies on chip. -/
theorem State.chipKey_runs (s : State) (c v : Nat) (g : Seg) (fuel off n : Nat) :
    ∀ r ∈ s.runs c v g off n fuel, ∃ q, chipKey r.1 = some q := by
  induction fuel generalizing off n with
  | zero => simp [State.runs]
  | succ fuel ih =>
    intro r hr
    rw [State.runs] at hr
    split at hr
    · cases hr
    · split at hr
      next => cases hr
      next l hl =>
        obtain rfl | hr := List.mem_cons.1 hr
        · unfold State.site at hl
          split at hl <;> cases hl <;> exact ⟨_, rfl⟩
        · exact ih _ _ r hr

/-- Runs depend on the state by the node of their VF alone. -/
theorem State.runs_congr {s t : State} {v : Nat} (h : t.nodeOf v = s.nodeOf v) (c : Nat) (g : Seg) (fuel off n : Nat) :
    t.runs c v g off n fuel = s.runs c v g off n fuel := by
  induction fuel generalizing off n with
  | zero => rfl
  | succ fuel ih => simp only [State.runs, State.site, h, ih]

theorem State.rowRuns_congr {s t : State} {p : Placed} (h : t.nodeOf p.vf = s.nodeOf p.vf) (i : Nat) :
    t.rowRuns p i = s.rowRuns p i :=
  State.runs_congr h ..

/-- No run of row `i` of a placed tile holds byte `key`. -/
def OutsideRow (s : State) (p : Placed) (key i : Nat) : Prop :=
  ∀ r ∈ s.rowRuns p i, ∀ q, chipKey r.1 = some q → key < q ∨ q + r.2 ≤ key

theorem State.writeRow_leavesByte {s : State} {p : Placed} {key i : Nat} (hwf : s.mem.wf = true)
    (h : OutsideRow s p key i) (bits : List Nat) : LeavesByte key s (s.writeRow p i bits) :=
  s.writeRuns_leavesByte hwf _ _ _ fun r hr =>
    (s.chipKey_runs _ _ _ _ _ _ r hr).imp fun q hq => ⟨hq, h r hr q hq⟩

theorem State.writeRows_leavesByte {p : Placed} {key : Nat} (n : Nat) {s : State} {i : Nat} (hwf : s.mem.wf = true)
    (h : ∀ j < n, OutsideRow s p key (i + j)) (bits : List Nat) : LeavesByte key s (s.writeRows p i bits n) := by
  induction n generalizing s i bits with
  | zero => exact .refl hwf
  | succ n ih =>
    have hrow := s.writeRow_leavesByte hwf (h 0 (by omega)) (bits.take p.tile.cols)
    refine hrow.trans (ih hrow.wf (fun j hj => ?_) _)
    rw [OutsideRow, State.rowRuns_congr (hrow.node _), Nat.add_assoc, Nat.add_comm 1]
    exact h (j + 1) (by omega)

theorem State.writeTile_leavesByte {s : State} {p : Placed} {key : Nat} (hwf : s.mem.wf = true)
    (h : ∀ i < p.tile.rows, OutsideRow s p key i) (bits : List Nat) : LeavesByte key s (s.writeTile p bits) :=
  State.writeRows_leavesByte _ hwf (fun i hi => (Nat.zero_add i).symm ▸ h i hi) bits

end Sys2Proof.Machine

/-! # O17: tile forms write every element

A ready form finds its operands placed (`tiles_of_tilesReady`), reads their bits by element number (`tileGathered_valsOf`),
computes its row (`runsItsRow_of_tileForm`) and completes (`runTileForm_next`). -/

namespace Sys2Proof.Machine
open Sys2Proof.Claims

/-! ## Extents (R30, R124 step 5) -/

theorem placeTile_of_extentOk {s : State} {sl : Slot} {o : Operand} {reads writes : Bool}
    (h : ExtentOk s sl o.tile reads writes) {need : Need} (hneed : need = { r := reads, w := writes }) :
    s.placeTile s.run.1 sl.line.vfid.toNat sl.segs o need = .ok (placedAt s sl o.tile) := by
  obtain ⟨hhigh, hvalid, hlimit, hr, hw, htype, hfree⟩ := h
  have hseg : (sl.segs[ptrSeg o.tile.base]?).getD Seg.invalid = (placedAt s sl o.tile).seg := by
    rw [ptrSeg_eq]; rfl
  have hoff : ptrOff o.tile.base = (placedAt s sl o.tile).off := ptrOff_eq _
  have hptr : ptrHigh o.tile.base = false := by
    rw [← Bool.not_eq_true, ptrHigh_iff]; exact not_not.2 hhigh
  have hlen : ¬(placedAt s sl o.tile).seg.limit < (placedAt s sl o.tile).off + o.tile.extent := by
    rw [Tile.extent, Tile.rowLen, ← Nat.add_assoc]; exact Nat.not_lt.2 hlimit
  have hgrants : (placedAt s sl o.tile).seg.grants need = true := by
    subst hneed
    cases reads <;> cases writes <;> simp_all [Seg.grants]
  have hchip : (placedAt s sl o.tile).seg.type.onChip = true := by
    obtain h | h | h := htype <;> rw [h] <;> rfl
  have hfits : s.runsRefused sl.line.vfid.toNat (s.runsOf s.run.1 sl.line.vfid.toNat (placedAt s sl o.tile).seg
      (placedAt s sl o.tile).off o.tile.extent) = false := hfree
  have hcheck : s.segCheck s.run.1 sl.line.vfid.toNat sl.segs o.tile.base o.tile.extent need false o.tile.base
      = .ok ((placedAt s sl o.tile).seg,
        s.site s.run.1 sl.line.vfid.toNat (placedAt s sl o.tile).seg (placedAt s sl o.tile).off) := by
    have hf : need.f = false := by rw [hneed]
    simp [State.segCheck, hseg, hoff, hptr, hvalid, hlen, hgrants, hfits, hf]
  rw [State.placeTile, hcheck]
  dsimp only
  rw [hchip, if_pos rfl, hoff]
  rfl

theorem optPlace_of_extentOk {s : State} {sl : Slot} {o : Option Operand}
    (h : ∀ t, o.map Operand.tile = some t → ExtentOk s sl t true false) :
    s.optPlace s.run.1 sl.line.vfid.toNat sl.segs o = .ok ((o.map Operand.tile).map (placedAt s sl)) := by
  cases o with
  | none => rfl
  | some o =>
    unfold State.optPlace
    dsimp only
    rw [placeTile_of_extentOk (need := needLoad) (h o.tile rfl) rfl]
    rfl

/-! ## Bits by element number (R123, R125) -/

theorem map_range_getElem? (l : List Nat) : (List.range l.length).map (fun e => (l[e]?).getD 0) = l := by
  refine List.ext_getElem (by simp) fun e he hl => ?_
  rw [List.getElem_map, List.getElem_range, List.getElem?_eq_getElem hl, Option.getD_some]

theorem State.length_tileBits (s : State) (p : Placed) : (s.tileBits p).length = p.tile.elems := by
  simp [State.tileBits, State.rowBits, Tile.elems]

theorem State.tileBits_eq (s : State) (p : Placed) :
    s.tileBits p = (List.range p.tile.elems).map (bitsAt s (some p)) := by
  rw [← s.length_tileBits p]
  exact (map_range_getElem? _).symm

theorem flatten_replicate_eq (n : Nat) (l : List Nat) :
    (List.replicate n l).flatten = (List.range (n * l.length)).map fun e => (l[e % l.length]?).getD 0 := by
  induction n with
  | zero => simp
  | succ n ih =>
    rw [List.replicate_succ, List.flatten_cons, ih, Nat.succ_mul, Nat.add_comm, List.range_add, List.map_append,
      List.map_map]
    congr 1
    · refine (map_range_getElem? l).symm.trans (List.map_congr_left fun e he => ?_)
      rw [Nat.mod_eq_of_lt (List.mem_range.1 he)]
    · exact List.map_congr_left fun e _ => by rw [Function.comp, Nat.add_mod_left]

/-- The shapes that R125 allows hB. -/
def Broadcasts (tb td : Tile) : Prop := tb.sameShape td = true ∨ tb.rows = 1 ∧ (tb.cols = td.cols ∨ tb.cols = 1)

theorem broadcast_eq {tb td : Tile} {bits : List Nat} (h : Broadcasts tb td) (hlen : bits.length = tb.elems) :
    broadcast tb td bits = (List.range td.elems).map fun e => (bits[broadcastAt tb td e]?).getD 0 := by
  rw [Broadcasts, Tile.sameShape, Bool.and_eq_true, decide_eq_true_eq, decide_eq_true_eq] at h
  simp only [broadcast, broadcastAt, Tile.sameShape, Bool.and_eq_true, decide_eq_true_eq]
  split
  next hsame => rw [Tile.elems, ← hsame.1, ← hsame.2, ← Tile.elems, ← hlen, map_range_getElem?]
  next hother =>
    obtain ⟨hrows, hcols⟩ := h.resolve_left hother
    split
    next => rw [List.map_const', List.length_range, List.headD_eq_head?_getD, List.head?_eq_getElem?]
    next hwide =>
      have hlen' : bits.length = td.cols := by rw [hlen, Tile.elems, hrows, Nat.one_mul, hcols.resolve_right hwide]
      rw [flatten_replicate_eq, hlen', Tile.elems]

/-! ## Shapes (R124 step 4) -/

theorem tileForm_shape_of_b {i : Instr} {f : TileForm} (h : tileForm i = some f) {x : BitVec 8} (hb : f.b = some x) :
    f.shape = .same := by
  unfold tileForm at h
  split at h <;> cases h <;> cases hb <;> rfl

theorem firstBad_singleton_eq_none {o : Operand} {bad : Tile → Bool} {r : Nat} :
    firstBad [o] bad r = none ↔ bad o.tile = false := by
  cases h : bad o.tile <;> simp [firstBad, h]

theorem sameShape_iff (x y : Tile) : x.sameShape y = true ↔ x.rows = y.rows ∧ x.cols = y.cols := by
  simp [Tile.sameShape]

theorem shapesBad_same_none {a b : Option Operand} {d : Operand} (h : shapesBad .same a b d = none) :
    (∀ o, a = some o → o.tile.elems = d.tile.elems) ∧ ∀ o, b = some o → Broadcasts o.tile d.tile := by
  obtain ⟨ha, hb⟩ := Option.or_eq_none_iff.1 h
  refine ⟨fun o ho => ?_, fun o ho => ?_⟩
  · subst ho
    have hsame := firstBad_singleton_eq_none.1 ha
    rw [Bool.not_eq_false', sameShape_iff] at hsame
    rw [Tile.elems, hsame.1, hsame.2, Tile.elems]
  · subst ho
    have hsame := firstBad_singleton_eq_none.1 hb
    simpa only [Broadcasts, Bool.not_eq_false', Bool.or_eq_true, Bool.and_eq_true, decide_eq_true_eq] using hsame

theorem shapesBad_copy_none {a b : Option Operand} {d o : Operand} (h : shapesBad .copy a b d = none) (ha : a = some o) :
    o.tile.elems = d.tile.elems := by
  rw [ha, shapesBad, Option.toList_some, firstBad_singleton_eq_none] at h
  exact not_not.1 (of_decide_eq_false h)

theorem shapesBad_reduce_none {a b : Option Operand} {d o : Operand} (h : shapesBad .reduce a b d = none) (ha : a = some o) :
    o.tile.rows = d.tile.elems := by
  rw [ha, shapesBad, firstBad_singleton_eq_none] at h
  exact (not_not.1 (of_decide_eq_false h)).symm

theorem tileOf_cols_pos {e : Word × Word} {t : Tile} (h : tileOf e = some t) : 0 < t.cols := by
  unfold tileOf at h
  dsimp only at h
  split at h
  · cases h
  next hok =>
    obtain rfl := Option.some.inj h
    simp only [Bool.or_eq_true, not_or, decide_eq_true_eq] at hok
    exact Nat.pos_of_ne_zero (by tauto)

/-! ## The operands of a form that is ready -/

/-- The shapes of a form's tiles agree (R125, R132). -/
structure TileShapesAgree (f : TileForm) (ta tb : Option Tile) (td : Tile) : Prop where
  elems : ∀ t, ta = some t → f.shape ≠ .reduce → t.elems = td.elems
  rows : ∀ t, ta = some t → f.shape = .reduce → t.rows = td.elems
  broadcasts : ∀ t, tb = some t → Broadcasts t td

theorem tileShapesAgree_of_operandsBad {i : Instr} {f : TileForm} {k : Core} {oa ob : Option Operand} {od : Operand}
    (hf : tileForm i = some f) (hops : OperandsFound k f oa ob od) (h : operandsBad f.shape oa ob od = none) :
    TileShapesAgree f (oa.map Operand.tile) (ob.map Operand.tile) od.tile := by
  have hshapes : shapesBad f.shape oa ob od = none :=
    (Option.or_eq_none_iff.1 (Option.or_eq_none_iff.1 (Option.or_eq_none_iff.1 h).2).2).2
  refine ⟨fun t ht hshape => ?_, fun t ht hshape => ?_, fun t ht => ?_⟩
  · obtain ⟨o, ho, rfl⟩ := Option.map_eq_some_iff.1 ht
    cases hsh : f.shape with
    | same => rw [hsh] at hshapes; exact (shapesBad_same_none hshapes).1 o ho
    | copy => rw [hsh] at hshapes; exact shapesBad_copy_none hshapes ho
    | reduce => exact absurd hsh hshape
  · obtain ⟨o, ho, rfl⟩ := Option.map_eq_some_iff.1 ht
    rw [hshape] at hshapes
    exact shapesBad_reduce_none hshapes ho
  · obtain ⟨o, ho, rfl⟩ := Option.map_eq_some_iff.1 ht
    have hb := hops.b
    cases hfb : f.b with
    | none =>
      rw [hfb] at hb
      rw [hb.eq_none] at ho
      cases ho
    | some x =>
      rw [tileForm_shape_of_b hf hfb] at hshapes
      exact (shapesBad_same_none hshapes).2 o ho

theorem HoldsOptTile.operandOf {s : State} {h : Option (BitVec 8)} {o : Option Operand}
    (hn : HoldsOptTile (s.core s.run.1) h o) : operandOf s h = o.map Operand.tile :=
  hn.tile

/-- The tiles of a ready form at their places. -/
def State.placedTiles (s : State) (sl : Slot) (f : TileForm) (td : Tile) : Tiles where
  a := (operandOf s f.a).map (placedAt s sl)
  b := (operandOf s f.b).map (placedAt s sl)
  d := placedAt s sl td

theorem State.placedTiles_all (s : State) (sl : Slot) (f : TileForm) (td : Tile) : (s.placedTiles sl f td).all
    = ((operandOf s f.a).toList ++ (operandOf s f.b).toList ++ [td]).map (placedAt s sl) := by
  simp [State.placedTiles, Tiles.all, Option.toList_map]

section
variable {i : Instr} {f : TileForm} {td : Tile} {s : State} {sl : Slot} (hf : tileForm i = some f)
  (ht : TilesReady s sl f td)
include hf ht

/-- A form that is ready has its operands placed and their shapes in agreement. -/
theorem tiles_of_tilesReady :
    s.tiles s.run.1 sl.line.vfid.toNat sl.segs f.a f.b f.d f.shape f.readsD = .ok (s.placedTiles sl f td) ∧
    TileShapesAgree f (operandOf s f.a) (operandOf s f.b) td ∧
    (∀ h, f.a = some h → ∃ t, operandOf s f.a = some t) ∧ ∀ h, f.b = some h → ∃ t, operandOf s f.b = some t := by
  obtain ⟨x, hx, -⟩ | ⟨-, oa, ob, od, hops, hbad, hplace⟩ := s.tiles_cases hf s.run.1 sl.line.vfid.toNat sl.segs
  · cases ht.handles.symm.trans hx
  have hshapes := tileShapesAgree_of_operandsBad hf hops hbad
  obtain ⟨hna, hnb, -, -, htile⟩ := hops
  obtain rfl : od.tile = td := Option.some.inj (htile.symm.trans ht.dest)
  have hta := hna.operandOf
  have htb := hnb.operandOf
  have hneed : (if f.readsD then needReadWrite else needStore) = { r := f.readsD, w := true } := by
    cases f.readsD <;> rfl
  have hsource (t) (h : operandOf s f.a = some t ∨ operandOf s f.b = some t) := (ht.sources t h).1
  rw [State.placedTiles, hta, htb]
  rw [hta, htb] at hsource
  refine ⟨hplace _ _ _ (optPlace_of_extentOk fun t h => hsource t (.inl h))
    (optPlace_of_extentOk fun t h => hsource t (.inr h)) (placeTile_of_extentOk ht.target hneed), hshapes,
    fun h hfa => ?_, fun h hfb => ?_⟩
  · rw [hfa] at hna
    obtain ⟨t, rfl, -⟩ := hna.exists_tile
    exact ⟨t, rfl⟩
  · rw [hfb] at hnb
    obtain ⟨t, rfl, -⟩ := hnb.exists_tile
    exact ⟨t, rfl⟩

end

/-! ## Lanes and cycles (R128) -/

theorem fmtBytes_cases (f : Nat) : fmtBytes f = 1 ∨ fmtBytes f = 2 ∨ fmtBytes f = 4 := by
  unfold fmtBytes
  split <;> simp

theorem widest_eq (ts : List Tile) {m : Nat} (hm : m = 1 ∨ m = 2 ∨ m = 4) :
    ts.foldl (fun m t => Nat.max m (fmtBytes t.fmt)) m
      = if m = 4 ∨ ts.any (fun t => fmtBytes t.fmt = 4) then 4
        else if m = 2 ∨ ts.any (fun t => fmtBytes t.fmt = 2) then 2 else 1 := by
  induction ts generalizing m with
  | nil => obtain rfl | rfl | rfl := hm <;> rfl
  | cons t ts ih =>
    rw [List.foldl_cons]
    obtain rfl | rfl | rfl := hm <;> obtain ht | ht | ht := fmtBytes_cases t.fmt <;> rw [ht, ih (by decide)] <;> simp [ht]

theorem laneCount_eq (ts : List Tile) (special : Bool) :
    (if special then 16 else vectorLanes ts) = laneCount special ts := by
  cases special with
  | true => rfl
  | false =>
    rw [vectorLanes, widest_eq ts (.inl rfl), laneCount]
    cases ts.any (fun t => fmtBytes t.fmt = 4) <;> cases ts.any (fun t => fmtBytes t.fmt = 2) <;> rfl

theorem vectorCycles_eq (ts : List Tile) (special : Bool) : vectorCycles ts special
    = ((ts.map fun x => x.rows * x.cols).foldl Max.max 0 + laneCount special ts - 1) / laneCount special ts := by
  rw [← laneCount_eq, List.foldl_map]
  rfl

/-- The flags of all elements go into fcsr (R127). -/
theorem raise_gatherFlags (l : Line) (res : List (Nat × BitVec 16)) :
    l.raise (gatherFlags res).2 = { l with fcsr := (res.map Prod.snd).foldl (· ||| ·) l.fcsr } := by
  have hor : (gatherFlags res).2 = (res.map Prod.snd).foldl (· ||| ·) 0#16 := List.foldl_map.symm
  rw [Line.raise, hor, ← List.foldl_assoc (α := BitVec 16) (op := (· ||| ·)), BitVec.or_zero]

/-! ## Execution (R127 to R130) -/

/-- The bits that a form reads of its placed operands. -/
def State.valsOf (s : State) (f : TileForm) (t : Tiles) : TileVals where
  a := (t.a.map s.tileBits).getD []
  b := match t.b with
    | some x => broadcast x.tile t.d.tile (s.tileBits x)
    | none => []
  d := if f.readsD then s.tileBits t.d else []

/-- A form whose placed operands are not being cleared, wait for no queued store and hold no poison writes its results. -/
theorem runTileForm_next {i : Instr} {f : TileForm} {s : State} {sl : Slot} {t : Tiles} (hr : Ready s sl f.pre)
    (hunit : s.vectorBusy s.run.1 = false) (htable : s.scrubbing s.run.1 = false)
    (ht : s.tiles s.run.1 sl.line.vfid.toNat sl.segs f.a f.b f.d f.shape f.readsD = .ok t)
    (hclear : (t.all.flatMap s.extentRuns).any (fun r => s.clearing r.1) = false)
    (hheld : s.runsHeld sl.who (t.all.flatMap s.extentRuns) = false)
    (hsources : (t.a.toList ++ t.b.toList).findSome? s.tilePoison = none)
    (hdest : (if f.readsD then s.tilePoison t.d else none) = none) {g : TileFn} {res : List (Nat × BitVec 16)}
    (hg : g sl.line t (s.valsOf f t) = gatherFlags res) :
    runTileForm f i g s = .next (after ((s.writeTile t.d (res.map Prod.fst)).takeVector s.run.1 s.run.2
        (vectorCycles (t.all.map Placed.tile) f.special)) sl i
      { sl.line with fcsr := (res.map Prod.snd).foldl (· ||| ·) sl.line.fcsr }
      (12 + vectorCycles (t.all.map Placed.tile) f.special)) := by
  rw [runTileForm, tileOp, hunit, htable, if_neg (by decide), guarded_ready hr]
  dsimp only
  rw [ht]
  dsimp only
  rw [hclear, hheld, hsources, hdest, if_neg (by decide), if_neg (by decide)]
  dsimp only
  change complete ((s.writeTile t.d (g sl.line t (s.valsOf f t)).1).takeVector ..)
    { sl with line := sl.line.raise (g sl.line t (s.valsOf f t)).2 } i _ = _
  rw [hg, raise_gatherFlags, complete_after hr _ _ _ (by rfl)]
  rfl

theorem map_tile_placedAt (s : State) (sl : Slot) (o : Option Tile) :
    (o.map (placedAt s sl)).map Placed.tile = o := by
  cases o <;> rfl

theorem tileGathered_valsOf {i : Instr} {f : TileForm} {td : Tile} {s : State} {sl : Slot} (hf : tileForm i = some f)
    (ht : TilesReady s sl f td) :
    TileGathered f (s.placedTiles sl f td) (bitsAt s ((operandOf s f.a).map (placedAt s sl)))
      (fun e => bitsAt s ((operandOf s f.b).map (placedAt s sl)) (broadcastAt ((operandOf s f.b).getD td) td e))
      (bitsAt s (some (placedAt s sl td))) (s.valsOf f (s.placedTiles sl f td)) := by
  obtain ⟨-, hshapes, ha, hb⟩ := tiles_of_tilesReady hf ht
  refine ⟨fun h hfa => ?_, fun h hfb => ?_, fun hreads => ?_, fun x hx => ?_, fun x hx => ?_, fun x hx => ?_⟩
  · obtain ⟨ta, hta⟩ := ha h hfa
    refine ⟨placedAt s sl ta, by rw [State.placedTiles, hta]; rfl, ?_⟩
    simp only [State.valsOf, State.placedTiles, hta, Option.map_some, Option.getD_some, State.tileBits_eq]
  · obtain ⟨tb, htb⟩ := hb h hfb
    refine ⟨placedAt s sl tb, by rw [State.placedTiles, htb]; rfl, ?_⟩
    simp only [State.valsOf, State.placedTiles, htb, Option.map_some, Option.getD_some]
    exact broadcast_eq (hshapes.broadcasts tb htb) (s.length_tileBits _)
  · simp only [State.valsOf, State.placedTiles, hreads, if_true, State.tileBits_eq]
  all_goals
    obtain ⟨ta, hta, rfl⟩ := Option.map_eq_some_iff.1 hx
  · exact hshapes.elems ta hta
  · exact hshapes.rows ta hta
  · obtain ⟨h, -, hh⟩ := Option.bind_eq_some_iff.1 hta
    exact tileOf_cols_pos hh

section
variable {f : TileForm} {td : Tile} {s : State} {sl : Slot} (ht : TilesReady s sl f td)
include ht

theorem not_clearing_of_tilesReady :
    ((s.placedTiles sl f td).all.flatMap s.extentRuns).any (fun r => s.clearing r.1) = false := by
  rw [State.placedTiles_all, List.flatMap_map, List.any_eq_false]
  intro r hr
  obtain ⟨x, hx, hrun⟩ := List.mem_flatMap.1 hr
  rw [ht.still x hx r hrun]
  decide

theorem not_held_of_tilesReady : s.runsHeld sl.who ((s.placedTiles sl f td).all.flatMap s.extentRuns) = false := by
  rw [State.placedTiles_all, List.flatMap_map]
  exact ht.first

theorem not_poisoned_of_tilesReady :
    ((s.placedTiles sl f td).a.toList ++ (s.placedTiles sl f td).b.toList).findSome? s.tilePoison = none := by
  simp only [State.placedTiles, List.findSome?_eq_none_iff, List.mem_append, Option.mem_toList, Option.map_eq_some_iff]
  rintro _ (⟨x, hx, rfl⟩ | ⟨x, hx, rfl⟩)
  · exact (ht.sources x (.inl hx)).2
  · exact (ht.sources x (.inr hx)).2

end

/-- Settles O17: a ready form reads its operands' bits by element, computes its row and writes the results; the frame of the
write is that of its words. -/
theorem tileFormsWriteEveryElement : Obligations.TileFormsWriteEveryElement := by
  refine ⟨fun i f td s sl hf hr ht => ?_, fun s p bits key hwf hout => ?_⟩
  · intro ta tb A B C res ts E n
    obtain ⟨g, hexec, hg⟩ := runsItsRow_of_tileForm hf s
    have hres : g sl.line (s.placedTiles sl f td) (s.valsOf f (s.placedTiles sl f td)) = gatherFlags res := by
      rw [hg _ _ _ _ _ _ (tileGathered_valsOf hf ht), State.placedTiles, map_tile_placedAt, map_tile_placedAt]
      rfl
    have hts : (s.placedTiles sl f td).all.map Placed.tile = ts := by
      rw [State.placedTiles_all, List.map_map]
      exact List.map_id _
    have hdest : (if f.readsD then s.tilePoison (s.placedTiles sl f td).d else none) = none := ite_eq_right_iff.2 ht.clean
    rw [hexec, runTileForm_next hr ht.unit ht.table (tiles_of_tilesReady hf ht).1 (not_clearing_of_tilesReady ht)
      (not_held_of_tilesReady ht) (not_poisoned_of_tilesReady ht) hdest hres, hts, vectorCycles_eq]
    rfl
  · have hkeep := State.writeTile_leavesByte hwf hout bits
    exact ⟨hkeep.byte, hkeep.full, hkeep.llc⟩

end Sys2Proof.Machine

/-! # Operations of the device that write no memory (O57)

One equation for each: the memory after it is the memory before it. -/

namespace Sys2Proof.Machine

/-- A fold of operations that write no memory writes none. -/
theorem foldl_mem {β : Type} {f : State → β → State} (hf : ∀ t b, (f t b).mem = t.mem) (l : List β) (s : State) :
    (l.foldl f s).mem = s.mem :=
  foldl_keeps (fun t : State => t.mem = s.mem) f (fun t b ht => (hf t b).trans ht) l s rfl

/-- A fold of operations that keep memory canonical keeps it so. -/
theorem foldl_wf {β : Type} {f : State → β → State} (hf : ∀ t b, t.mem.wf = true → (f t b).mem.wf = true)
    (l : List β)
    {s : State} (h : s.mem.wf = true) : (l.foldl f s).mem.wf = true :=
  foldl_keeps (fun t : State => t.mem.wf = true) f hf l s h

@[simp] theorem State.usedTlb_mem (s : State) (core way v a : Nat) : (s.usedTlb core way v a).mem = s.mem := by
  unfold State.usedTlb
  dsimp only
  split <;> simp
@[simp] theorem State.countOf_mem (s : State) (v code n : Nat) (mark : Option Who) :
    (s.countOf v code n mark).mem = s.mem := by
  unfold State.countOf
  dsimp only
  split_ifs <;> rfl
@[simp] theorem State.applyIncrement_mem (s : State) (e : Increment) :
    (s.applyIncrement e).mem = s.mem := foldl_mem (fun t j => by split <;> rfl) _ _
@[simp] theorem State.applyMarks_mem (s : State) (w : Who) :
    (s.applyMarks w).mem = s.mem := foldl_mem State.applyIncrement_mem _ _
@[simp] theorem State.requestCopy_mem (s : State) (v i a : Nat) (acc : Access) :
    (s.requestCopy v i a acc).mem = s.mem := by
  unfold State.requestCopy
  split <;> rfl
@[simp] theorem State.setWake_mem (s : State) (v i : Nat) (w : Option Nat) : (s.setWake v i w).mem = s.mem := by
  unfold State.setWake
  split <;> rfl
@[simp] theorem State.touchCopy_mem (s : State) (c v line : Nat) : (s.touchCopy c v line).mem = s.mem := by
  unfold State.touchCopy
  split <;> rfl
@[simp] theorem State.contribute_mem (s : State) (lc : Nat) (loc : Loc) (ty : BitVec 2) (rm : BitVec 3) (fz : Bool)
    (y : Word) :
    (s.contribute lc loc ty rm fz y).mem = s.mem := by
  unfold State.contribute
  dsimp only
  split_ifs <;> rfl
@[simp] theorem State.phaseEnded_mem (s : State) (v : Nat) (loc : Loc) : (s.phaseEnded v loc).mem = s.mem := rfl
@[simp] theorem State.setPosted_mem (s : State) (c k : Nat) (e : Posted) : (s.setPosted c k e).mem = s.mem := rfl
@[simp] theorem State.dropPosted_mem (s : State) (c k : Nat) : (s.dropPosted c k).mem = s.mem := rfl
@[simp] theorem State.discardFill_mem (s : State) (f : Fill) : (s.discardFill f).mem = s.mem := by
  simp [State.discardFill]
@[simp] theorem State.fillEvent_mem (s : State) (f : Fill) : (s.fillEvent f).mem = s.mem := by
  simp [State.fillEvent]
@[simp] theorem State.dropWatch_mem (s : State) (v : Nat) (tval : Word) : (s.dropWatch v tval).mem = s.mem := by
  simp [State.dropWatch]
@[simp] theorem State.dropWatches_mem (s : State) (v i : Nat) : (s.dropWatches v i).mem = s.mem := 
  foldl_mem (fun t e => by
    split
    · split <;> simp
    · rfl) _ s
@[simp] theorem State.dropEvents_mem (s0 : State) (v i : Nat) : (s0.dropEvents v i).mem = s0.mem := by
  simp [State.dropEvents]
@[simp] theorem State.removeLine_mem (s : State) (v i : Nat) : (s.removeLine v i).mem = s.mem := by
  unfold State.removeLine
  split <;> rfl
@[simp] theorem State.orphan_mem (s : State) (w : Who) : (s.orphan w).mem = s.mem := rfl
@[simp] theorem State.forgetAll_mem (s : State) (w : Who) : (s.forgetAll w).mem = s.mem := 
  foldl_mem (fun t x => by simp) _ s
@[simp] theorem State.pruneOne_mem (s : State) : s.pruneOne.mem = s.mem := by
  unfold State.pruneOne
  split <;> rfl
@[simp] theorem State.prune_mem (s : State) : s.prune.mem = s.mem := 
  foldl_mem (fun t x => by simp) _ s
@[simp] theorem State.unname_mem (s : State) (r : Rcb) : (s.unname r).mem = s.mem := by
  simp [State.unname]
@[simp] theorem State.record_mem (s : State) (cl v : Nat) (sent : Sent) : (s.record cl v sent).mem = s.mem := rfl
@[simp] theorem State.l2Room_mem (s : State) (cl set : Nat) : (s.l2Room cl set).mem = s.mem := by
  unfold State.l2Room
  dsimp only
  repeat' split
  all_goals simp
@[simp] theorem State.setPlace_mem (s : State) (v i : Nat) (p : Place) : (s.setPlace v i p).mem = s.mem := by
  unfold State.setPlace
  split <;> rfl
@[simp] theorem State.enterL2_mem (s : State) (cl v i : Nat) (l : Line) : (s.enterL2 cl v i l).mem = s.mem := by
  unfold State.enterL2
  dsimp only
  split <;> simp
@[simp] theorem State.keepYield_mem (s : State) (c : Nat) (sl : Slot) (v i : Nat) :
    (s.keepYield c sl v i).mem = s.mem := by
  unfold State.keepYield
  split <;> rfl
@[simp] theorem State.evict_mem (s : State) (c w : Nat) : (s.evict c w).mem = s.mem := by
  unfold State.evict
  split
  · rfl
  · split
    · rfl
    · split <;> simp
@[simp] theorem State.seat_mem (s : State) (c w v i : Nat) (l : Line) : (s.seat c w v i l).mem = s.mem := by
  simp [State.seat]
@[simp] theorem State.unqueue_mem (s : State) (c v i : Nat) : (s.unqueue c v i).mem = s.mem := rfl
theorem State.roomFor_mem {s t : State} {c since w : Nat} (h : s.roomFor c since = some (t, w)) :
    t.mem = s.mem := by
  unfold State.roomFor at h
  split at h
  · cases h
    rfl
  · split at h
    · split at h
      · cases h
        simp
      · cases h
    · cases h
@[simp] theorem State.pull_mem (s : State) (c : Nat) : (s.pull c).mem = s.mem := by
  unfold State.pull
  repeat' split
  any_goals rfl
  · simpa using State.roomFor_mem ‹s.roomFor c _ = some _›
  · exact State.roomFor_mem ‹s.roomFor c _ = some _›
@[simp] theorem State.dropPacket_mem (s : State) (k : Nat) : (s.dropPacket k).mem = s.mem := rfl
@[simp] theorem State.unload_mem (s : State) (c : Nat) (p : Packet) : (s.unload c p).mem = s.mem := by
  unfold State.unload
  split <;> rfl
@[simp] theorem State.keepTables_mem (s : State) (cl v table linear level : Nat) :
    (s.keepTables cl v table linear level).mem = s.mem := rfl
@[simp] theorem State.dropGranule_mem (s : State) (c v gpage : Nat) : (s.dropGranule c v gpage).mem = s.mem := rfl
@[simp] theorem State.fillTlb_mem (s : State) (c way : Nat) (e : TlbEntry) : (s.fillTlb c way e).mem = s.mem := rfl
@[simp] theorem State.dropWalk_mem (s : State) (cl k : Nat) : (s.dropWalk cl k).mem = s.mem := rfl
@[simp] theorem State.setWalk_mem (s : State) (cl k : Nat) (w : Walk) : (s.setWalk cl k w).mem = s.mem := rfl
@[simp] theorem State.answerWalk_mem (s : State) (w : Walk) (e : TlbEntry) : (s.answerWalk w e).mem = s.mem := by
  unfold State.answerWalk
  repeat' split
  all_goals rfl
@[simp] theorem State.mark_mem (s : State) (c : Cmd) (f : Marks → Marks) : (s.mark c f).mem = s.mem := by
  unfold State.mark
  split <;> rfl
@[simp] theorem State.restartAck_mem (s : State) (c : Cmd) : (s.restartAck c).mem = s.mem := by
  unfold State.restartAck
  split <;> rfl
@[simp] theorem State.noteKey_mem (s : State) (place src : Nat) (key : Nat × Nat) :
    (s.noteKey place src key).mem = s.mem := rfl
@[simp] theorem State.sendCompletion_mem (s : State) (c : Cmd) (status count : Nat) (word : Word) (flags : BitVec 16) :
    (s.sendCompletion c status count word flags).mem = s.mem := by
  simp [State.sendCompletion]
@[simp] theorem State.takeCmd_mem (s : State) (cl k : Nat) : (s.takeCmd cl k).mem = s.mem := rfl
@[simp] theorem State.takeDie_mem (s : State) (d k : Nat) : (s.takeDie d k).mem = s.mem := rfl
@[simp] theorem State.takeVector_mem (s : State) (c w n : Nat) : (s.takeVector c w n).mem = s.mem := rfl
@[simp] theorem State.enqueue_mem (s : State) (c : Cmd) : (s.enqueue c).mem = s.mem := by
  unfold State.enqueue
  dsimp only
  split_ifs <;> rfl
@[simp] theorem State.freeRecord_mem (s : State) (r : Option (Nat × Nat)) : (s.freeRecord r).mem = s.mem := by
  unfold State.freeRecord
  split <;> rfl
@[simp] theorem State.holdCompletion_mem (s : State) (c : Nat) (e : Completion) :
    (s.holdCompletion c e).mem = s.mem := by
  unfold State.holdCompletion
  dsimp only
  repeat' split
  all_goals simp
@[simp] theorem State.setHandle_mem (s : State) (c : Nat) (h : BitVec 8) (e : Word × Word) :
    (s.setHandle c h e).mem = s.mem := rfl
@[simp] theorem State.staleSegs_mem (s : State) (v ix : Nat) : (s.staleSegs v ix).mem = s.mem := by
  unfold State.staleSegs
  repeat' split
  all_goals rfl
@[simp] theorem State.lostEvent_mem (s : State) (w : Who) (e : Event) : (s.lostEvent w e).mem = s.mem := by
  cases e <;> simp [State.lostEvent]
@[simp] theorem State.startHandler_mem (s : State) (c w v : Nat) (l : Line) (reply : Bool) (rcb : Nat) :
    (s.startHandler c w v l reply rcb).mem = s.mem := rfl
@[simp] theorem State.startMessage_mem (s : State) (c w n : Nat) (m : Msg) : (s.startMessage c w n m).mem = s.mem := rfl
@[simp] theorem State.answerEngines_mem (s : State) (tag : Nat) (fatal : Option Word) :
    (s.answerEngines tag fatal).mem = s.mem := rfl
@[simp] theorem State.retryRequest_mem (s : State) (r : PageReq) : (s.retryRequest r).mem = s.mem := by
  unfold State.retryRequest
  split <;> rfl
@[simp] theorem State.discarded_mem (s : State) (by_ : Origin) : (s.discarded by_).mem = s.mem := by
  unfold State.discarded
  repeat' split
  all_goals rfl
@[simp] theorem State.wakeHost_mem (s : State) (hpa n : Nat) : (s.wakeHost hpa n).mem = s.mem := 
  foldl_mem (fun t x => by simp) _ s
@[simp] theorem State.hostTake_mem (s : State) (hpa : Nat) : (s.hostTake hpa).mem = s.mem := 
  foldl_mem (fun t x => by simp) _ s
@[simp] theorem State.dropParcels_mem (s : State) (v : Nat) (rs : List (Loc × Nat)) :
    (s.dropParcels v rs).mem = s.mem := rfl
@[simp] theorem State.setFrame_mem (s : State) (frame : Nat) (f : Frame) (st : CmdStatus) :
    (s.setFrame frame f st).mem = s.mem := rfl
@[simp] theorem State.dropFrame_mem (s : State) (frame : Nat) : (s.dropFrame frame).mem = s.mem := rfl
@[simp] theorem State.raise_mem (s : State) (l : List Nat) (v : Nat) : (s.raise l v).mem = s.mem := by
  unfold State.raise
  dsimp only
  repeat' split
  all_goals simp
@[simp] theorem State.noteWork_mem (s : State) (node : Nat) : (s.noteWork node).mem = s.mem := by
  unfold State.noteWork
  split
  · rfl
  · exact foldl_mem (fun t v => State.raise_mem ..) _ s
@[simp] theorem State.noteVf_mem (s : State) (v : Nat) : (s.noteVf v).mem = s.mem := by
  simp [State.noteVf]
@[simp] theorem State.reportChild_mem (s : State) (v : Nat) (chain : List (Nat × Nat)) (child core : Nat) :
    (s.reportChild v chain child core).mem = s.mem := by
  unfold State.reportChild
  split
  · rfl
  · split <;> rfl
@[simp] theorem State.endSliceNow_mem (s : State) (node : Nat) : (s.endSliceNow node).mem = s.mem := by
  unfold State.endSliceNow
  split <;> rfl
@[simp] theorem State.preempt_mem (s : State) (r : Rcb) : (s.preempt r).mem = s.mem := by
  unfold State.preempt
  dsimp only
  repeat' split
  all_goals simp
@[simp] theorem State.setWq_mem (s : State) (v q : Nat) (w : Wq) : (s.setWq v q w).mem = s.mem := rfl
@[simp] theorem State.wqStop_mem (s : State) (v q : Nat) (w : Wq) : (s.wqStop v q w).mem = s.mem := rfl
@[simp] theorem State.wqTaken_mem (s : State) (v q : Nat) (w : Wq) : (s.wqTaken v q w).mem = s.mem := rfl
@[simp] theorem State.setGang_mem (s : State) (g : Gang) : (s.setGang g).mem = s.mem := rfl
@[simp] theorem State.sendGang_mem (s : State) (g : Gang) (abort : Bool) : (s.sendGang g abort).mem = s.mem := by
  unfold State.sendGang
  dsimp only
  split
  · rfl
  · exact foldl_mem (fun t _ => State.hyper_mem ..) _ _
@[simp] theorem State.moveBeside_mem (s : State) (v i from_ to_ : Nat) : (s.moveBeside v i from_ to_).mem = s.mem := rfl
@[simp] theorem State.moveLine_mem (s : State) (v i from_ to_ : Nat) : (s.moveLine v i from_ to_).mem = s.mem := by
  unfold State.moveLine
  dsimp only
  repeat' split
  all_goals simp
@[simp] theorem State.applySplit_mem (s : State) (n : Nat) (p : Part) : (s.applySplit n p).mem = s.mem := 
  foldl_mem (fun t x => by simp) _ s
@[simp] theorem State.switchWalks_mem (s : State) (c : Nat) : (s.switchWalks c).mem = s.mem := by
  unfold State.switchWalks
  dsimp only
  split_ifs <;> rfl
@[simp] theorem State.takeCore_mem (s : State) (v c : Nat) : (s.takeCore v c).mem = s.mem := by
  unfold State.takeCore
  dsimp only
  repeat' split
  all_goals simp
@[simp] theorem State.takeCluster_mem (s : State) (v cl : Nat) : (s.takeCluster v cl).mem = s.mem := by
  have hcores := foldl_mem (fun t c => State.takeCore_mem t v c) ((List.range 16).map fun j => 16 * cl + j) s
  unfold State.takeCluster
  dsimp only
  split <;> simpa using hcores
@[simp] theorem State.giveSlice_mem (s : State) (node v : Nat) (p : Part) : (s.giveSlice node v p).mem = s.mem := by
  unfold State.giveSlice
  dsimp only
  split
  · rfl
  · exact foldl_mem (fun t k => t.takeCluster_mem v _) _ s
@[simp] theorem State.creditSlice_mem (s : State) (p : Part) : (s.creditSlice p).mem = s.mem := by
  unfold State.creditSlice
  split <;> rfl
@[simp] theorem State.nextSlice_mem (s : State) (node : Nat) : (s.nextSlice node).mem = s.mem := by
  unfold State.nextSlice
  split
  · rfl
  · split <;> simp
@[simp] theorem State.report_mem (s : State) (r : ResetReport) : (s.report r).mem = s.mem := by
  unfold State.report
  dsimp only
  split_ifs <;> rfl
@[simp] theorem State.reportCmd_mem (s : State) (c : Cmd) : (s.reportCmd c).mem = s.mem := by
  simp [State.reportCmd]
@[simp] theorem State.reportPacket_mem (s : State) (p : Packet) : (s.reportPacket p).mem = s.mem := by
  simp [State.reportPacket]
@[simp] theorem State.trimWindows_mem (s : State) : s.trimWindows.mem = s.mem := rfl
@[simp] theorem State.abortCommands_mem (s : State) (v : Nat) : (s.abortCommands v).mem = s.mem := 
  foldl_mem (fun t x => by simp) _ s
@[simp] theorem State.discardLines_mem (s : State) (v : Nat) : (s.discardLines v).mem = s.mem := rfl
@[simp] theorem State.setFilter_mem (s : State) (d v slot : Nat) (f : Filter) :
    (s.setFilter d v slot f).mem = s.mem := rfl
@[simp] theorem State.fireWatch_mem (s : State) (d v slot : Nat) (id : Word) :
    (s.fireWatch d v slot id).mem = s.mem := by
  unfold State.fireWatch
  split
  · split <;> simp
  · simp
@[simp] theorem State.fireFlag_mem (s : State) (d v k : Nat) : (s.fireFlag d v k).mem = s.mem := 
  foldl_mem (fun t x => by split <;> simp) _ s
@[simp] theorem State.fireWrite_mem (s : State) (d v : Nat) (out : Option Cmd) (val : Word) :
    (s.fireWrite d v out val).mem = s.mem := by
  unfold State.fireWrite
  dsimp only
  repeat' split
  all_goals simp
@[simp] theorem State.fire_mem (s : State) (d v slot : Nat) (out : Option Cmd) (t : Trigger) :
    (s.fire d v slot out t).mem = s.mem := by
  unfold State.fire
  split <;> simp
@[simp] theorem State.runFilter_mem (s : State) (d : Nat) (e : YEvent) (f : Filter) :
    (s.runFilter d e f).mem = s.mem := foldl_mem (fun t _ => t.fire_mem ..) _ _
@[simp] theorem State.countReplay_mem (s : State) (v : Nat) : (s.countReplay v).mem = s.mem := rfl
@[simp] theorem State.replayCmd_mem (s : State) (c : Cmd) : (s.replayCmd c).mem = s.mem := 
  (foldl_mem (fun t _ => t.hyper_mem ..) _ _).trans (s.countReplay_mem _)
@[simp] theorem State.hyperAll_mem (s : State) (nodes : List Nat) (name : Nat) : (s.hyperAll nodes name).mem = s.mem := 
  foldl_mem (fun t x => by simp) _ s
@[simp] theorem State.moduleError_mem (s : State) (what : Nat) : (s.moduleError what).mem = s.mem := rfl
@[simp] theorem State.countDuplicate_mem (s : State) (v cl seq : Nat) : (s.countDuplicate v cl seq).mem = s.mem := by
  unfold State.countDuplicate
  split <;> rfl
@[simp] theorem State.replayRecord_mem (s : State) (e : Nat × Replay) : (s.replayRecord e).mem = s.mem := by
  unfold State.replayRecord
  split <;> simp
@[simp] theorem State.retrained_mem (s : State) (link : Nat) : (s.retrained link).mem = s.mem := by
  unfold State.retrained
  dsimp only
  split <;> simp
@[simp] theorem State.retryFlit_mem (s : State) (where_ : Nat) : (s.retryFlit where_).mem = s.mem := by
  unfold State.retryFlit
  dsimp only
  repeat' split
  all_goals simp
@[simp] theorem State.setSorrel_mem (s : State) (x : Sorrel) : (s.setSorrel x).mem = s.mem := rfl
@[simp] theorem State.mboxEnd_mem (s : State) (st : Word) : (s.mboxEnd st).mem = s.mem := rfl
@[simp] theorem State.mboxStart_mem (s : State) : s.mboxStart.mem = s.mem := by
  unfold State.mboxStart
  dsimp only
  split_ifs <;> rfl
@[simp] theorem State.mboxBusy_mem (s : State) : s.mboxBusy.mem = s.mem := rfl
@[simp] theorem State.wassign_mem (s : State) (x : Sorrel) : (s.wassign x).mem = s.mem := by
  unfold State.wassign
  dsimp only
  split_ifs <;> rfl
@[simp] theorem State.setWorlds_mem (s : State) (x : Sorrel) : (s.setWorlds x).mem = s.mem := by
  unfold State.setWorlds
  dsimp only
  split_ifs <;> rfl
@[simp] theorem State.stageImage_mem (s : State) (x : Sorrel) (b : List Byte) : (s.stageImage x b).mem = s.mem := rfl
@[simp] theorem State.trained_mem (s : State) (b : BringUp) : (s.trained b).mem = s.mem := rfl
@[simp] theorem State.sensed_mem (s : State) (die : Nat) (r : Reading) : (s.sensed die r).mem = s.mem := rfl
@[simp] theorem State.followMaster_mem (s : State) : s.followMaster.mem = s.mem := rfl
@[simp] theorem State.advanceTick_mem (s : State) : s.advanceTick.mem = s.mem := by
  unfold State.advanceTick
  split <;> rfl
@[simp] theorem State.takeLevels_mem (s : State) : s.takeLevels.mem = s.mem := rfl
@[simp] theorem State.tickPart_mem (s : State) (node : Nat) (p : Part) : (s.tickPart node p).mem = s.mem := by
  unfold State.tickPart
  dsimp only
  split <;> simp
@[simp] theorem State.writeVf_mem (s : State) (v : Nat) (f : Vf → Vf) : (s.writeVf v f).mem = s.mem := by
  unfold State.writeVf
  split <;> rfl
@[simp] theorem State.writeWindow_mem (s : State) (by_ : Origin) (v : Nat) (f : Vf → Vf) :
    (s.writeWindow by_ v f).mem = s.mem := by
  unfold State.writeWindow
  split <;> simp
@[simp] theorem State.writeWq_mem (s : State) (by_ : Origin) (v q : Nat) (f : Wq → Wq) :
    (s.writeWq by_ v q f).mem = s.mem := by
  unfold State.writeWq
  dsimp only
  split <;> simp
@[simp] theorem State.writeMbox_mem (s : State) (by_ : Origin) (r : CtlReg) (v : Word) :
    (s.writeMbox by_ r v).mem = s.mem := by
  unfold State.writeMbox
  dsimp only
  repeat' split
  all_goals simp
@[simp] theorem State.writeAnchor_mem (s : State) (by_ : Origin) (key : BitVec 256) :
    (s.writeAnchor by_ key).mem = s.mem := by
  unfold State.writeAnchor
  dsimp only
  split_ifs <;> rfl
@[simp] theorem State.usedData_mem (s : State) (c w : Nat) (sl : Slot) (i : Instr) :
    (s.usedData c w sl i).mem = s.mem := by
  unfold State.usedData
  dsimp only
  repeat' split
  all_goals simp
@[simp] theorem State.bubble_mem (s : State) (c : Nat) : (s.bubble c).mem = s.mem := by
  unfold State.bubble
  split <;> simp
@[simp] theorem State.slotTaken_mem (s : State) (c : Nat) : (s.slotTaken c).mem = s.mem := rfl
@[simp] theorem State.skipped_mem (s : State) : s.skipped.mem = s.mem := rfl
@[simp] theorem State.withFetchWord_mem (s : State) (nbits w : Nat) : (s.withFetchWord nbits w).mem = s.mem := rfl
end Sys2Proof.Machine

/-! # Operations of the device that keep memory canonical (O57): caches, stores and fills -/

namespace Sys2Proof.Machine

/-! ## One word, and writes by the device's own accesses -/

@[simp] theorem State.recallWords_wf {s : State} {loc : Loc} {n : Nat} {inval secure : Bool} (h : s.mem.wf = true) :
    (s.recallWords loc n inval secure).mem.wf = true := by
  unfold State.recallWords
  split
  · split
    · cases s.hostAddr _ _ false with
      | none => exact h
      | some a => exact State.hostRecall_wf _ _ _ _ h
    · split
      · exact h
      · exact State.keepLine_wf _ _ _ h
  · exact h

@[simp] theorem State.ordinaryWord_wf {s : State} {v : Nat} {loc : Loc} {n : Nat} {w w' : Word8} {secure : Bool}
    {must : Waiter → Bool} (h : s.mem.wf = true) : (s.ordinaryWord v loc n w w' secure must).mem.wf = true := by
  unfold State.ordinaryWord
  split
  · simp [h]
  · simpa using State.putWord_wf _ _ _ _ _ h

@[simp] theorem State.ordinary_wf {s : State} {v : Nat} {loc : Loc} {n : Nat} {w w' : Word8} {secure : Bool}
    (h : s.mem.wf = true) : (s.ordinary v loc n w w' secure).mem.wf = true := State.ordinaryWord_wf h

@[simp] theorem State.storeOrdinary_wf {s : State} {v : Nat} {loc : Loc} {n val : Nat} {secure : Bool}
    (h : s.mem.wf = true) : (s.storeOrdinary v loc n val secure).mem.wf = true := by
  unfold State.storeOrdinary
  split
  · split
    · simp [h]
    · exact State.storeBytes_wf _ _ _ _ _ _ h
  · exact State.storeBytes_wf _ _ _ _ _ _ h

/-! ## Core data caches (R355 to R357) -/

@[simp] theorem State.writeBackWords_wf {s : State} {c v line : Nat} {m : BitVec 16} (h : s.mem.wf = true) :
    (s.writeBackWords c v line m).mem.wf = true := by
  unfold State.writeBackWords
  split
  · exact h
  · split
    · dsimp only
      split
      · exact h
      · exact State.hostMerge_wf _ _ _ _ h
    · exact h
  · exact h

@[simp] theorem State.coreEvict_wf {s : State} {c v line : Nat} (h : s.mem.wf = true) :
    (s.coreEvict c v line).mem.wf = true := by
  unfold State.coreEvict
  dsimp only
  split <;> simp [h]

@[simp] theorem State.makeRoom_wf {s : State} {c v line : Nat} (h : s.mem.wf = true) :
    (s.makeRoom c v line).mem.wf = true := by
  unfold State.makeRoom
  dsimp only
  split
  · exact h
  · split <;> simp [h]

@[simp] theorem State.putCopy_wf {s : State} {c : Nat} {x : CacheLine} {stream : Bool} (h : s.mem.wf = true) :
    (s.putCopy c x stream).mem.wf = true := by
  unfold State.putCopy
  dsimp only
  split <;> simp [h]

theorem State.loadMiss_wf {s t : State} {c v line : Nat} {m : BitVec 16} {priv secure alloc stream : Bool}
    (h : s.mem.wf = true) (ht : s.loadMiss c v line m priv secure alloc stream = .ok t) : t.mem.wf = true := by
  unfold State.loadMiss at ht
  dsimp only at ht
  split at ht
  · cases ht
  · split_ifs at ht <;> cases ht
    · exact State.keepLine_wf _ _ _ h
    · exact State.keepLine_wf _ _ _ h
    · exact State.keepLine_wf _ _ _ h
    · exact State.putCopy_wf (State.keepLine_wf _ _ _ h)

theorem State.takeOwnership_wf {s t : State} {c v line : Nat} {m : BitVec 16} {secure stream : Bool}
    (h : s.mem.wf = true) (ht : s.takeOwnership c v line m secure stream = .ok t) : t.mem.wf = true := by
  unfold State.takeOwnership at ht
  split at ht
  · cases ht
  · cases ht
    refine State.putCopy_wf (State.keepLine_wf _ _ _ ?_)
    dsimp only
    split
    · split
      · exact h
      · exact h
    · exact h

/-! ## Releases at system scope (R269) -/

@[simp] theorem State.writeBackCore_wf {s : State} {c : Nat} (h : s.mem.wf = true) : (s.writeBackCore c).mem.wf = true :=
  foldl_wf (fun t x ht => by split <;> simp [ht]) _ h

@[simp] theorem State.writeBackVf_wf {s : State} {v : Nat} (h : s.mem.wf = true) : (s.writeBackVf v).mem.wf = true :=
  foldl_wf (fun t e ht => foldl_wf (fun t x ht => by split <;> simp [ht]) _ ht) _ h

@[simp] theorem State.systemRelease_wf {s : State} {c v : Nat} (h : s.mem.wf = true) :
    (s.systemRelease c v).mem.wf = true := State.writeBackVf_wf (State.writeBackCore_wf h)

/-! ## What a posted entry performs -/

theorem State.storeCached_wf {s t : State} {c : Nat} {e : Posted} {gpa : Nat} (h : s.mem.wf = true)
    (ht : s.storeCached c e gpa = .ok t) : t.mem.wf = true := by
  unfold State.storeCached at ht
  dsimp only at ht
  split at ht
  · cases ht
  next l _ =>
  have h0 : (if (s.llc? e.vf (gpa / 64)).any LlcLine.write then s else s.keepLine l false).mem.wf = true := by
    split
    · exact h
    · exact State.keepLine_wf _ _ _ h
  generalize (if (s.llc? e.vf (gpa / 64)).any LlcLine.write then s else s.keepLine l false) = s0 at ht h0
  split at ht
  · cases ht
    simpa using h
  split at ht
  · cases ht
  next s1 hgot =>
  have h1 : s1.mem.wf = true := by
    split_ifs at hgot
    · cases hgot
      exact h0
    · exact State.loadMiss_wf h0 hgot
    · exact State.takeOwnership_wf h0 hgot
  split at ht
  · cases ht
    exact State.storeBytes_wf _ _ _ _ _ _ h1
  · cases ht
    simp [h1]

@[simp] theorem State.storeHost_wf {s : State} {c : Nat} {e : Posted} {gpa a : Nat} (h : s.mem.wf = true) :
    (s.storeHost c e gpa a).mem.wf = true := by
  unfold State.storeHost
  dsimp only
  split
  · simpa using h
  · rw [State.wake_mem]
    exact State.putCopy_wf (State.hostRecall_wf _ _ _ _ h)

@[simp] theorem State.releaseLine_wf {s : State} {v line : Nat} (h : s.mem.wf = true) :
    (s.releaseLine v line).mem.wf = true := by
  unfold State.releaseLine
  split
  · exact h
  · dsimp only
    split
    · exact State.lineToMemory_wf _ _ h
    · exact h

@[simp] theorem State.storeThrough_wf {s : State} {e : Posted} (h : s.mem.wf = true) :
    (s.storeThrough e).mem.wf = true := by
  have hs := s.storeBytes_wf e.vf e.loc e.n e.data.toNat e.secure h
  unfold State.storeThrough
  dsimp only
  split
  · split <;> simp [hs]
  · exact hs

@[simp] theorem State.touchStore_wf {s : State} {c : Nat} {e : Posted} {gpa : Nat} (h : s.mem.wf = true) :
    (s.touchStore c e gpa).mem.wf = true := by
  unfold State.touchStore
  dsimp only
  split_ifs
  · exact State.touchLlc_wf _ _ _ _ _ _ (by simpa using h)
  · exact State.touchLlc_wf _ _ _ _ _ _ h
  · exact h

theorem State.storeAt_wf {s t : State} {c : Nat} {e : Posted} (h : s.mem.wf = true) (ht : s.storeAt c e = .ok t) :
    t.mem.wf = true := by
  unfold State.storeAt at ht
  split at ht
  next v gpa _ =>
    have h0 : (s.touchStore c e gpa).mem.wf = true := State.touchStore_wf h
    dsimp only at ht
    split at ht
    · cases ht
    · split_ifs at ht
      · cases ht
        exact State.storeThrough_wf h0
      · cases ht
        cases State.hostAddr _ v gpa true with
        | none => exact h0
        | some a => exact State.storeHost_wf h0
      · exact State.storeCached_wf h0 ht
  · cases ht
    exact State.storeBytes_wf _ _ _ _ _ _ h

theorem State.performStore_wf {s t : State} {c : Nat} {e : Posted} (h : s.mem.wf = true)
    (ht : s.performStore c e = .ok t) : t.mem.wf = true := by
  unfold State.performStore at ht
  split at ht
  · split at ht
    · cases ht
    · cases ht
      simpa using h
    · exact State.storeAt_wf h ht
  · exact State.storeAt_wf h ht

theorem State.joinDec_wf {s t : State} {v : Nat} {loc : Loc} {secure : Bool} (h : s.mem.wf = true)
    (ht : s.joinDec v loc secure = .ok t) : t.mem.wf = true := by
  unfold State.joinDec at ht
  split at ht
  · cases ht
  · dsimp only at ht
    split_ifs at ht <;> cases ht
    · simpa using h
    · exact h
    · exact State.ordinaryWord_wf h

theorem State.arrive_wf {s : State} {v : Nat} {loc : Loc} {secure : Bool} {r : State × Bool} (h : s.mem.wf = true)
    (hr : s.arrive v loc secure = .ok r) : r.1.mem.wf = true := by
  unfold State.arrive at hr
  split at hr
  · dsimp only at hr
    split_ifs at hr
    · cases hr
      simpa using h
    · split at hr
      · cases hr
        simpa using State.putWord_wf _ _ _ _ _ (State.putWord_wf _ _ _ _ _ h)
      · cases hr
        simpa using h
  · cases hr
  · cases hr

theorem State.arrival_wf {s t : State} {v : Nat} {loc : Loc} {secure : Bool} (h : s.mem.wf = true)
    (ht : s.arrival v loc secure = .ok t) : t.mem.wf = true := by
  unfold State.arrival at ht
  split at ht
  · cases ht
  next hr =>
    cases ht
    split <;> simpa using State.arrive_wf h hr

theorem State.setBit_wf {s t : State} {v : Nat} {loc : Loc} {f secure : Bool} (h : s.mem.wf = true)
    (ht : s.setBit v loc f secure = .ok t) : t.mem.wf = true := by
  unfold State.setBit at ht
  split at ht
  · cases ht
  · cases ht
    exact State.ordinary_wf h

@[simp] theorem State.touchPosted_wf {s : State} {e : Posted} (h : s.mem.wf = true) :
    (s.touchPosted e).mem.wf = true := by
  unfold State.touchPosted
  split
  · exact h
  · exact h
  · split
    · exact State.touchLlc_wf _ _ _ _ _ _ h
    · exact h
  · exact h

theorem State.performEffect_wf {s t : State} {c : Nat} {e : Posted} (h : s.mem.wf = true)
    (ht : s.performEffect c e = .ok t) : t.mem.wf = true := by
  unfold State.performEffect at ht
  split at ht
  · exact State.performStore_wf h ht
  · split at ht <;> cases ht
    exact State.ordinary_wf h
  · exact State.setBit_wf h ht
  · exact State.setBit_wf h ht
  · split at ht <;> cases ht
    simpa using h
  · exact State.joinDec_wf h ht
  · exact State.arrival_wf h ht
  · cases ht
    exact h

@[simp] theorem State.performPosted_wf {s : State} {c k : Nat} (h : s.mem.wf = true) :
    (s.performPosted c k).mem.wf = true := by
  unfold State.performPosted
  split
  · exact h
  next e _ =>
  have h0 : (if e.release = some 6 then s.systemRelease c e.vf else s).mem.wf = true := by split <;> simp [h]
  dsimp only
  split
  · exact h
  · split
    next heff => simpa using State.performEffect_wf (State.touchPosted_wf h0) heff
    · simpa using h0
    · simpa using h0

/-! ## Lines of contexts and handlers, and fills (R23, R138, R313) -/

@[simp] theorem State.setWhoLine_wf {s : State} {w : Who} {l : Line} (h : s.mem.wf = true) :
    (s.setWhoLine w l).mem.wf = true := by
  unfold State.setWhoLine
  split
  · exact State.setLine_wf _ _ _ _ h
  · split <;> simp [h]

@[simp] theorem State.readyWho_wf {s : State} {w : Who} {l : Line} (h : s.mem.wf = true) :
    (s.readyWho w l).mem.wf = true := by
  unfold State.readyWho
  split
  · exact State.readyLine_wf _ _ _ _ h
  · exact State.setWhoLine_wf h

@[simp] theorem State.trapWho_wf {s : State} {w : Who} {l : Line} {cause : BitVec 16} {tval : Word} {tinfo : BitVec 16}
    {acc : Nat} (h : s.mem.wf = true) : (s.trapWho w l cause tval tinfo acc).mem.wf = true := by
  unfold State.trapWho
  split
  · exact State.faultLine_wf _ _ _ _ _ _ _ (State.setLine_wf _ _ _ _ h)
  · split
    · exact h
    · exact State.takeTrap_wf _ _ _ _ _ _ _ _ h

@[simp] theorem State.fillHost_wf {s : State} {f : Fill} {v gpa a : Nat} (h : s.mem.wf = true) :
    (s.fillHost f v gpa a).mem.wf = true := by
  unfold State.fillHost
  dsimp only
  split_ifs
  · exact h
  · exact State.hostRecall_wf _ _ _ _ h
  · exact State.putCopy_wf (State.hostRecall_wf _ _ _ _ h)

theorem State.fillRead_wf {s : State} {f : Fill} {r : State × Nat × Bool} (h : s.mem.wf = true)
    (hr : s.fillRead f = .ok r) : r.1.mem.wf = true := by
  unfold State.fillRead at hr
  split at hr
  · cases hr
  · split at hr
    next vf gpa _ =>
      split at hr
      · cases hr
        cases s.hostAddr vf gpa false with
        | none => exact h
        | some a => exact State.fillHost_wf h
      · dsimp only at hr
        split at hr
        · cases hr
        next hmiss =>
          cases hr
          exact State.loadMiss_wf (State.touchLlc_wf _ _ _ _ _ _ h) hmiss
    · cases hr
      exact h

@[simp] theorem State.deliverFill_wf {s : State} {f : Fill} {v : Nat} (h : s.mem.wf = true) :
    (s.deliverFill f v).mem.wf = true := by
  unfold State.deliverFill
  split
  · simpa using h
  · dsimp only
    split_ifs <;> simp [h]

@[simp] theorem State.lateTrap_wf {s : State} {f : Fill} {cause : BitVec 16} (h : s.mem.wf = true) :
    (s.lateTrap f cause).mem.wf = true := by
  unfold State.lateTrap
  split
  · simpa using h
  · split
    · simpa using h
    · refine State.trapWho_wf ?_
      split <;> simp [h]

@[simp] theorem State.answerFill_wf {s : State} {k : Nat} (h : s.mem.wf = true) : (s.answerFill k).mem.wf = true := by
  unfold State.answerFill
  split
  · exact h
  · dsimp only
    split
    · exact h
    · split
      next hread =>
        have h1 := State.fillRead_wf h hread
        split <;> simp [h1]
      · simp [h]
      · simpa using h

end Sys2Proof.Machine

/-! # Operations of the device that keep memory canonical (O57): retirement, moves of a line, fetching and walks -/

namespace Sys2Proof.Machine

/-! ## Contexts that retire and RCBs that end (R108, R319, R326, R330) -/

@[simp] theorem State.rcbField_wf {s : State} {v addr dw lo n val : Nat} (h : s.mem.wf = true) :
    (s.rcbField v addr dw lo n val).mem.wf = true := State.rcbUpdate_wf _ _ _ _ _ h

@[simp] theorem State.setLive_wf {s : State} {v addr : Nat} {f : Nat → Nat} (h : s.mem.wf = true) :
    (s.setLive v addr f).mem.wf = true := by
  unfold State.setLive
  split
  · exact h
  · refine State.rcbUpdate_wf _ _ _ _ _ ?_
    split
    · exact h
    · exact h

@[simp] theorem State.unlive_wf {s : State} {v : Nat} {c : Ctx} (h : s.mem.wf = true) : (s.unlive v c).mem.wf = true := by
  unfold State.unlive
  split
  · exact State.setLive_wf h
  · dsimp only
    split
    · exact h
    · exact State.setLive_wf h

@[simp] theorem State.setSused_wf {s : State} {r : Rcb} {n : Nat} (h : s.mem.wf = true) : (s.setSused r n).mem.wf = true :=
  State.rcbField_wf h

@[simp] theorem State.elim_dropWatch_mem (s : State) (v : Nat) (w : Option Word) :
    (w.elim s (s.dropWatch v)).mem = s.mem := by
  cases w <;> simp

@[simp] theorem State.retire_wf {s : State} {v i : Nat} (h : s.mem.wf = true) : (s.retire v i).mem.wf = true := by
  unfold State.retire
  split
  · exact h
  · refine State.unlive_wf ?_
    simp only [State.setCtx_mem, State.elim_dropWatch_mem, State.dropEvents_mem, State.removeLine_mem]
    split
    · exact State.writeCopy_wf _ _ _ _ h
    · exact h

@[simp] theorem State.endCtx_wf {s : State} {v i : Nat} (h : s.mem.wf = true) : (s.endCtx v i).mem.wf = true := by
  have hgone : ((s.forgetAll (.ctx v i)).dropEvents v i).mem.wf = true := by simpa using h
  unfold State.endCtx
  split
  · exact h
  · dsimp only
    split
    · exact h
    · exact hgone
    · split
      · exact hgone
      · exact State.retire_wf hgone
    · exact State.retire_wf hgone

@[simp] theorem State.retireEnded_wf {s : State} {v i : Nat} (h : s.mem.wf = true) : (s.retireEnded v i).mem.wf = true := by
  unfold State.retireEnded
  split
  · split
    · split <;> simp [h]
    · exact h
    · split <;> simp [h]
  · exact h

@[simp] theorem State.dropLine_wf {s : State} {v i : Nat} {c : Ctx} {cause : BitVec 16} (h : s.mem.wf = true) :
    (s.dropLine v i c cause).mem.wf = true :=
  State.reportFault_wf _ _ _ _ _ _ (State.unlive_wf (by simpa using h))

@[simp] theorem State.poisonCopy_wf {s : State} {v i k : Nat} (h : s.mem.wf = true) :
    (s.poisonCopy v i k).mem.wf = true := by
  unfold State.poisonCopy
  dsimp only
  split
  · exact State.putWord_wf _ _ _ _ _ h
  · exact h

@[simp] theorem State.loseLine_wf {s : State} {v i : Nat} (h : s.mem.wf = true) : (s.loseLine v i).mem.wf = true := by
  unfold State.loseLine
  split
  · exact h
  · dsimp only
    split
    · exact h
    · rw [State.countErr_mem, State.hyper_mem]
      exact foldl_wf (fun t k ht => State.poisonCopy_wf ht) _ (State.dropLine_wf h)

@[simp] theorem State.refuseCopy_wf {s : State} {v i : Nat} (h : s.mem.wf = true) : (s.refuseCopy v i).mem.wf = true := by
  unfold State.refuseCopy
  split
  · exact h
  · split
    · exact State.dropLine_wf h
    · exact State.dropLine_wf h
    · exact h

@[simp] theorem State.headraceJoin_wf {s : State} {v addr : Nat} (h : s.mem.wf = true) :
    (s.headraceJoin v addr).mem.wf = true := by
  unfold State.headraceJoin
  split
  · exact h
  · split
    next hjoin => exact State.joinDec_wf (State.headraceMarks_wf _ _ _ _ h) hjoin
    · simpa using h

@[simp] theorem State.unreserve_wf {s : State} {v parent : Nat} {chain : List (Nat × Nat)} (h : s.mem.wf = true) :
    (s.unreserve v parent chain).mem.wf = true := by
  unfold State.unreserve
  split
  · exact State.setSused_wf h
  · split
    · exact State.rcbWrite_wf _ _ _ _ _ h
    · exact h

@[simp] theorem State.finishRcb_wf {s : State} {r : Rcb} {code why : Nat} (h : s.mem.wf = true) :
    (s.finishRcb r code why).mem.wf = true := by
  refine State.rcbField_wf (State.rcbField_wf (State.writeBackVf_wf ?_))
  split <;> simp [h]

@[simp] theorem State.abortOne_wf {s : State} {r : Rcb} {why : Nat} (h : s.mem.wf = true) :
    (s.abortOne r why).mem.wf = true := by
  have hended : ((s.ctxsOf r.vf r.addr).foldl (fun s i => s.endCtx r.vf i) s).mem.wf = true :=
    foldl_wf (fun t i ht => State.endCtx_wf ht) _ h
  unfold State.abortOne
  dsimp only
  split
  · exact hended
  · exact State.finishRcb_wf hended

@[simp] theorem State.clearHw_wf {s : State} {v addr : Nat} (h : s.mem.wf = true) : (s.clearHw v addr).mem.wf = true :=
  State.rcbWrite_wf _ _ _ _ _ (State.rcbWrite_wf _ _ _ _ _ (State.rcbWrite_wf _ _ _ _ _ (State.rcbField_wf h)))

@[simp] theorem State.abortEntry_wf {s : State} {e : PoolEntry} {why : Nat} (h : s.mem.wf = true) :
    (s.abortEntry e why).mem.wf = true := by
  have hquota : (s.unreserve e.vf e.parent e.chain).mem.wf = true := State.unreserve_wf h
  unfold State.abortEntry
  dsimp only
  split
  · exact hquota
  · split
    · exact hquota
    · exact State.rcbWrite_wf _ _ _ _ _ (State.clearHw_wf (State.headraceJoin_wf hquota))

@[simp] theorem State.abortSubtree_wf {s : State} {r : Rcb} {why : Nat} (h : s.mem.wf = true) :
    (s.abortSubtree r why).mem.wf = true := by
  unfold State.abortSubtree
  dsimp only
  rw [State.prune_mem]
  exact foldl_wf (fun t x ht => State.abortOne_wf ht) _ (foldl_wf (fun t e ht => State.abortEntry_wf ht) _ h)

/-! ## Moves of a line (R303 to R315) -/

@[simp] theorem State.writeBackLine_wf {s : State} {cl : Nat} {e : L2Line} (h : s.mem.wf = true) :
    (s.writeBackLine cl e).mem.wf = true := by
  unfold State.writeBackLine
  split
  · simpa using h
  · dsimp only
    split
    · exact State.writeCopy_wf _ _ _ _ h
    · exact State.writeCopy_wf _ _ _ _ h

@[simp] theorem State.fetchHome_wf {s : State} {v i : Nat} (h : s.mem.wf = true) : (s.fetchHome v i).mem.wf = true := by
  have hread : ∀ gpas, (s.touchAll v gpas false).mem.wf = true := fun gpas => State.touchAll_wf _ _ _ _ h
  unfold State.fetchHome
  split
  · split
    · split
      · simpa using h
      · split <;> simp [h]
    · have hl2 : ∀ (b : Bool) gpas cl l,
          (if b then (s.touchAll v gpas false).enterL2 cl v i l else s).mem.wf = true := by
        intro b gpas cl l
        split
        · simpa using hread gpas
        · exact h
      split
      · exact h
      · dsimp only
        split
        · split
          · exact hl2 ..
          · split
            · exact h
            · split
              · exact hl2 ..
              next hroom =>
                split
                · simpa [State.roomFor_mem hroom] using hread _
                · exact h
        · exact hl2 ..
  · exact h

@[simp] theorem State.arriveL2_wf {s : State} {k : Nat} {p : Packet} {c : Nat} (h : s.mem.wf = true) :
    (s.arriveL2 k p c).mem.wf = true := by
  unfold State.arriveL2
  split
  · exact h
  · exact State.retireEnded_wf (by simpa using h)

@[simp] theorem State.arrivePacket_wf {s : State} {k : Nat} (h : s.mem.wf = true) : (s.arrivePacket k).mem.wf = true := by
  unfold State.arrivePacket
  split
  · exact h
  · dsimp only
    split
    · exact h
    · split
      · exact State.arriveL2_wf h
      · split
        next hroom => exact State.retireEnded_wf (by simpa [State.roomFor_mem hroom] using h)
        · split <;> exact h

@[simp] theorem State.arriveLate_wf {s : State} {k : Nat} (h : s.mem.wf = true) : (s.arriveLate k).mem.wf = true := by
  unfold State.arriveLate
  split
  · exact h
  · split
    · exact h
    · dsimp only
      split <;> simp [h]

/-! ## Fetching (R28, R60 to R71) -/

theorem State.readPiece_wf {s : State} {loc : Loc} {n : Nat} {secure : Bool} {r : State × Nat × Bool} (h : s.mem.wf = true)
    (hr : s.readPiece loc n secure = .ok r) : r.1.mem.wf = true := by
  unfold State.readPiece at hr
  split at hr
  · cases hr
  · split at hr
    next vf gpa _ =>
      split at hr
      · dsimp only at hr
        split_ifs at hr <;> cases hr <;> exact h
      · split at hr
        · cases hr
        · have htouch : (s.touchLlc vf gpa false true true).mem.wf = true := State.touchLlc_wf _ _ _ _ _ _ h
          dsimp only at hr
          split_ifs at hr <;> cases hr <;> exact htouch
    · cases hr
      exact h

theorem State.bufferedPiece_mem {s : State} {e : FetchEntry} {secure : Bool} {r : State × Nat}
    (hr : s.bufferedPiece e secure = .ok r) : r.1.mem = s.mem := by
  unfold State.bufferedPiece at hr
  dsimp only at hr
  split at hr
  · cases hr
  · split at hr
    · split at hr <;> cases hr <;> rfl
    · cases hr
      rfl

theorem State.fetchPiece_wf {s : State} {c w : Nat} {sl : Slot} {off at_ n : Nat} {r : State × Nat} (h : s.mem.wf = true)
    (hr : s.fetchPiece c w sl off at_ n = .ok r) : r.1.mem.wf = true := by
  unfold State.fetchPiece at hr
  extract_lets tv at hr
  split at hr
  · cases hr
  · cases hr
  · cases hr
  next g loc _ _ =>
    extract_lets s0 at hr
    have h0 : s0.mem.wf = true := by
      unfold s0
      split <;> simp [h]
    clear_value s0
    split at hr
    next e _ =>
      cases hpiece : s0.bufferedPiece e sl.secure with
      | error x =>
        rw [hpiece] at hr
        cases hr
      | ok p =>
        rw [hpiece] at hr
        cases hr
        rw [State.bufferedPiece_mem hpiece]
        exact h0
    · split at hr
      · cases hr
      · cases hr
      next hread =>
        split at hr <;> cases hr
        exact State.readPiece_wf h0 hread

theorem map_eq_ok {ε α β : Type} {f : α → β} {x : Except ε α} {b : β} (h : x.map f = .ok b) :
    ∃ a, x = .ok a ∧ f a = b := by
  cases x with
  | error e => cases h
  | ok a => exact ⟨a, rfl, Except.ok.inj h⟩

theorem State.fetchParcel_wf {s : State} {c w : Nat} {sl : Slot} {off : Nat} {r : State × Parcel} (h : s.mem.wf = true)
    (hr : s.fetchParcel c w sl off = .ok r) : r.1.mem.wf = true := by
  unfold State.fetchParcel at hr
  dsimp only at hr
  split at hr
  · obtain ⟨p, hpiece, rfl⟩ := map_eq_ok hr
    exact State.fetchPiece_wf h hpiece
  · split at hr
    · cases hr
    · split at hr
      · cases hr
      next hlow =>
        obtain ⟨p, hpiece, rfl⟩ := map_eq_ok hr
        exact State.fetchPiece_wf (State.fetchPiece_wf h hlow) hpiece

/-- What the fetch has come to leaves memory canonical. -/
def Fetched.Canonical : Fetched → Prop
  | .instr _ s | .bad _ s | .miss _ _ _ s | .stage2 _ _ _ s => s.mem.wf = true

theorem State.fetchFrom_canonical (n : Nat) {s : State} {c w : Nat} {sl : Slot} {d : DecState} {got : List Parcel}
    {off : Nat} (h : s.mem.wf = true) : (s.fetchFrom c w sl d got off n).Canonical := by
  induction n generalizing s d got off with
  | zero => exact h
  | succ n ih =>
    unfold State.fetchFrom
    dsimp only
    split
    · exact h
    · split
      · split <;> exact h
      next hparcel =>
        have h1 := State.fetchParcel_wf h hparcel
        split
        · exact ih h1
        · exact h1
        · exact h1

theorem State.fetchInstr_canonical {s : State} {c w : Nat} {sl : Slot} (h : s.mem.wf = true) :
    (s.fetchInstr c w sl).Canonical := State.fetchFrom_canonical 6 h

@[simp] theorem State.readSet_wf {s : State} {sl : Slot} (h : s.mem.wf = true) : (s.readSet sl).mem.wf = true := by
  unfold State.readSet
  dsimp only
  split
  · exact h
  · exact State.touchAll_wf _ _ _ _ h

@[simp] theorem State.touchSet_wf {s : State} {sl : Slot} (h : s.mem.wf = true) : (s.touchSet sl).mem.wf = true := by
  unfold State.touchSet
  split <;> simp [h]

@[simp] theorem State.takeWatch_wf {s : State} {c w : Nat} {sl : Slot} {v i : Nat} {x : Ctx} {tval : Word}
    (h : s.mem.wf = true) : (s.takeWatch c w sl v i x tval).mem.wf = true := State.takeTrap_wf _ _ _ _ _ _ _ _ h

theorem State.boundary_wf {s t : State} {c w : Nat} {sl : Slot} (h : s.mem.wf = true) (ht : s.boundary c w sl = some t) :
    t.mem.wf = true := by
  unfold State.boundary at ht
  split at ht
  · cases ht
  · split at ht
    · cases ht
    · split at ht
      · cases ht
        exact State.retireEnded_wf h
      · split at ht <;> cases ht
        exact State.takeWatch_wf h

@[simp] theorem State.prepare_wf {s : State} {c w : Nat} {sl : Slot} (h : s.mem.wf = true) :
    (s.prepare c w sl).mem.wf = true := by
  unfold State.prepare
  dsimp only
  split
  · simpa using h
  · exact State.rcbWrite_wf _ _ _ _ _ (by simpa using h)

/-! ## Runs of bytes -/

@[simp] theorem State.storeRun_wf (k : Nat) {s : State} {v : Nat} {loc : Loc} {n val : Nat} {secure : Bool}
    (h : s.mem.wf = true) : (s.storeRun v loc n val secure k).mem.wf = true := by
  induction k generalizing s loc n val with
  | zero => exact h
  | succ k ih =>
    rw [State.storeRun]
    split
    · exact h
    · exact ih (State.storeBytes_wf _ _ _ _ _ _ h)

@[simp] theorem State.writeRuns_wf (rs : List (Loc × Nat)) {s : State} {v val : Nat} (h : s.mem.wf = true) :
    (s.writeRuns v rs val).mem.wf = true := by
  induction rs generalizing s val with
  | nil => exact h
  | cons r rs ih => exact ih (State.storeRun_wf _ h)

@[simp] theorem State.writeRow_wf {s : State} {p : Placed} {i : Nat} {bits : List Nat} (h : s.mem.wf = true) :
    (s.writeRow p i bits).mem.wf = true := State.writeRuns_wf _ h

@[simp] theorem State.writeRows_wf (n : Nat) {s : State} {p : Placed} {i : Nat} {bits : List Nat} (h : s.mem.wf = true) :
    (s.writeRows p i bits n).mem.wf = true := by
  induction n generalizing s i bits with
  | zero => exact h
  | succ n ih => exact ih (State.writeRow_wf h)

@[simp] theorem State.writeTile_wf {s : State} {p : Placed} {bits : List Nat} (h : s.mem.wf = true) :
    (s.writeTile p bits).mem.wf = true := State.writeRows_wf _ h

@[simp] theorem State.putHeader_wf {s : State} {v : Nat} {loc : Loc} {k : Nat} {w : Word} (h : s.mem.wf = true) :
    (s.putHeader v loc k w).mem.wf = true := State.writeRuns_wf _ h

/-! ## Walks and reclassification (R342 to R349, R361) -/

@[simp] theorem State.touchWalk_wf {s : State} {v table linear level : Nat} (h : s.mem.wf = true) :
    (s.touchWalk v table linear level).mem.wf = true := State.touchAll_wf _ _ _ _ h

/-- A state that the walk leaves holds canonical memory. -/
def Walked.Canonical : Walked → Prop
  | .done s _ | .wait s | .again s => s.mem.wf = true
  | .fault | .stage2 _ _ | .held => True

theorem State.useLeaf_canonical {s : State} {v lc linear level entry : Nat} {e : Word} {writes : Bool}
    (h : s.mem.wf = true) : (s.useLeaf v lc linear level entry e writes).Canonical := by
  have htouch : (s.touchLlc v entry true false).mem.wf = true := State.touchLlc_wf _ _ _ _ _ _ h
  unfold State.useLeaf
  dsimp only
  generalize (if level = 1 then s.leafAfter v lc e else e) = e1
  generalize (if writes then e1 ||| 0x40 else e1) = e2
  split
  · exact h
  · split
    · trivial
    · trivial
    · split
      · split
        · exact htouch
        · exact State.keepLine_wf _ _ _ htouch
      · exact State.performWord_wf _ _ _ _ _ _ htouch

theorem State.walkFrom_canonical {s : State} {cl v lc linear : Nat} {acc : Access} {sup keep : Bool} {table from_ : Nat}
    (h : s.mem.wf = true) : (s.walkFrom cl v lc linear acc sup keep table from_).Canonical := by
  unfold State.walkFrom
  split
  · trivial
  · trivial
  · dsimp only
    split
    · trivial
    · split
      · trivial
      · split
        · exact h
        · refine State.useLeaf_canonical ?_
          split <;> simp [h]

@[simp] theorem State.walkStart_mem (s : State) (cl v linear : Nat) : (s.walkStart cl v linear).1.mem = s.mem := by
  unfold State.walkStart
  split <;> rfl

theorem State.walk_canonical {s : State} {cl v lc linear : Nat} {acc : Access} {sup : Bool} (h : s.mem.wf = true) :
    (s.walk cl v lc linear acc sup).Canonical := by
  have hstart := s.walkStart_mem cl v linear
  unfold State.walk
  generalize s.walkStart cl v linear = start at hstart
  exact State.walkFrom_canonical (State.touchWalk_wf (by rw [hstart]; exact h))

@[simp] theorem State.shareGranule_wf {s : State} {c v gpage : Nat} (h : s.mem.wf = true) :
    (s.shareGranule c v gpage).mem.wf = true :=
  foldl_wf (fun _ _ ht => State.writeBackWords_wf ht) _ h

@[simp] theorem State.reclassify_wf {s : State} {r : Reclass} (h : s.mem.wf = true) : (s.reclassify r).mem.wf = true := by
  have htouch : ∀ c, ((s.shareGranule c r.vf r.gpage).touchLlc r.vf r.entry true false).mem.wf = true := fun c =>
    State.touchLlc_wf _ _ _ _ _ _ (State.shareGranule_wf h)
  unfold State.reclassify
  dsimp only
  split
  · exact htouch _
  · split
    · exact State.gpaWrite_wf _ _ _ _ (htouch _)
    · exact htouch _

@[simp] theorem State.walkFault_wf {s : State} {w : Walk} (h : s.mem.wf = true) : (s.walkFault w).mem.wf = true := by
  unfold State.walkFault
  split
  · exact h
  · split
    · exact h
    · dsimp only
      split
      · exact State.pageFaultLine_wf _ _ _ _ _ _ _ _ h
      · split
        · exact h
        · exact State.pageFault_wf _ _ _ _ _ _ _ _ h

theorem State.endWalk_wf {s t : State} {cl k : Nat} {w : Walk} {table level : Nat} (h : s.mem.wf = true)
    (ht : s.endWalk cl k w table level = some t) : t.mem.wf = true := by
  have hwalk : (s.walkFrom cl w.vf (s.lcore w.vf w.core) w.linear w.access w.supervisor (!w.stale) table level).Canonical :=
    State.walkFrom_canonical h
  unfold State.endWalk at ht
  split at ht <;> cases ht
  · split
    · simpa using h
    · exact State.walkFault_wf (by simpa using h)
  · simpa using h
  next heq => simpa [heq, Walked.Canonical] using hwalk
  next heq => simpa [heq, Walked.Canonical] using hwalk
  next heq => simpa [heq, Walked.Canonical] using hwalk

@[simp] theorem State.endJoined_wf (n : Nat) {s : State} {cl : Nat} {w : Walk} {table level : Nat} (h : s.mem.wf = true) :
    (s.endJoined cl w table level n).mem.wf = true := by
  induction n generalizing s with
  | zero => exact h
  | succ n ih =>
    rw [State.endJoined]
    split
    · exact h
    · split
      · exact h
      next k _ _ x _ =>
        have h1 : ((s.endWalk cl k x table level).getD s).mem.wf = true := by
          cases hend : s.endWalk cl k x table level with
          | none => exact h
          | some t => exact State.endWalk_wf h hend
        dsimp only
        split
        · exact ih h1
        · exact h1

end Sys2Proof.Machine

/-! # Parts of a command's execution that keep memory canonical (O57)

`Eng.Canonical m` says that `m` leaves canonical memory canonical, whether it ends or stops. It holds of what an engine's
command is made of and of binds, so of every body. -/

namespace Sys2Proof.Machine

/-! ## Parts of a command's execution -/

/-- The machine and the units done where a part of a command's execution ends or stops. -/
def finalRun {α : Type} : EStateM.Result Halt Run α → Run
  | .ok _ r | .error _ r => r

/-- From a machine with canonical memory this part of a command's execution leaves one with canonical memory, whether it ends
or stops. -/
structure Eng.Canonical {α : Type} (m : Eng α) : Prop where
  keeps : ∀ r : Run, r.s.mem.wf = true → (finalRun (m.run r)).s.mem.wf = true

namespace Eng.Canonical

variable {α β : Type}

theorem pure (a : α) : Eng.Canonical (Pure.pure a) := ⟨fun _ h => h⟩
theorem throw (x : Halt) : Eng.Canonical (MonadExcept.throw x : Eng α) := ⟨fun _ h => h⟩

theorem bind {m : Eng α} {k : α → Eng β} (hm : Eng.Canonical m) (hk : ∀ a, Eng.Canonical (k a)) :
    Eng.Canonical (m >>= k) := by
  refine ⟨fun r h => ?_⟩
  have hr := hm.keeps r h
  rw [EStateM.run_bind]
  cases hrun : m.run r with
  | ok a r1 =>
    rw [hrun] at hr
    exact (hk a).keeps r1 hr
  | error x r1 =>
    rw [hrun] at hr
    exact hr

/-- What a part that reads the machine does is judged from a machine with canonical memory. -/
theorem state_bind {k : State → Eng α} (hk : ∀ s, s.mem.wf = true → Eng.Canonical (k s)) :
    Eng.Canonical (Eng.state >>= k) := ⟨fun r h => (hk r.s h).keeps r h⟩

theorem get_bind {k : Run → Eng α} (hk : ∀ r, r.s.mem.wf = true → Eng.Canonical (k r)) :
    Eng.Canonical (get >>= k) := ⟨fun r h => (hk r h).keeps r h⟩

theorem put {s : State} (h : s.mem.wf = true) : Eng.Canonical (Eng.put s) := ⟨fun _ _ => h⟩
theorem set {r : Run} (h : r.s.mem.wf = true) : Eng.Canonical (MonadStateOf.set r : Eng PUnit) := ⟨fun _ _ => h⟩
theorem count (n : Nat) : Eng.Canonical (Eng.count n) := ⟨fun _ h => h⟩

theorem need (ok : Bool) (x : Halt) : Eng.Canonical (Eng.need ok x) := by
  unfold Eng.need
  split
  · exact pure _
  · exact throw _

theorem forM {f : α → Eng PUnit} (hf : ∀ a, Eng.Canonical (f a)) (l : List α) : Eng.Canonical (l.forM f) := by
  induction l with
  | nil => exact pure _
  | cons a l ih => exact bind (hf a) fun _ => ih

theorem foldlM {f : β → α → Eng β} (hf : ∀ b a, Eng.Canonical (f b a)) (l : List α) (b : β) :
    Eng.Canonical (l.foldlM f b) := by
  induction l generalizing b with
  | nil => exact pure _
  | cons a l ih => exact bind (hf b a) ih

theorem mapM {f : α → Eng β} (hf : ∀ a, Eng.Canonical (f a)) (l : List α) : Eng.Canonical (l.mapM f) := by
  induction l with
  | nil => exact pure _
  | cons a l ih =>
    rw [List.mapM_cons]
    exact bind (hf a) fun _ => bind ih fun _ => pure _

end Eng.Canonical

/-! ## Accesses of the engines (R174) -/

section
variable {c : Cmd} {cl : Nat}

theorem engPtr_canonical (q : Word) (k : Nat) : Eng.Canonical (engPtr q k) := by
  unfold engPtr
  split
  · exact .pure _
  · exact .throw _

theorem engSite_canonical (q : Word) (n : Nat) (need : Need) : Eng.Canonical (engSite c q n need) := by
  refine .state_bind fun s _ => ?_
  split
  · split
    · exact .throw _
    · exact .pure _
  · exact .throw _

theorem engLinear_canonical (q : Word) (address : Nat) (acc : Access) :
    Eng.Canonical (engLinear c cl q address acc) := by
  refine .state_bind fun s hs => ?_
  dsimp only
  split
  · exact .pure _
  · have hwalk : (s.walk (c.walker cl) c.vf (s.lcore c.vf c.core) (address % 2 ^ 48) acc c.supervisor).Canonical :=
      State.walk_canonical hs
    split
    · exact .throw _
    · exact .throw _
    next heq =>
      rw [heq] at hwalk
      exact .bind (.put hwalk) fun _ => .throw _
    next heq =>
      rw [heq] at hwalk
      exact .bind (.put hwalk) fun _ => .throw _
    · exact .throw _
    next heq =>
      rw [heq] at hwalk
      exact .bind (.put hwalk) fun _ => .pure _

theorem engLoc_canonical (q : Word) (n : Nat) (need : Need) (acc : Access) :
    Eng.Canonical (engLoc c cl q n need acc) :=
  .bind (engSite_canonical ..) fun x => by
    split
    · exact .pure _
    · exact engLinear_canonical ..

theorem engTouch_canonical (loc : Loc) (write : Bool) : Eng.Canonical (engTouch loc write) := by
  unfold engTouch
  split
  · exact .state_bind fun s hs => .put (State.touchLlc_wf _ _ _ _ _ _ hs)
  · exact .pure _

theorem engWord_canonical (q : Word) (loc : Loc) (acc : Access) : Eng.Canonical (engWord c cl q loc acc) := by
  refine .state_bind fun s _ => ?_
  split
  · exact .throw _
  · refine .bind (engTouch_canonical ..) fun _ => ?_
    split
    · exact .throw _
    · exact .pure _

theorem engRead_canonical (q : Word) (n : Nat) (need : Need) (acc : Access) :
    Eng.Canonical (engRead c cl q n need acc) :=
  .bind (engLoc_canonical ..) fun _ => .bind (engWord_canonical ..) fun _ => .pure _

theorem engWritable_canonical (q : Word) (n : Nat) (need : Need) (acc : Access) :
    Eng.Canonical (engWritable c cl q n need acc) :=
  .bind (engLoc_canonical ..) fun _ => .state_bind fun s _ => by
    split
    · exact .throw _
    · exact .pure _

theorem engWrite_canonical (q : Word) (n v : Nat) (need : Need) (acc : Access) :
    Eng.Canonical (engWrite c cl q n v need acc) :=
  .bind (engWritable_canonical ..) fun _ => .bind (engTouch_canonical ..) fun _ =>
    .state_bind fun _ hs => .put (State.storeOrdinary_wf hs)

end
end Sys2Proof.Machine

/-! # The engines' commands keep memory canonical (O57) -/

namespace Sys2Proof.Machine

section
variable {c : Cmd} {cl : Nat}

theorem engTile_canonical (h : Nat) : Eng.Canonical (engTile c h) := by
  unfold engTile
  split
  · exact .pure _
  · exact .throw _

theorem engPlace_canonical (t : Tile) : Eng.Canonical (engPlace c t) := by
  unfold engPlace
  dsimp only
  split
  · exact .throw _
  · exact .pure _

theorem engSpan_canonical (p : Placed) (k n : Nat) (need : Need) (named : Bool) :
    Eng.Canonical (engSpan p k n need named) :=
  .state_bind fun s _ => .bind (.need ..) fun _ => by
    split
    · exact .throw _
    · exact .pure _

theorem engElems_canonical (p : Placed) (i j0 j1 : Nat) (named : Bool) : Eng.Canonical (engElems p i j0 j1 named) := by
  unfold engElems
  dsimp only
  split
  · exact .pure _
  · exact engSpan_canonical ..

theorem engRows_canonical (p : Placed) (named : Bool) : Eng.Canonical (engRows p named) :=
  .forM (fun _ => engElems_canonical ..) _

theorem engFirst_canonical (p : Placed) (n : Nat) : Eng.Canonical (engFirst p n) :=
  .forM (fun _ => engElems_canonical ..) _

theorem engOptTile_canonical (wanted : Bool) (h : Nat) : Eng.Canonical (engOptTile c wanted h) := by
  unfold engOptTile
  split
  · exact .bind (engTile_canonical _) fun _ => .pure _
  · exact .pure _

theorem engOptPlace_canonical (t : Option Tile) : Eng.Canonical (engOptPlace c t) := by
  cases t with
  | none => exact .pure _
  | some t => exact .bind (engPlace_canonical t) fun _ => .pure _

theorem engWords_canonical (n : Nat) (q : Word) : Eng.Canonical (engWords c cl q n) := by
  induction n generalizing q with
  | zero => exact .pure _
  | succ n ih => exact .bind (engRead_canonical ..) fun _ => .bind (ih _) fun _ => .pure _

/-! ## Acceptance and the end of a command (R163 to R166, R222) -/

theorem engFields_canonical (fields : List Word) (fieldsOk mmCap : Bool) :
    Eng.Canonical (engFields c cl fields fieldsOk mmCap) :=
  .bind (.need ..) fun _ => .bind (.need ..) fun _ => .state_bind fun _ _ => .bind (.need ..) fun _ => .need ..

theorem engPointers_canonical (pointers : List Word) : Eng.Canonical (engPointers c pointers) := by
  unfold engPointers
  extract_lets rest
  have hrest : Eng.Canonical (rest ()) := by
    unfold rest
    split
    · exact .need ..
    · exact .pure _
  split
  · exact .bind (.throw _) fun _ => hrest
  · exact hrest

theorem engAccept_canonical (fields pointers : List Word) (fieldsOk mmCap : Bool) :
    Eng.Canonical (engAccept c cl fields pointers fieldsOk mmCap) :=
  .bind (engFields_canonical ..) fun _ => engPointers_canonical _

theorem engArrive_canonical (complement : Bool) : Eng.Canonical (engArrive c cl complement) := by
  unfold engArrive
  split
  · exact .pure _
  · refine .bind (engSite_canonical ..) fun x => ?_
    refine .bind (.need ..) fun _ => ?_
    extract_lets val write
    have hwrite : ∀ loc, Eng.Canonical (write loc) := fun loc => .bind (.need ..) fun _ => .state_bind fun _ _ => by
      split
      · exact .throw _
      · exact .bind (engTouch_canonical ..) fun _ => .state_bind fun _ hs => .put (State.ordinary_wf hs)
    split
    · exact .bind (.pure _) hwrite
    · exact .bind (engLinear_canonical ..) hwrite

end

/-- A command put back, where it cannot go on, leaves memory canonical. -/
def Keep.Canonical (keep : Keep) : Prop := ∀ s c, s.mem.wf = true → (keep s c).mem.wf = true

theorem keepCmd_canonical (cl k : Nat) : Keep.Canonical (keepCmd cl k) := fun _ _ h => h
theorem keepDie_canonical (d k : Nat) : Keep.Canonical (keepDie d k) := fun _ _ h => h

section
variable {s : State} {c : Cmd} {cl : Nat} {keep : Keep}

theorem endCmd_wf {status count : Nat} {word : Word} {flags : BitVec 16} (hk : keep.Canonical) (h : s.mem.wf = true) :
    (endCmd s c cl keep status count word flags).mem.wf = true := by
  have harrive := (engArrive_canonical (c := c) (cl := cl) (complements status)).keeps (Run.mk s count) h
  unfold endCmd
  split
  · simpa using h
  · split
    next heq =>
      rw [heq] at harrive
      rw [State.sendCompletion_mem, State.mark_mem]
      exact harrive
    next heq =>
      rw [heq] at harrive
      split
      · rw [State.sendCompletion_mem]
        exact harrive
      · rw [State.sendCompletion_mem]
        exact harrive
    next heq =>
      rw [heq] at harrive
      exact hk _ _ harrive
    next heq =>
      rw [heq] at harrive
      exact hk _ _ harrive

theorem runCmd_wf {body : Eng (Word × BitVec 16)} (hk : keep.Canonical) (hb : Eng.Canonical body) (h : s.mem.wf = true) :
    (runCmd s c cl keep body).mem.wf = true := by
  have hbody := hb.keeps (Run.mk s c.done) h
  unfold runCmd
  split
  · exact endCmd_wf hk h
  · split
    · simpa using h
    · simpa using h
  · exact endCmd_wf hk h
  · split
    next heq =>
      rw [heq] at hbody
      exact endCmd_wf hk hbody
    next heq =>
      rw [heq] at hbody
      exact endCmd_wf hk hbody
    next heq =>
      rw [heq] at hbody
      exact hk _ _ hbody
    next heq =>
      rw [heq] at hbody
      exact hk _ _ hbody

@[simp] theorem State.publish_wf (h : s.mem.wf = true) : (s.publish c).mem.wf = true := by
  unfold State.publish
  split <;> simp [h]

theorem State.acceptRecord_wf {t : State} {d : Cmd} (h : s.mem.wf = true) (ht : s.acceptRecord c = some (t, d)) :
    t.mem.wf = true := by
  unfold State.acceptRecord at ht
  dsimp only at ht
  split_ifs at ht <;> cases ht
  · exact h
  · simp [h]

/-! ## Millstone (R226 to R248) -/

theorem mmFmtBody_canonical : Eng.Canonical (mmFmtBody cl c) :=
  .state_bind fun _ hs => .bind (engAccept_canonical ..) fun _ => .bind (.put hs) fun _ => .pure _

theorem mmTiles_canonical (fmt : Word) : Eng.Canonical (mmTiles c fmt) :=
  .bind (engTile_canonical _) fun _ => .bind (engTile_canonical _) fun _ => .bind (engOptTile_canonical ..) fun _ =>
  .bind (engTile_canonical _) fun _ => .bind (engOptTile_canonical ..) fun _ => .bind (engOptTile_canonical ..) fun _ =>
  .bind (.need ..) fun _ => .bind (.need ..) fun _ => .bind (.need ..) fun _ => .bind (.need ..) fun _ =>
  .bind (engPlace_canonical _) fun _ => .bind (engPlace_canonical _) fun _ => .bind (engOptPlace_canonical _) fun _ =>
  .bind (engOptPlace_canonical _) fun _ => .bind (engOptPlace_canonical _) fun _ => .pure _

theorem mmRows_canonical (t : MmTiles) : Eng.Canonical (mmRows t) := by
  unfold mmRows
  split
  · exact .pure _
  · refine .bind (engFirst_canonical ..) fun _ => .state_bind fun _ _ => ?_
    dsimp only
    split
    · exact .throw _
    · exact .pure _

theorem mmRead_canonical (fmt : Word) (t : MmTiles) : Eng.Canonical (mmRead c fmt t) := by
  refine .bind (mmRows_canonical t) fun rows => .state_bind fun s _ => ?_
  extract_lets fz k hm sa sb sc a b cv n loss ld last rest
  have hrest : Eng.Canonical (rest ()) := by
    unfold rest
    refine .bind (.forM (fun i => .forM (fun g => ?_) _) _) fun _ => .bind (engRows_canonical ..) fun _ => ?_
    · split
      · exact .pure _
      · exact engElems_canonical ..
    · split
      · exact .bind (engRows_canonical ..) fun _ => .pure _
      · exact .pure _
  split
  · exact .bind (engFirst_canonical ..) fun _ => hrest
  · exact hrest

theorem mmMulRead_canonical : Eng.Canonical (mmMulRead cl c) :=
  .state_bind fun _ _ => .bind (engFields_canonical ..) fun _ => .bind (mmTiles_canonical _) fun _ =>
    .bind (engPointers_canonical _) fun _ => .bind (mmRead_canonical ..) fun _ => .pure _

theorem mmDeliverRow_canonical (d : Tile) (i : Nat) (bits : List Nat) : Eng.Canonical (mmDeliverRow c cl d i bits) := by
  refine .state_bind fun s hs => .bind (.need ..) fun _ => ?_
  split
  · exact .throw _
  · exact .bind (.need ..) fun _ => .bind (.need ..) fun _ => .put (State.writeRuns_wf _ hs)

/-- The state after a ring advance holds canonical memory. -/
def Advanced.Canonical : Advanced → Prop
  | .ok s => s.mem.wf = true
  | .full | .fail _ => True

theorem State.mmAdvance_canonical {core : Nat} {ring : Word × Word} (h : s.mem.wf = true) :
    (s.mmAdvance c core ring).Canonical := by
  unfold State.mmAdvance
  split
  · trivial
  · split
    · trivial
    · split
      · trivial
      · dsimp only
        split
        · trivial
        · exact State.putHeader_wf h

theorem mmDeliverRows_canonical (d : Tile) (rows : List (List Nat)) (i : Nat) :
    Eng.Canonical (mmDeliverRows c cl d i rows) := by
  induction rows generalizing i with
  | nil => exact .pure _
  | cons r rows ih =>
    refine .bind (mmDeliverRow_canonical ..) fun _ => ?_
    split
    · exact .bind (.count _) fun _ => ih _
    · refine .state_bind fun s hs => ?_
      have hadv := State.mmAdvance_canonical (c := c) (core := c.receiver cl i) (ring := s.mmRing c (c.receiver cl i)) hs
      dsimp only
      split
      next heq =>
        rw [heq] at hadv
        exact .bind (.put ((State.mark_mem ..).symm ▸ hadv)) fun _ => .bind (.count _) fun _ => ih _
      · exact .pure _
      · exact .throw _

theorem mmFinish_wf {rows : List (List Nat)} {word : Word} {fl : BitVec 16} {r : EStateM.Result Halt Run Delivered}
    (hk : keep.Canonical) (h : (finalRun r).s.mem.wf = true) : (mmFinish c cl keep rows word fl r).mem.wf = true := by
  unfold mmFinish
  split
  · exact endCmd_wf hk h
  · exact h
  · exact endCmd_wf hk h
  · exact endCmd_wf hk h

theorem mmGoOn_wf {x : RowHold} {i : Nat} (hk : keep.Canonical) (h : s.mem.wf = true) :
    (mmGoOn cl s x keep i).mem.wf = true := by
  unfold mmGoOn
  split
  · exact h
  · exact mmFinish_wf hk ((mmDeliverRows_canonical ..).keeps _ h)

/-! ## Runs of bytes at a pointer, and Sluice (R181, R254 to R256) -/

theorem engReadN_canonical (k : Nat) (q : Word) (n : Nat) (need : Need) (acc : Access) :
    Eng.Canonical (engReadN c cl q n need acc k) := by
  induction k generalizing q n with
  | zero => exact .pure _
  | succ k ih =>
    rw [engReadN]
    split
    · exact .pure _
    · exact .state_bind fun _ _ => .bind (engRead_canonical ..) fun _ => .bind (ih ..) fun _ => .pure _

theorem engCheckN_canonical (k : Nat) (q : Word) (n : Nat) (need : Need) (acc : Access) :
    Eng.Canonical (engCheckN c cl q n need acc k) := by
  induction k generalizing q n with
  | zero => exact .pure _
  | succ k ih =>
    rw [engCheckN]
    split
    · exact .pure _
    · exact .state_bind fun _ _ => .bind (engWritable_canonical ..) fun _ => ih ..

theorem engWriteN_canonical (k : Nat) (q : Word) (n v : Nat) (need : Need) (acc : Access) :
    Eng.Canonical (engWriteN c cl q n v need acc k) := by
  induction k generalizing q n v with
  | zero => exact .pure _
  | succ k ih =>
    rw [engWriteN]
    split
    · exact .pure _
    · exact .state_bind fun _ _ => .bind (engWrite_canonical ..) fun _ => ih ..

theorem slSetup_canonical : Eng.Canonical (slSetup c cl) :=
  .bind (engAccept_canonical ..) fun _ => .bind (engTile_canonical _) fun _ => .bind (engTile_canonical _) fun _ =>
    .bind (.need ..) fun _ => .bind (.need ..) fun _ => .bind (.need ..) fun _ => .bind (engPlace_canonical _) fun _ =>
    .bind (engPlace_canonical _) fun _ => .pure _

theorem slIndex_canonical (x : Sluice) (e : Nat) : Eng.Canonical (slIndex x e) :=
  .state_bind fun _ _ => .bind (engElems_canonical ..) fun _ => .bind (.need ..) fun _ =>
    .bind (engPtr_canonical ..) fun _ => .bind (engPtr_canonical ..) fun _ => .pure _

theorem slEntry_canonical (x : Sluice) (e : Nat) : Eng.Canonical (slEntry c cl x e) :=
  .bind (slIndex_canonical ..) fun _ => .bind (engReadN_canonical ..) fun _ => .bind (engCheckN_canonical ..) fun _ =>
    .bind (engWriteN_canonical ..) fun _ => .count _

theorem slBody_canonical : Eng.Canonical (slBody cl c) :=
  .bind slSetup_canonical fun _ => .bind (.forM (fun _ => slEntry_canonical ..) _) fun _ => .pure _

theorem slPlace_canonical (pages : List Nat) (first : Nat) (q : Word) (m : Nat) :
    Eng.Canonical (slPlace c pages first q m) :=
  .bind (engSite_canonical ..) fun _ => by
    split
    · exact .pure _
    · exact .pure _

theorem slPages_canonical (q : Word) (n : Nat) : Eng.Canonical (slPages c cl q n) :=
  .bind (engSite_canonical ..) fun _ => by
    split
    · exact .pure _
    · exact .mapM (fun _ => .bind (engLinear_canonical ..) fun _ => .pure _) _

theorem slTake_canonical (k : Nat) (pages : List Nat) (first : Nat) (q : Word) (n : Nat) :
    Eng.Canonical (slTake c cl pages first q n k) := by
  induction k generalizing q n with
  | zero => exact .pure _
  | succ k ih =>
    rw [slTake]
    split
    · exact .pure _
    · exact .state_bind fun _ _ => .bind (slPlace_canonical ..) fun _ => .bind (.need ..) fun _ =>
        .bind (engWord_canonical ..) fun _ => .bind (ih ..) fun _ => .pure _

theorem slPut_canonical (k : Nat) (pages : List Nat) (first : Nat) (q : Word) (n v : Nat) :
    Eng.Canonical (slPut c cl pages first q n v k) := by
  induction k generalizing q n v with
  | zero => exact .pure _
  | succ k ih =>
    rw [slPut]
    split
    · exact .pure _
    · exact .state_bind fun _ _ => .bind (slPlace_canonical ..) fun _ => .state_bind fun _ hs =>
        .bind (.put (State.storeOrdinary_wf hs)) fun _ => ih ..

theorem slAddCheck_canonical (k : Nat) (pages : List Nat) (first : Nat) (q : Word) (n : Nat) :
    Eng.Canonical (slAddCheck c cl pages first q n k) := by
  induction k generalizing q with
  | zero => exact .pure _
  | succ k ih =>
    exact .bind (engSite_canonical ..) fun _ => .bind (slTake_canonical ..) fun _ => ih _

theorem slAdd_canonical (ety : Nat) (pages : List Nat) (first : Nat) (q : Word) (x : Nat) :
    Eng.Canonical (slAdd c cl ety pages first q x) := by
  refine .bind (slTake_canonical ..) fun _ => .state_bind fun _ _ => .bind (slPlace_canonical ..) fun _ =>
    .bind (slPut_canonical ..) fun _ => .state_bind fun s hs => .put ?_
  rw [State.noteKey_mem]
  split <;> simp [hs]

theorem slStart_canonical (x : Sluice) : Eng.Canonical (slStart c cl x) :=
  .bind (slIndex_canonical ..) fun _ => .bind (engReadN_canonical ..) fun _ => .bind (slPages_canonical ..) fun _ =>
    .bind (slAddCheck_canonical ..) fun _ => .pure _

theorem slAddStep_canonical : Eng.Canonical (slAddStep cl c) := by
  refine .bind slSetup_canonical fun x => .state_bind fun _ _ => ?_
  dsimp only
  split
  · exact .pure _
  · split
    · exact .bind (slStart_canonical x) fun _ => .pure _
    · split
      · exact .pure _
      · exact .bind (slAdd_canonical ..) fun _ => .pure _

theorem slAddRun_wf (hk : keep.Canonical) (h : s.mem.wf = true) : (slAddRun cl s c keep).mem.wf = true := by
  have hstep := (slAddStep_canonical (cl := cl) (c := c)).keeps (Run.mk s c.done) h
  unfold slAddRun
  split
  · exact runCmd_wf hk (.pure _) h
  · split
    next heq =>
      rw [heq] at hstep
      split
      · exact endCmd_wf hk hstep
      · exact hk _ _ h
    next heq =>
      rw [heq] at hstep
      exact hk _ _ hstep
    next heq =>
      rw [heq] at hstep
      exact hk _ _ hstep
    next heq =>
      rw [heq] at hstep
      exact endCmd_wf hk hstep
    next heq =>
      rw [heq] at hstep
      exact hk _ _ hstep

/-! ## Flume (R182, R224, R225) -/

theorem flRead_wf (n : Nat) {q : Word} {r : Run} (h : r.s.mem.wf = true) : (flRead c cl q n r).2.2.s.mem.wf = true := by
  induction n generalizing q r with
  | zero => exact h
  | succ n ih =>
    have hread := (engRead_canonical (c := c) (cl := cl) q 1 needLoad .read).keeps r h
    rw [flRead]
    split
    next heq =>
      rw [heq] at hread
      exact hread
    next heq =>
      rw [heq] at hread
      exact ih hread

theorem flReach_wf (k : Nat) {q : Word} {n : Nat} {r : Run} (h : r.s.mem.wf = true) :
    (flReach c cl q k n r).2.s.mem.wf = true := by
  induction k generalizing q n r with
  | zero => exact h
  | succ k ih =>
    have hword := (engWritable_canonical (c := c) (cl := cl) q (flSpan r.s c q n needStore) needStore .write).keeps r h
    rw [flReach]
    split
    · exact h
    · dsimp only
      split
      next heq =>
        rw [heq] at hword
        exact ih hword
      next heq =>
        rw [heq] at hword
        exact hword
      next heq =>
        rw [heq] at hword
        exact hword

theorem flWrite_canonical (k : Nat) (q : Word) (bytes : List Byte) : Eng.Canonical (flWrite c cl q k bytes) := by
  induction k generalizing q bytes with
  | zero => exact .pure _
  | succ k ih =>
    rw [flWrite]
    split
    · exact .pure _
    · exact .get_bind fun _ _ => .bind (engWrite_canonical ..) fun _ => .bind (.count _) fun _ => ih ..

theorem flBlock_canonical (at_ n : Nat) : Eng.Canonical (flBlock c cl at_ n) := by
  refine .get_bind fun r hr => ?_
  have hread := flRead_wf (c := c) (cl := cl) n (q := ptrPlus (c.dw 2) at_) hr
  dsimp only
  generalize flRead c cl (ptrPlus (c.dw 2) at_) n r = x at hread ⊢
  obtain ⟨bytes, stop, r1⟩ := x
  have hreach := flReach_wf (c := c) (cl := cl) bytes.length (q := ptrPlus (c.dw 1) at_) (n := bytes.length) hread
  have hwrite : Eng.Canonical (do
      flWrite c cl (ptrPlus (c.dw 1) at_) n bytes
      match stop with
      | some h => throw h
      | none => return ()) := .bind (flWrite_canonical ..) fun _ => by
    split
    · exact .throw _
    · exact .pure _
  have hmove : ∀ (k : Eng Unit) (x : Option Halt), k.Canonical → Eng.Canonical (do
      set (flReach c cl (ptrPlus (c.dw 1) at_) bytes.length bytes.length r1).2
      match x with
      | some h => do
        throw h
        k
      | none => k) := fun k x hk => .bind (.set hreach) fun _ => by
    split
    · exact .bind (.throw _) fun _ => hk
    · exact hk
  refine .bind (.set hread) fun _ => ?_
  dsimp only
  split
  · exact .bind (.throw _) fun _ => hmove _ _ hwrite
  · exact hmove _ _ hwrite

theorem flBlocks_canonical (k size at_ n : Nat) : Eng.Canonical (flBlocks c cl size at_ n k) := by
  induction k generalizing at_ n with
  | zero => exact .pure _
  | succ k ih =>
    rw [flBlocks]
    split
    · exact .pure _
    · exact .bind (flBlock_canonical ..) fun _ => ih ..

theorem flMark_canonical : Eng.Canonical (flMark c) := by
  refine .get_bind fun r hr => ?_
  dsimp only
  split
  · split
    · exact .put (by simpa using hr)
    · exact .pure _
  · exact .pure _

theorem flCopyBody_canonical : Eng.Canonical (flCopyBody cl c) :=
  .bind (engAccept_canonical ..) fun _ => .bind (.need ..) fun _ => .bind (flBlocks_canonical ..) fun _ =>
    .bind flMark_canonical fun _ => .pure _

theorem flFillBody_canonical : Eng.Canonical (flFillBody cl c) :=
  .bind (engAccept_canonical ..) fun _ => .bind (flWrite_canonical ..) fun _ => .pure _

/-! ## Bolter (R183, R249 to R253) -/

theorem boSetup_canonical : Eng.Canonical (boSetup c cl) :=
  .bind (engAccept_canonical ..) fun _ => .bind (engTile_canonical _) fun _ => .bind (engTile_canonical _) fun _ =>
    .bind (.need ..) fun _ => .pure _

theorem boWrite_canonical (p : Placed) (pairs : List KeyPair) (j : Nat) : Eng.Canonical (boWrite p j pairs) := by
  induction pairs generalizing j with
  | nil => exact .pure _
  | cons x pairs ih =>
    exact .bind (engSpan_canonical ..) fun _ => .state_bind fun _ hs => .bind (.put (State.writeRuns_wf _ hs)) fun _ =>
      .bind (.count _) fun _ => ih _

theorem boTopkPass_canonical : Eng.Canonical (boTopkPass cl c) :=
  .bind boSetup_canonical fun _ => .bind (.need ..) fun _ => .bind (.need ..) fun _ => .bind (engPlace_canonical _) fun _ =>
    .bind (engRows_canonical ..) fun _ => .state_bind fun _ _ => .pure _

theorem boTopkBody_canonical : Eng.Canonical (boTopkBody cl c) :=
  .bind boSetup_canonical fun _ => .state_bind fun _ hs => .bind (.put hs) fun _ => .bind (engPlace_canonical _) fun _ =>
    .bind (boWrite_canonical ..) fun _ => .pure _

theorem boTopkRun_wf (hk : keep.Canonical) (h : s.mem.wf = true) : (boTopkRun cl s c keep).mem.wf = true := by
  have hpass := (boTopkPass_canonical (cl := cl) (c := c)).keeps (Run.mk s 0) h
  unfold boTopkRun
  split
  · exact runCmd_wf hk boTopkBody_canonical h
  · split
    next heq =>
      rw [heq] at hpass
      exact endCmd_wf hk hpass
    next heq =>
      rw [heq] at hpass
      exact hk _ _ hpass
    next heq =>
      rw [heq] at hpass
      dsimp only
      split
      · exact hk _ _ hpass
      · exact runCmd_wf hk boTopkBody_canonical hpass

theorem boMergeBody_canonical : Eng.Canonical (boMergeBody cl c) :=
  .bind boSetup_canonical fun _ => .bind (.need ..) fun _ => .bind (engPlace_canonical _) fun _ =>
    .bind (engRows_canonical ..) fun _ => .state_bind fun _ _ => .bind (engPlace_canonical _) fun _ =>
    .bind (boWrite_canonical ..) fun _ => .pure _

/-! ## Quern (R184, R257 to R259) -/

theorem qnDirWord_canonical (gpa : Nat) : Eng.Canonical (qnDirWord c gpa) := by
  refine .state_bind fun s _ => ?_
  split
  · exact .throw _
  · exact .throw _
  · refine .bind (engTouch_canonical ..) fun _ => ?_
    split
    · exact .throw _
    · exact .pure _

theorem engQuernTable_canonical (id : Nat) : Eng.Canonical (engQuernTable c id) :=
  .state_bind fun _ _ => .bind (.need ..) fun _ => .bind (qnDirWord_canonical _) fun _ =>
    .bind (qnDirWord_canonical _) fun _ => .bind (.need ..) fun _ => .pure _

theorem qnPtr_canonical (q : Word) (k : Nat) (need : Need) : Eng.Canonical (qnPtr c q k need) :=
  .bind (engPtr_canonical ..) fun _ => .bind (engSite_canonical ..) fun _ => .pure _

theorem qnRead_canonical (q : Word) (k : Nat) : Eng.Canonical (qnRead c cl q k) :=
  .bind (qnPtr_canonical ..) fun _ => engReadN_canonical ..

theorem engLinearN_canonical (k a n : Nat) : Eng.Canonical (engLinearN c cl a n k) := by
  induction k generalizing a n with
  | zero => exact .pure _
  | succ k ih =>
    rw [engLinearN]
    split
    · exact .pure _
    · exact .bind (engLinear_canonical ..) fun _ => .bind (engWord_canonical ..) fun _ => .bind (ih ..) fun _ => .pure _

theorem qnElem_canonical (t : QuernTable) (fmt r j : Nat) : Eng.Canonical (qnElem c cl t fmt r j) :=
  .bind (engLinearN_canonical ..) fun _ => .pure _

theorem qnPool_canonical (t : QuernTable) (fmt j lo hi : Nat) : Eng.Canonical (qnPool c cl t fmt j lo hi) := by
  unfold qnPool
  refine .foldlM (fun v k => .bind (qnRead_canonical ..) fun _ => ?_) _ _
  extract_lets pool
  have hpool : ∀ w, Eng.Canonical (pool w) := fun w => .bind (qnElem_canonical ..) fun _ => .pure _
  split
  · exact .bind (.pure _) hpool
  · exact .bind (qnRead_canonical ..) hpool

theorem qnCheck_canonical (t : QuernTable) (bags : Nat) : Eng.Canonical (qnCheck c cl t bags) :=
  .bind (.forM (fun _ => .bind (qnRead_canonical ..) fun _ => .bind (qnRead_canonical ..) fun _ => .need ..) _) fun _ =>
    .bind (qnRead_canonical ..) fun _ => .bind (qnRead_canonical ..) fun _ =>
    .forM (fun _ => .bind (qnRead_canonical ..) fun _ => .need ..) _

theorem qnBag_canonical (t : QuernTable) (fmt rowlen b : Nat) : Eng.Canonical (qnBag c cl t fmt rowlen b) :=
  .bind (qnRead_canonical ..) fun _ => .bind (qnRead_canonical ..) fun _ =>
    .bind (.mapM (fun _ => qnPool_canonical ..) _) fun _ =>
    .bind (.forM (fun _ => .bind (qnPtr_canonical ..) fun _ => engWriteN_canonical ..) _) fun _ => .count _

theorem qnBagBody_canonical : Eng.Canonical (qnBagBody c) :=
  .bind (engAccept_canonical ..) fun _ => .state_bind fun _ _ => .bind (.need ..) fun _ => .bind (.need ..) fun _ =>
    .bind (engQuernTable_canonical _) fun _ => .bind (.need ..) fun _ => .bind (qnCheck_canonical ..) fun _ =>
    .bind (.forM (fun _ => qnBag_canonical ..) _) fun _ => .pure _

/-! ## Yarrow's slot commands (R185, R375) -/

theorem ywLoadBody_canonical (d : Nat) : Eng.Canonical (ywLoadBody d c) :=
  .bind (engAccept_canonical ..) fun _ => .bind (.need ..) fun _ => .bind (engReadN_canonical ..) fun _ =>
    .bind (.need ..) fun _ => .state_bind fun _ hs => .bind (.put hs) fun _ => .bind (.count _) fun _ => .pure _

theorem ywAttachBody_canonical (d : Nat) : Eng.Canonical (ywAttachBody d c) :=
  .bind (engAccept_canonical ..) fun _ => .state_bind fun _ hs => .bind (.need ..) fun _ => .bind (.put hs) fun _ =>
    .bind (.count _) fun _ => .pure _

theorem ywDetachBody_canonical (d : Nat) : Eng.Canonical (ywDetachBody d c) :=
  .bind (engAccept_canonical ..) fun _ => .state_bind fun _ hs => .bind (.put hs) fun _ => .bind (.count _) fun _ => .pure _

theorem ywDumpBody_canonical (d : Nat) : Eng.Canonical (ywDumpBody d c) :=
  .bind (engAccept_canonical ..) fun _ => .state_bind fun _ _ => .bind (flWrite_canonical ..) fun _ => .pure _

end

end Sys2Proof.Machine

/-! # Operations of the device that keep memory canonical (O57): events, the LLC, tailrace walks and the headrace -/

namespace Sys2Proof.Machine

/-! ## Events and handlers (R304, R313) -/

@[simp] theorem State.reloadAll_wf {s : State} {which : Slot → Bool} (h : s.mem.wf = true) :
    (s.reloadAll which).mem.wf = true := foldl_wf (fun _ _ ht => State.readSet_wf ht) _ h

@[simp] theorem State.applyWake_wf {s : State} {w : Who} {l : Line} {kind : WaitKind} (h : s.mem.wf = true) :
    (s.applyWake w l kind).mem.wf = true := by
  unfold State.applyWake
  split
  · exact h
  · exact State.readyWho_wf h

@[simp] theorem State.applyTrap_wf {s : State} {w : Who} {l : Line} {cause : BitVec 16} {tval : Word} {tinfo : BitVec 16}
    {acc : Nat} (h : s.mem.wf = true) : (s.applyTrap w l cause tval tinfo acc).mem.wf = true := by
  unfold State.applyTrap
  split <;> simp [h]

@[simp] theorem State.applyWatch_wf {s : State} {v i : Nat} {l : Line} {tval : Word} (h : s.mem.wf = true) :
    (s.applyWatch v i l tval).mem.wf = true := by
  unfold State.applyWatch
  split
  · simpa using h
  · split_ifs
    · simpa using h
    · exact State.faultLine_wf _ _ _ _ _ _ _ h
    · exact h

@[simp] theorem State.applyEvent_wf {s : State} {w : Who} {e : Event} {l : Line} (h : s.mem.wf = true) :
    (s.applyEvent w e l).mem.wf = true := by
  unfold State.applyEvent
  split <;> simp [h]

@[simp] theorem State.startDelivery_wf {s : State} {c w : Nat} {d : Delivery} (h : s.mem.wf = true) :
    (s.startDelivery c w d).mem.wf = true := by
  unfold State.startDelivery
  split
  · dsimp only
    split
    · exact h
    · split_ifs
      · exact h
      · exact State.reportFault_wf _ _ _ _ _ _ h
      · simpa using h
  · simpa using h

/-! ## LLC lines and page requests (R350, R352, R358) -/

@[simp] theorem State.evictLine_wf {s : State} {v line : Nat} (h : s.mem.wf = true) :
    (s.evictLine v line).mem.wf = true := by
  unfold State.evictLine
  split
  · exact h
  · dsimp only
    split
    · rw [State.count_mem]
      exact State.lineToMemory_wf _ _ h
    · exact h

theorem State.takeWay_mem {s t : State} {l : LlcLine} (ht : s.takeWay l = some t) : t.mem = s.mem := by
  obtain ⟨_, -, rfl⟩ := Option.map_eq_some_iff.1 ht
  rfl

@[simp] theorem State.placeLine_wf {s : State} {l : LlcLine} (h : s.mem.wf = true) : (s.placeLine l).mem.wf = true := by
  unfold State.placeLine
  split
  next ht =>
    rw [State.takeWay_mem ht]
    exact h
  · dsimp only
    split
    · exact State.evictLine_wf h
    next x _ =>
      have hevict : (s.drawn.evictLine x.vf x.line).mem.wf = true := State.evictLine_wf h
      cases ht : (s.drawn.evictLine x.vf x.line).takeWay l with
      | none => exact hevict
      | some t =>
        rw [Option.getD_some, State.takeWay_mem ht]
        exact hevict

@[simp] theorem State.refuseRequest_wf {s : State} {r : PageReq} (h : s.mem.wf = true) :
    (s.refuseRequest r).mem.wf = true := by
  unfold State.refuseRequest
  dsimp only
  split
  · split
    · exact h
    · exact State.lateTrap_wf h
  · exact h
  · exact h
  · exact foldl_wf (fun t e ht => by simpa using ht) _ h
  · simpa using h
  · exact State.refuseCopy_wf h
  · exact h

/-! ## Hosts (R269, R407, R416) -/

@[simp] theorem State.putModule_wf {s : State} {hpa : Nat} {w : Word8} (h : s.mem.wf = true) :
    (s.putModule hpa w).mem.wf = true := by
  unfold State.putModule
  split
  · exact Memory.putWord_wf _ _ _ h
  · exact foldl_wf (fun t l ht => by simpa using ht) _ h

@[simp] theorem State.hostStore_wf {s : State} {hpa n : Nat} {val : Word} (h : s.mem.wf = true) :
    (s.hostStore hpa n val).mem.wf = true := by
  have htake : (s.hostTake hpa).mem.wf = true := by simpa using h
  unfold State.hostStore
  dsimp only
  split
  · simpa using h
  · split
    · rw [State.wakeHost_mem]
      exact State.putModule_wf htake
    · split
      · simpa using h
      · rw [State.wakeHost_mem]
        exact State.putModule_wf htake

@[simp] theorem State.hostWord_mem (s : State) (hpa : Nat) : (s.hostWord hpa).1.mem = s.mem := by
  unfold State.hostWord
  split
  · rfl
  · split <;> rfl

@[simp] theorem State.writeModule_wf {s : State} {hpa : Nat} {b : List Byte} (h : s.mem.wf = true) :
    (s.writeModule hpa b).mem.wf = true := foldl_wf (fun _ _ ht => State.hostStore_wf ht) _ h

@[simp] theorem State.clearPoison_wf {s : State} {hpa n : Nat} (h : s.mem.wf = true) :
    (s.clearPoison hpa n).mem.wf = true := foldl_wf (fun _ _ ht => State.hostStore_wf ht) _ h

@[simp] theorem State.poisonPlace_wf {s : State} {w : WordPlace} (h : s.mem.wf = true) :
    (s.poisonPlace w).mem.wf = true := by
  unfold State.poisonPlace
  split
  · exact Memory.setPoison_wf _ _ _ h
  · exact Memory.setPoison_wf _ _ _ h
  · split
    · exact Memory.setPoison_wf _ _ _ h
    · exact foldl_wf (fun t l ht => by simpa using ht) _ h

/-! ## Tailrace walks (R161, R364) -/

@[simp] theorem State.dropWords_wf {s : State} {c v line : Nat} {m : BitVec 16} (h : s.mem.wf = true) :
    (s.dropWords c v line m).mem.wf = true := by
  unfold State.dropWords
  split
  · exact h
  · dsimp only
    split
    · exact State.coreEvict_wf h
    · split
      · exact h
      · exact h

@[simp] theorem State.walkCore_wf {s : State} {c v line lo hi : Nat} {inval : Bool} (h : s.mem.wf = true) :
    (s.walkCore c v line lo hi inval).mem.wf = true := by
  unfold State.walkCore
  dsimp only [State.setCore_mem]
  split <;> simp [h]

@[simp] theorem State.walkLine_wf {s : State} {v line lo hi : Nat} {inval : Bool} (h : s.mem.wf = true) :
    (s.walkLine v line lo hi inval).mem.wf = true := foldl_wf (fun t e ht => by split <;> simp [ht]) _ h

@[simp] theorem State.walkArrival_wf {s : State} {v rbar : Nat} (h : s.mem.wf = true) :
    (s.walkArrival v rbar).mem.wf = true := by
  unfold State.walkArrival
  split
  · exact h
  · split
    next heq =>
      obtain ⟨loc, -, hloc⟩ := Option.map_eq_some_iff.1 heq
      exact State.arrival_wf h hloc
    · simpa using h

/-! ## Headrace (R318 to R337) -/

theorem State.nameRcb_wf {s t : State} {v addr parent : Nat} {spawner : Option Nat} {chain : List (Nat × Nat)}
    {gang : Option Nat} (h : s.mem.wf = true) (ht : s.nameRcb v addr parent spawner chain gang = some t) :
    t.mem.wf = true := by
  unfold State.nameRcb at ht
  split at ht
  · cases ht
  · split at ht <;> cases ht
    exact State.rcbWrite_wf _ _ _ _ _ (State.clearHw_wf (State.headraceMarks_wf _ _ _ _ h))

@[simp] theorem State.nameEntry_wf {s : State} {e : PoolEntry} (h : s.mem.wf = true) : (s.nameEntry e).mem.wf = true := by
  unfold State.nameEntry
  dsimp only
  split
  next ht =>
    rw [State.noteVf_mem]
    exact State.nameRcb_wf (s := { s with pool := s.pool.erase e }) h ht
  · rw [State.prune_mem]
    exact State.unreserve_wf (by simpa using h)

@[simp] theorem State.writeInherited_wf {s : State} {r : Rcb} {d e : List Word} (h : s.mem.wf = true) :
    (s.writeInherited r d e).mem.wf = true := by
  refine State.rcbWrite_wf _ _ _ _ _ (foldl_wf (fun t k ht => ?_) _ h)
  split_ifs
  · exact State.rcbField_wf ht
  · exact State.rcbWrite_wf _ _ _ _ _ ht
  · exact ht

@[simp] theorem State.admitRcb_wf {s : State} {r : Rcb} {d e : List Word} (h : s.mem.wf = true) :
    (s.admitRcb r d e).mem.wf = true := by
  unfold State.admitRcb
  extract_lets a s0 s1 s2
  have h2 : s2.mem.wf = true := by
    unfold s2
    rw [State.preempt_mem]
    exact State.rcbField_wf (State.writeInherited_wf h)
  split
  · exact State.finishRcb_wf h2
  · exact h2

@[simp] theorem State.refuseRcb_wf {s : State} {r : Rcb} {why : Nat} (h : s.mem.wf = true) :
    (s.refuseRcb r why).mem.wf = true := by
  refine State.finishRcb_wf ?_
  split <;> simp [h]

@[simp] theorem State.tryAdmit_wf {s : State} {r : Rcb} (h : s.mem.wf = true) : (s.tryAdmit r).mem.wf = true := by
  unfold State.tryAdmit
  split
  · exact h
  · dsimp only
    split_ifs <;> simp [h]

@[simp] theorem State.renewCopy_wf {s : State} {v i : Nat} {l : Line} (h : s.mem.wf = true) :
    (s.renewCopy v i l).mem.wf = true := by
  unfold State.renewCopy
  split
  · exact State.writeCopy_wf _ _ _ _ h
  · exact h

@[simp] theorem State.launch_wf {s : State} {r : Rcb} (h : s.mem.wf = true) : (s.launch r).mem.wf = true := by
  unfold State.launch
  dsimp only
  split
  · exact h
  · exact State.setLive_wf (by simp [h])

@[simp] theorem State.abortGang_wf {s : State} {g : Gang} (h : s.mem.wf = true) : (s.abortGang g).mem.wf = true := by
  unfold State.abortGang
  split <;> simp [h]

/-! ## Scrubs and fills of on-chip memory (R209, R211 to R213) -/

@[simp] theorem State.scrubCore_wf {s : State} {c : Nat} (h : s.mem.wf = true) : (s.scrubCore c).mem.wf = true := by
  unfold State.scrubCore
  dsimp only
  rw [State.wake_mem]
  exact Memory.zeroFill_wf _ _ _ h

@[simp] theorem State.fillBank_wf {s : State} {cl b : Nat} (h : s.mem.wf = true) : (s.fillBank cl b).mem.wf = true := by
  unfold State.fillBank
  dsimp only
  rw [State.wake_mem]
  exact Memory.zeroFill_wf _ _ _ h

@[simp] theorem State.fillShared_wf {s : State} {cl : Nat} (h : s.mem.wf = true) : (s.fillShared cl).mem.wf = true :=
  foldl_wf (fun t b ht => by split <;> simp [ht]) _ h

end Sys2Proof.Machine

/-! # The shared operations of an instruction keep memory canonical (O57) -/

namespace Sys2Proof.Machine

/-! ## The shared operations of an instruction -/

theorem withCur_canonical {s : State} {k : Slot → Out} (h : s.mem.wf = true) (hk : ∀ sl, (k sl).Canonical) :
    (withCur s k).Canonical := by
  unfold withCur
  split
  · exact (canonical_next s).2 h
  · exact hk _

@[simp] theorem trapInfoOut_canonical {s : State} {sl : Slot} {i : Instr} {t : TrapInfo} (h : s.mem.wf = true) :
    (trapInfoOut s sl i t).Canonical := trapOut_canonical _ _ _ _ _ h

@[simp] theorem hold_canonical {s : State} {sl : Slot} {i : Instr} (h : s.mem.wf = true) :
    (hold s sl i).Canonical := by simpa [hold] using h

@[simp] theorem fetchMiss_canonical {s : State} {sl : Slot} {a off : Nat} {got : List Parcel} (h : s.mem.wf = true) :
    (fetchMiss s sl a off got).Canonical := missOut_canonical _ _ _ _ _ _ h

@[simp] theorem fetchStage2_canonical {s : State} {sl : Slot} {loc : Loc} {off : Nat} {got : List Parcel}
    (h : s.mem.wf = true) : (fetchStage2 s sl loc off got).Canonical := by simpa [fetchStage2] using h

@[simp] theorem segsStage2_canonical {s : State} {sl : Slot} {a : Nat} (h : s.mem.wf = true) :
    (segsStage2 s sl a).Canonical := by simpa [segsStage2] using h

theorem codeTrap_canonical {s : State} {i : Instr} {p : Pre} {code : Int} {cause : BitVec 16} (h : s.mem.wf = true) :
    (codeTrap s i p code cause).Canonical :=
  guarded_canonical _ _ _ _ h fun _ => (canonical_next _).2 (State.takeTrap_wf _ _ _ _ _ _ _ _ h)

/-! ## Memory access -/

@[simp] theorem memFaultAt_canonical {s : State} {sl : Slot} {i : Instr} {e : MemFault} {loc : Loc} {tval : Word}
    {acc : Access} {linear : Nat} (h : s.mem.wf = true) : (memFaultAt s sl i e loc tval acc linear).Canonical := by
  cases e with
  | world => exact trapOut_canonical _ _ _ _ _ h
  | stage2 => rw [memFaultAt, canonical_next]; simpa using h

theorem syncAccess_canonical {s : State} {sl : Slot} {i : Instr} {q : Word} {n : Nat} {need : Need} {acc : Access}
    {r : Refuses} {k : Seg → Loc → Bool → Out} (h : s.mem.wf = true) (hk : ∀ g loc priv, (k g loc priv).Canonical) :
    (syncAccess s sl i q n need acc r k).Canonical :=
  access_canonical _ _ _ _ _ _ _ _ h fun g loc priv => by
    split
    · exact trapOut_canonical _ _ _ _ _ h
    · exact hk _ _ _

@[simp] theorem depart_canonical {s : State} {sl : Slot} {v i dest : Nat} (h : s.mem.wf = true) :
    (depart s sl v i dest).Canonical := by
  unfold depart
  dsimp only
  split
  · exact (canonical_next s).2 h
  · rw [canonical_next, State.count_mem]
    split <;> simpa using h

@[simp] theorem migrate_canonical {s : State} {sl : Slot} {i : Instr} {dest : Nat} {q : Word} (h : s.mem.wf = true) :
    (migrate s sl i dest q).Canonical := by
  unfold migrate
  split
  · exact trapOut_canonical _ _ _ _ _ h
  · exact depart_canonical h

theorem homedAccess_canonical {s : State} {sl : Slot} {i : Instr} {q : Word} {n : Nat} {need : Need} {acc : Access}
    {r : Refuses} {k : Seg → Loc → Bool → Out} (h : s.mem.wf = true) (hk : ∀ g loc priv, (k g loc priv).Canonical) :
    (homedAccess s sl i q n need acc r k).Canonical :=
  syncAccess_canonical h fun g loc priv => by
    split
    · split
      · exact hk _ _ _
      · exact migrate_canonical h
    · exact hk _ _ _

theorem probe_canonical {s : State} {sl : Slot} {i : Instr} {loc : Loc} {n : Nat} {write : Bool}
    {release : Option (BitVec 3)} {k : State → Out} (h : s.mem.wf = true)
    (hk : ∀ t, t.mem.wf = true → (k t).Canonical) : (probe s sl i loc n write release k).Canonical := by
  have hrelease : (if release = some 6 then s.systemRelease s.run.1 sl.line.vfid.toNat else s).mem.wf = true := by
    split <;> simp [h]
  unfold probe
  extract_lets c s1
  split
  · exact hold_canonical h
  · split
    · exact hk _ (State.touchLlc_wf _ _ _ _ _ _ hrelease)
    · exact hk _ hrelease

theorem probeWord_canonical {s : State} {sl : Slot} {i : Instr} {q : Word} {loc : Loc} {write : Bool} {acc : Access}
    {k : Word8 → Out} (h : s.mem.wf = true) (hk : ∀ w, (k w).Canonical) :
    (probeWord s sl i q loc write acc k).Canonical := by
  unfold probeWord
  split
  · exact memFaultOut_canonical _ _ _ _ _ _ _ h
  · exact hk _

/-- A probe of one word: what waits, faults and migrates keeps memory canonical, so the probe does where its effect on the
word does. -/
theorem probeOf_canonical {s : State} {sl : Slot} {i : Instr} {q : Word} {loc : Loc} {n : Nat} {write : Bool}
    {release : Option (BitVec 3)} {acc : Access} {k : State → Word8 → Out} (h : s.mem.wf = true)
    (hk : ∀ t w, t.mem.wf = true → (k t w).Canonical) :
    (probe s sl i loc n write release fun t => probeWord t sl i q loc write acc (k t)).Canonical :=
  probe_canonical h fun t ht => probeWord_canonical ht fun w => hk t w ht

@[simp] theorem waitOn_canonical {s : State} {sl : Slot} {i : Instr} {q : Word} {kind : WaitKind} {arg : BitVec 28}
    {loc : Loc} {n : Nat} {poll : Option Nat} (h : s.mem.wf = true) :
    (waitOn s sl i q kind arg loc n poll).Canonical := by
  unfold waitOn
  split
  · exact trapOut_canonical _ _ _ _ _ h
  · simpa using h

@[simp] theorem post_canonical {s : State} {sl : Slot} {i : Instr} {e : Posted} (h : s.mem.wf = true) :
    (post s sl i e).Canonical := by
  unfold post
  dsimp only
  split
  · exact (canonical_next s).2 h
  · exact complete_canonical _ _ _ _ (by simpa using h)

@[simp] theorem loadDone_canonical {s : State} {sl : Slot} {i : Instr} {d : BitVec 3} {v n : Nat} {signed : Bool}
    (h : s.mem.wf = true) : (loadDone s sl i d v n signed).Canonical := complete_canonical _ _ _ _ h

@[simp] theorem issueFill_canonical {s : State} {sl : Slot} {i : Instr} {d : BitVec 3} {q : Word} {g : Seg} {loc : Loc}
    {n : Nat} {signed priv : Bool} {hints : Bool × Bool × Bool} (h : s.mem.wf = true) :
    (issueFill s sl i d q g loc n signed priv hints).Canonical := by
  unfold issueFill
  dsimp only
  rw [canonical_next, State.putCur_mem]
  cases loc <;> simpa using h

theorem loadAt_canonical {s : State} {sl : Slot} {i : Instr} {d : BitVec 3} {q : Word} {n : Nat} {signed : Bool}
    {hints : Bool × Bool × Bool} {g : Seg} {loc : Loc} {priv : Bool} (h : s.mem.wf = true) :
    (loadAt s sl i d q n signed hints g loc priv).Canonical := by
  unfold loadAt
  dsimp only
  repeat' split
  all_goals simp [h, trapOut_canonical, memFaultOut_canonical]

theorem loadOp_canonical {s : State} {i : Instr} {p : Pre} {d a b : BitVec 3} {n : Nat} {signed : Bool}
    (h : s.mem.wf = true) : (loadOp s i p d a b n signed).Canonical :=
  guarded_canonical _ _ _ _ h fun _ => access_canonical _ _ _ _ _ _ _ _ h fun _ _ _ => loadAt_canonical h

theorem storeOp_canonical {s : State} {i : Instr} {p : Pre} {d a b : BitVec 3} {n : Nat} (h : s.mem.wf = true) :
    (storeOp s i p d a b n).Canonical :=
  guarded_canonical _ _ _ _ h fun _ => access_canonical _ _ _ _ _ _ _ _ h fun _ _ _ => post_canonical h

theorem feProbe_canonical {s : State} {i : Instr} {p : Pre} {a b : BitVec 3} {need : Need} {acc : Access}
    {wantFull release : Bool} {effect : Line → Word8 → Line × Option Word8} (h : s.mem.wf = true) :
    (feProbe s i p a b need acc wantFull release effect).Canonical :=
  guarded_canonical _ _ _ _ h fun _ => homedAccess_canonical h fun _ _ _ => probeOf_canonical h fun _ _ ht => by
    repeat' split
    all_goals simp [ht, trapOut_canonical, complete_canonical]

theorem fePost_canonical {s : State} {i : Instr} {p : Pre} {a b : BitVec 3} {what : Post} {data : Line → Word}
    (h : s.mem.wf = true) : (fePost s i p a b what data).Canonical :=
  guarded_canonical _ _ _ _ h fun _ => homedAccess_canonical h fun _ _ _ => post_canonical h

theorem waddrOp_canonical {s : State} {i : Instr} {p : Pre} {a b : BitVec 3} {want : Word → Word → Bool}
    (h : s.mem.wf = true) : (waddrOp s i p a b want).Canonical :=
  guarded_canonical _ _ _ _ h fun _ => syncAccess_canonical h fun _ _ _ => probeOf_canonical h fun _ _ ht => by
    repeat' split
    all_goals simp [ht, trapOut_canonical, complete_canonical]

theorem amoOp_canonical {s : State} {i : Instr} {p : Pre} {sz : BitVec 1} {d a b : BitVec 3} {cxl : Bool}
    {f : (w x y z : Nat) → Option Nat} (h : s.mem.wf = true) : (amoOp s i p sz d a b cxl f).Canonical :=
  guarded_canonical _ _ _ _ h fun _ => homedAccess_canonical h fun _ _ _ => probeOf_canonical h fun _ _ ht => by
    dsimp only
    split
    · exact trapOut_canonical _ _ _ _ _ ht
    · refine complete_canonical _ _ _ _ ?_
      split <;> simp [ht]

theorem syncPost_canonical {s : State} {i : Instr} {p : Pre} {a : BitVec 3} {n : Nat} {what : Post}
    (h : s.mem.wf = true) : (syncPost s i p a n what).Canonical :=
  guarded_canonical _ _ _ _ h fun _ => syncAccess_canonical h fun _ _ _ => post_canonical h

theorem walkOp_canonical {s : State} {i : Instr} {p : Pre} {a b : BitVec 3} {inval : Bool} (h : s.mem.wf = true) :
    (walkOp s i p a b inval).Canonical :=
  guarded_canonical _ _ _ _ h fun _ => by
    dsimp only
    repeat' split
    all_goals simp [h, trapOut_canonical]

/-! ## Tiles, rings and commands -/

theorem tileOp_canonical {s : State} {i : Instr} {p : Pre} {a b : Option (BitVec 8)} {d : BitVec 8} {sh : TileShape}
    {readsD special : Bool} {f : Line → Tiles → TileVals → List Nat × BitVec 16} (h : s.mem.wf = true) :
    (tileOp s i p a b d sh readsD special f).Canonical := by
  unfold tileOp
  split
  · exact (canonical_next s).2 h
  · refine guarded_canonical _ _ _ _ h fun sl => ?_
    dsimp only
    repeat' split
    all_goals simp [h, trapOut_canonical, complete_canonical, State.takeTrap_wf]

@[simp] theorem pushWords_canonical {s : State} {sl : Slot} {i : Instr} {port : Nat} {b : Assembly} {x y : Word}
    {scope : BitVec 3} (h : s.mem.wf = true) : (pushWords s sl i port b x y scope).Canonical := by
  unfold pushWords
  dsimp only
  repeat' split
  all_goals simp [h, complete_canonical]

theorem ringOp_canonical {s : State} {i : Instr} {p : Pre} {n : BitVec 4} {h : BitVec 8} {adv : Bool}
    {k : State → Slot → Ring → Loc → Word → Word → Out} (hs : s.mem.wf = true)
    (hk : ∀ t sl r loc w0 w1, t.mem.wf = true → (k t sl r loc w0 w1).Canonical) :
    (ringOp s i p n h adv k).Canonical := by
  unfold ringOp
  split
  · exact (canonical_next s).2 hs
  · refine guarded_canonical _ _ _ _ hs fun sl => ?_
    dsimp only
    split
    · exact trapInfoOut_canonical hs
    · split
      · exact trapInfoOut_canonical hs
      · split
        · exact trapInfoOut_canonical hs
        · exact trapOut_canonical _ _ _ _ _ hs
        · split
          · exact (canonical_next s).2 hs
          · refine probe_canonical hs fun t ht => ?_
            split
            · exact trapOut_canonical _ _ _ _ _ ht
            · exact hk _ _ _ _ _ _ ht

theorem ringWait_canonical {s : State} {i : Instr} {p : Pre} {n : BitVec 4} {h : BitVec 8}
    {ready : Ring → Nat → Bool} (hs : s.mem.wf = true) : (ringWait s i p n h ready).Canonical :=
  ringOp_canonical hs fun _ _ _ _ _ _ ht => by
    repeat' split
    all_goals simp [ht, trapOut_canonical, complete_canonical]

@[simp] theorem initRing_canonical {s : State} {sl : Slot} {i : Instr} {h : BitVec 8} {e : Word × Word} {r : Ring}
    (hs : s.mem.wf = true) : (initRing s sl i h e r).Canonical := by
  unfold initRing
  dsimp only
  split
  · exact trapInfoOut_canonical hs
  · exact trapOut_canonical _ _ _ _ _ hs
  · split
    · exact (canonical_next s).2 hs
    · exact probe_canonical hs fun t ht => complete_canonical _ _ _ _ (by
        rw [State.setHandle_mem]
        exact State.putHeader_wf (State.putHeader_wf ht))

theorem execPush_canonical {p : Pre} {port a b : BitVec 3} {s : State} (h : s.mem.wf = true) :
    (execPush p port a b s).Canonical := by
  unfold execPush
  dsimp only
  split
  · exact (canonical_next s).2 h
  · refine guarded_canonical _ _ _ _ h fun sl => ?_
    have hpush (t : State) (ht : t.mem.wf = true) (n : Nat) (buf : Assembly) (u : State)
        (hu : pushWords t sl (.push p port a b) n buf (sl.line.reg a) (sl.line.reg b) (pushScope p) = .next u) :
        u.mem.wf = true := pushWords_canonical ht u hu
    repeat' split
    all_goals simp [h, trapOut_canonical]
    next heq _ => exact hpush _ (by rwa [State.setCore_mem]) _ _ _ heq

theorem lineChecks_canonical {s : State} {sl : Slot} {i : Instr} {a b : BitVec 3} {k : Nat → Nat → Out}
    (h : s.mem.wf = true) (hk : ∀ ix n, (k ix n).Canonical) : (lineChecks s sl i a b k).Canonical := by
  unfold lineChecks
  dsimp only
  split
  · exact trapOut_canonical _ _ _ _ _ h
  · split
    · exact trapInfoOut_canonical h
    · exact hk _ _

theorem copyWord_canonical {s : State} {sl : Slot} {i : Instr} {q : Word} {gpa : Nat} {write : Bool}
    {k : State → Word8 → Out} (h : s.mem.wf = true) (hk : ∀ t w, t.mem.wf = true → (k t w).Canonical) :
    (copyWord s sl i q gpa write k).Canonical := by
  unfold copyWord
  dsimp only
  split
  · exact hold_canonical h
  · split
    · exact memFaultAt_canonical h
    · have htouch := State.touchLlc_wf s sl.line.vfid.toNat gpa write false false h
      split
      · exact trapOut_canonical _ _ _ _ _ htouch
      · exact hk _ _ htouch

theorem execCxld_canonical {p : Pre} {d a b : BitVec 3} {s : State} (h : s.mem.wf = true) :
    (execCxld p d a b s).Canonical :=
  privileged_canonical _ _ _ _ h fun sl => lineChecks_canonical h fun ix k => by
    dsimp only
    split
    · exact hold_canonical h
    iterate 3 split <;> simp [h, complete_canonical]
    · exact copyWord_canonical h fun _ _ ht => complete_canonical _ _ _ _ ht

theorem execCxst_canonical {p : Pre} {d a b : BitVec 3} {s : State} (h : s.mem.wf = true) :
    (execCxst p d a b s).Canonical :=
  privileged_canonical _ _ _ _ h fun sl => lineChecks_canonical h fun ix k => by
    dsimp only
    split
    · refine copyWord_canonical h fun t x ht => ?_
      split
      · exact trapOut_canonical _ _ _ _ _ ht
      · split
        · exact trapInfoOut_canonical h
        · exact copyWord_canonical ht fun _ _ hu => complete_canonical _ _ _ _ (State.performWord_wf _ _ _ _ _ _ hu)
    · repeat' split
      all_goals simp [h, trapOut_canonical, complete_canonical, State.setLine_wf]

end Sys2Proof.Machine

/-! # Every encoded instruction keeps memory canonical (O57) -/

namespace Sys2Proof.Machine

/-! ## Operations on the line or on tiles alone -/

section
variable {s : State} {i : Instr} {p : Pre}

theorem aluOp_canonical {d a b : BitVec 3} {lat : Nat} {f : Word → Word → Word} (h : s.mem.wf = true) :
    (aluOp s i p d a b lat f).Canonical := lineOp_canonical _ _ _ _ _ h

theorem unaryOp_canonical {d a : BitVec 3} {f : Word → Word} (h : s.mem.wf = true) :
    (unaryOp s i p d a f).Canonical := lineOp_canonical _ _ _ _ _ h

theorem cmpOp_canonical {t : BitVec 5} {a b : BitVec 3} {cond : Word → Word → Bool} (h : s.mem.wf = true) :
    (cmpOp s i p t a b cond).Canonical := lineOp_canonical _ _ _ _ _ h

theorem packedLists_canonical {lat : Nat} {d a b : BitVec 3} {w out : Nat}
    {f : List Nat → List Nat → List (Nat × Bool)} (h : s.mem.wf = true) :
    (packedLists s i p lat d a b w out f).Canonical := lineOp_canonical _ _ _ _ _ h

theorem packedOp_canonical {lat : Nat} {d a b : BitVec 3} {w : Nat} {f : Nat → Nat → Nat × Bool}
    (h : s.mem.wf = true) : (packedOp s i p lat d a b w f).Canonical := packedLists_canonical h

theorem funary_canonical {f : Ieee} {d a : BitVec 3} {lat : Nat}
    {op : (rm : Nat) → (fz : Bool) → (bits : Nat) → Rounded} (h : s.mem.wf = true) :
    (funary s i p f d a lat op).Canonical := lineOp_canonical _ _ _ _ _ h

theorem fbinary_canonical {f : Ieee} {d a b : BitVec 3} {lat : Nat}
    {op : (rm : Nat) → (fz : Bool) → FVal → FVal → Rounded} (h : s.mem.wf = true) :
    (fbinary s i p f d a b lat op).Canonical := lineOp_canonical _ _ _ _ _ h

theorem fcmpOp_canonical {t : BitVec 5} {f : Ieee} {a b : BitVec 3} {quiet : Bool} {rel : FVal → FVal → Bool}
    (h : s.mem.wf = true) : (fcmpOp s i p t f a b quiet rel).Canonical := lineOp_canonical _ _ _ _ _ h

theorem tbin_canonical {hd ha hb : BitVec 8} {fi : Int → Int → Int} {ff : Line → Elem → Elem → FVal × BitVec 16}
    (h : s.mem.wf = true) : (tbin s i p hd ha hb fi ff).Canonical := tileOp_canonical h

theorem tun_canonical {hd ha : BitVec 8} {special : Bool} {f : Line → Elem → Res} (h : s.mem.wf = true) :
    (tun s i p hd ha special f).Canonical := tileOp_canonical h

theorem tred_canonical {hd ha : BitVec 8} {f : Line → Bool → List Elem → Res} (h : s.mem.wf = true) :
    (tred s i p hd ha f).Canonical := tileOp_canonical h

end

/-! ## Every encoded instruction -/

theorem exec_canonical_of_encoded (i : Instr) {s : State} (hs : s.mem.wf = true) (h : i.use.isSome) :
    Out.Canonical (exec i s) := by
  cases i with dsimp only [exec]
  | add | sub | and | or | xor | shl | shr | sar | mul | mulh | mulhn | min | max | minn | maxn | andn =>
    exact aluOp_canonical hs
  | addi | andi | shli | shri | sari | rori | mov => exact unaryOp_canonical hs
  | movi | rdp | wrp | nop | pdot | fma | fcvt => exact lineOp_canonical _ _ _ _ _ hs
  | cmpEq | cmpNe | cmpLt | cmpGe | cmpLo | cmpHs | cmpTst | cmpNtst
  | cmpxEq | cmpxNe | cmpxLt | cmpxGe | cmpxLo | cmpxHs | cmpxTst | cmpxNtst => exact cmpOp_canonical hs
  | paddH | psubH | paddsH | psubsH | pminH | pmaxH | pmulH | pavgH
  | padd | psub | padds | psubs | paddn | psubn | pavg | pmul | pmulh | pmin | pmax | pminn | pmaxn
  | psll | psrl | psra | pcmpeq | pcmpgt | pabs => exact packedOp_canonical hs
  | pshuf | ppack | punpk =>
    dsimp only [execPshuf, execPpack, execPunpk]
    exact packedLists_canonical hs
  | fadd | fsub | fmul | fdiv | fmin | fmax => exact fbinary_canonical hs
  | fsqrt | fabs | fneg | exp2 | log2 | rcp | rsqrt | fclass => exact funary_canonical hs
  | fcmpEq | fcmpLt | fcmpLe | fcmpUn => exact fcmpOp_canonical hs
  | sel => exact withCur_canonical hs fun _ => complete_canonical _ _ _ _ hs
  | trap | brk => exact codeTrap_canonical hs
  | tadd | tsub | tmul | tmin | tmax => exact tbin_canonical hs
  | tcvt | texp2 | tlog2 | trcp | tscale | tmask => exact tun_canonical hs
  | tredSum | tredMax => exact tred_canonical hs
  | tfma | tsel | tcopy | tfill => exact tileOp_canonical hs
  | ldzB | ldsB | ldzH | ldsH | ldzW | ldsW | ldD => exact loadOp_canonical hs
  | stB | stH | stW | stD => exact storeOp_canonical hs
  | ldfe | ldff | stef => exact feProbe_canonical hs
  | stfe | feSet | feClr => exact fePost_canonical hs
  | waddrEq | waddrNe => exact waddrOp_canonical hs
  | amoAdd | amoAnd | amoOr | amoXor | amoMin | amoMax | amoMinn | amoMaxn | amoSwap | amoCas =>
    exact amoOp_canonical hs
  | barArrive | joinDec => exact syncPost_canonical hs
  | cflush | cinval => exact walkOp_canonical hs
  | redAdd => exact guarded_canonical _ _ _ _ hs fun _ => syncAccess_canonical hs fun _ _ _ => post_canonical hs
  | feRd =>
    exact guarded_canonical _ _ _ _ hs fun _ => homedAccess_canonical hs fun _ _ _ =>
      probeOf_canonical hs fun _ _ ht => complete_canonical _ _ _ _ ht
  | redRd | joinWait =>
    dsimp only [execRedRd, execJoinWait]
    refine guarded_canonical _ _ _ _ hs fun _ => syncAccess_canonical hs fun _ _ _ =>
      probeOf_canonical hs fun _ _ ht => ?_
    repeat' split
    all_goals simp [ht, trapOut_canonical, complete_canonical]
  | barWait =>
    refine guarded_canonical _ _ _ _ hs fun _ => syncAccess_canonical hs fun _ _ _ =>
      probeOf_canonical hs fun _ _ ht => probeWord_canonical ht fun _ => ?_
    dsimp only
    repeat' split
    all_goals simp [ht, trapOut_canonical, complete_canonical]
  | spawn =>
    refine guarded_canonical _ _ _ _ hs fun _ => access_canonical _ _ _ _ _ _ _ _ hs fun _ _ _ => ?_
    dsimp only
    split
    · exact complete_canonical _ _ _ _ hs
    · exact complete_canonical _ _ _ _ (State.setSused_wf hs)
  | rdsr | rdtick | cflRd | cflClr | ymark | yield | peek =>
    exact guarded_canonical _ _ _ _ hs fun _ => complete_canonical _ _ _ _ (by simpa using hs)
  | jmp | call | jr | ret => exact guarded_canonical _ _ _ _ hs fun _ => branch_canonical _ _ _ _ _ _ hs
  | wrsr | br | loop | sleep | fence | exit | mig | pop | send | hret | capmint | yrd =>
    dsimp only [execWrsr, execBr, execLoop, execSleep, execFence, execExit, execMig, execPop, execSend, execHret,
      execCapmint, execYrd]
    refine guarded_canonical _ _ _ _ hs fun _ => ?_
    repeat' split
    all_goals simp [hs, trapOut_canonical, complete_canonical, branch_canonical]
  | upret =>
    have hresume (v k core slot : Nat) : ((s.clearUpcall v core slot).resume v k).mem.wf = true :=
      State.resume_wf _ _ _ (State.clearUpcall_wf _ _ _ _ hs)
    refine guarded_canonical _ _ _ _ hs fun _ => ?_
    dsimp only
    repeat' split
    all_goals simp [hs, trapOut_canonical, complete_canonical, hresume]
  | rdsrPriv | tlbinv => exact privileged_canonical _ _ _ _ hs fun _ => complete_canonical _ _ _ _ (by simpa using hs)
  | wrsrPriv | eret | seginv | sltWr | yctl =>
    dsimp only [execWrsrPriv, execEret, execSeginv, execSltWr, execYctl]
    refine privileged_canonical _ _ _ _ hs fun _ => ?_
    repeat' split
    all_goals simp [hs, trapOut_canonical, complete_canonical, State.resume_wf]
  | cxld => exact execCxld_canonical hs
  | cxst => exact execCxst_canonical hs
  | push => exact execPush_canonical hs
  | rwaitF | rwaitE => exact ringWait_canonical hs
  | radvP | radvC =>
    dsimp only [execRadvP, execRadvC]
    refine ringOp_canonical hs fun _ _ _ _ _ _ ht => ?_
    split
    · exact trapInfoOut_canonical ht
    · exact complete_canonical _ _ _ _ (State.putHeader_wf ht)
  | hdef | hrd | hmov =>
    dsimp only [execHdef, execHrd, execHmov]
    split
    · exact (canonical_next s).2 hs
    · refine guarded_canonical _ _ _ _ hs fun _ => ?_
      repeat' split
      all_goals simp [hs, complete_canonical]
  | _ => exact absurd h Bool.false_ne_true

end Sys2Proof.Machine

/-! # Ends and resets keep memory canonical (O57) -/

namespace Sys2Proof.Machine

/-! ## What an answered probe issues again -/

theorem canonical_of_eq_exec_or_next {s : State} {i : Instr} {o : Out} (h : s.mem.wf = true)
    (ho : i.use.isSome ∧ o = exec i s ∨ o = .next s) : o.Canonical := by
  obtain ⟨hi, rfl⟩ | rfl := ho
  · exact exec_canonical_of_encoded i h hi
  · exact (canonical_next s).2 h

theorem probeAnswered_canonical {s : State} {i : Instr} (h : s.mem.wf = true) : (probeAnswered s i).Canonical :=
  canonical_of_eq_exec_or_next h (probeAnswered_eq_exec_or_next s i)

theorem drainAnswered_canonical {s : State} {i : Instr} (h : s.mem.wf = true) : (drainAnswered s i).Canonical :=
  canonical_of_eq_exec_or_next h (drainAnswered_eq_exec_or_next s i)

theorem answerHeld_canonical {s : State} {core way : Nat} {f : State → Instr → Out} (h : s.mem.wf = true)
    (hf : ∀ t i, t.mem.wf = true → (f t i).Canonical) : (answerHeld s core way f).Canonical := by
  unfold answerHeld
  split
  · exact (canonical_next s).2 h
  · split
    · exact (canonical_next s).2 h
    next i _ =>
      have hi := hf { s with run := (core, way) } i h
      split
      next heq _ => exact (canonical_next _).2 (State.retireEnded_wf (hi _ heq))
      next => exact hi

/-! ## Ends and resets of a VF (R187, R317, R371) -/

@[simp] theorem State.drainStores_wf {s : State} {c : Nat} {who : Who} {n : Nat} (h : s.mem.wf = true) :
    (s.drainStores c who n).mem.wf = true := by
  induction n generalizing s with
  | zero => exact h
  | succ n ih =>
    unfold State.drainStores
    split
    · exact ih (State.performPosted_wf h)
    · exact h

@[simp] theorem State.finishPinned_wf {s : State} {c w : Nat} (h : s.mem.wf = true) :
    (s.finishPinned c w).mem.wf = true := by
  unfold State.finishPinned
  split
  · exact h
  · split
    · exact h
    · split
      next heq =>
        refine answerHeld_canonical (State.drainStores_wf h) (fun t i ht => ?_) _ heq
        split
        · exact drainAnswered_canonical ht
        · exact drainAnswered_canonical ht
        · exact drainAnswered_canonical ht
        · exact probeAnswered_canonical ht
      next => exact h

@[simp] theorem State.finishAll_wf {s : State} {v : Nat} (h : s.mem.wf = true) : (s.finishAll v).mem.wf = true :=
  foldl_wf (fun _ _ ht => State.finishPinned_wf ht) _ h

@[simp] theorem State.retireNow_wf {s : State} {v i : Nat} (h : s.mem.wf = true) : (s.retireNow v i).mem.wf = true := by
  unfold State.retireNow
  split
  · exact h
  · exact h
  · exact State.retire_wf h

@[simp] theorem State.endPacket_wf {s : State} {p : Packet} (h : s.mem.wf = true) : (s.endPacket p).mem.wf = true := by
  have hcopy : ((s.reportPacket p).writeCopy p.vf p.index p.line).mem.wf = true :=
    State.writeCopy_wf _ _ _ _ (by simpa using h)
  unfold State.endPacket
  split
  · exact h
  · exact State.unlive_wf (by simpa using hcopy)

@[simp] theorem State.endContexts_wf {s : State} {v : Nat} (h : s.mem.wf = true) : (s.endContexts v).mem.wf = true := by
  unfold State.endContexts
  extract_lets s0 s1 mine s2 s3 s4
  have hs1 : s1.mem.wf = true := foldl_wf (fun _ _ ht => State.endPacket_wf ht) _ (State.finishAll_wf h)
  have hs2 : s2.mem.wf = true := foldl_wf (fun _ _ ht => State.retireNow_wf (by simpa using ht)) _ hs1
  have hs3 : s3.mem.wf = true := foldl_wf (fun _ _ ht => foldl_wf (fun t x ht => by
    repeat' split
    all_goals simp [ht]) _ ht) _ hs2
  exact foldl_wf (fun t f ht => by simpa using ht) _ hs3

@[simp] theorem State.abortVf_wf {s : State} {v why : Nat} (h : s.mem.wf = true) : (s.abortVf v why).mem.wf = true := by
  unfold State.abortVf
  dsimp only
  rw [State.prune_mem]
  exact foldl_wf (fun _ _ ht => State.abortOne_wf ht) _ (foldl_wf (fun _ _ ht => State.abortEntry_wf ht) _ h)

@[simp] theorem State.reportHeldSends_mem (s : State) (v : Nat) : (s.reportHeldSends v).mem = s.mem :=
  foldl_mem (fun t b => by simp) _ _

@[simp] theorem State.resetBanks_wf {s : State} {v : Nat} (h : s.mem.wf = true) : (s.resetBanks v).mem.wf = true :=
  foldl_wf (fun _ e ht => foldl_wf (fun t b ht => by split <;> simp [ht]) _ ht) _ h

@[simp] theorem State.resetVf_wf {s : State} {v : Nat} (h : s.mem.wf = true) : (s.resetVf v).mem.wf = true := by
  unfold State.resetVf
  extract_lets x s1 s2 s3 y s4 s5
  have hs1 : (s1.reportHeldSends v).mem.wf = true := by rwa [State.reportHeldSends_mem]
  have hs2 : s2.mem.wf = true := State.endContexts_wf (State.abortVf_wf hs1)
  have hs5 : s5.mem.wf = true := by
    simp only [s5, State.discardLines_mem]
    exact State.resetBanks_wf (by simpa [s4, s3] using hs2)
  simpa using hs5

@[simp] theorem State.linkDown_wf {s : State} {link : Nat} (h : s.mem.wf = true) : (s.linkDown link).mem.wf = true := by
  unfold State.linkDown
  dsimp only
  split
  · exact foldl_wf (fun _ _ ht => State.resetVf_wf ht) _ h
  · exact h

@[simp] theorem State.recordLost_wf {s : State} {cl : Nat} {r : Replay} (h : s.mem.wf = true) :
    (s.recordLost cl r).mem.wf = true := by
  unfold State.recordLost
  split
  · exact State.linkDown_wf h
  · exact h

/-! ## A bring-up (R411 to R421) -/

/-- What host memory keeps of canonical memory is canonical: entries fall away and none moves. -/
theorem Memory.hostPart_wf {m : Memory} (h : m.wf = true) : m.hostPart.wf = true := by
  obtain ⟨hcells, hzero, hempty, hpoison⟩ := (Memory.wf_iff m).1 h
  refine (Memory.wf_iff _).2 ⟨?_, ?_, rising_filter _ _ hempty, rising_filter _ _ hpoison⟩
  · rw [rising_iff] at hcells ⊢
    exact hcells.sublist (List.filter_sublist.map _)
  · rw [List.all_eq_true] at hzero ⊢
    exact fun c hc => hzero c (List.mem_of_mem_filter hc)

@[simp] theorem State.cleared_wf {s : State} {p : Power} {step : Nat} {x : Sorrel} (h : s.mem.wf = true) :
    (s.cleared p step x).mem.wf = true := Memory.hostPart_wf h

@[simp] theorem State.bringUp_wf {s : State} (h : s.mem.wf = true) : s.bringUp.mem.wf = true := by
  unfold State.bringUp
  dsimp only
  repeat' split
  all_goals simp [h]

@[simp] theorem State.writeControl_wf {s : State} {by_ : Origin} {f : State → State} (h : s.mem.wf = true)
    (hf : (f s).mem.wf = true) : (s.writeControl by_ f).mem.wf = true := by
  unfold State.writeControl
  repeat' split
  all_goals simp [h, hf]

end Sys2Proof.Machine

/-! # Every operation of the device keeps memory canonical (O57) -/

namespace Sys2Proof.Machine

/-! ## Steps of the device that several operations share -/

theorem clusterEngineBy_canonical {s : State} {cl port : Nat} {ops : Nat → Bool} {run : State → Cmd → Keep → State}
    (h : s.mem.wf = true) (hrun : ∀ t c keep, t.mem.wf = true → Keep.Canonical keep → (run t c keep).mem.wf = true) :
    (clusterEngineBy s cl port ops run).Canonical := by
  unfold clusterEngineBy
  split
  · exact (canonical_next s).2 h
  · split
    · exact (canonical_next s).2 h
    · split
      · exact (canonical_next s).2 h
      next heq =>
        exact (canonical_next _).2 (hrun _ _ _ (by simpa using State.acceptRecord_wf h heq) (keepCmd_canonical _ _))

theorem clusterEngine_canonical {s : State} {cl port : Nat} {ops : Nat → Bool} {body : Cmd → Eng (Word × BitVec 16)}
    (h : s.mem.wf = true) (hbody : ∀ c, Eng.Canonical (body c)) : (clusterEngine s cl port ops body).Canonical :=
  clusterEngineBy_canonical h fun _ c _ ht hk => runCmd_wf hk (hbody c) ht

theorem dieEngine_canonical {s : State} {d port : Nat} {ops : Nat → Bool} {body : Cmd → Eng (Word × BitVec 16)}
    (h : s.mem.wf = true) (hbody : ∀ c, Eng.Canonical (body c)) : (dieEngine s d port ops body).Canonical := by
  unfold dieEngine
  split
  · exact (canonical_next s).2 h
  · split
    · exact (canonical_next s).2 h
    · exact (canonical_next _).2 (runCmd_wf (keepDie_canonical _ _) (hbody _) (State.publish_wf h))

theorem mmAccept_canonical {s : State} {cl src : Nat} {ops : Nat → Bool} {run : State → Cmd → Keep → State}
    (h : s.mem.wf = true) (hrun : ∀ t c keep, t.mem.wf = true → Keep.Canonical keep → (run t c keep).mem.wf = true) :
    (mmAccept s cl src ops run).Canonical := by
  unfold mmAccept
  split
  · exact (canonical_next s).2 h
  · split
    · exact (canonical_next s).2 h
    · split
      · exact (canonical_next s).2 h
      · split
        · exact (canonical_next s).2 h
        next heq =>
          exact (canonical_next _).2 (hrun _ _ _ (by simpa using State.acceptRecord_wf h heq) (keepCmd_canonical _ _))

theorem dirRequest_canonical {s : State} {v line core : Nat} {f : Except MemFault State} (h : s.mem.wf = true)
    (hf : ∀ t, f = .ok t → t.mem.wf = true) : (dirRequest s v line core f).Canonical := by
  unfold dirRequest
  split
  · exact (canonical_next s).2 h
  · split
    · exact (canonical_next _).2 (hf _ rfl)
    · exact (canonical_next s).2 h

theorem wqRead_canonical {vf q : Nat} {s : State} {gang : Bool} {take : Wq → List Word → State} (h : s.mem.wf = true)
    (htake : ∀ w d, (take w d).mem.wf = true) : (wqRead vf q s gang take).Canonical := by
  unfold wqRead
  dsimp only
  repeat' split
  all_goals simp [h, htake]

theorem mailbox_canonical {s : State} {code : Nat} {f : Sorrel → State} (h : s.mem.wf = true)
    (hf : ∀ x, (f x).mem.wf = true) : (mailbox s code f).Canonical := by
  unfold mailbox
  dsimp only
  split
  · exact (canonical_next _).2 (hf _)
  · exact (canonical_next s).2 h

/-! ## Operations whose continuation needs an argument of its own -/

section
variable {s : State}

theorem execSleepWake_canonical (cl k : Nat) (h : s.mem.wf = true) : Out.Canonical (execSleepWake cl k s) := by
  unfold execSleepWake
  dsimp only
  repeat' split
  all_goals simp [h, State.readyLine_wf]

theorem execStage1Walk_canonical (cl k : Nat) (h : s.mem.wf = true) : Out.Canonical (execStage1Walk cl k s) := by
  unfold execStage1Walk
  split
  · exact (canonical_next s).2 h
  next w _ =>
    split
    · exact (canonical_next s).2 h
    · extract_lets n
      split
      next s0 table level hstart =>
        have hs0 : s0.mem.wf = true := by
          have hmem := State.walkStart_mem s cl w.vf w.linear
          rw [hstart] at hmem
          rwa [hmem]
        extract_lets read
        have hread : read.mem.wf = true := by
          dsimp only [read]
          split <;> simp [hs0]
        split
        · rw [canonical_next]
          split
          · exact h
          · simpa using hread
        next heq =>
          have hend := State.endWalk_wf hread heq
          rw [canonical_next]
          split
          · exact State.endJoined_wf _ hend
          · exact hend

theorem execParityError_canonical (cl port : Nat) (h : s.mem.wf = true) : Out.Canonical (execParityError cl port s) :=
  (canonical_next _).2 (foldl_wf (fun t c ht => by simpa using ht) _ h)

theorem execGlobalTick_canonical (h : s.mem.wf = true) : Out.Canonical (execGlobalTick s) := by
  unfold execGlobalTick
  extract_lets s1 s2
  have hs2 : s2.mem.wf = true := foldl_wf (fun t e ht => by simpa using ht) _ (by simpa [s1] using h)
  exact (canonical_next _).2 (foldl_wf (fun t e ht => by simpa using ht) _ (by simpa using hs2))

theorem execLlcMiss_canonical (vf line : Nat) (write : Bool) (victim : Option (Nat × Nat)) (h : s.mem.wf = true) :
    Out.Canonical (execLlcMiss vf line write victim s) := by
  have htouch (l : List LlcLine) :
      ((l.foldl (fun s x => s.evictLine x.vf x.line) s).touchLlc vf (line * 64) write false).mem.wf = true :=
    State.touchLlc_wf _ _ _ _ _ _ (foldl_wf (fun _ _ ht => State.evictLine_wf ht) _ h)
  unfold execLlcMiss
  dsimp only
  repeat' split
  all_goals simp [h, htouch, State.keepLine_wf]

theorem execFrameScrubDone_canonical (frame : Nat) (h : s.mem.wf = true) :
    Out.Canonical (execFrameScrubDone frame s) := by
  have hdrop : (s.dropFrame frame).mem.wf = true := by rwa [State.dropFrame_mem]
  unfold execFrameScrubDone
  dsimp only
  split
  · rw [canonical_next, State.setFrame_mem]
    exact foldl_wf (fun t p ht => by simpa using ht) _ (Memory.zeroFill_wf _ _ _ hdrop)
  · exact (canonical_next s).2 h

theorem execBankMaskWrite_canonical (vf lcluster : Nat) (keep : Word) (h : s.mem.wf = true) :
    Out.Canonical (execBankMaskWrite vf lcluster keep s) := by
  unfold execBankMaskWrite
  dsimp only
  split
  · exact (canonical_next s).2 h
  · split
    · exact (canonical_next s).2 h
    · rw [canonical_next, State.setCluster_mem]
      exact foldl_wf (fun t b ht => by split <;> simp [ht]) _ h

theorem execMmRowAdvance_canonical (cl k : Nat) (h : s.mem.wf = true) : Out.Canonical (execMmRowAdvance cl k s) := by
  unfold execMmRowAdvance
  extract_lets k0 s1 keep
  split
  · exact (canonical_next s).2 h
  next x _ =>
    have hs1 : s1.mem.wf = true := h
    have hk : Keep.Canonical keep := fun _ _ ht => ht
    have hadv := State.mmAdvance_canonical (c := x.cmd) (core := x.cmd.receiver cl x.row) (ring := x.ring) hs1
    split
    · exact (canonical_next s).2 h
    · split
      · exact (canonical_next _).2 (mmGoOn_wf hk hs1)
      · split
        · exact (canonical_next s).2 h
        · exact (canonical_next _).2 (endCmd_wf hk hs1)
        · exact (canonical_next _).2 (endCmd_wf hk hs1)
        next heq =>
          rw [heq] at hadv
          exact (canonical_next _).2 (mmGoOn_wf hk ((State.mark_mem ..).symm ▸ hadv))

theorem execTriggerWrite_canonical (die : Nat) (h : s.mem.wf = true) : Out.Canonical (execTriggerWrite die s) := by
  unfold execTriggerWrite
  extract_lets d0
  split
  · exact (canonical_next s).2 h
  · split
    · exact (canonical_next s).2 h
    next t _ =>
      extract_lets rest
      have hrun := (engWriteN_canonical (c := t.cmd) (cl := 64 * die) 8 (t.cmd.dw 2) 8 t.value.toNat needStore
        .write).keeps (Run.mk rest 0) h
      split
      · simpa [rest] using h
      · split
        next r heq =>
          rw [heq] at hrun
          exact (canonical_next _).2 hrun
        next r heq =>
          rw [heq] at hrun
          exact (canonical_next _).2 ((State.count_mem ..).symm ▸ hrun)
        next r heq =>
          rw [heq] at hrun
          exact (canonical_next _).2 ((State.request_mem ..).symm ▸ hrun)
        next => exact (canonical_next s).2 h

theorem execLinkRetrain_canonical (link : Nat) (ok : Bool) (h : s.mem.wf = true) :
    Out.Canonical (execLinkRetrain link ok s) := by
  have hrun : ((s.outstandingOn link).foldl State.replayRecord (s.retrained link)).mem.wf = true :=
    foldl_wf (fun t r ht => by simpa using ht) _ (by simpa using h)
  unfold execLinkRetrain
  dsimp only
  repeat' split
  all_goals simp [h, hrun]

theorem execPatrolScrub_canonical (place : ScrubPlace) (v : ScrubVerdict) (h : s.mem.wf = true) :
    Out.Canonical (execPatrolScrub place v s) := by
  unfold execPatrolScrub
  dsimp only
  repeat' split
  all_goals simp [h, Memory.setPoison_wf]

theorem execCxlPortDown_canonical (port : Nat) (h : s.mem.wf = true) : Out.Canonical (execCxlPortDown port s) := by
  unfold execCxlPortDown
  dsimp only
  split
  · exact (canonical_next s).2 h
  · exact (canonical_next _).2 (foldl_wf (fun _ _ ht => State.lateTrap_wf ht) _ h)

theorem execMmMul_canonical (cl src : Nat) (h : s.mem.wf = true) : Out.Canonical (execMmMul cl src s) :=
  mmAccept_canonical h fun t c keep ht hk => by
    have hread := (mmMulRead_canonical (c := c) (cl := cl)).keeps (Run.mk t 0) ht
    split
    · exact runCmd_wf hk (.pure _) ht
    · split
      · next heq =>
        rw [heq] at hread
        exact endCmd_wf hk hread
      · next heq =>
        rw [heq] at hread
        exact endCmd_wf hk hread
      · next heq =>
        rw [heq] at hread
        dsimp only
        split
        · exact hread
        · exact mmFinish_wf hk ((mmDeliverRows_canonical ..).keeps _ hread)

theorem execAttest_canonical (h : s.mem.wf = true) : Out.Canonical (execAttest s) :=
  mailbox_canonical h fun x => by
    extract_lets nonce out b s1
    split
    · exact h
    · have hs1 : s1.mem.wf = true := by
        dsimp only [s1]
        split
        · exact State.clearPoison_wf h
        · exact h
      rw [State.mboxEnd_mem]
      exact State.writeModule_wf hs1

theorem execWqLaunch_canonical (vf q : Nat) (h : s.mem.wf = true) : Out.Canonical (execWqLaunch vf q s) :=
  wqRead_canonical h fun w d => by
    split
    · simpa using h
    next heq => simpa using State.nameRcb_wf h heq

theorem execWqGang_canonical (vf q : Nat) (h : s.mem.wf = true) : Out.Canonical (execWqGang vf q s) :=
  wqRead_canonical h fun w d => by
    dsimp only
    split
    · simpa using h
    next heq =>
      have hname := State.nameRcb_wf h heq
      split
      · exact State.abortGang_wf (by simp [hname])
      · simp [hname]

end

/-! ## Every operation without an encoding -/

theorem exec_canonical_of_unencoded (i : Instr) {s : State} (hs : s.mem.wf = true) (h : i.use = none) :
    Out.Canonical (exec i s) := by
  cases i with dsimp only [exec]
  | slGather | slScatter => exact clusterEngine_canonical hs fun _ => slBody_canonical
  | flCopy => exact clusterEngine_canonical hs fun _ => flCopyBody_canonical
  | flFill => exact clusterEngine_canonical hs fun _ => flFillBody_canonical
  | boMerge => exact clusterEngine_canonical hs fun _ => boMergeBody_canonical
  | slScatadd => exact clusterEngineBy_canonical hs fun _ _ _ ht hk => slAddRun_wf hk ht
  | boTopk => exact clusterEngineBy_canonical hs fun _ _ _ ht hk => boTopkRun_wf hk ht
  | qnBag => exact dieEngine_canonical hs fun _ => qnBagBody_canonical
  | ywLoad => exact dieEngine_canonical hs fun _ => ywLoadBody_canonical _
  | ywAttach => exact dieEngine_canonical hs fun _ => ywAttachBody_canonical _
  | ywDetach => exact dieEngine_canonical hs fun _ => ywDetachBody_canonical _
  | ywDump => exact dieEngine_canonical hs fun _ => ywDumpBody_canonical _
  | mmFmt => exact mmAccept_canonical hs fun _ _ _ ht hk => runCmd_wf hk mmFmtBody_canonical ht
  | mmMul => exact execMmMul_canonical _ _ hs
  | dirLoadMiss =>
    exact dirRequest_canonical hs fun _ => State.loadMiss_wf (State.touchLlc_wf _ _ _ _ _ _ hs)
  | dirStoreOwnership =>
    exact dirRequest_canonical hs fun _ => State.takeOwnership_wf (State.touchLlc_wf _ _ _ _ _ _ hs)
  | wqLaunch => exact execWqLaunch_canonical _ _ hs
  | wqGang => exact execWqGang_canonical _ _ hs
  | attest => exact execAttest_canonical hs
  | wassign | setw | stage | commit | setsec =>
    dsimp only [execWassign, execSetw, execStage, execCommit, execSetsec]
    refine mailbox_canonical hs fun x => ?_
    repeat' split
    all_goals simp [hs]
  | probeAnswer => exact answerHeld_canonical hs fun _ _ => probeAnswered_canonical
  | fenceDrain => exact answerHeld_canonical hs fun _ _ => drainAnswered_canonical
  | illegalEncoding =>
    refine withCur_canonical hs fun _ => ?_
    dsimp only
    repeat' split
    all_goals simp [hs, State.takeTrap_wf, State.pageFault_wf]
  | sleepWake => exact execSleepWake_canonical _ _ hs
  | parityError => exact execParityError_canonical _ _ hs
  | globalTick => exact execGlobalTick_canonical hs
  | llcMiss => exact execLlcMiss_canonical _ _ _ _ hs
  | stage1Walk => exact execStage1Walk_canonical _ _ hs
  | frameScrubDone => exact execFrameScrubDone_canonical _ hs
  | bankMaskWrite => exact execBankMaskWrite_canonical _ _ _ hs
  | mmRowAdvance => exact execMmRowAdvance_canonical _ _ hs
  | triggerWrite => exact execTriggerWrite_canonical _ hs
  | linkRetrain => exact execLinkRetrain_canonical _ _ hs
  | patrolScrub => exact execPatrolScrub_canonical _ _ hs
  | cxlPortDown => exact execCxlPortDown_canonical _ hs
  -- each of these writes out on every branch a state whose memory is an operation's of the lemmas above
  | fillResponse | storeQueuePerform | contextPull | contextFetch | arrivalToContextL2 | contextLineLost | dirWriteBack
  | dirCoreEvict | fmUnbind | moduleReset | powerLoss
  | contextEvent | hostAddrPoll | watchDelivery | contextEviction | contextWriteBack | migrationArrival
  | arrivalAck | partialCommandAbandon | messageArrival | faultHandlerStart | messageHandlerStart
  | completionDelivery | reclass | pageResponse | hostRead | hostWrite | tailraceWalk
  | frameAssign | frameRelease | rcbAdmit | rcbFinish | cycleBudgetAbort | deadlinePass
  | launchDelivery | qtailDoorbell | wqEntryPoll | wqEntryTimeout | errClear | gangReady | gangAbort
  | gangReadyDeadline | gangStart | sliceEnd | vfSwitchSweep | scratchpadScrub | scratchpadScrubEnd
  | clusterMemoryFill | clusterMemoryFillEnd | split | merge | vfNodeWrite | ctxSegmentWrite
  | vfReset | fvClear | fmBind | filterRun | yarrowTickEvent | yarrowBudgetWindow
  | counterIncrement | linkRetry | replayTimeout | replayRecordError | mgmtSession
  | powerCapWrite | throttleLevelChange | thermalTrip | tickUnsynchronised | registerWrite =>
    dsimp only [execFillResponse, execStoreQueuePerform, execContextPull, execContextFetch, execArrivalToContextL2,
      execContextLineLost, execDirWriteBack, execDirCoreEvict, execFmUnbind, execModuleReset,
      execPowerLoss, execContextEvent, execHostAddrPoll, execWatchDelivery, execContextEviction,
      execContextWriteBack, execMigrationArrival, execArrivalAck, execPartialCommandAbandon, execMessageArrival,
      execFaultHandlerStart, execMessageHandlerStart, execCompletionDelivery, execReclass,
      execPageResponse, execHostRead, execHostWrite, execTailraceWalk, execFrameAssign,
      execFrameRelease, execRcbAdmit, execRcbFinish, execCycleBudgetAbort, execDeadlinePass,
      execLaunchDelivery, execQtailDoorbell, execWqEntryPoll, execWqEntryTimeout, execErrClear, execGangReady,
      execGangAbort, execGangReadyDeadline, execGangStart, execSliceEnd, execVfSwitchSweep, execScratchpadScrub,
      execScratchpadScrubEnd, execClusterMemoryFill, execClusterMemoryFillEnd, execSplit, execMerge,
      execVfNodeWrite, execCtxSegmentWrite, execVfReset, execFvClear, execFmBind, execFilterRun,
      execYarrowTickEvent, execYarrowBudgetWindow, execCounterIncrement, execLinkRetry, execReplayTimeout,
      execReplayRecordError, execMgmtSession, execPowerCapWrite, execThrottleLevelChange, execThermalTrip,
      execTickUnsynchronised, execRegisterWrite]
    repeat' split
    all_goals simp [hs]
  | _ => exact absurd h (Option.some_ne_none _)

theorem exec_canonical (i : Instr) {s : State} (hs : s.mem.wf = true) : Out.Canonical (exec i s) := by
  cases h : i.use with
  | none => exact exec_canonical_of_unencoded i hs h
  | some u => exact exec_canonical_of_encoded i hs (by simp [h])

end Sys2Proof.Machine

/-! # O57: every step keeps memory canonical

Every operation keeps memory canonical (`exec_canonical`), and so do the moves that the machine makes by itself, which are
operations and five more. A step is an operation, a turn of a core or a move. -/

namespace Sys2Proof.Machine

/-! ## The machine's own moves -/

/-- A move keeps memory canonical, from every state. -/
def Move.Canonical (m : Move) : Prop := ∀ s : State, s.mem.wf = true → Out.Canonical (m s)

theorem operation_canonical (i : Instr) : Move.Canonical (exec i) := fun _ h => exec_canonical i h

theorem endedMove_canonical (v i : Nat) : Move.Canonical (endedMove v i) := fun s h => by
  simpa [endedMove] using State.retireEnded_wf h

theorem placeMove_canonical : Move.Canonical placeMove := fun s h => by
  unfold placeMove
  split <;> simp [h]

theorem strayMove_canonical : Move.Canonical strayMove := fun s h => by
  unfold strayMove
  split <;> simp [h]

theorem lineWriteBack_canonical (cl : Nat) : Move.Canonical (lineWriteBack cl) := fun s h => by
  unfold lineWriteBack
  dsimp only
  split <;> simp [h]

theorem noteHeldSends_canonical (cl : Nat) : Move.Canonical (noteHeldSends cl) := fun s h => by
  unfold noteHeldSends
  dsimp only
  split
  · exact (canonical_next s).2 h
  · exact (canonical_next _).2 (foldl_wf (fun t w ht => by simpa using ht) _ h)

/-- Every move of the list keeps memory canonical. -/
def KeepCanonical (ms : List Move) : Prop := ∀ m ∈ ms, m.Canonical

theorem keepCanonical_nil : KeepCanonical [] := List.forall_mem_nil _

theorem keepCanonical_cons {m : Move} {ms : List Move} (hm : m.Canonical) (hms : KeepCanonical ms) :
    KeepCanonical (m :: ms) :=
  List.forall_mem_cons.2 ⟨hm, hms⟩

/-- A list of operations, each in its meaning's own name. -/
theorem keepCanonical_execs (is : List Instr) : KeepCanonical (is.map exec) :=
  List.forall_mem_map.2 fun i _ _ h => exec_canonical i h

theorem keepCanonical_append {ms ns : List Move} (hm : KeepCanonical ms) (hn : KeepCanonical ns) :
  KeepCanonical (ms ++ ns) :=
  List.forall_mem_append.2 ⟨hm, hn⟩

theorem keepCanonical_map {α : Type} {l : List α} {f : α → Move} (hf : ∀ a, Move.Canonical (f a)) :
    KeepCanonical (l.map f) :=
  List.forall_mem_map.2 fun a _ => hf a

theorem keepCanonical_flatMap {α : Type} {l : List α} {f : α → List Move} (hf : ∀ a, KeepCanonical (f a)) :
    KeepCanonical (l.flatMap f) := by
  intro m hm
  obtain ⟨a, -, ha⟩ := List.mem_flatMap.1 hm
  exact hf a m ha

theorem keepCanonical_filterMap {α : Type} {l : List α} {f : α → Option Move}
    (hf : ∀ a m, f a = some m → m.Canonical) :
    KeepCanonical (l.filterMap f) := by
  intro m hm
  obtain ⟨a, -, ha⟩ := List.mem_filterMap.1 hm
  exact hf a m ha

theorem firstMove_canonical {s : State} {ms : List Move} {o : Out} (h : s.mem.wf = true) (hms : KeepCanonical ms)
    (ho : firstMove s ms = some o) : o.Canonical := by
  induction ms with
  | nil => cases ho
  | cons m ms ih =>
    obtain ⟨hm, hrest⟩ := List.forall_mem_cons.1 hms
    have hs := hm s h
    rw [firstMove] at ho
    split at ho
    next heq =>
      split at ho
      · exact ih hrest ho
      · cases ho
        exact (canonical_next _).2 (hs _ heq)
    next =>
      cases ho
      exact hs

theorem contextMoves_canonical (s : State) : KeepCanonical s.contextMoves := by
  unfold State.contextMoves
  repeat' apply keepCanonical_append
  · exact keepCanonical_map fun k => operation_canonical (.contextEvent k)
  · exact keepCanonical_map fun k => operation_canonical (.fillResponse k)
  · exact keepCanonical_flatMap fun e => keepCanonical_map fun k => operation_canonical (.storeQueuePerform e.1 k)
  · refine keepCanonical_flatMap fun e => keepCanonical_flatMap fun x => keepCanonical_append ?_ ?_
    · exact keepCanonical_execs [.probeAnswer e.1 x.1, .fenceDrain e.1 x.1, .watchDelivery e.1 x.1]
    · split
      · exact keepCanonical_cons (endedMove_canonical _ _) keepCanonical_nil
      · exact keepCanonical_nil
  · exact keepCanonical_flatMap fun e => keepCanonical_map fun k => operation_canonical (.stage1Walk e.1 k)
  · exact keepCanonical_cons (operation_canonical (.reclass 0)) (keepCanonical_cons placeMove_canonical
      (keepCanonical_cons strayMove_canonical keepCanonical_nil))
  · exact keepCanonical_map fun k => operation_canonical (.tailraceWalk k)
  · exact keepCanonical_flatMap fun cl => keepCanonical_map fun k => operation_canonical (.sleepWake cl k)
  · refine keepCanonical_filterMap fun w m hm => ?_
    split at hm
    · cases hm
      exact operation_canonical (.hostAddrPoll _ _)
    · cases hm

theorem lineMoves_canonical (s : State) : KeepCanonical s.lineMoves := by
  refine keepCanonical_append (keepCanonical_append (keepCanonical_flatMap fun e => ?_) ?_)
    (keepCanonical_flatMap fun e => ?_)
  · repeat' apply keepCanonical_append
    · exact keepCanonical_map fun x => operation_canonical (.contextEviction e.1 x.1)
    · exact keepCanonical_map fun k => operation_canonical (.messageArrival e.1 k)
    · exact keepCanonical_execs [.faultHandlerStart e.1, .messageHandlerStart e.1, .contextPull e.1]
    · exact keepCanonical_map fun q => operation_canonical (.contextFetch q.1 q.2.1)
    · exact keepCanonical_flatMap fun b => keepCanonical_map fun x =>
        operation_canonical (.partialCommandAbandon e.1 x.1 b.1)
    · exact keepCanonical_execs [.vfSwitchSweep e.1, .scratchpadScrub e.1, .scratchpadScrubEnd e.1]
  · exact keepCanonical_flatMap fun k => keepCanonical_execs [.migrationArrival k, .arrivalToContextL2 k]
  · refine keepCanonical_append ?_ (keepCanonical_flatMap fun r => ?_)
    · exact keepCanonical_cons (lineWriteBack_canonical e.1) (keepCanonical_execs [.clusterMemoryFill e.1,
        .clusterMemoryFillEnd e.1])
    · exact keepCanonical_execs [.arrivalAck e.1 r.seq, .replayTimeout e.1 r.seq]

theorem engineMoves_canonical (s : State) : KeepCanonical s.engineMoves := by
  refine keepCanonical_append (keepCanonical_append (keepCanonical_append (keepCanonical_flatMap fun e => ?_) ?_)
    (keepCanonical_flatMap fun e => ?_)) ?_
  · refine keepCanonical_append (keepCanonical_append ?_ (keepCanonical_flatMap fun src => ?_)) ?_
    · exact keepCanonical_map fun k => operation_canonical (.mmRowAdvance e.1 k)
    · exact keepCanonical_execs [.mmFmt e.1 src, .mmMul e.1 src]
    · exact keepCanonical_execs [.slGather e.1, .slScatter e.1, .slScatadd e.1, .flCopy e.1, .flFill e.1, .boTopk e.1,
        .boMerge e.1]
  · exact keepCanonical_map fun k => operation_canonical (.completionDelivery k)
  · refine keepCanonical_append (keepCanonical_append ?_ ?_) ?_
    · exact keepCanonical_execs [.qnBag e.1, .ywLoad e.1, .ywAttach e.1, .ywDetach e.1, .ywDump e.1, .triggerWrite e.1,
        .yarrowBudgetWindow e.1]
    · exact keepCanonical_map fun k => operation_canonical (.filterRun e.1 k)
    · exact keepCanonical_map fun f => operation_canonical (.yarrowTickEvent e.1 (f.1 / 8) (f.1 % 8))
  · exact keepCanonical_map fun k => operation_canonical (.counterIncrement k)

theorem headraceMoves_canonical (s : State) : KeepCanonical s.headraceMoves := by
  unfold State.headraceMoves
  repeat' apply keepCanonical_append
  · exact keepCanonical_map fun e => operation_canonical (.rcbAdmit e.vf e.child)
  · exact keepCanonical_flatMap fun r => keepCanonical_execs [.rcbAdmit r.vf r.addr, .rcbFinish r.vf r.addr,
      .cycleBudgetAbort r.vf r.addr, .deadlinePass r.vf r.addr, .launchDelivery r.vf r.addr]
  · exact keepCanonical_map fun r => operation_canonical (.cycleBudgetAbort r.vf r.addr)
  · exact keepCanonical_flatMap fun e => keepCanonical_flatMap fun q =>
      keepCanonical_execs [.wqEntryTimeout e.1 q.1, .wqEntryPoll e.1 q.1, .wqLaunch e.1 q.1, .wqGang e.1 q.1]
  · exact keepCanonical_flatMap fun g => keepCanonical_execs [.gangReady g.id s.platform.device, .gangReadyDeadline g.id,
      .gangStart g.id]
  · exact keepCanonical_map fun e => operation_canonical (.sliceEnd e.1)

theorem platformMoves_canonical (s : State) : KeepCanonical s.platformMoves := by
  refine keepCanonical_append (keepCanonical_append ?_ ?_) ?_
  · exact keepCanonical_map fun e => operation_canonical (.frameScrubDone e.1)
  · exact keepCanonical_execs [.wassign, .setw, .stage [], .commit, .attest, .setsec]
  · exact keepCanonical_map fun e => noteHeldSends_canonical e.1

theorem dueMove_canonical {s : State} {o : Out} (h : s.mem.wf = true) (ho : s.dueMove = some o) : o.Canonical :=
  firstMove_canonical h (keepCanonical_append (keepCanonical_append (keepCanonical_append (keepCanonical_append
    (contextMoves_canonical s) (lineMoves_canonical s)) (engineMoves_canonical s)) (headraceMoves_canonical s))
    (platformMoves_canonical s)) ho

/-! ## A core's issue slot -/

theorem issueInstr_canonical {s : State} {c w : Nat} {sl : Slot} {i : Instr} {o : Out} (h : s.mem.wf = true)
    (ho : issueInstr s c w sl i = some o) : o.Canonical := by
  have hexec := exec_canonical i (State.prepare_wf (c := c) (w := w) (sl := sl) h)
  unfold issueInstr at ho
  dsimp only at ho
  split at ho
  next heq =>
    split at ho
    · cases ho
    · cases ho
      simpa [State.notBefore_mem] using hexec _ heq
  next =>
    cases ho
    exact hexec

theorem runContext_canonical {s : State} {c w : Nat} {b : Bool} {o : Out} (h : s.mem.wf = true)
    (ho : runContext s c w = some (b, o)) : o.Canonical := by
  unfold runContext at ho
  split at ho
  · cases ho
  next sl0 _ =>
  split at ho
  · cases ho
  extract_lets s0 at ho
  have hs0 : s0.mem.wf = true := h
  split at ho
  next heq =>
    cases ho
    exact (canonical_next _).2 (State.boundary_wf hs0 heq)
  split at ho
  · cases ho
    exact segsStage2_canonical hs0
  next sl _ =>
    have hs1 : ((s0.touchSet sl0).putSlot c w sl).mem.wf = true := by simp [hs0]
    have hfetch := State.fetchInstr_canonical (c := c) (w := w) (sl := sl) hs1
    dsimp only at ho
    split at ho
    next heq =>
      rw [heq] at hfetch
      obtain ⟨o', ho', heq⟩ := Option.map_eq_some_iff.1 ho
      cases heq
      exact issueInstr_canonical hfetch ho'
    next heq =>
      rw [heq] at hfetch
      cases ho
      exact exec_canonical (.illegalEncoding _) hfetch
    next heq =>
      rw [heq] at hfetch
      cases ho
      exact fetchMiss_canonical hfetch
    next heq =>
      rw [heq] at hfetch
      cases ho
      exact fetchStage2_canonical hfetch

theorem takeTurn_canonical {s : State} {c w : Nat} {o : Out} (h : s.mem.wf = true) (ho : takeTurn s c w = some o) :
    o.Canonical := by
  unfold takeTurn at ho
  split at ho
  · cases ho
    simpa using h
  split at ho
  · cases ho
  next hrun =>
    cases ho
    simpa using runContext_canonical h hrun
  next hrun =>
    cases ho
    exact runContext_canonical h hrun

theorem coreSlot_canonical {s : State} {c w : Nat} {o : Out} (h : s.mem.wf = true) (ho : coreSlot s c = some (w, o)) :
    o.Canonical := by
  obtain ⟨w', -, hw⟩ := List.exists_of_findSome?_eq_some ho
  obtain ⟨o', ho', heq⟩ := Option.map_eq_some_iff.1 hw
  cases heq
  exact takeTurn_canonical h ho'

theorem coreTurn_canonical {s : State} {c : Nat} (h : s.mem.wf = true) : (coreTurn s c).Canonical := by
  have htaken : (s.slotTaken c).mem.wf = true := by simpa using h
  unfold coreTurn
  split
  next heq => exact coreSlot_canonical htaken heq
  next => simpa using h

theorem issueTurn_canonical {s : State} {c w : Nat} (h : s.mem.wf = true) : (issueTurn s c w).Canonical := by
  have htaken : (s.slotTaken c).mem.wf = true := by simpa using h
  unfold issueTurn
  split
  · exact (canonical_next s).2 h
  split
  next heq =>
    split
    · exact coreSlot_canonical htaken heq
    · exact (canonical_next s).2 h
  next => exact (canonical_next s).2 h

/-! ## A step -/

theorem endCycle_canonical {s : State} (h : s.mem.wf = true) : (endCycle s).Canonical := by
  unfold endCycle
  extract_lets s1 x s2
  have hs2 : s2.mem.wf = true := by
    have hs1 : s1.mem.wf = true := foldl_wf (fun t e ht => by split <;> simp [ht]) _ h
    simpa [s2, x] using hs1
  split
  · exact exec_canonical .globalTick hs2
  · exact (canonical_next _).2 hs2

theorem ownTurn_canonical {s : State} (h : s.mem.wf = true) : (ownTurn s).Canonical := by
  unfold ownTurn
  split
  · intro t ht
    cases ht
  · exact (canonical_next s).2 h
  · split
    next hdue => exact dueMove_canonical h hdue
    next =>
      split
      · exact coreTurn_canonical h
      · exact endCycle_canonical h

theorem step_canonical {s : State} (h : s.mem.wf = true) : Out.Canonical (step s) := by
  unfold step
  split
  · split
    · exact exec_canonical _ h
    · exact (canonical_next _).2 h
  · exact issueTurn_canonical h
  · exact (canonical_next _).2 h
  · exact ownTurn_canonical h

/-- Settles O57: every operation, every turn of a core and every move of the machine's own keeps memory canonical. -/
theorem everyStepKeepsMemoryCanonical : Obligations.EveryStepKeepsMemoryCanonical := fun _ t h => step_canonical h t

end Sys2Proof.Machine

/-! # O11: loads write their register or go to memory

A load of R139 is `loadOp` of its row (`exec_loadForm`). At its place it takes the bytes of its own queued stores, of the
scratchpad or of the data cache, and is a fill from anywhere else. -/

namespace Sys2Proof.Machine
open Sys2Proof.Claims

/-! ## Pointers and their checks (R29, R30, R135) -/

/-- A displaced pointer, as the statements write it. -/
theorem dispPtr_eq_pointer (p : Pre) (l : Line) (a b : BitVec 3) (n : Nat) :
    dispPtr p (l.reg a) b n = pointer p l a b n := by
  rw [dispPtr, pointer, BitVec.ofInt_add, ofInt_toNat]

/-- A place that an aligned access of `n` bytes reaches on chip is a multiple of `n`. -/
theorem aligned_of_reaches {s : State} {sl : Slot} {q : Word} {n : Nat} {need : Need} {acc : Access} {g : Seg} {loc : Loc}
    {priv : Bool} (h : Reaches s sl q n need acc g loc priv) (hchip : ∀ v gpa, loc ≠ .paged v gpa) :
      loc.pos % n = 0 := by
  have hreach := h.there
  unfold State.reach at hreach
  dsimp only at hreach
  split at hreach
  · cases hreach
  next hcheck =>
    cases hreach
    unfold State.segCheck at hcheck
    dsimp only at hcheck
    split_ifs at hcheck with _ _ _ _ halign
    obtain ⟨-, hsite⟩ := Prod.mk.inj (Except.ok.inj hcheck)
    rw [hsite] at halign
    simp only [Site.aligned, Bool.true_and, Bool.or_eq_true, not_or, Bool.not_eq_true', decide_eq_false_iff_not,
      not_not] at halign
    exact halign.2
  · split at hreach
    · cases hreach
      exact absurd rfl (hchip _ _)
    · cases hreach
    · cases hreach

/-! ## Bytes within a word (R5) -/

theorem Memory.read_add (m : Memory) (k a b : Nat) : m.read k (a + b) = m.read k a + 256 ^ a * m.read (k + a) b := by
  induction a generalizing k with
  | zero => simp [Memory.read]
  | succ a ih =>
    rw [Nat.add_right_comm, Memory.read, ih, Memory.read, pow_succ, show k + 1 + a = k + (a + 1) by omega]
    ring

theorem Memory.read_lt (m : Memory) (k n : Nat) : m.read k n < 256 ^ n := by
  induction n generalizing k with
  | zero => simp [Memory.read]
  | succ n ih =>
    have hb : (m.get k).toNat < 256 := (m.get k).isLt
    have := ih (k + 1)
    rw [Memory.read, pow_succ']
    omega

/-- Bytes of a word of memory are those bytes of memory. -/
theorem Memory.bytes_word (m : Memory) (k n : Nat) (h : k % 8 + n ≤ 8) : (m.word k).bytes (k % 8) n = m.read k n := by
  obtain ⟨r, hr⟩ := Nat.exists_eq_add_of_le h
  have hpow (i : Nat) : 2 ^ (8 * i) = 256 ^ i := pow_mul 2 8 i
  have hword : (m.word k).data.toNat = m.read (k / 8 * 8) 8 := by
    rw [Memory.word, BitVec.toNat_ofNat]
    exact Nat.mod_eq_of_lt (m.read_lt _ 8)
  have hsplit : m.read (k / 8 * 8) 8 = m.read (k / 8 * 8) (k % 8)
      + 256 ^ (k % 8) * (m.read k n + 256 ^ n * m.read (k + n) r) := by
    have hread := m.read_add (k / 8 * 8) (k % 8) (n + r)
    rwa [← Nat.add_assoc, ← hr, show k / 8 * 8 + k % 8 = k by omega, m.read_add k n r] at hread
  rw [Word8.bytes, hword, hsplit, hpow, hpow, Nat.add_mul_div_left _ _ (by positivity),
    Nat.div_eq_of_lt (m.read_lt _ _), Nat.zero_add, Nat.add_mul_mod_self_left, Nat.mod_eq_of_lt (m.read_lt _ _)]

theorem add_le_of_dvd_eight {k n : Nat} (hn : n ∈ [1, 2, 4, 8]) (h : k % n = 0) : k % 8 + n ≤ 8 := by
  simp only [List.mem_cons, List.not_mem_nil, or_false] at hn
  obtain rfl | rfl | rfl | rfl := hn <;> omega

/-! ## Loads -/

/-- A load's register value, as the statements write it. -/
theorem loaded_eq_extended (v n : Nat) (sg : Bool) : loaded v n sg = BitVec.ofInt 64 (extended n sg v) := by
  unfold loaded sext64 extended
  cases sg with
  | false => simp
  | true =>
    by_cases h : v < 2 ^ (8 * n - 1)
    · simp [h, Nat.not_le.2 h]
    · simp [h, Nat.not_lt.1 h]

theorem exec_loadForm {i : Instr} {p : Pre} {d a b : BitVec 3} {n : Nat} {sg : Bool}
    (h : loadForm i = some (p, d, a, b, n, sg)) (s : State) :
    exec i s = loadOp s i p d a b n sg ∧ n ∈ [1, 2, 4, 8] := by
  unfold loadForm at h
  split at h
  case h_8 => cases h
  all_goals
    cases h
    exact ⟨rfl, by decide⟩

section
variable {s : State} {sl : Slot} {p : Pre} {i : Instr} {d : BitVec 3} {q : Word} {n : Nat} {sg : Bool}
  {hints : Bool × Bool × Bool} {g : Seg} {loc : Loc} {priv : Bool}

theorem loadDone_after (hr : Ready s sl p) (t : State) (v : Nat) :
    loadDone t sl i d v n sg = .next (after t sl i (sl.line.setReg d (BitVec.ofInt 64 (extended n sg v))) 10) := by
  rw [loadDone, loaded_eq_extended]
  exact complete_after hr t i latL rfl

theorem loadAt_forwarded (hr : Ready s sl p) {x : Nat} (hf : s.forward s.run.1 sl.who loc n = .value x) :
    loadAt s sl i d q n sg hints g loc priv
      = .next (after s sl i (sl.line.setReg d (BitVec.ofInt 64 (extended n sg x))) 10) := by
  unfold loadAt
  simp only [hf]
  exact loadDone_after hr s x

theorem loadAt_scratch (hr : Ready s sl p) {c pos : Nat} (hn : n ∈ [1, 2, 4, 8]) (hpos : pos % n = 0)
    (hf : s.forward s.run.1 sl.who (.scratch c pos) n = .none)
    (hmay : s.mayPerform s.run.1 sl.who (.scratch c pos) n none = true)
    (hpoison : s.mem.poisoned (scratchKey c pos) = false) :
    loadAt s sl i d q n sg hints g (.scratch c pos) priv
      = .next (after s sl i (sl.line.setReg d (BitVec.ofInt 64 (extended n sg (s.mem.read (scratchKey c pos) n)))) 10) := by
  have hoff : pos % 8 = scratchKey c pos % 8 := by
    unfold scratchKey
    omega
  have hfit := add_le_of_dvd_eight hn hpos
  have hread : s.readBytes (.scratch c pos) n sl.secure = .ok (s.mem.read (scratchKey c pos) n, false) := by
    rw [hoff] at hfit
    rw [State.readBytes, State.word, Loc.off, hoff]
    dsimp only
    rw [Memory.bytes_word _ _ _ hfit, Memory.word, hpoison]
  rw [loadAt, hf]
  simp only [hmay, hread, Bool.not_true, Bool.false_eq_true, if_false]
  exact loadDone_after hr s _

theorem loadAt_cached (hr : Ready s sl p) {v gpa x : Nat} (hf : s.forward s.run.1 sl.who (.paged v gpa) n = .none)
    (hhit : s.cacheHit s.run.1 (.paged v gpa) n = some x)
    (hmay : s.mayPerform s.run.1 sl.who (.paged v gpa) n none = true)
    (hworld : hostHalf gpa = true ∨ s.lineView v (gpa / 64) false sl.secure ≠ .error .world) :
    loadAt s sl i d q n sg hints g (.paged v gpa) priv
      = .next (after (s.touchCopy s.run.1 v (gpa / 64)) sl i
          (sl.line.setReg d (BitVec.ofInt 64 (extended n sg x))) 10) := by
  rw [loadAt, hf]
  simp only [hhit, hmay, Bool.not_true, Bool.false_eq_true, if_false]
  split
  next heq =>
    obtain hhost | hview := hworld
    · rw [if_pos hhost] at heq
      cases heq
    · split_ifs at heq
      cases hv : s.lineView v (gpa / 64) false sl.secure with
      | error e =>
        rw [hv] at heq hview
        cases heq
        exact absurd rfl hview
      | ok l =>
        rw [hv] at heq
        cases heq
  next => exact loadDone_after hr _ _

/-- From anywhere else a load goes to memory. -/
theorem loadAt_missed (hf : s.forward s.run.1 sl.who loc n = .none) (hscratch : ∀ c pos, loc ≠ .scratch c pos)
    (hhit : s.cacheHit s.run.1 loc n = none) :
    loadAt s sl i d q n sg hints g loc priv = issueFill s sl i d q g loc n sg priv hints := by
  unfold loadAt
  simp only [hf]
  cases loc with
  | scratch c pos => exact absurd rfl (hscratch c pos)
  | cluster k pos => rfl
  | paged v gpa => simp only [hhit]

theorem issueFill_next : ∃ t f, issueFill s sl i d q g loc n sg priv hints = .next t ∧ t.fills = s.fills ++ [f]
    ∧ f.who = sl.who ∧ f.core = s.run.1 ∧ f.reg = d ∧ f.loc = loc ∧ f.n = n ∧ f.signed = sg ∧ f.q = q
      ∧ t.mem = s.mem
    ∧ t.cur? = some { sl with
        line := { sl.line.fire i with
          wt := .fill, wtArg := BitVec.ofNat 28 (d.toNat + 8 * ((s.vf sl.line.vfid.toNat).gen.toNat % 256)) }
        readyAt := s.coreCycle s.run.1 + 10
        held := none } := by
  unfold issueFill
  extract_lets v tag linear f fired line s1
  have hcount : s1.fills = s.fills ∧ s1.mem = s.mem := by
    cases loc with
    | scratch | cluster => exact ⟨rfl, rfl⟩
    | paged v' gpa =>
      obtain ⟨l, hl⟩ := s.count_eq v 0x30 1
      have hs1 : s1 = s.count v 0x30 1 := rfl
      rw [hs1, hl]
      exact ⟨rfl, rfl⟩
  obtain ⟨hfills, hmem⟩ := hcount
  refine ⟨_, f, rfl, ?_, rfl, rfl, rfl, rfl, rfl, rfl, rfl, ?_, ?_⟩
  · rw [← hfills]
    rfl
  · rw [← hmem]
    exact State.putCur_mem ..
  · rw [State.cur_putCur]
    simp only [line, fillArg, tag, BitVec.toNat_setWidth]
    rfl

end

/-- Settles O11: the place's four cases, own stores first. -/
theorem loadsWriteTheirRegisterOrFill : Obligations.LoadsWriteTheirRegisterOrFill := by
  intro i p d a b n sg s sl g loc priv hform hr hreach
  obtain ⟨hexec, hn⟩ := exec_loadForm hform s
  have hload : exec i s = loadAt s sl i d (pointer p sl.line a b n) n sg (preHints p) g loc priv := by
    rw [hexec, loadOp, guarded_ready hr]
    dsimp only
    rw [dispPtr_eq_pointer, access_reaches hreach]
  rw [hload]
  refine ⟨fun x hf => loadAt_forwarded hr hf, ?_, ?_, fun hf hscratch hhit => ?_⟩
  · rintro c pos rfl hf hmay hpoison
    exact loadAt_scratch hr hn (aligned_of_reaches hreach fun _ _ => Loc.noConfusion) hf hmay hpoison
  · rintro v gpa x rfl hf hhit hmay hworld
    exact loadAt_cached hr hf hhit hmay hworld
  · rw [loadAt_missed hf hscratch hhit]
    exact issueFill_next

end Sys2Proof.Machine

/-! # O12: posted forms take a queue entry

A posted form of R136 passes its access, its refusals (R143) and, for a homed word, its home (R155), and then takes the next
entry of its core's store queue (`exec_postForm`). -/

namespace Sys2Proof.Machine
open Sys2Proof.Claims

/-! ## Accesses of the synchronising operations (R143, R155) -/

section
variable {s : State} {sl : Slot} {q : Word} {n : Nat} {need : Need} {acc : Access} {g : Seg} {loc : Loc} {priv : Bool}

/-- An access that reaches a place which the operation may use goes on there. -/
theorem syncAccess_reaches (h : Reaches s sl q n need acc g loc priv) (i : Instr) {r : Refuses}
    (hr : r.cause? g loc = none) (k : Seg → Loc → Bool → Out) : syncAccess s sl i q n need acc r k = k g loc priv := by
  rw [syncAccess, access_reaches h, hr]

/-- So does one of a homed word that is at home. -/
theorem homedAccess_reaches (h : Reaches s sl q n need acc g loc priv) (i : Instr) {r : Refuses}
    (hr : r.cause? g loc = none) (hhome : AtHome s sl true g q) (k : Seg → Loc → Bool → Out) :
    homedAccess s sl i q n need acc r k = k g loc priv := by
  rw [homedAccess, syncAccess_reaches h i hr]
  split
  next htype hcore =>
    have hcur := hhome rfl htype
    rw [hcore] at hcur
    rw [if_pos (Option.some.inj hcur)]
  next => rfl

theorem Refuses.host_cause {cause : BitVec 16} (h : loc.host = false) : (Refuses.host cause).cause? g loc = none := by
  rw [Refuses.cause?, h, if_neg Bool.false_ne_true]

theorem Refuses.hostAndCapacity_cause {cause : BitVec 16} (h : loc.host = false) (hg : g.type ≠ .capacity) :
    (Refuses.hostAndCapacity cause).cause? g loc = none := by
  rw [Refuses.cause?, h, if_neg (by simpa using hg)]

/-! ## The queue entry -/

theorem preRelease_eq (p : Pre) : preRelease p = match p.order with
    | none => none
    | some o => if o.ord = 2 ∨ o.ord = 3 then some o.scope else none := by
  unfold preRelease
  cases p.order with
  | none => rfl
  | some o =>
    have hord : (decide (o.ord = ordRelease) || decide (o.ord = ordAcqRel)) = true ↔ o.ord = 2 ∨ o.ord = 3 :=
      Bool.or_eq_true_iff.trans (or_congr decide_eq_true_iff decide_eq_true_iff)
    exact if_congr hord rfl rfl

/-- What O12 says of the entry that a posted form takes. -/
def Describes (s : State) (sl : Slot) (f : PostForm) (g : Seg) (loc : Loc) (priv : Bool) (e : Posted) : Prop :=
  e.who = sl.who ∧ e.vf = sl.line.vfid.toNat ∧ e.loc = loc ∧ e.n = f.n ∧ e.data = BitVec.ofNat 64 f.data ∧
  e.post = f.post ∧ e.secure = sl.line.world ∧ e.priv = priv ∧ e.age = s.posted ∧
  (f.home = true → e.release = some (homeScope g.type)) ∧
  (f.home = false → e.release = match f.pre.order with
    | none => none
    | some o => if o.ord = 2 ∨ o.ord = 3 then some o.scope else none)

theorem storeOp_posts {p : Pre} {d a b : BitVec 3} (hr : Ready s sl p) (i : Instr)
    (hreach : Reaches s sl (pointer p sl.line a b n) n needStore .write g loc priv) :
    storeOp s i p d a b n = post s sl i (Posted.mk sl.who sl.line.vfid.toNat loc n
      (BitVec.ofNat 64 ((sl.line.reg d).toNat % 2 ^ (8 * n))) .store (preRelease p) (adaptiveStore s.run.1 g loc) g.type
      (preHints p).1 (preHints p).2.1 (preHints p).2.2 priv sl.secure none 0) := by
  rw [storeOp, guarded_ready hr]
  dsimp only
  rw [dispPtr_eq_pointer, access_reaches hreach]

theorem fePost_posts {p : Pre} {a b : BitVec 3} {what : Post} {data : Line → Word} (hr : Ready s sl p) (i : Instr)
    (hreach : Reaches s sl (pointer p sl.line a b 8) 8 needFeWrite .feWrite g loc priv) (hhost : loc.host = false)
    (hhome : AtHome s sl true g (pointer p sl.line a b 8)) :
    fePost s i p a b what data = post s sl i (Posted.mk sl.who sl.line.vfid.toNat loc 8 (data sl.line) what
      (some (homeScope g.type)) false g.type false false false priv sl.secure none 0) := by
  rw [fePost, guarded_ready hr]
  dsimp only
  rw [dispPtr_eq_pointer, homedAccess_reaches hreach i (Refuses.host_cause hhost) hhome]

theorem syncPost_posts {p : Pre} {a : BitVec 3} {what : Post} (hr : Ready s sl p) (i : Instr)
    (hreach : Reaches s sl (sl.line.reg a) n needAtomic .atomic g loc priv) (hhost : loc.host = false) :
    syncPost s i p a n what = post s sl i (Posted.mk sl.who sl.line.vfid.toNat loc n 0 what
      (some (homeScope g.type)) false g.type false false false priv sl.secure none 0) := by
  rw [syncPost, guarded_ready hr]
  exact syncAccess_reaches hreach i (Refuses.host_cause hhost) _

theorem execRedAdd_posts {p : Pre} {ty : BitVec 2} {a b : BitVec 3} (hr : Ready s sl p)
    (hreach : Reaches s sl (sl.line.reg a) (redBytes ty) needAtomic .atomic g loc priv) (hhost : loc.host = false)
    (hcap : g.type ≠ .capacity) :
    execRedAdd p ty a b s = post s sl (.redAdd p ty a b) (Posted.mk sl.who sl.line.vfid.toNat loc (redBytes ty)
      (sl.line.reg b) (.redAdd ty sl.line.rm sl.line.fz) (preRelease p) false g.type false false false priv
      sl.secure none 0) := by
  rw [execRedAdd, guarded_ready hr]
  exact syncAccess_reaches hreach _ (Refuses.hostAndCapacity_cause hhost hcap) _

/-- A posted form posts an entry that is described but for its number. -/
theorem exec_postForm {i : Instr} {f : PostForm} (hform : postForm i sl.line = some f) (hr : Ready s sl f.pre)
    (hreach : Reaches s sl f.q f.n f.need f.acc g loc priv) (hhost : f.host ≠ none → loc.host = false)
    (hcap : f.capacity = false → g.type ≠ .capacity) (hhome : AtHome s sl f.homed g f.q) :
    ∃ e : Posted, exec i s = post s sl i e ∧ Describes s sl f g loc priv { e with age := s.posted } := by
  unfold postForm at hform
  split at hform
  -- stores release with their order field
  case h_1 | h_2 | h_3 | h_4 =>
    cases hform
    exact ⟨_, storeOp_posts hr _ hreach, rfl, rfl, rfl, rfl, rfl, rfl, rfl, rfl, rfl,
      fun h => absurd h Bool.false_ne_true, fun _ => preRelease_eq _⟩
  -- stfe, fe.set, fe.clr: releases at the home scope
  case h_5 | h_6 | h_7 =>
    cases hform
    dsimp only [exec, execStfe, execFeSet, execFeClr]
    exact ⟨_, fePost_posts hr _ hreach (hhost (Option.some_ne_none _)) hhome, rfl, rfl, rfl, rfl, by simp, rfl, rfl, rfl,
      rfl, fun _ => rfl, fun h => absurd h.symm Bool.false_ne_true⟩
  case h_8 =>
    cases hform
    dsimp only [exec]
    exact ⟨_, execRedAdd_posts hr hreach (hhost (Option.some_ne_none _)) (hcap rfl), rfl, rfl, rfl, rfl, by simp, rfl, rfl,
      rfl, rfl, fun h => absurd h Bool.false_ne_true, fun _ => preRelease_eq _⟩
  -- join.dec, bar.arrive
  case h_9 | h_10 =>
    cases hform
    exact ⟨_, syncPost_posts hr _ hreach (hhost (Option.some_ne_none _)), rfl, rfl, rfl, rfl, rfl, rfl, rfl, rfl, rfl,
      fun _ => rfl, fun h => absurd h.symm Bool.false_ne_true⟩
  case h_11 => cases hform

theorem post_full {i : Instr} {e : Posted} (h : 32 ≤ (s.core s.run.1).stores.length) : post s sl i e = .next s := by
  rw [post]
  exact if_pos (decide_eq_true h)

theorem post_room {p : Pre} (hr : Ready s sl p) {i : Instr} {e : Posted} (h : (s.core s.run.1).stores.length < 32) :
    post s sl i e = .next (after
      { s.setCore s.run.1 { s.core s.run.1 with
          stores := (s.core s.run.1).stores ++ [{ e with age := s.posted }] } with
        posted := s.posted + 1 } sl i sl.line 8) := by
  have hroom : ¬ (s.core s.run.1).storesFull = true := fun hfull =>
    absurd (of_decide_eq_true hfull) (Nat.not_le.2 h)
  rw [post]
  dsimp only
  rw [if_neg hroom]
  exact complete_after hr _ i latA rfl

end

/-- Settles O12: the entry that the form posts, in a queue of 32. -/
theorem postedFormsTakeAQueueEntry : Obligations.PostedFormsTakeAQueueEntry := by
  intro i f s sl g loc priv hform hr hreach hhost hcap hhome
  obtain ⟨e, hexec, hdesc⟩ := exec_postForm hform hr hreach hhost hcap hhome
  rw [hexec]
  exact ⟨fun hroom => ⟨_, post_room hr hroom, hdesc⟩, post_full⟩

end Sys2Proof.Machine

/-! # O13: probes test and change their word

A probe that may be performed tests its word in the state of its place (`probe_performs`), and then traps, completes or
waits. One lemma for each shared operation says which (`Tests`), with the row's own result. -/

namespace Sys2Proof.Machine
open Sys2Proof.Claims

/-! ## A probe at its place (R136, R265, R269) -/

section
variable {s : State} {sl : Slot} {i : Instr} {q : Word} {loc : Loc} {n : Nat}

theorem probe_performs {write : Bool} {release : Option (BitVec 3)}
    (hmay : s.mayPerform s.run.1 sl.who loc n release = true) (k : State → Out) :
    probe s sl i loc n write release k = k (probing s sl.line.vfid.toNat loc write release) := by
  unfold probe probing
  simp only [hmay, Bool.not_true, Bool.false_eq_true, if_false]
  cases loc <;> rfl

theorem probeWord_ok {write : Bool} {w : Word8} (h : s.word loc write sl.line.world = .ok w) (acc : Access)
    (k : Word8 → Out) : probeWord s sl i q loc write acc k = k w := by
  rw [probeWord, Slot.secure, h]

theorem waitOn_handler {kind : WaitKind} {arg : BitVec 28} {poll : Option Nat} (h : sl.line.handler = true) :
    waitOn s sl i q kind arg loc n poll = .next (trapped s sl i 0x0C q) := if_pos h

theorem waitOn_context {kind : WaitKind} {arg : BitVec 28} {poll : Option Nat} (h : sl.line.handler = false) :
    waitOn s sl i q kind arg loc n poll = .next ((waiting s sl kind arg).register (Waiter.mk sl.who kind loc n poll)) :=
  if_neg (by simp [h])

end

theorem waitAddr_eq_wordArg (g : Seg) (q : Word) : waitAddr g q = wordArg q g := by
  rw [waitAddr, wordArg, argWord28, ptrOff, BitVec.extractLsb'_toNat, Nat.shiftRight_zero]

/-! ## What a probe does with its word -/

/-- The outcome `o` of a probe that tested the word `w` of its place in the state `s1`, as O13 says it. -/
structure Tests (f : ProbeForm) (s1 : State) (sl : Slot) (i : Instr) (g : Seg) (loc : Loc) (w : Word8) (o : Out) :
    Prop where
  poisoned : w.poison = true → o = .next (trapped s1 sl i 0x08 f.q)
  met : ∀ l new, w.poison = false → f.result w loc.off = some (l, new) →
    o = .next (after (wrote s1 sl.line.vfid.toNat loc f.n w new f.write sl.line.world) sl i l 8)
  unmet : ∀ kind arg, w.poison = false → f.result w loc.off = none → f.wait = some (kind, arg) →
    (sl.line.handler = true → o = .next (trapped s1 sl i 0x0C f.q)) ∧
    (sl.line.handler = false →
      o = .next ((waiting s1 sl kind (arg g)).register (Waiter.mk sl.who kind loc 8
        (if kind = .addr ∧ loc.host = true then some (s1.tick + 1024) else none))))

section
variable {s : State} {sl : Slot} {i : Instr} {p : Pre} {a b d : BitVec 3} {f : ProbeForm} {g : Seg} {loc : Loc} {priv : Bool}
  {w : Word8}

/-- A probe that traps on poison, completes where `c` holds and else waits tests its word so where the form's result says
the same. -/
theorem tests_of_eq {s1 : State} {o : Out} {c : Bool} {l : Line} {new : Option Word8} {kind : WaitKind} {arg : BitVec 28}
    {poll : Option Nat} (hr : Ready s sl p) (hstep : l.step = sl.line.step)
    (ho : o = if w.poison then trapOut s1 sl i causeMemUncorr f.q
      else if c then complete (wrote s1 sl.line.vfid.toNat loc f.n w new f.write sl.line.world) { sl with line := l } i latA
      else waitOn s1 sl i f.q kind arg loc 8 poll)
    (hresult : f.result w loc.off = if c then some (l, new) else none)
    (hwait : c = false → ∀ x, f.wait = some x → x.1 = kind ∧ x.2 g = arg)
    (hpoll : poll = if kind = .addr ∧ loc.host = true then some (s1.tick + 1024) else none) :
    Tests f s1 sl i g loc w o where
  poisoned hp := by
    rw [ho, if_pos hp]
    rfl
  met l' new' hp hres := by
    rw [hresult] at hres
    split_ifs at hres with hc
    cases hres
    rw [ho, hp, if_neg Bool.false_ne_true, if_pos hc]
    exact complete_after hr _ i latA hstep
  unmet kind' arg' hp hres hw := by
    have hc : c = false := by
      rw [hresult] at hres
      simpa using hres
    obtain ⟨rfl, rfl⟩ := hwait hc _ hw
    rw [ho, hp, if_neg Bool.false_ne_true, hc, if_neg Bool.false_ne_true, ← hpoll]
    exact ⟨waitOn_handler, waitOn_context⟩

/-! ## The shared operations of the probes -/

/-- The full/empty probes (R144, R145). -/
theorem feProbe_eq {need : Need} {acc : Access} {wantFull release : Bool} {effect : Line → Word8 → Line × Option Word8}
    {rel : Option (BitVec 3)} (hrel : rel = if release then some (homeScope g.type) else none)
    (hr : Ready s sl p) (hreach : Reaches s sl (pointer p sl.line a b 8) 8 need acc g loc priv) (hhost : loc.host = false)
    (hhome : AtHome s sl true g (pointer p sl.line a b 8)) (hmay : s.mayPerform s.run.1 sl.who loc 8 rel = true)
    (hword : (probing s sl.line.vfid.toNat loc acc.writes rel).word loc acc.writes sl.line.world = .ok w)
    (hreads : (effect sl.line w).2 = none → acc.writes = false) :
    feProbe s i p a b need acc wantFull release effect
      = if w.poison then trapOut (probing s sl.line.vfid.toNat loc acc.writes rel) sl i causeMemUncorr
        (pointer p sl.line a b 8)
        else if w.full == wantFull then
          complete (wrote (probing s sl.line.vfid.toNat loc acc.writes rel) sl.line.vfid.toNat loc 8 w (effect sl.line w).2
            acc.writes sl.line.world) { sl with line := (effect sl.line w).1 } i latA
        else waitOn (probing s sl.line.vfid.toNat loc acc.writes rel) sl i (pointer p sl.line a b 8) (feKind wantFull)
          (wordArg (pointer p sl.line a b 8) g) loc 8 none := by
  rw [feProbe, guarded_ready hr]
  dsimp only
  rw [dispPtr_eq_pointer, homedAccess_reaches hreach i (Refuses.host_cause hhost) hhome, ← hrel, probe_performs hmay,
    probeWord_ok hword, waitAddr_eq_wordArg]
  refine ite_congr rfl (fun _ => rfl) fun _ => ?_
  cases hfull : w.full == wantFull with
  | false => simp only [bne, hfull, Bool.not_false, Bool.false_eq_true, if_true, if_false]
  | true =>
    simp only [bne, hfull, Bool.not_true, Bool.false_eq_true, if_true, if_false]
    cases heffect : effect sl.line w with
    | mk l new =>
      rw [heffect] at hreads
      cases new with
      | none => simp only [wrote, hreads rfl, Bool.false_eq_true, if_false]
      | some x => rfl

/-- waddr (R146). -/
theorem waddrOp_eq {want : Word → Word → Bool} (hr : Ready s sl p)
    (hreach : Reaches s sl (sl.line.reg a) 8 needWait .read g loc priv)
    (hmay : s.mayPerform s.run.1 sl.who loc 8 none = true)
    (hword : (probing s sl.line.vfid.toNat loc false none).word loc false sl.line.world = .ok w) :
    waddrOp s i p a b want
      = if w.poison then trapOut (probing s sl.line.vfid.toNat loc false none) sl i causeMemUncorr (sl.line.reg a)
        else if want w.data (sl.line.reg b) then complete (probing s sl.line.vfid.toNat loc false none) sl i latA
        else waitOn (probing s sl.line.vfid.toNat loc false none) sl i (sl.line.reg a) .addr
          (wordArg (sl.line.reg a) g) loc 8
          (if loc.host then some ((probing s sl.line.vfid.toNat loc false none).tick + 1024) else none) := by
  rw [waddrOp, guarded_ready hr]
  dsimp only
  rw [syncAccess_reaches hreach i rfl, probe_performs hmay, probeWord_ok hword, waitAddr_eq_wordArg]
  rfl

/-- join.wait (R157). -/
theorem execJoinWait_eq (hr : Ready s sl p) (hreach : Reaches s sl (sl.line.reg a) 8 needWait .atomic g loc priv)
    (hhost : loc.host = false) (hmay : s.mayPerform s.run.1 sl.who loc 8 none = true)
    (hword : (probing s sl.line.vfid.toNat loc false none).word loc false sl.line.world = .ok w) :
    execJoinWait p a s
      = if w.poison then
          trapOut (probing s sl.line.vfid.toNat loc false none) sl (.joinWait p a) causeMemUncorr (sl.line.reg a)
        else if decide (w.data = 0) then complete (probing s sl.line.vfid.toNat loc false none) sl (.joinWait p a) latA
        else waitOn (probing s sl.line.vfid.toNat loc false none) sl (.joinWait p a) (sl.line.reg a) .join 0 loc 8 none := by
  rw [execJoinWait, guarded_ready hr]
  dsimp only
  rw [syncAccess_reaches hreach _ (Refuses.host_cause hhost), probe_performs hmay, probeWord_ok hword]
  simp only [decide_eq_true_eq]

/-- The atomics (R150). -/
theorem amoOp_eq {sz : BitVec 1} {cxl : Bool} {v : (w x y z : Nat) → Option Nat}
    {rel : Option (BitVec 3)} (hr : Ready s sl p)
    (hreach : Reaches s sl (sl.line.reg a) (amoBytes sz) needAtomic .atomic g loc priv)
    (hhost : cxl = false → loc.host = false) (hhome : AtHome s sl true g (sl.line.reg a)) (hrel : rel = preRelease p)
    (hmay : s.mayPerform s.run.1 sl.who loc (amoBytes sz) rel = true)
    (hword : (probing s sl.line.vfid.toNat loc true rel).word loc true sl.line.world = .ok w) :
    amoOp s i p sz d a b cxl v
      = if w.poison then trapOut (probing s sl.line.vfid.toNat loc true rel) sl i causeMemUncorr (sl.line.reg a)
        else complete (wrote (probing s sl.line.vfid.toNat loc true rel) sl.line.vfid.toNat loc (amoBytes sz) w
          ((v (8 * amoBytes sz) (w.bytes loc.off (amoBytes sz)) ((sl.line.reg b).toNat % 2 ^ (8 * amoBytes sz))
            ((sl.line.reg d).toNat % 2 ^ (8 * amoBytes sz))).map fun x => w.withBytes loc.off (amoBytes sz) x)
          true sl.line.world)
          { sl with
            line := sl.line.setReg d (BitVec.ofInt 64 (extended (amoBytes sz) true (w.bytes loc.off (amoBytes sz)))) }
          i latA := by
  have hrefuses : (if cxl then Refuses.nothing else .host causeAtomicPath).cause? g loc = none := by
    cases cxl with
    | false => exact Refuses.host_cause (hhost rfl)
    | true => rfl
  rw [amoOp, guarded_ready hr]
  dsimp only
  rw [homedAccess_reaches hreach i hrefuses hhome, ← hrel, probe_performs hmay, probeWord_ok hword, ← loaded_eq_extended]
  refine ite_congr rfl (fun _ => rfl) fun _ => ?_
  cases v (8 * amoBytes sz) (w.bytes loc.off (amoBytes sz)) ((sl.line.reg b).toNat % 2 ^ (8 * amoBytes sz))
      ((sl.line.reg d).toNat % 2 ^ (8 * amoBytes sz)) with
  | none => rfl
  | some x => rfl

end

/-! ## The atomics' rows (R150) -/

theorem signedOf_eq {w x : Nat} (h : x < 2 ^ w) :
    signedOf w x = if x < 2 ^ (w - 1) then (x : Int) else (x : Int) - 2 ^ w := by
  rw [signedOf, IntFmt.decode]
  dsimp only
  rw [Nat.mod_eq_of_lt h, Bool.true_and]
  by_cases hx : x < 2 ^ (w - 1)
  · rw [if_pos hx, if_neg (by simpa using hx)]
  · rw [if_neg hx, if_pos (by simpa using hx)]

/-- An atomic is the shared operation with a function that is its row's on values of its width. -/
theorem exec_atomicForm {i : Instr} {p : Pre} {sz : BitVec 1} {d a b : BitVec 3} {cxl : Bool}
    {f : (w x y z : Nat) → Option Nat} (h : atomicForm i = some (p, sz, d, a, b, cxl, f)) (s : State) :
    ∃ v : (w x y z : Nat) → Option Nat, exec i s = amoOp s i p sz d a b cxl v ∧
      ∀ w x y z, x < 2 ^ w → y < 2 ^ w → v w x y z = f w x y z := by
  unfold atomicForm at h
  split at h
  case h_11 => cases h
  case h_5 | h_6 =>
    cases h
    dsimp only [exec, execAmoMin, execAmoMax]
    refine ⟨_, rfl, fun w x y z hx hy => ?_⟩
    have hcast : ((2 ^ w : Nat) : Int) = 2 ^ w := by norm_cast
    rw [signedOf_eq hx, signedOf_eq hy]
    refine congrArg some ?_
    split_ifs <;> omega
  all_goals
    cases h
    dsimp only [exec, execAmoAdd, execAmoAnd, execAmoOr, execAmoXor, execAmoMinn, execAmoMaxn, execAmoSwap, execAmoCas]
    exact ⟨_, rfl, fun _ _ _ _ _ _ => rfl⟩

/-- Settles O13: each probe is one of four shared operations, which test their word as its row says. -/
theorem probesTestAndChangeTheirWord : Obligations.ProbesTestAndChangeTheirWord := by
  intro i f s sl g loc priv w hform hr hreach hhost hhome hmay hword
  suffices Tests f (probing s sl.line.vfid.toNat loc f.write (f.release g)) sl i g loc w (exec i s) from
    ⟨this.poisoned, this.met, this.unmet⟩
  have hfe {c : BitVec 16} (h : some c ≠ none → loc.host = false) : loc.host = false := h (Option.some_ne_none c)
  unfold probeForm at hform
  split at hform
  case h_1 p d a b =>
    cases hform
    dsimp only [exec, execLdfe]
    exact tests_of_eq (c := w.full == true) (l := sl.line.setReg d w.data) hr rfl
      (feProbe_eq (rel := none) rfl hr hreach (hfe hhost) hhome hmay hword fun h => absurd h (Option.some_ne_none _))
      (by simp) (fun _ _ hx => by cases hx; exact ⟨rfl, rfl⟩) rfl
  case h_2 p d a b =>
    cases hform
    dsimp only [exec, execLdff]
    exact tests_of_eq (c := w.full == true) (l := sl.line.setReg d w.data) hr rfl
      (feProbe_eq (rel := none) rfl hr hreach (hfe hhost) hhome hmay hword fun _ => rfl)
      (by simp) (fun _ _ hx => by cases hx; exact ⟨rfl, rfl⟩) rfl
  case h_3 p d a b =>
    cases hform
    dsimp only [exec, execStef]
    exact tests_of_eq (c := w.full == false) (l := sl.line) hr rfl
      (feProbe_eq (rel := some (homeScope g.type)) rfl hr hreach (hfe hhost) hhome hmay hword
        fun h => absurd h (Option.some_ne_none _))
      (by dsimp only; cases w.full <;> rfl) (fun _ _ hx => by cases hx; exact ⟨rfl, rfl⟩) rfl
  case h_4 p a b =>
    cases hform
    dsimp only [exec, execWaddrEq]
    exact tests_of_eq (c := w.data == sl.line.reg b) (l := sl.line) (new := none) hr rfl (waddrOp_eq hr hreach hmay hword)
      (by simp) (fun _ _ hx => by cases hx; exact ⟨rfl, rfl⟩) (by simp)
  case h_5 p a b =>
    cases hform
    dsimp only [exec, execWaddrNe]
    exact tests_of_eq (c := w.data != sl.line.reg b) (l := sl.line) (new := none) hr rfl (waddrOp_eq hr hreach hmay hword)
      (by simp) (fun _ _ hx => by cases hx; exact ⟨rfl, rfl⟩) (by simp)
  case h_6 p a =>
    cases hform
    dsimp only [exec]
    exact tests_of_eq (c := decide (w.data = 0)) (l := sl.line) (new := none) hr rfl
      (execJoinWait_eq hr hreach (hfe hhost) hmay hword)
      (by simp) (fun _ _ hx => by cases hx; exact ⟨rfl, rfl⟩) rfl
  case h_7 =>
    split at hform
    · cases hform
    next p sz d a b cxl v hatomic =>
      cases hform
      obtain ⟨u, hexec, hu⟩ := exec_atomicForm hatomic s
      have hhost' (h : cxl = false) : loc.host = false := hfe (c := 0x09) fun _ => hhost (by simp [h])
      have hcut (x : Nat) : x % 2 ^ (8 * amoBytes sz) < 2 ^ (8 * amoBytes sz) := Nat.mod_lt _ (by positivity)
      rw [hexec]
      refine tests_of_eq (c := true) (l := sl.line.setReg d _) (kind := .addr) (arg := 0) hr rfl
        ((amoOp_eq hr hreach hhost' hhome (preRelease_eq p).symm hmay hword).trans ?_) rfl nofun rfl
      rw [hu _ (w.bytes loc.off (amoBytes sz)) _ _ (hcut _) (hcut _)]
      rfl

end Sys2Proof.Machine

/-! # Stores that are performed on chip (O15)

A queue entry at an on-chip place is performed in one unit: its word is put back with what R137 says, its core's queue loses
the entry, and nothing else in either changes. -/

namespace Sys2Proof.Machine
open Sys2Proof.Claims

/-! ## Reading a written word back (R5, R141, R142) -/

theorem Memory.full_of_putWord (m : Memory) (k j : Nat) (w : Word8) :
    (m.putWord k w).full j = if j / 8 = k / 8 then w.full else m.full j := by
  have hempty := m.empty_write 8 (k / 8 * 8) w.data.toNat
  by_cases hj : j / 8 = k / 8 <;> cases h : w.full <;>
    simp [Memory.full, Memory.putWord, Memory.setFull, Memory.setPoison, mem_insertNat, eraseNat, hempty, hj, h]

theorem Memory.poisoned_putWord_self (m : Memory) (k : Nat) (w : Word8) : (m.putWord k w).poisoned k = w.poison := by
  cases h : w.poison <;> simp [Memory.poisoned, Memory.putWord, Memory.setPoison, mem_insertNat, eraseNat, h]

theorem Memory.read_putWord (m : Memory) (k : Nat) (w : Word8) (hm : m.wf = true) :
    (m.putWord k w).read (k / 8 * 8) 8 = w.data.toNat :=
  (m.read_write 8 _ _ hm).trans (Nat.mod_eq_of_lt w.data.isLt)

theorem Memory.word_putWord (m : Memory) (k : Nat) (w : Word8) (hm : m.wf = true) : (m.putWord k w).word k = w := by
  rw [Memory.word, m.read_putWord k w hm, m.full_of_putWord, m.poisoned_putWord_self, if_pos rfl, BitVec.ofNat_toNat,
    BitVec.setWidth_eq]

/-- A word written back with its own data changes no byte. -/
theorem Memory.get_putWord_data (m : Memory) (k j : Nat) (w : Word8) (hm : m.wf = true) (h : w.data = (m.word k).data) :
    (m.putWord k w).get j = m.get j := by
  by_cases hj : j < k / 8 * 8 ∨ k / 8 * 8 + 8 ≤ j
  · exact m.get_putWord_outside _ _ _ hj
  · obtain ⟨i, rfl⟩ : ∃ i, j = k / 8 * 8 + i := ⟨j - k / 8 * 8, by omega⟩
    have hi : i < 8 := by omega
    rw [m.get_putWord_inside _ _ hm hi, h, m.word_byte k hi]

/-- The bytes that replaced others read back. -/
theorem Word8.bytes_withBytes (w : Word8) (off n v : Nat) (h : off + n ≤ 8) :
    (w.withBytes off n v).bytes off n = v % 2 ^ (8 * n) := by
  apply Nat.eq_of_testBit_eq
  intro i
  by_cases hi : i < 8 * n
  · have hlt : 8 * off + i < 64 := by omega
    have hmask : (BitVec.ofNat 64 ((2 ^ (8 * n) - 1) * 2 ^ (8 * off))).getLsbD (8 * off + i) = true := by
      rw [BitVec.getLsbD_ofNat, Nat.testBit_mul_two_pow, Nat.testBit_two_pow_sub_one]
      simp [hlt, hi]
    have hval : (BitVec.ofNat 64 (v % 2 ^ (8 * n) * 2 ^ (8 * off))).getLsbD (8 * off + i) = v.testBit i := by
      rw [BitVec.getLsbD_ofNat, Nat.testBit_mul_two_pow, Nat.testBit_mod_two_pow]
      simp [hlt, hi]
    rw [Word8.bytes, Word8.withBytes, Nat.testBit_mod_two_pow, Nat.testBit_div_two_pow, Nat.testBit_mod_two_pow,
      Nat.add_comm i,
      BitVec.testBit_toNat, BitVec.getLsbD_or, BitVec.getLsbD_and, BitVec.getLsbD_and, BitVec.getLsbD_not, hmask, hval]
    simp [hi]
  · simp [Word8.bytes, Nat.testBit_mod_two_pow, hi]

theorem Memory.read_putWord_withBytes (m : Memory) (k n v : Nat) (p : Bool) (hm : m.wf = true) (h : k % 8 + n ≤ 8) :
    (m.putWord k { (m.word k).withBytes (k % 8) n v with poison := p }).read k n = v % 2 ^ (8 * n) := by
  rw [← Memory.bytes_word _ k n h, Memory.word_putWord _ _ _ hm]
  exact Word8.bytes_withBytes (m.word k) _ _ _ h

/-! ## Effects of queue entries at on-chip places (R265) -/

/-- A map over a table that keeps the keys and a field of each value keeps that field of every entry. -/
theorem Tab.get_map_field {α β : Type} (t : Tab α) (f : Nat × α → Nat × α) (field : α → β)
    (hkey : ∀ e, (f e).1 = e.1)
    (hfield : ∀ e, field (f e).2 = field e.2) (k : Nat) (d : α) :
    field (Tab.get (t.map f) k d) = field (Tab.get t k d) := by
  induction t with
  | nil => rfl
  | cons e t ih =>
    rw [List.map_cons, Tab.get, Tab.get, hkey]
    split_ifs
    · exact hfield e
    · exact ih

theorem State.phaseEnded_stores (s : State) (v : Nat) (loc : Loc) (c : Nat) :
    ((s.phaseEnded v loc).core c).stores = (s.core c).stores := by
  refine Tab.get_map_field s.cores _ Core.stores (fun e => ?_) (fun e => ?_) c Core.reset <;> split_ifs <;> rfl

section
variable {s : State} {loc : Loc} {q : Nat} (hq : chipKey loc = some q)
include hq

theorem State.ordinaryData_of_chipKey (old new : Word) : s.ordinaryData loc old new = some new := by
  cases loc <;> simp only [chipKey, reduceCtorEq] at hq <;> rfl

theorem State.ordinaryWord_of_chipKey (v n : Nat) (w w' : Word8) (secure : Bool) (must : Waiter → Bool) :
    s.ordinaryWord v loc n w w' secure must = ({ s with mem := s.mem.putWord q w' } : State).wake loc n must := by
  rw [State.ordinaryWord, State.ordinaryData_of_chipKey hq]
  exact congrArg (State.wake · loc n must) (State.putWord_of_chipKey hq ..)

theorem State.ordinary_of_chipKey (v n : Nat) (w w' : Word8) (secure : Bool) :
    (s.ordinary v loc n w w' secure).mem = s.mem.putWord q w' ∧ (s.ordinary v loc n w w' secure).cores = s.cores := by
  rw [State.ordinary, State.ordinaryWord_of_chipKey hq]
  exact ⟨State.wake_mem .., State.wake_cores ..⟩

theorem State.performWord_of_chipKey (n : Nat) (w w' : Word8) (secure : Bool) :
    (s.performWord loc n w w' secure).mem = s.mem.putWord q w' ∧ (s.performWord loc n w w' secure).cores = s.cores := by
  rw [State.performWord, State.putWord_of_chipKey hq]
  exact ⟨State.wake_mem .., State.wake_cores ..⟩

theorem State.storeBytes_cores (v n val : Nat) (secure : Bool) : (s.storeBytes v loc n val secure).cores = s.cores := by
  rw [State.storeBytes, State.word_of_chipKey hq]
  dsimp only
  split_ifs
  · exact State.countErr_cores ..
  · exact State.countErr_cores ..
  · exact (State.performWord_of_chipKey hq ..).2

theorem State.storeBytes_mem (v n val : Nat) (secure : Bool) (h : s.mem.poisoned q = false) :
    (s.storeBytes v loc n val secure).mem =
      s.mem.putWord q { (s.mem.word q).withBytes (q % 8) n val with poison := false } := by
  rw [State.storeBytes, State.word_of_chipKey hq]
  dsimp only
  rw [Loc.host_of_chipKey hq, Loc.off_eq_of_chipKey hq, if_neg (by simp), if_neg (by simp [Memory.word, h])]
  exact (State.performWord_of_chipKey hq ..).1

theorem State.joinDec_cores (v : Nat) (secure : Bool) : ∃ t, s.joinDec v loc secure = .ok t ∧ t.cores = s.cores := by
  rw [State.joinDec, State.word_of_chipKey hq]
  dsimp only
  split_ifs
  · exact ⟨_, rfl, State.countErr_cores ..⟩
  · exact ⟨_, rfl, rfl⟩
  · exact ⟨_, rfl, by rw [State.ordinaryWord_of_chipKey hq, State.wake_cores]⟩

theorem State.arrive_cores (v : Nat) (secure : Bool) : ∃ r, s.arrive v loc secure = .ok r ∧ r.1.cores = s.cores := by
  rw [State.arrive, State.word_of_chipKey hq, State.word_of_chipKey (chipKey_plus hq 8)]
  dsimp only
  split_ifs
  · exact ⟨_, rfl, State.countErr_cores ..⟩
  · rw [State.ordinaryData_of_chipKey hq, State.ordinaryData_of_chipKey (chipKey_plus hq 8)]
    dsimp only
    rw [State.putWord_of_chipKey hq, State.putWord_of_chipKey (chipKey_plus hq 8)]
    exact ⟨_, rfl, State.wake_cores ..⟩

theorem State.arrival_stores (v : Nat) (secure : Bool) :
    ∃ t, s.arrival v loc secure = .ok t ∧ ∀ c, (t.core c).stores = (s.core c).stores := by
  obtain ⟨⟨s1, ended⟩, hr, hcores⟩ := s.arrive_cores hq v secure
  have hsame (c : Nat) : s1.core c = s.core c := congrArg (Tab.get · c Core.reset) hcores
  rw [State.arrival, hr]
  refine ⟨_, rfl, fun c => ?_⟩
  split_ifs
  · rw [State.phaseEnded_stores, hsame]
  · rw [hsame]

theorem State.setBit_of_chipKey (v : Nat) (f secure : Bool) :
    ∃ t, s.setBit v loc f secure = .ok t ∧ t.cores = s.cores ∧
      t.mem = s.mem.putWord q { s.mem.word q with full := f } := by
  rw [State.setBit, State.word_of_chipKey hq]
  obtain ⟨hmem, hcores⟩ := State.ordinary_of_chipKey hq v 8 (s.mem.word q) { s.mem.word q with full := f } secure
  exact ⟨_, rfl, hcores, hmem⟩

end

theorem State.contribute_cores (s : State) (lc : Nat) (loc : Loc) (ty : BitVec 2) (rm : BitVec 3) (fz : Bool) (y : Word) :
    (s.contribute lc loc ty rm fz y).cores = s.cores := by
  rw [State.contribute]
  dsimp only
  split_ifs <;> rfl

/-- What an entry at an on-chip place does to memory: R137's rows of store, stfe, fe.set and fe.clr. -/
def Posted.writesChip (e : Posted) (q : Nat) (m m' : Memory) : Prop :=
  match e.post with
  | .store => m' = m.putWord q { (m.word q).withBytes (q % 8) e.n e.data.toNat with poison := false }
  | .stfe => m' = m.putWord q (Word8.mk e.data true false)
  | .feSet => m' = m.putWord q { m.word q with full := true }
  | .feClr => m' = m.putWord q { m.word q with full := false }
  | _ => True

section
variable {s : State} {e : Posted} {q : Nat} (hq : chipKey e.loc = some q)
include hq

theorem State.performStore_of_chipKey (c : Nat) :
    s.performStore c e = .ok (s.storeBytes e.vf e.loc e.n e.data.toNat e.secure) := by
  rw [State.performStore]
  split
  case h_1 hloc => simp [hloc, chipKey] at hq
  case h_2 =>
    rw [State.storeAt]
    split
    case h_1 hloc => simp [hloc, chipKey] at hq
    case h_2 => rfl

theorem State.touchPosted_of_chipKey : s.touchPosted e = s := by
  rw [State.touchPosted]
  cases h : e.loc <;> simp only [h, chipKey, reduceCtorEq] at hq <;> split <;> simp_all

theorem State.performEffect_of_chipKey (c : Nat) (hp : s.mem.poisoned q = false) :
    ∃ t, s.performEffect c e = .ok t ∧ (∀ c, (t.core c).stores = (s.core c).stores) ∧
      e.writesChip q s.mem t.mem := by
  have hstores {t : State} (h : t.cores = s.cores) (c : Nat) : (t.core c).stores = (s.core c).stores := by
    rw [State.core, State.core, h]
  unfold State.performEffect Posted.writesChip
  cases e.post <;> dsimp only
  case store =>
    exact ⟨_, State.performStore_of_chipKey hq c, hstores (s.storeBytes_cores hq ..), State.storeBytes_mem hq _ _ _ _ hp⟩
  case stfe =>
    rw [State.word_of_chipKey hq]
    obtain ⟨hmem, hcores⟩ := State.ordinary_of_chipKey hq e.vf 8 (s.mem.word q) (Word8.mk e.data true false) e.secure
    exact ⟨_, rfl, hstores hcores, hmem⟩
  case feSet =>
    obtain ⟨t, ht, hcores, hmem⟩ := State.setBit_of_chipKey (s := s) hq e.vf true e.secure
    exact ⟨t, ht, hstores hcores, hmem⟩
  case feClr =>
    obtain ⟨t, ht, hcores, hmem⟩ := State.setBit_of_chipKey (s := s) hq e.vf false e.secure
    exact ⟨t, ht, hstores hcores, hmem⟩
  case redAdd =>
    rw [State.word_of_chipKey hq]
    exact ⟨_, rfl, hstores (State.contribute_cores ..), trivial⟩
  case joinDec =>
    obtain ⟨t, ht, hcores⟩ := State.joinDec_cores (s := s) hq e.vf e.secure
    exact ⟨t, ht, hstores hcores, trivial⟩
  case barArrive =>
    obtain ⟨t, ht, hstores⟩ := State.arrival_stores (s := s) hq e.vf e.secure
    exact ⟨t, ht, hstores, trivial⟩
  case walk =>
    exact ⟨_, rfl, fun _ => rfl, trivial⟩

theorem State.performPosted_of_chipKey {c k : Nat} (he : (s.core c).stores[k]? = some e)
    (hready : s.postedReady c k e = true)
    (hrel : e.release ≠ some 6) (hp : s.mem.poisoned q = false) :
    ((s.performPosted c k).core c).stores = (s.core c).stores.eraseIdx k ∧
      e.writesChip q s.mem (s.performPosted c k).mem := by
  obtain ⟨t, ht, hstores, hwrites⟩ := State.performEffect_of_chipKey hq c hp
  have hperform : s.performPosted c k = t.dropPosted c k := by
    rw [State.performPosted, he]
    dsimp only
    rw [hready, if_neg (by simp), if_neg hrel, State.touchPosted_of_chipKey hq, ht]
  rw [hperform]
  refine ⟨?_, hwrites⟩
  rw [State.dropPosted, State.core_setCore]
  exact congrArg (List.eraseIdx · k) (hstores c)

end

section
variable {e : Posted} {q : Nat} {m m' : Memory} (hw : e.writesChip q m m') (hm : m.wf = true)
include hw hm

theorem Posted.store_reads_back (he : e.post = .store) (hn : e.n ∈ [1, 2, 4, 8]) (hq : q % e.n = 0) :
    m'.read q e.n = e.data.toNat % 2 ^ (8 * e.n) ∧ (∀ j, j < q ∨ q + e.n ≤ j → m'.get j = m.get j) ∧
      ∀ j, m'.full j = m.full j := by
  simp only [Posted.writesChip, he] at hw
  subst hw
  exact ⟨m.read_putWord_withBytes _ _ _ _ hm (add_le_of_dvd_eight hn hq),
    fun j hj => m.get_putWord_withBytes _ _ _ _ _ hm hj, fun j => m.full_putWord _ _ _ rfl⟩

theorem Posted.stfe_reads_back (he : e.post = .stfe) (hq : q % 8 = 0) :
    m'.read q 8 = e.data.toNat ∧ m'.full q = true ∧
      ∀ j, j < q ∨ q + 8 ≤ j → m'.get j = m.get j ∧ m'.full j = m.full j := by
  simp only [Posted.writesChip, he] at hw
  subst hw
  have hread := m.read_putWord q (Word8.mk e.data true false) hm
  rw [show q / 8 * 8 = q by omega] at hread
  refine ⟨hread, by rw [m.full_of_putWord, if_pos rfl], fun j hj => ⟨m.get_putWord_outside _ _ _ (by omega), ?_⟩⟩
  rw [m.full_of_putWord, if_neg (by omega)]

theorem Posted.feBit_reads_back (he : e.post = .feSet ∨ e.post = .feClr) (hq : q % 8 = 0) :
    m'.full q = decide (e.post = .feSet) ∧ (∀ j, m'.get j = m.get j) ∧
      ∀ j, j < q ∨ q + 8 ≤ j → m'.full j = m.full j := by
  obtain ⟨f, hf, rfl⟩ : ∃ f, decide (e.post = .feSet) = f ∧ m' = m.putWord q { m.word q with full := f } := by
    obtain he | he := he <;> simp only [Posted.writesChip, he] at hw
    · exact ⟨true, by rw [he]; rfl, hw⟩
    · exact ⟨false, by rw [he]; rfl, hw⟩
  refine ⟨by rw [m.full_of_putWord, if_pos rfl, hf], fun j => m.get_putWord_data _ _ _ hm rfl, fun j hj => ?_⟩
  rw [m.full_of_putWord, if_neg (by omega)]

end

/-- A word performed at an on-chip place reads back, and no byte outside it changes. -/
theorem State.word_putWord_of_chipKey (s : State) {loc : Loc} {key : Nat} (w : Word8) (secure : Bool) (hm : s.mem.wf = true)
    (hkey : chipKey loc = some key) (h8 : key % 8 = 0) :
    (s.putWord loc w secure).word loc false secure = .ok w ∧
      ∀ j, j < key ∨ key + 8 ≤ j → (s.putWord loc w secure).mem.get j = s.mem.get j := by
  rw [State.putWord_of_chipKey hkey, State.word_of_chipKey hkey]
  exact ⟨congrArg _ (s.mem.word_putWord _ _ hm), fun j hj => s.mem.get_putWord_outside _ _ _ (by omega)⟩

end Sys2Proof.Machine

/-! # Masks of words and merged lines, bit by bit (R355, R358) -/

namespace Sys2Proof.Machine
open Sys2Proof.Claims

/-! ## Bits of masks and merged lines (R355, R358) -/

/-- A bit of a fold that adds masks by `|||` is set where a mask that was added has it. -/
theorem getLsbD_foldl_or {α : Type} {w : Nat} (l : List α) (p : α → Bool) (f : α → BitVec w)
    (a : BitVec w) (b : Nat) :
    (l.foldl (fun acc i => if p i then acc ||| f i else acc) a).getLsbD b =
      (a.getLsbD b || l.any fun i => p i && (f i).getLsbD b) := by
  induction l generalizing a with
  | nil => simp
  | cons i l ih =>
    rw [List.foldl_cons, ih, List.any_cons]
    cases p i <;> simp [Bool.or_assoc]

theorem getLsbD_foldl_or_zero {α : Type} {w : Nat} (l : List α) (p : α → Bool) (f : α → BitVec w) (b : Nat) :
    (l.foldl (fun acc i => if p i then acc ||| f i else acc) 0).getLsbD b = l.any fun i => p i && (f i).getLsbD b := by
  rw [getLsbD_foldl_or]
  simp

/-- The number whose bit `i` below `n` is `p i`. -/
theorem testBit_foldl_add (p : Nat → Bool) (n j : Nat) :
    ((List.range n).foldl (fun acc i => if p i then acc + 2 ^ i else acc) 0).testBit j = (decide (j < n) && p j) ∧
      (List.range n).foldl (fun acc i => if p i then acc + 2 ^ i else acc) 0 < 2 ^ n := by
  induction n generalizing j with
  | zero => simp
  | succ n ih =>
    obtain ⟨hbit, hlt⟩ := ih j
    rw [List.range_succ, List.foldl_append, List.foldl_cons, List.foldl_nil]
    generalize (List.range n).foldl (fun acc i => if p i then acc + 2 ^ i else acc) 0 = x at hbit hlt
    have hpow : 2 ^ (n + 1) = 2 ^ n + 2 ^ n := by omega
    cases hp : p n with
    | false =>
      refine ⟨?_, by simp only [Bool.false_eq_true, if_false]; omega⟩
      rcases Nat.lt_trichotomy j n with hj | rfl | hj
      · simp [hbit, hj, Nat.lt_succ_of_lt hj]
      · simp [hbit, hp]
      · simp [hbit, show ¬ j < n by omega, show ¬ j < n + 1 by omega]
    | true =>
      refine ⟨?_, by simp only [if_true]; omega⟩
      have hadd := Nat.testBit_two_pow_mul_add 1 hlt j
      rw [Nat.mul_one] at hadd
      rw [if_pos rfl, Nat.add_comm, hadd, hbit]
      rcases Nat.lt_trichotomy j n with hj | rfl | hj
      · simp [hj, Nat.lt_succ_of_lt hj]
      · simp [hp]
      · have hone : Nat.testBit 1 (j - n) = false := Nat.testBit_lt_two_pow (Nat.one_lt_two_pow (by omega))
        simp [show ¬ j < n by omega, show ¬ j < n + 1 by omega, hone]

theorem wordMask_getLsbD (m : BitVec 16) (b : Nat) : (wordMask m).getLsbD b = (decide (b < 512) && m.getLsbD (b / 32)) := by
  have hword (i : Nat) : (BitVec.ofNat 512 (0xFFFFFFFF * 2 ^ (32 * i))).getLsbD b =
    (decide (b < 512) && decide (b / 32 = i)) := by
    rw [BitVec.getLsbD_ofNat, Nat.testBit_mul_two_pow, show (0xFFFFFFFF : Nat) = 2 ^ 32 - 1 from rfl,
      Nat.testBit_two_pow_sub_one]
    rw [Bool.eq_iff_iff]
    simp only [Bool.and_eq_true, decide_eq_true_eq]
    omega
  rw [wordMask, getLsbD_foldl_or_zero, Bool.eq_iff_iff]
  simp only [hword, List.any_eq_true, List.mem_range, Bool.and_eq_true, decide_eq_true_eq]
  constructor
  · rintro ⟨i, _, hi, hb, rfl⟩
    exact ⟨hb, hi⟩
  · rintro ⟨hb, hm⟩
    exact ⟨b / 32, by omega, hm, hb, rfl⟩

theorem mergeWords_getLsbD (dst src : BitVec 512) (m : BitVec 16) {b : Nat} (hb : b < 512) :
    (mergeWords dst src m).getLsbD b = if m.getLsbD (b / 32) then src.getLsbD b else dst.getLsbD b := by
  rw [mergeWords, BitVec.getLsbD_or, BitVec.getLsbD_and, BitVec.getLsbD_and, BitVec.getLsbD_not, wordMask_getLsbD]
  cases m.getLsbD (b / 32) <;> simp [hb]

theorem getLsbD_one_shiftLeft (i : Nat) {j : Nat} (hj : j < 16) : (1#16 <<< i).getLsbD j = decide (i = j) := by
  rw [Bool.eq_iff_iff]
  simp only [BitVec.getLsbD_shiftLeft, BitVec.getLsbD_one, Bool.and_eq_true, decide_eq_true_eq, Bool.not_eq_true',
    decide_eq_false_iff_not]
  omega

theorem wordsTouched_getLsbD (off n : Nat) {j : Nat} (hj : j < 16) :
    (wordsTouched off n).getLsbD j = (decide (off < 4 * j + 4) && decide (4 * j < off + n)) := by
  rw [wordsTouched, getLsbD_foldl_or_zero, Bool.eq_iff_iff]
  simp only [getLsbD_one_shiftLeft _ hj, List.any_eq_true, List.mem_range, Bool.and_eq_true, decide_eq_true_eq]
  constructor
  · rintro ⟨i, _, hi, rfl⟩
    exact hi
  · exact fun h => ⟨j, hj, h, rfl⟩

theorem unpoison_getLsbD (p : BitVec 8) (m : BitVec 16) {i : Nat} (hi : i < 8) :
    (unpoison p m).getLsbD i = (p.getLsbD i && !(m.getLsbD (2 * i) && m.getLsbD (2 * i + 1))) := by
  rw [unpoison, BitVec.getLsbD_ofNat, (testBit_foldl_add (fun i => p.getLsbD i && _) 8 i).1]
  simp [hi]

theorem setBit8_getLsbD_self (b : BitVec 8) (v : Bool) {i : Nat} (hi : i < 8) : (setBit8 b i v).getLsbD i = v := by
  cases v <;> simp [setBit8, hi]

theorem LlcLine.word_putWord (l : LlcLine) (gpa : Nat) (w : Word8) :
    (l.putWord gpa w).word (l.putWord gpa w).data gpa = w := by
  have hi : wordIx gpa < 8 := by unfold wordIx; omega
  have hdata : (l.putWord gpa w).data.extractLsb' (64 * wordIx gpa) 64 = w.data := by
    apply BitVec.eq_of_getLsbD_eq
    intro j hj
    have hlt : 64 * wordIx gpa + j < 512 := by omega
    have hmask : (BitVec.ofNat 512 ((2 ^ 64 - 1) * 2 ^ (64 * wordIx gpa))).getLsbD (64 * wordIx gpa + j) = true := by
      rw [BitVec.getLsbD_ofNat, Nat.testBit_mul_two_pow, Nat.testBit_two_pow_sub_one]
      simp [hlt, hj]
    rw [LlcLine.putWord, BitVec.getLsbD_extractLsb', BitVec.getLsbD_or, BitVec.getLsbD_and, BitVec.getLsbD_not, hmask,
      BitVec.getLsbD_ofNat, Nat.testBit_mul_two_pow, BitVec.testBit_toNat]
    simp [hj, hlt]
  have hfull : (l.putWord gpa w).fe.getLsbD (wordIx gpa) = w.full := setBit8_getLsbD_self _ _ hi
  have hpoison : (l.putWord gpa w).poison.getLsbD (wordIx gpa) = w.poison := setBit8_getLsbD_self _ _ hi
  rw [LlcLine.word, hdata, hfull, hpoison]

end Sys2Proof.Machine

/-! # Cached copies and the recall (R355 to R358)

After a recall no copy holds a recalled word dirty, so every agent reads that word from the LLC line. -/

namespace Sys2Proof.Machine
open Sys2Proof.Claims

/-! ## One core's copies (R355) -/

/-- The two numbers that name a line, as the caches' searches test them. -/
theorem Core.cacheLine?_some {k : Core} {v line : Nat} {x : CacheLine} (h : k.cacheLine? v line = some x) :
    x ∈ k.cache ∧ x.vf = v ∧ x.line = line := by
  have htest := List.find?_some h
  simp only [Bool.and_eq_true, decide_eq_true_eq] at htest
  exact ⟨List.mem_of_find?_eq_some h, htest⟩

/-- A copy that was replaced where it stands is the only one left of its line. -/
theorem Core.mem_setCache {k : Core} {x y : CacheLine} (h : y ∈ (k.setCache x).cache) (hv : y.vf = x.vf)
    (hl : y.line = x.line) : y = x := by
  obtain ⟨hmem, _⟩ := List.mem_filter.1 h
  obtain ⟨z, _, rfl⟩ := List.mem_map.1 hmem
  split_ifs with hz
  · rfl
  · rw [if_neg hz] at hv hl
    exact absurd (by simp [hv, hl]) hz

theorem Core.cacheLine?_setCache {k : Core} {x y : CacheLine} {v line : Nat} (h : (k.setCache x).cacheLine? v line = some y)
    (hv : x.vf = v) (hl : x.line = line) : y = x := by
  obtain ⟨hmem, hyv, hyl⟩ := Core.cacheLine?_some h
  exact Core.mem_setCache hmem (hyv.trans hv.symm) (hyl.trans hl.symm)

/-! ## Lines without a dirty word (R355, R358) -/

/-- No core holds word `j` of a line dirty. -/
def State.CleanWord (s : State) (v line j : Nat) : Prop :=
  ∀ e ∈ s.cores, ∀ x, e.2.cacheLine? v line = some x → x.dirty.getLsbD j = false

/-- Folding the copies of a line over its data leaves a word that no copy counts as newer. -/
theorem foldl_mergeWords_getLsbD {v line b : Nat} {newer : Nat × Core → CacheLine → BitVec 16} (hb : b < 512)
    (cores : Tab Core) (d : BitVec 512)
    (h : ∀ e ∈ cores, ∀ x, e.2.cacheLine? v line = some x → (newer e x).getLsbD (b / 32) = false) :
    (cores.foldl (fun d e =>
      match e.2.cacheLine? v line with
      | none => d
      | some x => mergeWords d x.data (newer e x)) d).getLsbD b = d.getLsbD b := by
  induction cores generalizing d with
  | nil => rfl
  | cons e cores ih =>
    rw [List.foldl_cons, ih _ fun e' he' => h e' (List.mem_cons_of_mem _ he')]
    split
    · rfl
    · next x hx => rw [mergeWords_getLsbD _ _ _ hb, h e List.mem_cons_self x hx, if_neg (by simp)]

theorem State.overlay_getLsbD {s : State} {l : LlcLine} {b : Nat} (hb : b < 512) (h : s.CleanWord l.vf l.line (b / 32)) :
    (s.overlay l).getLsbD b = l.data.getLsbD b :=
  foldl_mergeWords_getLsbD (newer := fun _ x => x.dirty) hb s.cores l.data h

theorem State.dirtyWords_getLsbD {s : State} {v line j : Nat} (h : s.CleanWord v line j) :
    (s.dirtyWords v line).getLsbD j = false := by
  have hfold : ∀ (cores : Tab Core) (m : BitVec 16), m.getLsbD j = false →
      (∀ e ∈ cores, ∀ x, e.2.cacheLine? v line = some x → x.dirty.getLsbD j = false) →
      (cores.foldl (fun m e =>
        match e.2.cacheLine? v line with
        | none => m
        | some c => m ||| c.dirty) m).getLsbD j = false := by
    intro cores
    induction cores with
    | nil => exact fun m hm _ => hm
    | cons e cores ih =>
      intro m hm hcores
      refine ih _ ?_ fun e' he' => hcores e' (List.mem_cons_of_mem _ he')
      dsimp only
      split
      · exact hm
      · next x hx => rw [BitVec.getLsbD_or, hm, hcores e List.mem_cons_self x hx, Bool.false_or]
  exact hfold s.cores 0 (by simp) h

/-- Where no word of a doubleword is dirty at a core, every agent meets the line's own poison. -/
theorem State.livePoison_getLsbD {s : State} {l : LlcLine} {i : Nat} (hi : i < 8) (h : s.CleanWord l.vf l.line (2 * i)) :
    (s.livePoison l).getLsbD i = l.poison.getLsbD i := by
  rw [State.livePoison]
  split_ifs with h0
  · rw [h0]
  · rw [unpoison_getLsbD _ _ hi, State.dirtyWords_getLsbD h]
    simp

/-- A doubleword of a line that no core holds dirty reads as the line has it. -/
theorem State.word_overlay {s : State} {l : LlcLine} {gpa : Nat}
    (h : ∀ j, j / 2 = wordIx gpa → s.CleanWord l.vf l.line j) :
    { l with poison := s.livePoison l }.word (s.overlay l) gpa = l.word l.data gpa := by
  have hi : wordIx gpa < 8 := by unfold wordIx; omega
  have hdata : (s.overlay l).extractLsb' (64 * wordIx gpa) 64 = l.data.extractLsb' (64 * wordIx gpa) 64 := by
    apply BitVec.eq_of_getLsbD_eq
    intro j hj
    rw [BitVec.getLsbD_extractLsb', BitVec.getLsbD_extractLsb', State.overlay_getLsbD (by omega) (h _ (by omega))]
  rw [LlcLine.word, LlcLine.word, hdata, State.livePoison_getLsbD hi (h _ (by omega))]

/-! ## The recall (R358) -/

/-- The core that a recall leaves. -/
def Core.recalled (k : Core) (v line : Nat) (m : BitVec 16) (inval : Bool) : Core :=
  match k.cacheLine? v line with
  | none => k
  | some x => k.setCache { x with dirty := x.dirty &&& ~~~m, val := if inval then x.val &&& ~~~m else x.val }

theorem State.recall_cores (s : State) (l : LlcLine) (m : BitVec 16) (inval : Bool) (except_ : Option Nat) :
    (s.recall l m inval except_).1.cores =
      s.cores.map fun e => if except_ = some e.1 then e else (e.1, e.2.recalled l.vf l.line m inval) := by
  refine List.map_congr_left fun e _ => ?_
  rw [Core.recalled]
  cases e.2.cacheLine? l.vf l.line with
  | none => exact (ite_self e).symm
  | some x => rfl

/-- After a recall from every core no copy holds one of its words dirty. -/
theorem State.recall_cleanWord (s : State) (l : LlcLine) {m : BitVec 16} (inval : Bool) {j : Nat} (hj : m.getLsbD j = true) :
    (s.recall l m inval none).1.CleanWord l.vf l.line j := by
  intro e he x hx
  rw [State.recall_cores] at he
  obtain ⟨e, _, rfl⟩ := List.mem_map.1 he
  rw [if_neg (by simp)] at hx
  unfold Core.recalled at hx
  split at hx
  · next hnone => simp [hnone] at hx
  · next y hy =>
    obtain ⟨_, hv, hl⟩ := Core.cacheLine?_some hy
    rw [Core.cacheLine?_setCache hx hv hl]
    simp [hj]

end Sys2Proof.Machine

/-! # Words performed at module memory (O15) -/

namespace Sys2Proof.Machine
open Sys2Proof.Claims

/-! ## A word performed at an LLC line (R141, R358) -/

theorem State.llc?_some {s : State} {v line : Nat} {l : LlcLine} (h : s.llc? v line = some l) :
    l.vf = v ∧ l.line = line := by
  have htest := List.find?_some h
  simpa only [Bool.and_eq_true, decide_eq_true_eq] using htest

theorem State.llc?_putLlc (s : State) (l : LlcLine) : (s.putLlc l).llc? l.vf l.line = some l := by
  simp [State.putLlc, State.llc?]

/-- The LLC keeps a line that it already holds at the same frame with the same grant. -/
theorem State.keepLine_of_held {s : State} {l x : LlcLine} {noAlloc : Bool} (h : s.llc? l.vf l.line = some x)
    (hframe : x.frame = l.frame) (hwrite : x.write = l.write) : s.keepLine l noAlloc = s.putLlc l := by
  rw [State.keepLine, h, Option.any_some, Option.any_some, if_neg (by simp [hframe]), if_pos (by simp [hwrite])]

theorem State.lineView_of_held {s : State} {v line : Nat} {l : LlcLine} {write secure fetch : Bool}
    (h : s.llc? v line = some l) (hworld : s.frameRefuses l.frame secure = false)
      (hgrant : write = true → l.write = true) :
    s.lineView v line write secure fetch = .ok l := by
  rw [State.lineView, h]
  dsimp only
  rw [hworld, if_neg (by simp), if_neg]
  cases write <;> simp_all

theorem Word8.withBytes_all (x w : Word8) : (x.withBytes 0 8 (w.bytes 0 8)).data = w.data := by
  have hall (y : Word8) : y.bytes 0 8 = y.data.toNat := by
    rw [Word8.bytes, Nat.mul_zero, pow_zero, Nat.div_one, Nat.mod_eq_of_lt y.data.isLt]
  apply BitVec.eq_of_toNat_eq
  rw [← hall, x.bytes_withBytes 0 8 _ (by omega), hall, Nat.mod_eq_of_lt w.data.isLt]

/-- What a whole-word write does to a line that the LLC holds with the write grant: the recall of R358, then the word. -/
theorem State.putWord_of_held {s : State} {v gpa : Nat} {l : LlcLine} (w : Word8) {secure : Bool}
    (hhost : hostHalf gpa = false)
    (hl : s.llc? v (gpa / 64) = some l) (hwrite : l.write = true) (hworld : s.frameRefuses l.frame secure = false) :
    ∃ l1 : LlcLine, l1.vf = v ∧ l1.line = gpa / 64 ∧ l1.frame = l.frame ∧
      s.putWord (.paged v gpa) w secure =
        (s.recall l (wordsTouched (gpa % 64 / 8 * 8) 8) true none).1.putLlc (l1.putWord gpa w) := by
  obtain ⟨hv, hline⟩ := State.llc?_some hl
  refine ⟨(s.recall l (wordsTouched (gpa % 64 / 8 * 8) 8) true none).2, hv, hline, rfl, ?_⟩
  have hview := s.lineView_of_held (write := true) (fetch := false) hl hworld (fun _ => hwrite)
  rw [State.putWord]
  dsimp only
  rw [hhost, if_neg (by simp), hview]
  simp only [Nat.lt_irrefl, decide_false, Bool.false_and, Bool.false_eq_true, if_false, Nat.add_zero, Word8.withBytes_all]
  exact State.keepLine_of_held (x := l) (by rw [← hl, ← hv, ← hline]; rfl) rfl rfl

/-- A word performed at a held line reads back as written. -/
theorem State.word_putWord_of_held {s : State} {v gpa : Nat} {l : LlcLine} (w : Word8) {secure : Bool}
    (hhost : hostHalf gpa = false) (hl : s.llc? v (gpa / 64) = some l) (hwrite : l.write = true)
    (hworld : s.frameRefuses l.frame secure = false) :
    (s.putWord (.paged v gpa) w secure).word (.paged v gpa) false secure = .ok (s.shows v gpa w) := by
  obtain ⟨hv, hline⟩ := State.llc?_some hl
  obtain ⟨l1, hv1, hline1, hframe1, hput⟩ := State.putWord_of_held w hhost hl hwrite hworld
  have hheld := State.llc?_putLlc (s.recall l (wordsTouched (gpa % 64 / 8 * 8) 8) true none).1 (l1.putWord gpa w)
  rw [← hput, show (l1.putWord gpa w).vf = v from hv1, show (l1.putWord gpa w).line = gpa / 64 from hline1] at hheld
  have hworld' : (s.putWord (.paged v gpa) w secure).frameRefuses (l1.putWord gpa w).frame secure = false := by
    rw [hput, ← hworld, ← hframe1]
    rfl
  have hclean : ∀ j, j / 2 = wordIx gpa →
      (s.putWord (.paged v gpa) w secure).CleanWord (l1.putWord gpa w).vf (l1.putWord gpa w).line j := by
    intro j hj
    have htouched : (wordsTouched (gpa % 64 / 8 * 8) 8).getLsbD j = true := by
      unfold wordIx at hj
      rw [wordsTouched_getLsbD _ _ (by omega)]
      simp only [Bool.and_eq_true, decide_eq_true_eq]
      omega
    have hrecall := s.recall_cleanWord l true htouched
    rw [hput, show (l1.putWord gpa w).vf = l.vf from hv1.trans hv.symm,
      show (l1.putWord gpa w).line = l.line from hline1.trans hline.symm]
    exact hrecall
  rw [State.word, hhost, if_neg (by simp), State.lineView_of_held hheld hworld' (by simp)]
  dsimp only
  rw [State.word_overlay hclean, LlcLine.word_putWord, hput]
  rfl

/-! ## What an obligation says of a performed store (R265) -/

/-- Settles O15: an on-chip entry's write is one word put back with its own bytes replaced, and a word written at a held line
lands on an LLC line that no core's dirty copy covers any more. -/
theorem performedStoresReadBack : Obligations.PerformedStoresReadBack := by
  unfold Obligations.PerformedStoresReadBack
  refine ⟨fun c k s e key hm he hready hrel hkey hp => ?_, fun s loc key w secure hm hkey h8 =>
    s.word_putWord_of_chipKey w secure hm hkey h8, fun s v gpa l w secure hhost _ hl hwrite hworld => ?_⟩
  · obtain ⟨hstores, hwrites⟩ := State.performPosted_of_chipKey hkey he hready hrel hp
    exact ⟨s.performPosted c k, rfl, hstores, Posted.store_reads_back hwrites hm, Posted.stfe_reads_back hwrites hm,
      Posted.feBit_reads_back hwrites hm⟩
  · refine State.word_putWord_of_held w hhost hl hwrite ?_
    obtain h | h := hworld <;> simp [State.frameRefuses, h]

end Sys2Proof.Machine

/-! # Operations at one core's copies (O38)

Each operation acts at one core (`ActsAtCore`); lemmas say what it leaves of that core's copy of a line and what it writes
to memory. -/

namespace Sys2Proof.Machine
open Sys2Proof.Claims

/-- From `s` to `t` only core `c`, memory, the LLC's lines and their directory may have changed, and the LLC lost no line. -/
structure ActsAtCore (c : Nat) (s t : State) : Prop where
  others : ∀ k, k ≠ c → t.core k = s.core k
  vfs : t.vfs = s.vfs
  walks : t.rangeWalks = s.rangeWalks
  held : ∀ v line, s.llc? v line ≠ none → t.llc? v line ≠ none

section
variable {c : Nat} {s t u : State}

theorem ActsAtCore.refl (c : Nat) (s : State) : ActsAtCore c s s := ⟨fun _ _ => rfl, rfl, rfl, fun _ _ h => h⟩

theorem ActsAtCore.trans (h : ActsAtCore c s t) (k : ActsAtCore c t u) : ActsAtCore c s u where
  others j hj := (k.others j hj).trans (h.others j hj)
  vfs := k.vfs.trans h.vfs
  walks := k.walks.trans h.walks
  held v line hne := k.held v line (h.held v line hne)

theorem ActsAtCore.coreOf (h : ActsAtCore c s t) (v k : Nat) : t.coreOf v k = s.coreOf v k := by
  rw [State.coreOf, State.coreOf, State.nodeOf, State.nodeOf, State.vf, State.vf, h.vfs]

theorem State.setCore_acts (s : State) (c : Nat) (k : Core) : ActsAtCore c s (s.setCore c k) :=
  ⟨fun j hj => s.core_setCore_ne c j k hj, rfl, rfl, fun _ _ h => h⟩

@[simp] theorem State.core_putLlc (s : State) (l : LlcLine) (c : Nat) : (s.putLlc l).core c = s.core c := rfl

theorem State.putLlc_acts (s : State) (c : Nat) (l : LlcLine) : ActsAtCore c s (s.putLlc l) := by
  refine ⟨fun _ _ => rfl, rfl, rfl, fun v line h => ?_⟩
  obtain ⟨x, hx⟩ := Option.ne_none_iff_exists'.1 h
  obtain ⟨hv, hline⟩ := State.llc?_some hx
  have hmem := List.mem_of_find?_eq_some hx
  rw [State.llc?, Ne, List.find?_eq_none, State.putLlc]
  push Not
  by_cases hl : v = l.vf ∧ line = l.line
  · exact ⟨l, List.mem_cons_self, by simp [hl]⟩
  · refine ⟨x, List.mem_cons_of_mem _ (List.mem_filter.2 ⟨hmem, ?_⟩), by simp [hv, hline]⟩
    simpa [hv, hline, imp_iff_not_or] using hl

theorem State.hostMerge_acts (s : State) (c h : Nat) (data : BitVec 512) (dirty : BitVec 16) :
    ActsAtCore c s (s.hostMerge h data dirty) := by
  unfold State.hostMerge
  split_ifs <;> exact ⟨fun _ _ => rfl, rfl, rfl, fun _ _ h => h⟩

theorem State.hostMerge_core (s : State) (c h : Nat) (data : BitVec 512) (dirty : BitVec 16) :
    (s.hostMerge h data dirty).core c = s.core c := by
  unfold State.hostMerge
  split_ifs <;> rfl

/-- Host memory changes only inside the line that takes the words. -/
theorem State.hostMerge_get (s : State) (h : Nat) (data : BitVec 512) (dirty : BitVec 16) {a : Nat}
    (ha : a < h * 64 ∨ h * 64 + 64 ≤ a) : (s.hostMerge h data dirty).mem.get a = s.mem.get a := by
  unfold State.hostMerge
  split_ifs
  · rfl
  · refine List.foldlRecOn (motive := fun m : Memory => m.get a = s.mem.get a) _ _ rfl fun m hm i hi => ?_
    have hlt := List.mem_range.1 hi
    have hwrite := m.get_write_outside 4 (h * 64 + 4 * i) (data.extractLsb' (32 * i) 32).toNat a (by omega)
    dsimp only
    split_ifs
    · rw [Memory.get_setPoison, hwrite, hm]
    · rw [hwrite, hm]
    · exact hm

/-! ## Writing a copy's words back, and dropping a copy (R357, R358) -/

theorem State.writeBackWords_acts (s : State) (c v line : Nat) (m : BitVec 16) :
    ActsAtCore c s (s.writeBackWords c v line m) := by
  unfold State.writeBackWords
  split
  · exact (s.setCore_acts c _).trans (State.putLlc_acts ..)
  · dsimp only
    split_ifs
    · exact s.setCore_acts c _
    · exact (s.hostMerge_acts c ..).trans (State.setCore_acts ..)
    · exact .refl c s
  · exact .refl c s

/-- The copy that a write-back leaves: clean in the words written back where they could be, else as it was. -/
theorem State.cacheLine?_writeBackWords {s : State} {c v line : Nat} {m : BitVec 16} {y : CacheLine}
    (h : ((s.writeBackWords c v line m).core c).cacheLine? v line = some y) :
    ∃ x, (s.core c).cacheLine? v line = some x ∧ y.host = x.host ∧ y.val = x.val ∧
      (y.dirty = x.dirty &&& ~~~m ∨ y = x ∧ s.llc? v line = none ∧ x.host = false) := by
  cases hx : (s.core c).cacheLine? v line with
  | none => simp [State.writeBackWords, hx] at h
  | some x =>
    obtain ⟨_, hv, hl⟩ := Core.cacheLine?_some hx
    refine ⟨x, rfl, ?_⟩
    cases hllc : s.llc? v line with
    | some l =>
      simp only [State.writeBackWords, hx, hllc] at h
      rw [State.core_putLlc, State.core_setCore] at h
      rw [Core.cacheLine?_setCache h hv hl]
      exact ⟨rfl, rfl, .inl rfl⟩
    | none =>
      cases hhost : x.host with
      | true =>
        simp only [State.writeBackWords, hx, hllc, hhost, if_true, State.core_setCore] at h
        rw [Core.cacheLine?_setCache h hv hl]
        exact ⟨rfl, rfl, .inl rfl⟩
      | false =>
        simp only [State.writeBackWords, hx, hllc, hhost, Bool.false_eq_true, if_false] at h
        obtain rfl := Option.some.inj h
        exact ⟨hhost, rfl, .inr ⟨rfl, rfl, rfl⟩⟩

theorem State.coreEvict_acts (s : State) (c v line : Nat) : ActsAtCore c s (s.coreEvict c v line) := by
  have hfilter := (s.writeBackWords_acts c v line 0xFFFF).trans (State.setCore_acts _ c
    { (s.writeBackWords c v line 0xFFFF).core c with
      cache := ((s.writeBackWords c v line 0xFFFF).core c).cache.filter fun x => !(x.vf = v && x.line = line) })
  rw [State.coreEvict]
  dsimp only
  split
  · exact hfilter
  · exact hfilter.trans (State.putLlc_acts ..)

theorem State.core_coreEvict (s : State) (c v line : Nat) :
    (s.coreEvict c v line).core c = { (s.writeBackWords c v line 0xFFFF).core c with
      cache := ((s.writeBackWords c v line 0xFFFF).core c).cache.filter fun x => !(x.vf = v && x.line = line) } := by
  rw [State.coreEvict]
  dsimp only
  split
  · exact State.core_setCore ..
  · exact State.core_setCore ..

theorem State.cacheLine?_coreEvict (s : State) (c v line : Nat) :
    ((s.coreEvict c v line).core c).cacheLine? v line = none := by
  rw [State.core_coreEvict, Core.cacheLine?, List.find?_eq_none]
  intro x hx
  simpa [imp_iff_not_or] using (List.mem_filter.1 hx).2

/-! ## What reaches memory (R357) -/

theorem State.coreEvict_mem (s : State) (c v line : Nat) :
    (s.coreEvict c v line).mem = (s.writeBackWords c v line 0xFFFF).mem := by
  rw [State.coreEvict]
  dsimp only
  split <;> rfl

/-- Words of a module line go to its LLC line, not to memory. -/
theorem State.writeBackWords_mem_of_held {s : State} {c v line : Nat} (m : BitVec 16) (h : s.llc? v line ≠ none) :
    (s.writeBackWords c v line m).mem = s.mem := by
  obtain ⟨l, hl⟩ := Option.ne_none_iff_exists'.1 h
  rw [State.writeBackWords, hl]
  split
  · rfl
  · next hnone => exact absurd hnone (by simp)
  · rfl

theorem State.writeBackWords_mem_of_module {s : State} {c v line : Nat} {x : CacheLine} (m : BitVec 16)
    (hx : (s.core c).cacheLine? v line = some x) (h : x.host = false) : (s.writeBackWords c v line m).mem = s.mem := by
  rw [State.writeBackWords, hx]
  split
  · rfl
  · next heq _ =>
    obtain rfl := Option.some.inj heq
    rw [h]
    rfl
  · rfl

theorem State.writeBackWords_none {s : State} {c v line : Nat} (m : BitVec 16)
    (hx : (s.core c).cacheLine? v line = none) : s.writeBackWords c v line m = s := by
  rw [State.writeBackWords, hx]

theorem State.writeBackWords_get {s : State} {c v line : Nat} {x : CacheLine} (m : BitVec 16)
    (hx : (s.core c).cacheLine? v line = some x) {a : Nat} (ha : a < x.hline * 64 ∨ x.hline * 64 + 64 ≤ a) :
    (s.writeBackWords c v line m).mem.get a = s.mem.get a := by
  rw [State.writeBackWords, hx]
  split
  · rfl
  · next heq _ =>
    obtain rfl := Option.some.inj heq
    dsimp only
    split_ifs
    · rfl
    · exact s.hostMerge_get _ _ _ ha
    · rfl
  · rfl

end
end Sys2Proof.Machine

/-! # Tailrace walks, one line at every core (O38)

The walk's visit of one core does what the statement asks there and nothing at another core, so the fold over all cores
does it at each (`walkVisits_establish`). -/

namespace Sys2Proof.Machine
open Sys2Proof.Claims

/-! ## A walk at one core (R161, R364) -/

theorem Core.valid_getLsbD {k : Core} {v line i : Nat} :
    (k.valid v line).getLsbD i = false ↔ ∀ x, k.cacheLine? v line = some x → x.val.getLsbD i = false := by
  rw [Core.valid]
  cases k.cacheLine? v line <;> simp

theorem dirtyOf_getLsbD {k : Core} {v line i : Nat} :
    (dirtyOf k v line).getLsbD i = false ↔ ∀ x, k.cacheLine? v line = some x → x.dirty.getLsbD i = false := by
  rw [dirtyOf]
  cases k.cacheLine? v line <;> simp

theorem wordsIn_getLsbD {line i lo hi : Nat} (h : touches line i lo hi) : (wordsIn line lo hi).getLsbD i = true := by
  obtain ⟨hi, hlt, hgt⟩ := h
  rw [wordsIn, getLsbD_foldl_or_zero, List.any_eq_true]
  exact ⟨i, List.mem_range.2 hi, by simp [hlt, hgt, hi]⟩

section
variable {s : State} {c v line lo hi : Nat} {inval : Bool}

theorem State.dropWords_acts (s : State) (c v line : Nat) (m : BitVec 16) : ActsAtCore c s (s.dropWords c v line m) := by
  unfold State.dropWords
  split
  · exact .refl c s
  · dsimp only
    split_ifs
    · exact (s.setCore_acts c _).trans (State.coreEvict_acts ..)
    · split
      · exact s.setCore_acts c _
      · exact (s.setCore_acts c _).trans (State.putLlc_acts ..)

/-- cinval leaves a copy without the words, or none. -/
theorem State.valid_dropWords (s : State) (c v line : Nat) {m : BitVec 16} {i : Nat} (hi : m.getLsbD i = true) :
    (((s.dropWords c v line m).core c).valid v line).getLsbD i = false := by
  rw [Core.valid_getLsbD]
  intro y hy
  unfold State.dropWords at hy
  split at hy
  · next hnone => simp [hnone] at hy
  · next x hx =>
    obtain ⟨_, hv, hl⟩ := Core.cacheLine?_some hx
    dsimp only at hy
    split_ifs at hy
    · rw [State.cacheLine?_coreEvict] at hy
      cases hy
    · have hcopy : ((s.core c).setCache { x with val := x.val &&& ~~~m, dirty := x.dirty &&& ~~~m }).cacheLine? v line =
          some y := by
        rw [← hy]
        split <;> simp
      rw [Core.cacheLine?_setCache hcopy hv hl]
      simp [hi]

theorem State.walkCore_acts (s : State) (c v line lo hi : Nat) (inval : Bool) :
    ActsAtCore c s (s.walkCore c v line lo hi inval) := by
  rw [State.walkCore]
  cases inval
  · exact (s.writeBackWords_acts ..).trans (State.setCore_acts ..)
  · exact (s.dropWords_acts ..).trans (State.setCore_acts ..)

/-- The copies that a walk leaves at its core are those that the write-back or the drop of its words leaves. -/
theorem State.cacheLine?_walkCore (s : State) (c v line lo hi : Nat) (inval : Bool) :
    ((s.walkCore c v line lo hi inval).core c).cacheLine? v line =
      ((if inval then s.dropWords c v line (wordsIn line lo hi)
        else s.writeBackWords c v line (wordsIn line lo hi)).core c).cacheLine? v line := by
  rw [State.walkCore, State.core_setCore]
  rfl

/-- The copy of a line at a core can be written back: the LLC holds the line, or it is host memory's. -/
def State.Settles (s : State) (c v line : Nat) : Prop :=
  s.llc? v line ≠ none ∨ ∀ x, (s.core c).cacheLine? v line = some x → x.host = true

theorem State.valid_walkCore {i : Nat} (h : touches line i lo hi) :
    (((s.walkCore c v line lo hi true).core c).valid v line).getLsbD i = false := by
  have hdrop := s.valid_dropWords c v line (wordsIn_getLsbD h)
  rw [Core.valid_getLsbD] at hdrop ⊢
  rwa [State.cacheLine?_walkCore]

theorem State.dirty_writeBackWords {m : BitVec 16} (h : s.Settles c v line) {y : CacheLine}
    (hy : ((s.writeBackWords c v line m).core c).cacheLine? v line = some y) :
    ∃ x, (s.core c).cacheLine? v line = some x ∧ y.dirty = x.dirty &&& ~~~m := by
  obtain ⟨x, hx, _, _, hdirty | ⟨_, hnone, hmodule⟩⟩ := State.cacheLine?_writeBackWords hy
  · exact ⟨x, hx, hdirty⟩
  · obtain h | h := h
    · exact absurd hnone h
    · exact absurd ((h x hx).symm.trans hmodule) (by simp)

theorem State.dirty_walkCore (hs : s.Settles c v line) {i : Nat} (h : touches line i lo hi) :
    (dirtyOf ((s.walkCore c v line lo hi false).core c) v line).getLsbD i = false := by
  rw [dirtyOf_getLsbD, State.cacheLine?_walkCore]
  intro y hy
  obtain ⟨x, _, hdirty⟩ := State.dirty_writeBackWords hs hy
  rw [hdirty, BitVec.getLsbD_and, BitVec.getLsbD_not, wordsIn_getLsbD h]
  simp

theorem State.settles_walkCore (k : Nat) (h : s.Settles c v line) :
    (s.walkCore k v line lo hi false).Settles c v line := by
  have hacts := s.walkCore_acts k v line lo hi false
  obtain h | h := h
  · exact .inl (hacts.held _ _ h)
  · refine .inr fun y hy => ?_
    by_cases hk : c = k
    · subst hk
      rw [State.cacheLine?_walkCore] at hy
      obtain ⟨x, hx, hhost, _⟩ := State.cacheLine?_writeBackWords hy
      rw [hhost, h x hx]
    · rw [hacts.others c hk] at hy
      exact h y hy

/-! ## A step of a walk over all cores (R364) -/

/-- What `walkLine` folds over the cores. -/
def State.walkVisit (v line lo hi : Nat) (inval : Bool) (s : State) (e : Nat × Core) : State :=
  if s.coreOf v e.1 then s.walkCore e.1 v line lo hi inval else s

theorem State.walkLine_eq (s : State) (v line lo hi : Nat) (inval : Bool) :
    s.walkLine v line lo hi inval = s.cores.foldl (State.walkVisit v line lo hi inval) s := rfl

theorem State.walkVisit_acts (s : State) (v line lo hi : Nat) (inval : Bool) (e : Nat × Core) :
    ActsAtCore e.1 s (s.walkVisit v line lo hi inval e) := by
  rw [State.walkVisit]
  split_ifs
  · exact s.walkCore_acts ..
  · exact .refl e.1 s

theorem State.walkLine_rangeWalks (s : State) (v line lo hi : Nat) (inval : Bool) :
    (s.walkLine v line lo hi inval).rangeWalks = s.rangeWalks :=
  List.foldlRecOn (motive := fun t : State => t.rangeWalks = s.rangeWalks) _ _ rfl
    fun t ht e _ => (t.walkVisit_acts v line lo hi inval e).walks.trans ht

/-- What the walk's visit of core `c` establishes under a condition that every visit keeps holds once the cores, `c` among
them, are visited. -/
theorem State.walkVisits_establish {ready done : State → Prop} (c : Nat)
    (hready : ∀ t k, ready t → ready (t.walkCore k v line lo hi inval))
    (hsame : ∀ t u : State, u.core c = t.core c → done t → done u)
    (hdone : ∀ t, ready t → done (t.walkCore c v line lo hi inval)) (l : Tab Core) (s : State) (hc : s.coreOf v c = true)
    (hs : ready s) (hstart : done s ∨ ∃ e ∈ l, e.1 = c) :
    done (l.foldl (State.walkVisit v line lo hi inval) s) := by
  induction l generalizing s with
  | nil =>
    obtain h | ⟨e, he, _⟩ := hstart
    · exact h
    · cases he
  | cons e l ih =>
    have hacts := s.walkVisit_acts v line lo hi inval e
    have hkeep : ready (s.walkVisit v line lo hi inval e) := by
      rw [State.walkVisit]
      split_ifs
      · exact hready s _ hs
      · exact hs
    refine ih _ ((hacts.coreOf v c).trans hc) hkeep ?_
    by_cases hk : e.1 = c
    · rw [State.walkVisit, hk, if_pos hc]
      exact .inl (hdone s hs)
    · obtain h | ⟨x, hx, hxc⟩ := hstart
      · exact .inl (hsame s _ (hacts.others c (Ne.symm hk)) h)
      · obtain rfl | hx := List.mem_cons.1 hx
        · exact absurd hxc hk
        · exact .inr ⟨x, hx, hxc⟩

/-- A core is listed, or it is as after a reset. -/
theorem State.core_listed (s : State) (c : Nat) :
    (∃ e ∈ s.cores, e.1 = c ∧ e.2 = s.core c) ∨ s.core c = Core.reset := by
  rw [State.core]
  generalize s.cores = l
  induction l with
  | nil => exact .inr rfl
  | cons e l ih =>
    rw [Tab.get]
    split_ifs with he
    · exact .inl ⟨e, List.mem_cons_self, he, rfl⟩
    · exact ih.imp (fun ⟨x, hx, h⟩ => ⟨x, List.mem_cons_of_mem _ hx, h⟩) id

theorem State.valid_walkLine {c i : Nat} (hc : s.coreOf v c = true) (h : touches line i lo hi) :
    (((s.walkLine v line lo hi true).core c).valid v line).getLsbD i = false := by
  rw [State.walkLine_eq]
  refine State.walkVisits_establish (ready := fun _ => True)
    (done := fun t => ((t.core c).valid v line).getLsbD i = false) c (fun _ _ _ => trivial) (fun t u hu ht => by rwa [hu])
    (fun t _ => t.valid_walkCore h) s.cores s hc trivial ?_
  obtain ⟨e, he, hec, _⟩ | hreset := s.core_listed c
  · exact .inr ⟨e, he, hec⟩
  · exact .inl (by rw [hreset]; simp [Core.valid, Core.cacheLine?, Core.reset])

theorem State.dirty_walkLine {c i : Nat} (hc : s.coreOf v c = true) (h : touches line i lo hi) (hs : s.Settles c v line) :
    (dirtyOf ((s.walkLine v line lo hi false).core c) v line).getLsbD i = false := by
  rw [State.walkLine_eq]
  refine State.walkVisits_establish (ready := fun t => t.Settles c v line)
    (done := fun t => (dirtyOf (t.core c) v line).getLsbD i = false) c (fun t k ht => State.settles_walkCore k ht)
    (fun t u hu ht => by rwa [hu]) (fun t ht => State.dirty_walkCore ht h) s.cores s hc hs ?_
  obtain ⟨e, he, hec, _⟩ | hreset := s.core_listed c
  · exact .inr ⟨e, he, hec⟩
  · exact .inl (by rw [hreset]; simp [dirtyOf, Core.cacheLine?, Core.reset])

end
end Sys2Proof.Machine

/-! # Where a tailrace walk ends (O38) -/

namespace Sys2Proof.Machine
open Sys2Proof.Claims

/-! ## The end of a walk (R161, R364) -/

theorem State.dropParcels_cores (s : State) (v : Nat) (rs : List (Loc × Nat)) {c : Nat} (hc : s.coreOf v c = true) :
    ∀ x ∈ ((s.dropParcels v rs).core c).fetch, ∀ r ∈ rs, x.inRun r = false := by
  intro x hx r hr
  obtain ⟨e, he, hec, hcore⟩ | hreset := (s.dropParcels v rs).core_listed c
  · obtain ⟨e, _, rfl⟩ := List.mem_map.1 he
    split_ifs at hec hcore with hof
    · rw [← hcore] at hx
      have hnot := (List.mem_filter.1 hx).2
      simp only [Bool.not_eq_true', List.any_eq_false] at hnot
      simpa using hnot r hr
    · rw [hec] at hof
      exact absurd hc hof
  · rw [hreset] at hx
    cases hx

theorem State.dropParcels_walks (s : State) (v : Nat) (rs : List (Loc × Nat)) (c : Nat) :
    ((s.dropParcels v rs).core c).walks = (s.core c).walks :=
  Tab.get_map_field s.cores _ Core.walks (fun e => by split_ifs <;> rfl) (fun e => by split_ifs <;> rfl) c Core.reset

theorem FetchEntry.inRun_eq_false {e : FetchEntry} {r : Loc × Nat} (h : e.inRun r = false) :
    ¬ (e.loc.unit = r.1.unit ∧ r.2 ≠ 0 ∧ e.loc.pos < (r.1.pos + r.2 + 3) / 4 * 4 ∧
      r.1.pos / 4 * 4 < e.loc.pos + e.n) := by
  rintro ⟨hunit, hlen, hlo, hhi⟩
  simp [FetchEntry.inRun, hunit, hlen, hlo, hhi] at h

/-- A walk with nothing left ends: the walk goes, its core gets it back, and the parcels of its runs leave. -/
theorem execTailraceWalk_ends {s : State} {k : Nat} {w : RangeWalk} (hw : s.rangeWalks[k]? = some w)
    (hnext : s.walkNext w = none) (hbar : w.rbar = 0) :
    execTailraceWalk k s = .next ((({ s with rangeWalks := s.rangeWalks.eraseIdx k } : State).setCore w.core
      { s.core w.core with walks := (s.core w.core).walks - 1 }).dropParcels w.vf w.chip) := by
  simp only [execTailraceWalk, hw, hnext, State.walkArrival, hbar, if_true]
  rfl

/-! ## A walk that finds nothing (R364) -/

theorem State.mem_linesIn {s : State} {v lo hi c line : Nat} {x : CacheLine} (hc : s.coreOf v c = true)
    (hx : (s.core c).cacheLine? v line = some x) (hlo : lo < line * 64 + 64) (hhi : line * 64 < hi) :
    line ∈ s.linesIn v lo hi := by
  obtain ⟨hmem, hv, hl⟩ := Core.cacheLine?_some hx
  obtain ⟨e, he, hec, hcore⟩ | hreset := s.core_listed c
  · refine List.mem_flatMap.2 ⟨e, he, ?_⟩
    rw [hec, hc, if_neg (by simp)]
    refine List.mem_append_left _ (List.mem_map.2 ⟨x, List.mem_filter.2 ⟨hcore ▸ hmem, ?_⟩, hl⟩)
    simp [hv, hl, hlo, hhi]
  · rw [hreset] at hmem
    cases hmem

/-- A search that finds nothing has found nothing in each of its pages. -/
theorem State.nextHeld_none {s : State} {v linear len cursor page n : Nat} (h : s.nextHeld v linear len cursor page n = none)
    {p : Nat} (hfrom : page ≤ p) (hto : p < page + n) {g : Nat} (hg : s.walkGpa v p = some g) :
    ∀ line ∈ s.linesIn v (g + (Nat.max (p * 4096) (linear / 4 * 4) - p * 4096))
      (g + (Nat.min (p * 4096 + 4096) ((linear + len + 3) / 4 * 4) - p * 4096)), p * 64 + line % 64 < cursor := by
  induction n generalizing page with
  | zero => omega
  | succ n ih =>
    rw [State.nextHeld] at h
    dsimp only at h
    split at h
    · cases h
    · next hfound =>
      by_cases hp : p = page
      · subst hp
        intro line hline
        rw [hg, Option.bind_some, Option.map_eq_none_iff, List.min?_eq_none_iff, List.filter_eq_nil_iff] at hfound
        simpa using hfound line hline
      · exact ih h (by omega) (by omega)

/-- Once a walk from the start finds nothing, no cache of the partition holds a line of its range. -/
theorem State.valid_of_walkNext_none {s : State} {w : RangeWalk} {a : Nat} (hlin : w.linear = some a) (hlen : 0 < w.len)
    (hcursor : w.cursor = 0) (hflat : (s.vf w.vf).s1en = false) (hnone : s.walkNext w = none) {c line : Nat}
    (hc : s.coreOf w.vf c = true) (hend : line * 64 < a + w.len) (hstart : a < line * 64 + 64) :
    (s.core c).valid w.vf line = 0 := by
  cases hx : (s.core c).cacheLine? w.vf line with
  | none => rw [Core.valid, hx]; rfl
  | some x =>
    rw [State.walkNext, hlin] at hnone
    simp only [show w.len ≠ 0 by omega, if_false, hcursor, Nat.zero_div, Nat.max_zero] at hnone
    have hgpa : s.walkGpa w.vf (line / 64) = some (line / 64 * 4096) := by rw [State.walkGpa, hflat]; rfl
    have hlt := State.nextHeld_none hnone (p := line / 64) (by omega) (by omega) hgpa line
      (State.mem_linesIn hc hx (by simp only [Nat.max_def]; split_ifs <;> omega)
        (by simp only [Nat.min_def]; split_ifs <;> omega))
    exact absurd hlt (Nat.not_lt_zero _)

end Sys2Proof.Machine

/-! # What a load's miss and a recall leave valid (O38) -/

namespace Sys2Proof.Machine
open Sys2Proof.Claims

/-! ## A copy put into a core's cache (R355, R357) -/

section
variable {s : State} {c v line : Nat}

theorem State.makeRoom_acts (s : State) (c v line : Nat) : ActsAtCore c s (s.makeRoom c v line) := by
  unfold State.makeRoom
  dsimp only
  split_ifs
  · exact .refl c s
  · split
    · exact .refl c s
    · exact s.coreEvict_acts ..

theorem State.putCopy_acts (s : State) (c : Nat) (x : CacheLine) : ActsAtCore c s (s.putCopy c x false) :=
  (s.makeRoom_acts ..).trans (State.setCore_acts ..)

theorem State.valid_putCopy (s : State) (c : Nat) {x : CacheLine} (hv : x.vf = v) (hl : x.line = line) (h : x.val ≠ 0) :
    ((s.putCopy c x false).core c).valid v line = x.val := by
  simp [State.putCopy, Core.putCache, Core.valid, Core.cacheLine?, hv, hl, show x.val ≠ 0#16 from h]

/-- The copy that a core holds, or the empty one that a miss starts from, is of the line asked for. -/
theorem Core.copyOrBlank_names (k : Core) (v line : Nat) (priv : Bool) :
    ((k.cacheLine? v line).getD (CacheLine.blank v line priv)).vf = v ∧
      ((k.cacheLine? v line).getD (CacheLine.blank v line priv)).line = line := by
  cases h : k.cacheLine? v line with
  | none => exact ⟨rfl, rfl⟩
  | some x => exact (Core.cacheLine?_some h).2

/-! ## A load's miss (R357, R394) -/

theorem poisonWords_getLsbD (p : BitVec 8) {i : Nat} (hi : i < 16) : (poisonWords p).getLsbD i = p.getLsbD (i / 2) := by
  rw [poisonWords, getLsbD_foldl_or_zero, Bool.eq_iff_iff]
  simp only [getLsbD_one_shiftLeft _ hi, List.any_eq_true, List.mem_range, Bool.and_eq_true, decide_eq_true_eq]
  exact ⟨fun ⟨j, _, hp, hj⟩ => hj ▸ hp, fun hp => ⟨i, hi, hp, rfl⟩⟩

/-- A doubleword that is not poisoned in the LLC is poisoned for no agent. -/
theorem State.livePoison_clear {l : LlcLine} {i : Nat} (hi : i < 8) (h : l.poison.getLsbD i = false) :
    (s.livePoison l).getLsbD i = false := by
  rw [State.livePoison]
  split_ifs
  · simp
  · rw [unpoison_getLsbD _ _ hi, h, Bool.false_and]

/-- Words that reach an LLC line poison none of its doublewords. -/
theorem State.settlePoison_clear {l : LlcLine} {m : BitVec 16} {i : Nat} (hi : i < 8) (h : l.poison.getLsbD i = false) :
    (s.settlePoison l m).getLsbD i = false := by
  rw [State.settlePoison]
  split_ifs
  · simp
  · rw [BitVec.getLsbD_ofNat, (testBit_foldl_add _ 8 i).1, h, s.livePoison_clear hi h]
    simp

/-- A load's miss leaves its words valid at the core, but for those of bad doublewords. -/
theorem State.loadMiss_valid {l : LlcLine} {secure : Bool} (m : BitVec 16) (hview : s.lineView v line false secure = .ok l)
    (halloc : s.allocates v = true) :
    ∃ t, s.loadMiss c v line m false secure true false = .ok t ∧ ∀ i < 16, m.getLsbD i = true →
      l.poison.getLsbD (i / 2) = false → ((t.core c).valid v line).getLsbD i = true := by
  rw [State.loadMiss, hview]
  dsimp only
  have hclear : ∀ i < 8, l.poison.getLsbD i = false → (s.recall l m false none).2.poison.getLsbD i = false :=
    fun i hi h => s.settlePoison_clear hi h
  generalize s.recall l m false none = r at hclear
  obtain ⟨s1, l1⟩ := r
  rw [halloc]
  dsimp only
  simp only [Bool.not_true, Bool.false_eq_true, if_false]
  refine ⟨_, rfl, fun i hi hm hp => ?_⟩
  generalize s1.keepLine _ false = s2
  obtain ⟨hv, hl⟩ := Core.copyOrBlank_names (s2.core c) v line false
  generalize (((s2.core c).cacheLine? v line).getD (CacheLine.blank v line false)) = old at hv hl
  have hbit : (old.val ||| (m &&& ~~~old.val &&& ~~~(poisonWords (s2.livePoison l1)))).getLsbD i = true := by
    have hlive := s2.livePoison_clear (l := l1) (i := i / 2) (by omega) (hclear _ (by omega) hp)
    simp only [BitVec.getLsbD_or, BitVec.getLsbD_and, BitVec.getLsbD_not, poisonWords_getLsbD _ hi, hlive, hm, hi]
    cases old.val.getLsbD i <;> rfl
  split_ifs with h0
  · rw [h0] at hbit
    simp at hbit
  · rw [State.valid_putCopy]
    · exact hbit
    · exact hv
    · exact hl
    · exact h0

/-! ## A store's ownership (R357) -/

theorem Core.valid_recalled (k : Core) (v line : Nat) {m : BitVec 16} {i : Nat} (hi : m.getLsbD i = true) :
    ((k.recalled v line m true).valid v line).getLsbD i = false := by
  rw [Core.valid_getLsbD]
  intro y hy
  unfold Core.recalled at hy
  split at hy
  · next hnone => simp [hnone] at hy
  · next x hx =>
    obtain ⟨_, hv, hl⟩ := Core.cacheLine?_some hx
    rw [Core.cacheLine?_setCache hy hv hl]
    simp [hi]

theorem Core.valid_reset (v line : Nat) : Core.reset.valid v line = 0 := rfl

/-- A recall that spares core `c` leaves its words valid at no other core. -/
theorem State.valid_recall (s : State) (l : LlcLine) {m : BitVec 16} {i k : Nat} (hi : m.getLsbD i = true) (hk : k ≠ c) :
    (((s.recall l m true (some c)).1.core k).valid l.vf l.line).getLsbD i = false := by
  obtain ⟨e, he, hek, hcore⟩ | hreset := (s.recall l m true (some c)).1.core_listed k
  · rw [State.recall_cores] at he
    obtain ⟨x, _, rfl⟩ := List.mem_map.1 he
    split_ifs at hek hcore with hx
    · exact absurd (hek.symm.trans (Option.some.inj hx).symm) hk
    · rw [← hcore]
      exact x.2.valid_recalled _ _ hi
  · rw [hreset, Core.valid_reset]
    simp

theorem State.core_cacheS2 (s : State) (v gpage : Nat) (write : Bool) (k : Nat) :
    (s.cacheS2 v gpage write).core k = s.core k := by
  unfold State.cacheS2
  split <;> rfl

theorem State.cacheLine?_dropCopies (s : State) (v line k : Nat) :
    ((s.dropCopies v line).core k).cacheLine? v line = none := by
  obtain ⟨e, he, _, hcore⟩ | hreset := (s.dropCopies v line).core_listed k
  · obtain ⟨x, _, rfl⟩ := List.mem_map.1 he
    rw [← hcore, Core.cacheLine?, List.find?_eq_none]
    intro y hy
    simpa [imp_iff_not_or] using (List.mem_filter.1 hy).2
  · rw [hreset]
    rfl

theorem State.core_lineToMemory (s : State) (l : LlcLine) (k : Nat) : (s.lineToMemory l).core k = s.core k := by
  unfold State.lineToMemory State.core
  dsimp only

/-- The line that the LLC keeps makes no word of it valid at a core. -/
theorem State.valid_keepLine {l : LlcLine} (noAlloc : Bool) {k i : Nat} (hv : l.vf = v) (hl : l.line = line)
    (h : ((s.core k).valid v line).getLsbD i = false) :
    (((s.keepLine l noAlloc).core k).valid v line).getLsbD i = false := by
  subst hv hl
  unfold State.keepLine
  split_ifs
  · rw [State.core_cacheS2, State.core_putLlc, Core.valid, State.cacheLine?_dropCopies]
    simp
  · exact h
  · rw [State.core_cacheS2]
    exact h
  · rw [State.core_lineToMemory]
    exact h
  · exact h

end
end Sys2Proof.Machine

/-! # Requests at the directory (O38)

A request first makes the LLC hold its line; the line it then sees is the one that it saw before, so the grant stands. -/

namespace Sys2Proof.Machine
open Sys2Proof.Claims

section
variable {s : State} {c v line : Nat} {secure : Bool}

/-! ## A store's ownership (R356, R357) -/

/-- The four-owner recall that may come before a store's own. -/
def State.freeOwner (s : State) (l : LlcLine) (lc : Nat) : State × LlcLine :=
  match l.dir.owners with
  | o :: _ :: _ :: _ :: _ => if l.dir.owners.any (fun x => x.1 = lc) then (s, l) else s.recall l o.2 false none
  | _ => (s, l)

theorem State.freeOwner_names (s : State) (l : LlcLine) (lc : Nat) :
    (s.freeOwner l lc).2.vf = l.vf ∧ (s.freeOwner l lc).2.line = l.line := by
  unfold State.freeOwner
  split
  · split_ifs <;> exact ⟨rfl, rfl⟩
  · exact ⟨rfl, rfl⟩

theorem State.lineBrought_names {write fetch : Bool} {l : LlcLine} (h : s.lineBrought v line write secure fetch = .ok l) :
    l.vf = v ∧ l.line = line := by
  unfold State.lineBrought at h
  split at h
  · cases h
  · split_ifs at h
    split at h
    · cases h
    · cases h
      exact ⟨rfl, rfl⟩

theorem State.lineView_names {write fetch : Bool} {l : LlcLine} (h : s.lineView v line write secure fetch = .ok l) :
    l.vf = v ∧ l.line = line := by
  unfold State.lineView at h
  split at h
  · next x hx =>
    have hnames := State.llc?_some hx
    split_ifs at h
    · split at h
      · cases h
      · next y hy =>
        cases h
        split_ifs
        · exact hnames
        · exact State.lineBrought_names hy
    · cases h
      exact hnames
  · exact State.lineBrought_names h

/-- A store's ownership leaves its words valid at its core and at no other. -/
theorem State.takeOwnership_valid {l : LlcLine} {m : BitVec 16}
    (hview : s.lineView v line true secure = .ok l) (hm : m ≠ 0) :
    ∃ t, s.takeOwnership c v line m secure false = .ok t ∧
      (∀ i < 16, m.getLsbD i = true → ((t.core c).valid v line).getLsbD i = true) ∧
      ∀ k, k ≠ c → ∀ i < 16, m.getLsbD i = true → ((t.core k).valid v line).getLsbD i = false := by
  obtain ⟨hlv, hll⟩ := State.lineView_names hview
  obtain ⟨hfv, hfl⟩ := s.freeOwner_names l (s.lcore v c)
  have htake : s.takeOwnership c v line m secure false =
      let (s0, l0) := s.freeOwner l (s.lcore v c)
      let (s1, l1) := s0.recall l0 m true (some c)
      let l2 := { l1 with dir := { (l1.dir.addSharer (s.lcore v c)) with
        owners := grantOwner l1.dir.owners (s.lcore v c) m } }
      let s2 := s1.keepLine l2 false
      let old := ((s2.core c).cacheLine? v line).getD (CacheLine.blank v line false)
      .ok (s2.putCopy c { old with
        val := old.val ||| m, data := mergeWords old.data l1.data (m &&& ~~~old.val) } false) := by
    rw [State.takeOwnership, hview]
    rfl
  generalize s.freeOwner l (s.lcore v c) = r0 at htake hfv hfl
  obtain ⟨s0, l0⟩ := r0
  have hothers : ∀ k, k ≠ c → ∀ i, m.getLsbD i = true →
      (((s0.recall l0 m true (some c)).1.core k).valid v line).getLsbD i = false := by
    intro k hk i hi
    have hvalid := s0.valid_recall (c := c) l0 hi hk
    rwa [hfv, hfl, hlv, hll] at hvalid
  have hnames : (s0.recall l0 m true (some c)).2.vf = v ∧ (s0.recall l0 m true (some c)).2.line = line :=
    ⟨hfv.trans hlv, hfl.trans hll⟩
  rw [htake]
  dsimp only
  generalize s0.recall l0 m true (some c) = r1 at hothers hnames
  obtain ⟨s1, l1⟩ := r1
  obtain ⟨hv1, hl1⟩ := hnames
  dsimp only at hothers hv1 hl1 ⊢
  refine ⟨_, rfl, fun i _ hi => ?_, fun k hk i _ hi => ?_⟩
  · generalize s1.keepLine _ false = s2
    obtain ⟨hv, hl⟩ := Core.copyOrBlank_names (s2.core c) v line false
    generalize (((s2.core c).cacheLine? v line).getD (CacheLine.blank v line false)) = old at hv hl
    rw [State.valid_putCopy]
    · simp [hi]
    · exact hv
    · exact hl
    · exact fun h0 => hm (BitVec.or_eq_zero_iff.1 h0).2
  · rw [(State.putCopy_acts _ c _).others k hk]
    exact State.valid_keepLine false hv1 hl1 (hothers k hk i hi)

/-! ## The line that a request at the slice sees (R350, R357) -/

/-- The parts of the state that the view of a line rests on, and its VFs. -/
def State.moduleView (s : State) := (s.llc, s.mem, s.vfs, s.platform)

section
variable {t : State} (h : t.moduleView = s.moduleView)
include h

theorem State.moduleView_fields : t.llc = s.llc ∧ t.mem = s.mem ∧ t.vfs = s.vfs ∧ t.platform = s.platform := by
  simpa only [State.moduleView, Prod.mk.injEq] using h

theorem State.llc?_of_moduleView (v line : Nat) : t.llc? v line = s.llc? v line := by
  obtain ⟨hllc, _⟩ := State.moduleView_fields h
  rw [State.llc?, hllc, State.llc?]

theorem State.allocates_of_moduleView (v : Nat) : t.allocates v = s.allocates v := by
  obtain ⟨_, _, hvfs, _⟩ := State.moduleView_fields h
  rw [State.allocates, State.vf, hvfs]
  rfl

theorem State.frameRefuses_of_moduleView (frame : Nat) (secure : Bool) :
    t.frameRefuses frame secure = s.frameRefuses frame secure := by
  obtain ⟨_, _, _, hplatform⟩ := State.moduleView_fields h
  rw [State.frameRefuses, State.secureHpa, hplatform]
  rfl

theorem State.lineFromMemory_of_moduleView (v line hp : Nat) (w : Bool) :
    t.lineFromMemory v line hp w = s.lineFromMemory v line hp w := by
  obtain ⟨_, hmem, _⟩ := State.moduleView_fields h
  rw [State.lineFromMemory, hmem]
  rfl

end

theorem State.dropEvent_moduleView (s : State) (d v slot : Nat) : (s.dropEvent d v slot).moduleView = s.moduleView := by
  unfold State.dropEvent
  dsimp only
  split
  · obtain ⟨l, h⟩ := s.count_eq v 0x70 1
    rw [h]
    rfl
  · next f _ =>
    obtain ⟨l, h⟩ := (s.setDie d { s.die d with
      filters := (s.die d).filters.set (8 * v + slot) { f with drops := bump f.drops } }).count_eq v 0x70 1
    rw [h]
    rfl

theorem State.yEvent_moduleView (s : State) (d v cls port : Nat) (fields : List Word) :
    (s.yEvent d v cls port fields).moduleView = s.moduleView := by
  refine foldl_keeps (fun t : State => t.moduleView = s.moduleView) _ (fun t slot ht => ?_) _ s rfl
  dsimp only
  split
  next => exact ht
  next f _ =>
    generalize (if f.attached && f.cls = cls then { f with seen := f.seen + 1 } else f) = f'
    split_ifs
    · exact ht
    · exact (State.dropEvent_moduleView ..).trans ht
    · exact ht
    · exact (State.dropEvent_moduleView ..).trans ht

theorem State.cacheS2_moduleView (s : State) (v gpage : Nat) (write : Bool) :
    (s.cacheS2 v gpage write).moduleView = s.moduleView := by
  unfold State.cacheS2
  split <;> rfl

theorem State.lineView_count (s : State) (u code n v line : Nat) (write secure fetch : Bool) :
    (s.count u code n).lineView v line write secure fetch = s.lineView v line write secure fetch := by
  obtain ⟨l, h⟩ := s.count_eq u code n
  rw [h]
  rfl

theorem State.stage2_allows {gpage : Nat} {write fetch : Bool} {e : S2Entry} (h : s.stage2 v gpage write fetch = some e) :
    e.allows write fetch = true := by
  unfold State.stage2 at h
  dsimp only at h
  split at h
  · next x hx =>
    obtain rfl := Option.some.inj h
    obtain ⟨d, _, hfind⟩ := List.exists_of_findSome?_eq_some hx
    have hfits := List.find?_some hfind
    simp only [Bool.and_eq_true] at hfits
    exact hfits.2
  · have hfits := (Option.filter_eq_some_iff.1 h).2
    simp only [Bool.and_eq_true] at hfits
    exact hfits.2

/-- A translation that an access got, taken apart: its leaf, and the grant if it writes. -/
theorem State.translate2_ok {gpage hp : Nat} {write w : Bool} (hhost : hostHalf (gpage * 4096) = false)
    (h : s.translate2 v gpage write = some (hp, w)) :
    ∃ e, s.stage2 v gpage write false = some e ∧ e.frame = hp ∧ (write = true → w = true) := by
  unfold State.translate2 at h
  split at h
  · cases h
  · next e he =>
    dsimp only at h
    rw [hhost, if_neg (by simp)] at h
    split_ifs at h with hallows
    obtain ⟨rfl, rfl⟩ := Prod.mk.inj (Option.some.inj h)
    refine ⟨e, he, rfl, fun hwrite => ?_⟩
    subst hwrite
    have hw : e.w = true := State.stage2_allows he
    simp only [Bool.and_eq_true] at hallows
    rw [hw, hallows.2, Bool.and_self]

/-- What a miss that reaches its word brings: the line of its frame, whose world admits it, with the grant if it writes. -/
theorem State.lineBrought_ok {write : Bool} {l : LlcLine} (hhost : hostHalf (line * 64) = false)
    (h : s.lineBrought v line write secure false = .ok l) :
    ∃ hp w, s.translate2 v (line / 64) write = some (hp, w) ∧ l = s.lineFromMemory v line hp w ∧
      s.frameRefuses hp secure = false ∧ (write = true → w = true) := by
  have hpage : hostHalf (line / 64 * 4096) = false := by
    simp only [hostHalf, decide_eq_false_iff_not] at hhost ⊢
    omega
  unfold State.lineBrought at h
  split at h
  · cases h
  · next f hf =>
    split_ifs at h with hworld
    split at h
    · cases h
    · next hp w htr =>
      cases h
      obtain ⟨e, he, rfl, hgrant⟩ := State.translate2_ok hpage htr
      rw [State.frameOf?, he] at hf
      obtain rfl : e.frame = f := Option.some.inj hf
      exact ⟨_, _, htr, rfl, by simpa using hworld, hgrant⟩

/-- The LLC keeps a line that a miss brings, where its VF may hold lines. -/
theorem State.keepLine_of_missed {l : LlcLine} (h : s.llc? l.vf l.line = none) (halloc : s.allocates l.vf = true) :
    s.keepLine l false = (s.putLlc l).cacheS2 l.vf (l.line / 64) l.write := by
  rw [State.keepLine, h, halloc]
  rfl

/-- A request's own access to the LLC: a line that the LLC holds stays, and a miss brings the line that the request sees. -/
theorem State.touchLlc_view {write : Bool} {l : LlcLine} (hhost : hostHalf (line * 64) = false)
    (halloc : s.allocates v = true)
    (hview : s.lineView v line write secure = .ok l) :
    (s.touchLlc v (line * 64) write false).lineView v line write secure = .ok l ∧
      (s.touchLlc v (line * 64) write false).allocates v = true := by
  rw [State.touchLlc, hhost, if_neg (by simp),
    show line * 64 / 64 = line by omega, show line * 64 / 4096 = line / 64 by omega]
  cases hllc : s.llc? v line with
  | some x =>
    dsimp only
    refine ⟨by rw [State.lineView_count, hview], ?_⟩
    obtain ⟨is, h⟩ := s.count_eq v 0x40 1
    rw [h]
    exact halloc
  | none =>
    rw [State.lineView, hllc] at hview
    obtain ⟨hp, w, htr, rfl, hworld, hgrant⟩ := State.lineBrought_ok hhost hview
    rw [htr]
    dsimp only
    have hmiss (d : Nat) (fields : List Word) :
        ((s.drawn.count v 0x41 1).yEvent d v 3 0 fields).moduleView = s.moduleView := by
      obtain ⟨is, h⟩ := s.drawn.count_eq v 0x41 1
      rw [State.yEvent_moduleView, h]
      rfl
    specialize hmiss (dieServing (hp * 4096))
      [BitVec.ofNat 64 (line * 64), Config.missLatency s.draws, 0, BitVec.ofNat 64 s.tick]
    generalize (s.drawn.count v 0x41 1).yEvent _ _ _ _ _ = s1 at hmiss
    rw [if_neg (by simp), State.keepLine_of_missed ((State.llc?_of_moduleView hmiss v line).trans hllc)
      ((State.allocates_of_moduleView hmiss v).trans halloc), State.lineFromMemory_of_moduleView hmiss]
    have hkept := (s1.putLlc (s.lineFromMemory v line hp w)).cacheS2_moduleView v (line / 64) w
    refine ⟨State.lineView_of_held ?_ ?_ hgrant, ?_⟩
    · exact (State.llc?_of_moduleView hkept v line).trans (State.llc?_putLlc ..)
    · exact (State.frameRefuses_of_moduleView hkept ..).trans ((State.frameRefuses_of_moduleView hmiss ..).trans hworld)
    · exact (State.allocates_of_moduleView hkept v).trans ((State.allocates_of_moduleView hmiss v).trans halloc)

/-! ## Requests at the directory (R357) -/

theorem dirRequest_ok {f : Except MemFault State} {t : State} (hcore : s.coreOf v c = true)
    (hhost : hostHalf (line * 64) = false) (hpriv : s.privateLine v line = false) (halloc : s.allocates v = true)
    (hf : f = .ok t) : dirRequest s v line c f = .next t := by
  subst hf
  unfold dirRequest
  rw [hcore, hhost, hpriv, halloc]
  rfl

theorem execDirLoadMiss_valid {m : BitVec 16} {l : LlcLine} (hcore : s.coreOf v c = true)
    (hhost : hostHalf (line * 64) = false) (hpriv : s.privateLine v line = false) (halloc : s.allocates v = true)
    (hview : s.lineView v line false (s.vf v).sec = .ok l) :
    ∃ t, execDirLoadMiss v line c m s = .next t ∧ ∀ i < 16, m.getLsbD i = true →
      l.poison.getLsbD (i / 2) = false → ((t.core c).valid v line).getLsbD i = true := by
  obtain ⟨hview', halloc'⟩ := State.touchLlc_view hhost halloc hview
  obtain ⟨t, ht, hvalid⟩ := State.loadMiss_valid (c := c) m hview' halloc'
  exact ⟨t, dirRequest_ok hcore hhost hpriv halloc ht, hvalid⟩

theorem execDirStoreOwnership_valid {m : BitVec 16} {l : LlcLine} (hcore : s.coreOf v c = true)
    (hhost : hostHalf (line * 64) = false) (hpriv : s.privateLine v line = false) (halloc : s.allocates v = true)
    (hview : s.lineView v line true (s.vf v).sec = .ok l) (hm : m ≠ 0) :
    ∃ t, execDirStoreOwnership v line c m s = .next t ∧
      (∀ i < 16, m.getLsbD i = true → ((t.core c).valid v line).getLsbD i = true) ∧
      ∀ k, k ≠ c → ∀ i < 16, m.getLsbD i = true → ((t.core k).valid v line).getLsbD i = false := by
  obtain ⟨hview', _⟩ := State.touchLlc_view hhost halloc hview
  obtain ⟨t, ht, hvalid⟩ := State.takeOwnership_valid (c := c) hview' hm
  exact ⟨t, dirRequest_ok hcore hhost hpriv halloc ht, hvalid⟩

/-! ## Write-backs, evictions and walks (R357, R364) -/

theorem execDirWriteBack_cleans (m : BitVec 16) (h : s.Settles c v line) :
    ∃ t, execDirWriteBack v line c m s = .next t ∧ dirtyOf (t.core c) v line &&& m = 0 ∧
      (s.llc? v line ≠ none → t.mem = s.mem) ∧
      (∀ x, (s.core c).cacheLine? v line = some x →
        ∀ a, a < x.hline * 64 ∨ x.hline * 64 + 64 ≤ a → t.mem.get a = s.mem.get a) ∧
      ∀ k, k ≠ c → t.core k = s.core k := by
  refine ⟨_, rfl, ?_, State.writeBackWords_mem_of_held m, fun x hx a ha => State.writeBackWords_get m hx ha,
    (s.writeBackWords_acts ..).others⟩
  rw [dirtyOf]
  cases hy : ((s.writeBackWords c v line m).core c).cacheLine? v line with
  | none => exact BitVec.zero_and
  | some y =>
    obtain ⟨x, _, hdirty⟩ := State.dirty_writeBackWords h hy
    rw [Option.map_some, Option.getD_some, hdirty, BitVec.and_assoc, BitVec.and_comm _ m, BitVec.and_not_self]
    exact BitVec.and_zero

theorem execDirCoreEvict_drops (s : State) (v line c : Nat) :
    ∃ t, execDirCoreEvict v line c s = .next t ∧ (t.core c).valid v line = 0 ∧
      (∀ x, (s.core c).cacheLine? v line = some x → (x.host = false ∨ s.llc? v line ≠ none → t.mem = s.mem) ∧
        ∀ a, a < x.hline * 64 ∨ x.hline * 64 + 64 ≤ a → t.mem.get a = s.mem.get a) ∧
      ((s.core c).cacheLine? v line = none → t.mem = s.mem) ∧ ∀ k, k ≠ c → t.core k = s.core k := by
  refine ⟨_, rfl, ?_, fun x hx => ⟨fun h => ?_, fun a ha => ?_⟩, fun hx => ?_, (s.coreEvict_acts ..).others⟩
  · rw [Core.valid, State.cacheLine?_coreEvict]
    rfl
  · rw [State.coreEvict_mem]
    exact h.elim (State.writeBackWords_mem_of_module _ hx) (State.writeBackWords_mem_of_held _)
  · rw [State.coreEvict_mem]
    exact State.writeBackWords_get _ hx ha
  · rw [State.coreEvict_mem, State.writeBackWords_none _ hx]

/-- A walk with a line left acts on it at every core and goes on behind it. -/
theorem execTailraceWalk_step {k at_ lo hi : Nat} {w : RangeWalk} (hw : s.rangeWalks[k]? = some w)
    (hnext : s.walkNext w = some (at_, line, lo, hi)) :
    ∃ t, execTailraceWalk k s = .next t ∧ t.rangeWalks = s.rangeWalks.set k { w with cursor := at_ + 1 } ∧
      ∀ c i, s.coreOf w.vf c = true → touches line i lo hi →
        (w.inval = true → ((t.core c).valid w.vf line).getLsbD i = false) ∧
        (w.inval = false → s.Settles c w.vf line → (dirtyOf (t.core c) w.vf line).getLsbD i = false) := by
  let s1 : State := { s with rangeWalks := s.rangeWalks.set k { w with cursor := at_ + 1 } }
  refine ⟨s1.walkLine w.vf line lo hi w.inval, ?_, s1.walkLine_rangeWalks .., fun c i hc htouch => ⟨fun hinval => ?_,
    fun hinval hsettles => ?_⟩⟩
  · rw [execTailraceWalk, hw]
    dsimp only
    rw [hnext]
  · rw [hinval]
    exact State.valid_walkLine (s := s1) hc htouch
  · rw [hinval]
    exact State.dirty_walkLine (s := s1) hc htouch hsettles

end

/-- Settles O38: what each directory operation does to its own core's copies, to the other cores', to the LLC's lines and
to memory is a lemma of its own; a walk's step folds the one-core lemma over the cores, and a walk that finds nothing has
searched every page of its range. -/
theorem copiesFollowTheDirectory : Obligations.CopiesFollowTheDirectory := by
  unfold Obligations.CopiesFollowTheDirectory
  refine ⟨fun s v line c m l hcore hhost hpriv hmask => ?_, fun s v line c m h => execDirWriteBack_cleans m h,
    fun s v line c => execDirCoreEvict_drops s v line c, fun s k w at_ line lo hi hw hnext => execTailraceWalk_step hw hnext,
    fun s k w hw hnext hbar => ?_, fun s w a hlin hlen hcursor hflat hnone c line hc hend hstart =>
      State.valid_of_walkNext_none hlin hlen hcursor hflat hnone hc hend hstart⟩
  · have halloc : s.allocates v = true := decide_eq_true hmask
    exact ⟨execDirLoadMiss_valid hcore hhost hpriv halloc, execDirStoreOwnership_valid hcore hhost hpriv halloc⟩
  · refine ⟨_, execTailraceWalk_ends hw hnext hbar, rfl, rfl, ?_, fun c hc x hx r hr => ?_⟩
    · rw [State.dropParcels_walks, State.core_setCore]
    · exact FetchEntry.inRun_eq_false (State.dropParcels_cores (State.setCore _ w.core _) _ _ hc x hx r hr)

end Sys2Proof.Machine
